-- ==== Sys2Proof/Word.lean ====
section
/-! DEFINITION. The word types of the Izgar and their plainest arithmetic (spec/00_scope.md R2, R9). -/

namespace Sys2Proof

/-- A 32-bit register (R20). -/
abbrev Word := BitVec 32
/-- A 64-bit pair or system register (R21). -/
abbrev DWord := BitVec 64
/-- A byte of memory. -/
abbrev Byte := BitVec 8
/-- A 48-bit address as pcv and the return stack hold it (R20). -/
abbrev Pc := BitVec 48
/-- A set of lanes of one crew: bit t is lane t (R8). -/
abbrev Lanes := BitVec 32
/-- A 6-bit vector code (R35): 0 to 59 direct, 60 to 63 through x0 to x3. -/
abbrev VCode := BitVec 6
/-- A 9-bit scalar code (R20); 384 to 511 are illegal (R27). -/
abbrev SCode := BitVec 9
/-- A 5-bit reply pair code; 31 means no reply (R33). -/
abbrev Reply := BitVec 5
/-- A guard field: 0 to 6 name p0 to p6, 7 means no guard (R32). -/
abbrev Guard := BitVec 3

end Sys2Proof
end

