-- ==== Sys2Proof/Syntax.lean ====
section
/-! DEFINITION. The instructions and events of the Izgar: one constructor for every row of spec/opcode_table.json
(spec/02_encoding.md R30, R31, R47 for words; the rows without a word are events, named in spec/95). -/

namespace Sys2Proof

open Host (Cell)

/-- Members of ADD (R121). -/
inductive AddOp where
  | add | sub | addSatI | subSatI | addSatN | subSatN | adiffI | adiffN
  deriving DecidableEq, Repr

/-- Members of MUL and MAD (R122); 7 is reserved. -/
inductive MulOp where
  | lo | hiI | hiN | satI | satN | wideI | wideN
  deriving DecidableEq, Repr

/-- Members of LOG (R123). -/
inductive LogOp where
  | and | or | xor | andn | orn | xnor | nand | nor
  deriving DecidableEq, Repr

/-- Members of SHF (R124); 5 to 7 are reserved. -/
inductive ShfOp where
  | shl | shrN | shrI | rol | ror
  deriving DecidableEq, Repr

/-- Members of MINMAX (R125). -/
inductive MinMaxOp where
  | minI | maxI | minN | maxN | clampI | clampN | absI | absSatI
  deriving DecidableEq, Repr

/-- Members of BIT (R126); 6 and 7 are reserved. -/
inductive BitOp where
  | popc | clz | ctz | brev | bswap | cls
  deriving DecidableEq, Repr

/-- Members of BFX (R127); 2 and 3 are reserved. -/
inductive BfxOp where
  | unsigned | signed
  deriving DecidableEq, Repr

/-- Members of OPI (R129). -/
inductive OpiOp where
  | addi | andi | ori | xori | shli | shriN | shriI | muli
  deriving DecidableEq, Repr

/-- Conditions of CMP (R133). -/
inductive CmpCond where
  | eq | ne | lt | le | gt | ge | nan | num
  deriving DecidableEq, Repr

/-- Types of CMP (R133); 3 to 7 are reserved. -/
inductive CmpType where
  | i32 | n32 | f32
  deriving DecidableEq, Repr

/-- Functions of PLOG (R134). -/
inductive PlogOp where
  | pand | por | pxor | pandn | porn | pnand | pnor | pxnor
  deriving DecidableEq, Repr

/-- Members of SHFL (R137). -/
inductive ShflOp where
  | idx | up | down | xor
  deriving DecidableEq, Repr

/-- Members of VOTE (R138); 4 to 7 are reserved. -/
inductive VoteOp where
  | all | any | uni | ballot
  deriving DecidableEq, Repr

/-- Scopes of REDX (R139); 3 is reserved. -/
inductive RedxScope where
  | crew | four | scan
  deriving DecidableEq, Repr

/-- Operations of REDX (R139); 11 to 63 are reserved. -/
inductive RedxOp where
  | add | minI | maxI | minN | maxN | and | or | xor | addF | minF | maxF
  deriving DecidableEq, Repr

/-- Members of S2V (R140); 3 to 7 are reserved. -/
inductive S2vOp where
  | w | pair | lane
  deriving DecidableEq, Repr

/-- Members of V2S (R141); 3 to 7 are reserved. -/
inductive V2sOp where
  | lane | first | pair
  deriving DecidableEq, Repr

/-- Members of SOP (R142); codes not listed are reserved. -/
inductive SopOp where
  | smov | sadd | ssub | smul | smulhiI | smulhiN | sand | sor | sxor | sandn | sshl | sshr | ssar | sminI | smaxI | sminN | smaxN | snot | sneg | spopc | sclz | sctz | saddSat | ssubSat | sseq | ssltI | ssltN | dmov | dadd | dsub
  deriving DecidableEq, Repr

/-- Members of FAR (R161); 7 is reserved. -/
inductive FarOp where
  | add | sub | mul | min | max | copysign | adiff
  deriving DecidableEq, Repr

/-- Members of FFMA (R162); 4 to 7 are reserved. -/
inductive FfmaOp where
  | fma | fms | fnma | fnms
  deriving DecidableEq, Repr

/-- Members of FUN (R163); 6 and 7 are reserved. -/
inductive FunOp where
  | floor | ceil | trunc | rint | fract | sign
  deriving DecidableEq, Repr

/-- Functions of SFU (R164); 8 to 63 are reserved. -/
inductive SfuOp where
  | rcp | rsqrt | sqrt | exp2 | log2 | sinpi | cospi | tanh
  deriving DecidableEq, Repr

/-- Members of CVT (R166); 2 and 3 are reserved. -/
inductive CvtOp where
  | narrow | widen
  deriving DecidableEq, Repr

/-- Rounding modes (R9, R149, R153). -/
inductive Rnd where
  | rne | rtz | rdn | rup
  deriving DecidableEq, Repr

/-- Functions of ICVT (R167); 4 to 63 are reserved. -/
inductive IcvtOp where
  | i2f | n2f | f2i | f2n
  deriving DecidableEq, Repr

/-- Members of PACK (R168); 7 is reserved. -/
inductive PackOp where
  | p16 | p8lo | p8hi | p4b0 | p4b1 | p4b2 | p4b3
  deriving DecidableEq, Repr

/-- Members of UNPK (R169); 3 is reserved. -/
inductive UnpkOp where
  | widen | raw | raws
  deriving DecidableEq, Repr

/-- Members of HOP (R170). -/
inductive HopOp where
  | addBf | subBf | mulBf | fmaBf | addF16 | subF16 | mulF16 | fmaF16
  deriving DecidableEq, Repr

/-- Members of RENC (R171); 2 and 3 are reserved. -/
inductive RencOp where
  | plain | sat
  deriving DecidableEq, Repr

/-- Members of RDEC (R172); 4 to 63 are reserved. -/
inductive RdecOp where
  | i32 | r255 | r256 | r257
  deriving DecidableEq, Repr

/-- Formats of FCLS (R173); 5 to 7 are reserved. -/
inductive FclsType where
  | f32 | bf16 | f16 | e4m3 | e5m2
  deriving DecidableEq, Repr

/-- Memory sizes (R34); 7 is reserved. -/
inductive MSize where
  | s8 | n8 | s16 | n16 | w32 | w64 | w128
  deriving DecidableEq, Repr

/-- Scopes (R217, R232). -/
inductive Scope where
  | crew | squad | pkg | pod
  deriving DecidableEq, Repr

/-- Orders of ATOM and CAS (R34). -/
inductive Order where
  | relaxed | acquire | release | acqrel
  deriving DecidableEq, Repr

/-- Operations of ATOM (R205); 12 to 15 are reserved. -/
inductive Aop where
  | swap | add | and | or | xor | minI | maxI | minN | maxN | inc | dec | addF
  deriving DecidableEq, Repr

/-- Sizes of CAS: aop 4, 5 and 6 (R199, R207). -/
inductive CasSize where
  | c32 | c64 | c128
  deriving DecidableEq, Repr

/-- Subscription formats (R240); 5 to 7 are reserved. -/
inductive SubFmt where
  | exact | bf16 | f16 | e4m3 | e5m2
  deriving DecidableEq, Repr

/-- Classes of ROLE (R100, R116); other values are illegal. -/
inductive RoleClass where
  | loader | storer | computer
  deriving DecidableEq, Repr

/-- System registers by number (R374). -/
inductive SysReg where
  | devState | devId | coreId | schedAge | genRaise | preemptReq | lqPush | lqStat | clkCtl | fwState | taskReady | pcvSave | trapAddr | trapTcause | trapTstate | trapCause | trapMask | trapInfo | repSave | trapScr0 | trapScr1 | trapScr2 | trapScr3 | tankInfo | ctxAsid | ctxRoot | trapBase | skmWin | ctxKey | ctxFlags
  deriving DecidableEq, Repr

/-- A command of a collective, and the TIME at which the first peer's command was accepted (R310). -/
structure PeerWait where
  cmd   : Nat
  first : Nat
  deriving DecidableEq, Repr

/-- A break of the ring (R341): of both loops; this package stands immediately downstream of it. -/
structure LoopBreak where
  both       : Bool
  downstream : Bool
  deriving DecidableEq, Repr

/-- Where a replica from a peer takes up the ring (R342): the stroke it is current to, and the ring's N and BURST (R337). -/
structure JoinPoint where
  stroke : BitVec 64
  n      : Nat
  burst  : Nat
  deriving DecidableEq, Repr

/-- Wavelengths at the end of a bring-up stage (R411): in stages 1 to 4 those that are good each way; in stage 6 the peer's active list and its PARKED
mask. -/
structure StageMasks where
  good   : BitVec 16                 -- of the transmit fibre, or the peer's active list
  parked : BitVec 16                 -- the peer's PARKED mask
  rx     : BitVec 16                 -- of the receive fibre
  deriving DecidableEq, Repr

/-- A firmware or identity image presented to the service cores (R405): its bytes and its security version. -/
structure FirmwareImage where
  bytes   : List Byte
  version : BitVec 16
  deriving DecidableEq, Repr

/-- A part that start-up tests (R401). -/
inductive TestedPart where
  | core (core : Nat)        -- logical core
  | stack (k : Nat)          -- HBM stack k
  | deck | link (k : Nat) | ring
  | last                     -- the last enabled part has passed
  deriving DecidableEq, Repr

/-- A part that a spare replaces (R404, R443). -/
inductive SparePart where
  | core (core : Nat) | deckLine (slice : Nat) | hbmChannel (k : Nat) | laser (els : Nat) | coxWaveguide
  deriving DecidableEq, Repr

/-- A packet of the Sweep fabric that arrives at this package (R433, R440). -/
inductive SweepPacket where
  | piece (peer : BitVec 13) (tag : DWord) (answer : Bool) (base count off : Nat) (bytes : List Byte)
  | request (peer : BitVec 13) (tag : DWord) (base count : Nat)
  | completion (peer : BitVec 13) (tag : DWord) (code : Byte)
  deriving DecidableEq, Repr

/-- A command of a peer of a collective as its engine tells this one (R307 to R310): function (1 to 4), TAG, PEER, E, whether its descriptor is
valid, and its source bytes. -/
structure PeerCommand where
  fn    : Nat
  tag   : Word
  peers : List (BitVec 13)
  e     : DWord
  ok    : Bool
  bytes : List Byte
  deriving DecidableEq, Repr

/-- What a control flit of a far link carries (R411, R412, R414). -/
inductive LinkControl where
  | narrow (transmit : Bool) (active : BitVec 16) -- the new active list of this package's transmit or receive direction
  | narrowDone (boundary : BitVec 16) (replayed : Nat) -- the handshake has finished; the sender's boundary and the flits it sends again
  | width                            -- the two ends agree on the boundary of an ease (R414)
  | peerWidth (active parked waking : BitVec 16) -- the peer eases or wakes: the receive direction's active list, PARKED and WAKING masks to be (R410, R414)
  | peerBoundary                     -- the agreement of the peer's change has completed: its new list begins (R407, R414)
  deriving DecidableEq, Repr

/-- Link parameters set by the service kernel (R416). -/
inductive LinkParam where
  | lolThresh (dbm : Int) | wakeDepth (flits : Nat) | auto (on : Bool) | drawInt (us : Nat) | drawHyst (n : Nat)
  deriving DecidableEq, Repr

/-- Answers of the host or a pool device to a request of the package (R312, R314, R315). -/
inductive CxlGrant where
  | shared | exclusive | owned | snooped | poisoned
  deriving DecidableEq, Repr

/-- One constructor per row of the opcode table: instruction words and the machine's own events, then what
reaches the package from outside or at a time it does not set (log 1). -/
inductive Instr where
  /-- BRA (R74). Unconditional PC-relative branch of every active thread. -/
  | bra (d : BitVec 24)
  /-- BRP (R74). Per-thread branch on a predicate, optionally negated. -/
  | brp (d : BitVec 17) (n : BitVec 1) (p : BitVec 6)
  /-- BRS (R74). Crew-uniform branch on whether a scalar register is nonzero, optionally negated. -/
  | brs (d : BitVec 17) (n : BitVec 1) (sn : BitVec 6)
  /-- JMPV (R75). Per-thread indirect jump to a 48-bit target held in a vector register pair. -/
  | jmpv (g : Guard) (a : BitVec 6)
  /-- CALL (R77). PC-relative call that pushes the return address onto each thread's return stack, spilling if needed. -/
  | call (d : BitVec 24)
  /-- CALLV (R75). Per-thread indirect call through a vector register pair, pushing the return address. -/
  | callv (g : Guard) (a : BitVec 6)
  /-- RET (R78). Pops each active thread's return stack, refilling from the spill stack, and jumps there. -/
  | ret (g : Guard)
  /-- SWITCH (R81). Per-thread jump through a case table read by the fetch path, indexed by a vector register. -/
  | switch (d : BitVec 17) (v : BitVec 6)
  /-- REFUSE (R82). Active threads wait at the address until every live thread of the crew has arrived there. -/
  | refuse
  /-- EXIT (R84). Sets LIVE to 0 in every active thread, ending the crew when the last one exits. -/
  | exit (g : Guard)
  /-- YIELD (R83). Excludes active threads from the issue minimum until the crew next issues. -/
  | yield (g : Guard)
  /-- SPAWN (R106). Starts up to 16 extra crews of the issuing squad at a numbered entry from the core's spawn pool. -/
  | spawn (r : Reply) (b : BitVec 6) (a : BitVec 6) (e : BitVec 7)
  /-- LAUNCH (R103). Creates a child grid from a launch record and replies with its handle or a refusal. -/
  | launch (r : Reply) (a : BitVec 6)
  /-- WAITC_COUNTER (R104). Waits until a 64-bit counter reaches a target, then replies with the value read, as an acquire. -/
  | waitcCounter (r : Reply) (b : BitVec 6) (a : BitVec 6)
  /-- WAITC_HANDLE (R104). Waits until the named grid retires and replies 0 or its end code. -/
  | waitcHandle (r : Reply) (a : BitVec 6)
  /-- FORK (R109). Launches a child grid and suspends the squad until its children retire, in E7COMPAT grids. -/
  | fork (r : Reply) (a : BitVec 6)
  /-- JOIN (R108). Swaps the squad out until every child grid it launched has retired. -/
  | join (r : Reply)
  /-- TASKQ (R111). Queues a task record into the die's range table, deriving its dependences from its ranges. -/
  | taskq (r : Reply) (a : BitVec 6)
  /-- TASKEND (R115). Ends the active threads of a task crew as EXIT does. -/
  | taskend
  /-- ROLE (R116). Sets the crew's scheduling class to LOADER, STORER or COMPUTER. -/
  | role (imm : RoleClass)
  /-- ADD (R121). Per-lane integer add, subtract, saturating add or subtract, or absolute difference. -/
  | add (f : AddOp) (g : Guard) (b : BitVec 6) (a : BitVec 6) (d : BitVec 6)
  /-- MUL (R122). Per-lane integer multiply: low, high, saturating or wide. -/
  | mul (f : MulOp) (g : Guard) (b : BitVec 6) (a : BitVec 6) (d : BitVec 6)
  /-- MAD (R122). Per-lane integer multiply-add into vd: low, high, saturating or wide. -/
  | mad (f : MulOp) (g : Guard) (b : BitVec 6) (a : BitVec 6) (d : BitVec 6)
  /-- LOG (R123). Per-lane bitwise logic function of two registers. -/
  | log (f : LogOp) (g : Guard) (b : BitVec 6) (a : BitVec 6) (d : BitVec 6)
  /-- SHF (R124). Per-lane shift or rotate by a saturated 32-bit count. -/
  | shf (f : ShfOp) (g : Guard) (b : BitVec 6) (a : BitVec 6) (d : BitVec 6)
  /-- MINMAX (R125). Per-lane minimum, maximum, clamp or absolute value. -/
  | minmax (f : MinMaxOp) (g : Guard) (b : BitVec 6) (a : BitVec 6) (d : BitVec 6)
  /-- BIT (R126). Per-lane population count, leading or trailing zeros, bit reverse, byte swap or sign-bit count. -/
  | bit (f : BitOp) (g : Guard) (a : BitVec 6) (d : BitVec 6)
  /-- BFX (R127). Per-lane bit-field extract, zero- or sign-extended. -/
  | bfx (l : BitVec 4) (f : BfxOp) (b : BitVec 6) (a : BitVec 6) (d : BitVec 6)
  /-- BFI (R127). Per-lane bit-field insert into vd. -/
  | bfi (l : BitVec 4) (b : BitVec 6) (a : BitVec 6) (d : BitVec 6)
  /-- SEL (R128). Per-lane select between two registers by a predicate p0-p7. -/
  | sel (q : BitVec 3) (g : Guard) (b : BitVec 6) (a : BitVec 6) (d : BitVec 6)
  /-- OPI (R129). Per-lane operation of a register with a 9-bit immediate. -/
  | opi (f : OpiOp) (imm : BitVec 9) (a : BitVec 6) (d : BitVec 6)
  /-- LIH (R130). Loads an 18-bit immediate into bits [31:14] of every active lane's register. -/
  | lih (imm : BitVec 18) (d : BitVec 6)
  /-- CMP (R133). Per-lane comparison writing a predicate. -/
  | cmp (t : CmpType) (c : CmpCond) (b : BitVec 6) (a : BitVec 6) (p : BitVec 6)
  /-- PLOG (R134). Per-lane logic function of two predicates. -/
  | plog (c : PlogOp) (b : BitVec 6) (a : BitVec 6) (p : BitVec 6)
  /-- PMOV (R135). Copies one predicate to another. -/
  | pmov (a : BitVec 6) (p : BitVec 6)
  /-- PSET (R135). Sets a predicate to a constant 0 or 1. -/
  | pset (c : BitVec 1) (p : BitVec 6)
  /-- P2V (R135). Packs 32 predicates into a vector register. -/
  | p2v (b : BitVec 6) (v : BitVec 6)
  /-- V2P (R135). Unpacks a vector register into 32 predicates. -/
  | v2p (v : BitVec 6) (b : BitVec 6)
  /-- SHFL (R137). Reads a register from another lane of the crew by index, up, down or xor. -/
  | shfl (l : BitVec 4) (f : ShflOp) (b : BitVec 6) (a : BitVec 6) (d : BitVec 6)
  /-- VOTE (R138). Computes all, any, uniform or ballot of a predicate over the active threads. -/
  | vote (t : VoteOp) (a : BitVec 6) (p : BitVec 6)
  /-- REDX (R139). Crew, four or scan reduction of a register over active threads. -/
  | redx (l : BitVec 4) (f : RedxScope) (o : RedxOp) (a : BitVec 6) (d : BitVec 6)
  /-- S2V (R140). Broadcasts a scalar or scalar pair into vector registers, or into one lane. -/
  | s2v (f : S2vOp) (l : BitVec 5) (sn : BitVec 9) (v : BitVec 6)
  /-- V2S (R141). Writes a scalar register from one lane's vector register, once per crew. -/
  | v2s (f : V2sOp) (l : BitVec 5) (sn : BitVec 9) (v : BitVec 6)
  /-- SOP (R142). Scalar operation sd := sd op sa, or a 64-bit pair operation. -/
  | sop (f : SopOp) (a : BitVec 9) (d : BitVec 9)
  /-- SLI (R143). Loads a sign-extended 15-bit immediate into a scalar. -/
  | sli (imm : BitVec 15) (d : BitVec 9)
  /-- SADDI (R143). Adds a sign-extended 15-bit immediate to a scalar. -/
  | saddi (imm : BitVec 15) (d : BitVec 9)
  /-- SLIH (R143). Shifts a scalar left by 15 and inserts a 15-bit immediate. -/
  | slih (imm : BitVec 15) (d : BitVec 9)
  /-- XSET_IMM (R144). Sets an index register to an immediate 0-255. -/
  | xsetImm (imm : BitVec 15) (k : BitVec 2)
  /-- XSET_SCALAR (R144). Sets an index register to the low byte of a scalar. -/
  | xsetScalar (n : BitVec 9) (k : BitVec 2)
  /-- XADD (R144). Adds an immediate to an index register modulo 256. -/
  | xadd (imm : BitVec 15) (k : BitVec 2)
  /-- REP (R43). Issues the next instruction count times, stepping listed register fields. -/
  | rep (st : BitVec 2) (m : BitVec 4) (c : BitVec 6)
  /-- FAR (R161). Per-lane FP32 add, subtract, multiply, min, max, copysign or absolute difference. -/
  | far (f : FarOp) (g : Guard) (b : BitVec 6) (a : BitVec 6) (d : BitVec 6)
  /-- FFMA (R162). Per-lane fused FP32 multiply-add variants with one rounding. -/
  | ffma (f : FfmaOp) (g : Guard) (b : BitVec 6) (a : BitVec 6) (d : BitVec 6)
  /-- FUN (R163). Per-lane FP32 floor, ceil, trunc, rint, fract or sign. -/
  | fun (f : FunOp) (g : Guard) (a : BitVec 6) (d : BitVec 6)
  /-- SFU (R164). Per-lane correctly rounded transcendental function of FP32. -/
  | sfu (l : BitVec 4) (f : SfuOp) (a : BitVec 6) (d : BitVec 6)
  /-- CVT (R166). Per-lane narrowing or widening conversion through a format slot. -/
  | cvt (l : BitVec 4) (f : CvtOp) (fs : BitVec 3) (a : BitVec 6) (d : BitVec 6)
  /-- ICVT (R167). Per-lane conversion between FP32 and 32-bit integers under a rounding mode. -/
  | icvt (l : BitVec 4) (r : Rnd) (f : IcvtOp) (a : BitVec 6) (d : BitVec 6)
  /-- PACK (R168). Places narrow fields of two registers into vd without conversion. -/
  | pack (f : PackOp) (g : Guard) (b : BitVec 6) (a : BitVec 6) (d : BitVec 6)
  /-- UNPK (R169). Extracts one element of a packed word, widened or raw. -/
  | unpk (l : BitVec 4) (f : UnpkOp) (ix : BitVec 3) (fs : BitVec 3) (a : BitVec 6) (d : BitVec 6)
  /-- HOP (R170). Per-lane paired BF16 or FP16 arithmetic on 16-bit halves. -/
  | hop (f : HopOp) (g : Guard) (b : BitVec 6) (a : BitVec 6) (d : BitVec 6)
  /-- RENC (R171). Encodes an int32 as a residue word, optionally clamped. -/
  | renc (l : BitVec 4) (f : RencOp) (a : BitVec 6) (d : BitVec 6)
  /-- RDEC (R172). Decodes a residue word by CRT or extracts one channel. -/
  | rdec (l : BitVec 4) (f : RdecOp) (a : BitVec 6) (d : BitVec 6)
  /-- FCLS (R173). Sets a predicate when a float's class is selected by a mask. -/
  | fcls (t : FclsType) (m : BitVec 9) (a : BitVec 6) (p : BitVec 6)
  /-- LD (R202). Relaxed per-thread load of 1 to 16 bytes. -/
  | ld (l : BitVec 4) (z : MSize) (b : BitVec 5) (o : BitVec 6) (t : BitVec 6)
  /-- ST (R203). Relaxed per-thread store of 1 to 16 bytes. -/
  | st (z : MSize) (b : BitVec 5) (o : BitVec 6) (t : BitVec 6)
  /-- LDA (R202). Acquire load at a named scope. -/
  | lda (c : Scope) (z : MSize) (b : BitVec 5) (o : BitVec 6) (t : BitVec 6)
  /-- STL (R203). Release store at a named scope. -/
  | stl (c : Scope) (z : MSize) (b : BitVec 5) (o : BitVec 6) (t : BitVec 6)
  /-- LDS (R201). Relaxed load from squad memory at a squad offset. -/
  | lds (l : BitVec 4) (z : MSize) (b : BitVec 5) (o : BitVec 6) (t : BitVec 6)
  /-- STS (R201). Relaxed store to squad memory at a squad offset. -/
  | sts (z : MSize) (b : BitVec 5) (o : BitVec 6) (t : BitVec 6)
  /-- ATOM (R204). Per-thread atomic read-modify-write of 4 or 8 bytes with an order. -/
  | atom (w : BitVec 1) (r : Order) (p : Aop) (b : BitVec 5) (o : BitVec 6) (t : BitVec 6)
  /-- CAS (R207). Per-thread compare-and-swap of 4, 8 or 16 bytes. -/
  | cas (r : Order) (p : CasSize) (b : BitVec 5) (o : BitVec 6) (t : BitVec 6)
  /-- FENCE (R233). Full fence at a scope: waits for earlier accesses and takes a place in the fence order. -/
  | fence (c : Scope)
  /-- FENCE_ACQ (R233). Acquire fence at a scope: waits for earlier reads to perform. -/
  | fenceAcq (c : Scope)
  /-- FENCE_REL (R233). Release fence at a scope: waits for earlier accesses and, at POD, remote acknowledgements. -/
  | fenceRel (c : Scope)
  /-- FENCE_WAIT_END (R234). A waiting FENCE completes 4 c after the last awaited performance or acknowledgement. -/
  | fenceWaitEnd (crew : Nat)
  /-- BAR (R236). Crew arrives at a squad barrier as release and acquire at SQUAD scope. -/
  | bar (n : BitVec 6) (id : BitVec 4) (d : BitVec 9)
  /-- BAR_PHASE_COMPLETE (R236). A barrier phase completes, writing the completion code to every waiting crew. -/
  | barPhaseComplete (squad : Nat) (bar : Nat)
  /-- BBAR_ARM (R239). Adds announced bytes to a byte-counting record's EXPECT. -/
  | bbarArm (r : Reply) (b : BitVec 6) (a : BitVec 6)
  /-- BBAR_WAIT (R239). Waits until LANDED reaches EXPECT, as an acquire. -/
  | bbarWait (r : Reply) (a : BitVec 6)
  /-- BBAR_TAKE (R239). Waits until LANDED reaches EXPECT, then subtracts EXPECT and zeroes it. -/
  | bbarTake (r : Reply) (a : BitVec 6)
  /-- BBAR_CONDITION_MET (R239). A crew waiting in BBAR WAIT or TAKE finds LANDED at or above EXPECT and completes. -/
  | bbarConditionMet (crew : Nat)
  /-- PRES (R208). Reports a line's presence and poison bits without parking. -/
  | pres (l : BitVec 4) (b : BitVec 5) (o : BitVec 6) (t : BitVec 6)
  /-- MON (R209). Loads a word and arms the monitor table on its line. -/
  | mon (l : BitVec 4) (b : BitVec 5) (o : BitVec 6) (t : BitVec 6)
  /-- MWAIT (R211). Sleeps the crew until a monitored line is written or a timeout, and clears the table. -/
  | mwait (imm : BitVec 15) (d : BitVec 9)
  /-- MWAIT_WAKE (R211). A sleeping MWAIT completes with code 0 when a monitor entry triggers. -/
  | mwaitWake (crew : Nat)
  /-- MWAIT_TIMEOUT (R211). A sleeping MWAIT completes with code 1 when 16 x imm cycles have passed. -/
  | mwaitTimeout (crew : Nat)
  /-- SUBS (R260). Subscribes the squad to a range at a narrow format and mode. -/
  | subs (r : Reply) (b : BitVec 6) (a : BitVec 6) (m : BitVec 1) (f : SubFmt)
  /-- UNSUB (R261). Empties a subscription slot and drops its held lines. -/
  | unsub (r : Reply) (a : BitVec 6)
  /-- SUBUP (R262). Raises a slot's format and refreshes held lines at the new format. -/
  | subup (r : Reply) (a : BitVec 6) (f : SubFmt)
  /-- SUBQ_LINE (R263). Replies with the core's copy and home directory state of a line. -/
  | subqLine (r : Reply) (a : BitVec 6)
  /-- SUBQ_SLOT (R263). Replies with a subscription slot's word. -/
  | subqSlot (r : Reply) (a : BitVec 6)
  /-- SUBQ_CNT (R263). Replies with the core's INVAL and UPD counters. -/
  | subqCnt (r : Reply)
  /-- HOME_WRITE_APPLY (R249). Home slice compares a write against every sharer's rounding, sends INVAL or UPD, then applies it. -/
  | homeWriteApply (k : Nat)
  /-- INVAL (R249). A core receives an invalidation, drops its copy and acknowledges. -/
  | inval (k : Nat)
  /-- UPD (R249). A core receives rounded new words for its held copy and acknowledges. -/
  | upd (k : Nat)
  /-- SHARER_ACKNOWLEDGEMENT (R249). Home receives a sharer's acknowledgement; the write is globally performed when all are in. -/
  | sharerAcknowledgement (k : Nat)
  /-- ACCESS_UNPARK (R179). A crew parked on absent lines proceeds when every line it touches is present. -/
  | accessUnpark (crew : Nat)
  /-- CVSET (R279). Declares a convergence register's fours from a scalar mask. -/
  | cvset (a : BitVec 9) (c : BitVec 4)
  /-- CVSET_LIVE (R279). Declares the fours that hold a live thread. -/
  | cvsetLive (c : BitVec 4)
  /-- CVSET_IMM (R279). Declares a convergence register's fours from an immediate mask. -/
  | cvsetImm (m : BitVec 8) (c : BitVec 4)
  /-- MMA (R280). Signs a float matrix product accumulating into a tile. -/
  | mma (c : BitVec 4) (fs : BitVec 3) (b : BitVec 3) (a : BitVec 3) (t : BitVec 3)
  /-- MMA_SET (R280). Signs a float matrix product that overwrites a tile. -/
  | mmaSet (c : BitVec 4) (fs : BitVec 3) (b : BitVec 3) (a : BitVec 3) (t : BitVec 3)
  /-- MMR (R281). Signs a residue integer matrix product accumulating into a tile. -/
  | mmr (c : BitVec 4) (fs : BitVec 3) (b : BitVec 3) (a : BitVec 3) (t : BitVec 3)
  /-- MMR_SET (R281). Signs a residue integer matrix product that resets a tile first. -/
  | mmrSet (c : BitVec 4) (fs : BitVec 3) (b : BitVec 3) (a : BitVec 3) (t : BitVec 3)
  /-- MATRIX_OPERATION_COMPLETE (R276). An issued matrix operation takes effect on its tile, releasing waiting tank instructions and write locks. -/
  | matrixOperationComplete (core : Nat)
  /-- MZERO (R283). Zeroes a tile and its status. -/
  | mzero (t : BitVec 3)
  /-- MEPI (R284). Converts each thread's tile elements through a slot into registers, counting overflow. -/
  | mepi (l : BitVec 4) (fs : BitVec 3) (d : BitVec 3) (t : BitVec 3)
  /-- MST_CONV (R285). Stores a tile converted through a slot, with a trailer. -/
  | mstConv (b : BitVec 5) (sp : BitVec 6) (f : BitVec 3) (t : BitVec 3)
  /-- MST_RAW (R285). Stores a tile's raw elements, with a trailer. -/
  | mstRaw (b : BitVec 5) (sp : BitVec 6) (t : BitVec 3)
  /-- MLD_CONV (R287). Loads a tile from memory widened through a slot. -/
  | mldConv (b : BitVec 5) (sp : BitVec 6) (f : BitVec 3) (t : BitVec 3)
  /-- MLD_RAW_F32 (R287). Loads a tile bit for bit as FP32 elements. -/
  | mldRawF32 (b : BitVec 5) (sp : BitVec 6) (t : BitVec 3)
  /-- MLD_RAW_RES (R287). Loads a tile as residue triples and fold accumulators. -/
  | mldRawRes (b : BitVec 5) (sp : BitVec 6) (t : BitVec 3)
  /-- MOVF_GET (R288). Moves each thread's tile elements into eight registers. -/
  | movfGet (l : BitVec 4) (t : BitVec 3) (d : BitVec 6)
  /-- MOVF_PUT_F32 (R288). Writes FP32 tile elements from each thread's registers. -/
  | movfPutF32 (l : BitVec 4) (t : BitVec 3) (a : BitVec 6)
  /-- MOVF_PUT_I32 (R288). Writes int32 fold accumulators from each thread's registers. -/
  | movfPutI32 (l : BitVec 4) (t : BitVec 3) (a : BitVec 6)
  /-- COPY1 (R303). Copy-engine command copying a linear range between local targets. -/
  | copy1 (r : Reply) (b : BitVec 6) (a : BitVec 6) (e : BitVec 1) (l : BitVec 3)
  /-- COPY2 (R303). Copy-engine command copying strided rows. -/
  | copy2 (r : Reply) (b : BitVec 6) (a : BitVec 6) (e : BitVec 1) (l : BitVec 3)
  /-- COPYT (R303). Copy-engine command copying a 3-D tile. -/
  | copyt (r : Reply) (b : BitVec 6) (a : BitVec 6) (e : BitVec 1) (l : BitVec 3)
  /-- FILL (R303). Copy-engine command filling a range with a 64-bit pattern. -/
  | fill (r : Reply) (b : BitVec 6) (a : BitVec 6) (e : BitVec 1) (l : BitVec 3)
  /-- COPYR (R303). Copy-engine command copying to or from another package's deck. -/
  | copyr (r : Reply) (b : BitVec 6) (a : BitVec 6) (e : BitVec 1) (l : BitVec 3)
  /-- COPYH (R303). Copy-engine command copying to or from host or pool memory through the HLC. -/
  | copyh (r : Reply) (b : BitVec 6) (a : BitVec 6) (e : BitVec 1) (l : BitVec 3)
  /-- GATHER (R305). Gather-engine command reading indexed source elements. -/
  | gather (r : Reply) (b : BitVec 6) (a : BitVec 6) (e : BitVec 1) (l : BitVec 3)
  /-- SCATTER (R305). Gather-engine command writing elements to indexed destinations. -/
  | scatter (r : Reply) (b : BitVec 6) (a : BitVec 6) (e : BitVec 1) (l : BitVec 3)
  /-- SCATADD (R305). Gather-engine command adding elements into indexed destinations. -/
  | scatadd (r : Reply) (b : BitVec 6) (a : BitVec 6) (e : BitVec 1) (l : BitVec 3)
  /-- GATHERQ (R305). Gather-engine command pushing indexed 8-byte words into q2. -/
  | gatherq (r : Reply) (b : BitVec 6) (e : BitVec 1) (l : BitVec 3)
  /-- ALLRED (R308). Collective all-reduce across a peer group. -/
  | allred (r : Reply) (b : BitVec 6) (a : BitVec 6) (e : BitVec 1) (l : BitVec 3)
  /-- REDSCAT (R308). Collective reduce-scatter across a peer group. -/
  | redscat (r : Reply) (b : BitVec 6) (a : BitVec 6) (e : BitVec 1) (l : BitVec 3)
  /-- ALLGATH (R308). Collective all-gather across a peer group. -/
  | allgath (r : Reply) (b : BitVec 6) (a : BitVec 6) (e : BitVec 1) (l : BitVec 3)
  /-- BARRIER (R310). Collective barrier across a peer group. -/
  | barrier (r : Reply) (a : BitVec 6) (e : BitVec 1) (l : BitVec 3)
  /-- ENGINE_ACCEPTANCE (R294). An engine takes a command from its input buffer, numbers it, clears destination presence and writes the reply. -/
  | engineAcceptance (cmd : Nat)
  /-- ENGINE_CHUNK_DELIVERED (R304). An engine delivers a chunk of bytes, setting presence and adding to a named LANDED count. -/
  | engineChunkDelivered (cmd : Nat) (len : Nat) (peers : List PeerCommand)
  /-- COMMAND_COMPLETION (R297). An engine command completes, writing its status word and advancing DONE and FAILS. -/
  | commandCompletion (cmd : Nat)
  /-- XLN_STAT (R420). Replies with a far link's wavelength masks, state and peer. -/
  | xlnStat (r : Reply) (a : BitVec 6)
  /-- EASE (R421). Link command parking LIT wavelengths and optionally setting WAKE_DEPTH and AUTO. -/
  | ease (r : Reply) (b : BitVec 6) (a : BitVec 6) (l : BitVec 3)
  /-- WAKE (R421). Link command relighting PARKED wavelengths. -/
  | wake (r : Reply) (b : BitVec 6) (a : BitVec 6) (l : BitVec 3)
  /-- QPUSH (R295). Appends a scalar pair to a queue register. -/
  | qpush (a : BitVec 9) (q : BitVec 4)
  /-- QPUSH_S (R295). Appends a zero-extended scalar to a queue register. -/
  | qpushS (a : BitVec 9) (q : BitVec 4)
  /-- QPOP (R295). Removes the oldest entry of q2 into a scalar pair. -/
  | qpop (q : BitVec 4) (d : BitVec 9)
  /-- QUEUE_WAIT_END (R56). A crew stalled on a full or empty queue proceeds when an entry is taken or arrives. -/
  | queueWaitEnd (crew : Nat)
  /-- TLWAIT (R299). Waits until a timeline's DONE reaches n, replying FAILS, as an acquire. -/
  | tlwait (r : Reply) (a : BitVec 6) (l : BitVec 3)
  /-- TLWAIT_COMPLETE (R299). A waiting TLWAIT completes once DONE reaches its target. -/
  | tlwaitComplete (crew : Nat)
  /-- TLRD_ST (R299). Replies with a command's status word from the timeline window. -/
  | tlrdSt (r : Reply) (a : BitVec 6) (l : BitVec 3)
  /-- TLRD_ISSUED (R299). Replies with a timeline's ISSUED. -/
  | tlrdIssued (r : Reply) (l : BitVec 3)
  /-- TLRD_DONE (R299). Replies with a timeline's DONE. -/
  | tlrdDone (r : Reply) (l : BitVec 3)
  /-- TLRD_FAILS (R299). Replies with a timeline's FAILS. -/
  | tlrdFails (r : Reply) (l : BitVec 3)
  /-- SK_STORE (R334). STRK sending a stroke that stores a word in every replica. -/
  | skStore (r : Reply) (b : BitVec 6) (a : BitVec 6) (e : BitVec 1) (w : BitVec 1)
  /-- SK_ADD (R334). STRK sending a stroke that adds to a replica word. -/
  | skAdd (r : Reply) (b : BitVec 6) (a : BitVec 6) (e : BitVec 1) (w : BitVec 1)
  /-- SK_CLAIM (R334). STRK sending a compare-and-set stroke with the expected value from q5. -/
  | skClaim (r : Reply) (b : BitVec 6) (a : BitVec 6) (e : BitVec 1) (w : BitVec 1)
  /-- SK_SWAP (R334). STRK sending a swap stroke with a receipt offset from q5. -/
  | skSwap (r : Reply) (b : BitVec 6) (a : BitVec 6) (e : BitVec 1) (w : BitVec 1)
  /-- SK_MAX (R334). STRK sending an unsigned-maximum stroke. -/
  | skMax (r : Reply) (b : BitVec 6) (a : BitVec 6) (e : BitVec 1) (w : BitVec 1)
  /-- SK_GEN (R334). Privileged STRK sending a pod-wide generation raise of an ASID. -/
  | skGen (r : Reply) (b : BitVec 6) (e : BitVec 1)
  /-- SK_LAUNCH (R334). Privileged STRK sending a launch that arrives in every package. -/
  | skLaunch (r : Reply) (b : BitVec 6) (e : BitVec 1)
  /-- SK_NOTE (R334). STRK sending a stroke that records its number in a note word. -/
  | skNote (r : Reply) (b : BitVec 6) (e : BitVec 1)
  /-- STROKE_ACCEPTANCE (R334). A waiting STRK is accepted into the outbound queue after its release wait and queue room. -/
  | strokeAcceptance (crew : Nat)
  /-- WSTRK (R336). Waits until SK_APPLIED reaches n, as a POD-scope acquire. -/
  | wstrk (r : Reply) (a : BitVec 6)
  /-- WSTRK_NOTE (R336). Waits until a note word reaches n, as a POD-scope acquire. -/
  | wstrkNote (r : Reply) (b : BitVec 6) (a : BitVec 6)
  /-- WSTRK_COMPLETE (R336). A waiting WSTRK completes when its condition holds or the replica enters FAULT. -/
  | wstrkComplete (crew : Nat)
  /-- STRKN (R337). Replies with SK_APPLIED. -/
  | strkn (r : Reply)
  /-- STRKN_NOTE (R337). Replies with a note word. -/
  | strknNote (r : Reply) (a : BitVec 6)
  /-- STRKN_STAT (R337). Replies with the ring status word. -/
  | strknStat (r : Reply)
  /-- COX_TOKEN (R319). A package receives the cox token, sends owed repair records and up to BURST strokes, then passes it on. -/
  | coxToken (number : BitVec 32)
  /-- APXE (R365). Enters an approximation region, arming the slot and substituting or recording each thread. -/
  | apxe (sl : BitVec 4)
  /-- APXL (R366). Leaves a region, recording a sample or compared error for recorded threads. -/
  | apxl (sl : BitVec 4)
  /-- APXI (R367). Invalidates one Erg slot. -/
  | apxi (r : Reply) (sl : BitVec 4)
  /-- APXI_ALL (R367). Invalidates every slot of this Erg tagged with the context. -/
  | apxiAll (r : Reply)
  /-- APXQ_STAT (R368). Replies with a slot's state word. -/
  | apxqStat (r : Reply) (sl : BitVec 4)
  /-- APXQ_COUNT (R368). Replies with a slot's SUBST and TRUE counts. -/
  | apxqCount (r : Reply) (sl : BitVec 4)
  /-- APXQ_ERR (R368). Replies with a slot's window mean and last error. -/
  | apxqErr (r : Reply) (sl : BitVec 4)
  /-- APXQ_MISC (R368). Replies with a slot's DROPS, batches and SKIPS. -/
  | apxqMisc (r : Reply) (sl : BitVec 4)
  /-- APXC_RETIRE (R369). Forces a slot to RETIRED. -/
  | apxcRetire (r : Reply) (sl : BitVec 4)
  /-- APXC_RESET (R369). Returns a slot to IDLE. -/
  | apxcReset (r : Reply) (sl : BitVec 4)
  /-- APXC_SHIFT (R369). Sets a slot's sampling shift. -/
  | apxcShift (r : Reply) (a : BitVec 6) (sl : BitVec 4)
  /-- APXC_DET (R369). Sets a slot's deterministic-training flag. -/
  | apxcDet (r : Reply) (a : BitVec 6) (sl : BitVec 4)
  /-- APXC_LOADW (R369). Loads a weight image into a slot and starts a trial. -/
  | apxcLoadw (r : Reply) (a : BitVec 6) (sl : BitVec 4)
  /-- APXC_DUMPW (R369). Writes a slot's weight image to memory. -/
  | apxcDumpw (r : Reply) (a : BitVec 6) (sl : BitVec 4)
  /-- APXS_SAVE (R370). Privileged save of a slot's image, leaving it IDLE. -/
  | apxsSave (r : Reply) (a : BitVec 6) (sl : BitVec 4)
  /-- APXS_LOAD (R370). Privileged load of a slot image into an IDLE slot. -/
  | apxsLoad (r : Reply) (a : BitVec 6) (sl : BitVec 4)
  /-- APXS_DROP (R370). Privileged drop of a slot to IDLE. -/
  | apxsDrop (r : Reply) (sl : BitVec 4)
  /-- ERG_WATCH_NOTIFICATION (R360). An Erg receives a write or presence-clear notice on a watched line and invalidates covering slots. -/
  | ergWatchNotification (k : Nat)
  /-- TRAINING_BATCH (R355). The Erg completes one training batch update, entering TRIAL after the last. -/
  | trainingBatch (die : Nat) (slot : Nat)
  /-- TRAP (R382). Raises SWTRAP for active threads with a 15-bit code. -/
  | trap (imm : BitVec 15)
  /-- RETT (R381). Returns from a handler, restoring pcv, flags, REP state and privilege. -/
  | rett
  /-- GSR (R377). Reads a crew, context or package system register into a scalar pair. -/
  | gsr (r : SysReg) (d : BitVec 9)
  /-- GSR_V (R377). Reads a thread system register into a vector pair. -/
  | gsrV (r : SysReg) (v : BitVec 6)
  /-- SSR (R377). Writes a crew, context or package system register from a scalar pair. -/
  | ssr (r : SysReg) (d : BitVec 9)
  /-- SSR_V (R377). Writes a thread system register from a vector pair. -/
  | ssrV (r : SysReg) (v : BitVec 6)
  /-- SVCALL (R387). Places a service request in the hub's request queue as a release. -/
  | svcall (r : Reply) (b : BitVec 6) (a : BitVec 6) (svc : BitVec 7)
  /-- SVWAIT (R388). Arms a line monitor and waits for the service reply word. -/
  | svwait (r : Reply) (a : BitVec 6)
  /-- SVWAIT_WAKE (R388). A write to the reply line completes a sleeping SVWAIT. -/
  | svwaitWake (crew : Nat)
  /-- TKSV (R395). Writes a physical tile slot to a deck image and clears its tag. -/
  | tksv (r : Reply) (a : BitVec 6) (t : BitVec 3)
  /-- TKLD (R395). Loads a tile image into a slot and tags it with the crew's context. -/
  | tkld (r : Reply) (a : BitVec 6) (t : BitVec 3)
  /-- CTXSV_CREW (R392). Saves a halted crew to a deck area, leaving tiles in place. -/
  | ctxsvCrew (r : Reply) (b : BitVec 6) (a : BitVec 6)
  /-- CTXSV_TILES (R392). Saves a halted crew with its tiles and frees them. -/
  | ctxsvTiles (r : Reply) (b : BitVec 6) (a : BitVec 6)
  /-- CTXSV_SQUAD (R393). Saves squad state and squad memory after all crews are saved. -/
  | ctxsvSquad (r : Reply) (b : BitVec 6) (a : BitVec 6)
  /-- CTXLD_CREW (R394). Restores a saved crew, halted, into a squad. -/
  | ctxldCrew (r : Reply) (b : BitVec 6) (a : BitVec 6)
  /-- CTXLD_TILES (R394). Restores a saved crew with its tiles. -/
  | ctxldTiles (r : Reply) (b : BitVec 6) (a : BitVec 6)
  /-- CTXLD_SQUAD (R394). Restores squad state onto the issuing core. -/
  | ctxldSquad (r : Reply) (a : BitVec 6)
  /-- HALT (R385). Halts the crew as a pre-emption would and reports its code. -/
  | halt (imm : BitVec 15)
  /-- CREND (R384). Ends the crew with an immediate 14-bit end code. -/
  | crend (c : BitVec 14)
  /-- CREND_S (R384). Ends the crew with an end code taken from a scalar. -/
  | crendS (d : BitVec 9)
  /-- CYC (R397). Reads the core's CYCLES counter into a pair. -/
  | cyc (d : BitVec 9)
  /-- CYC_TIME (R397). Reads the package TIME counter into a pair. -/
  | cycTime (d : BitVec 9)
  /-- MOV16 (R131). 16-bit form vd := va. -/
  | mov16 (a : BitVec 5) (d : BitVec 5)
  /-- ADD16_I32 (R131). 16-bit form integer vd := vd + va. -/
  | add16I32 (a : BitVec 5) (d : BitVec 5)
  /-- ADD16_F32 (R132). 16-bit form FP32 vd := vd + va. -/
  | add16F32 (a : BitVec 5) (d : BitVec 5)
  /-- SUB16_I32 (R131). 16-bit form integer vd := vd - va. -/
  | sub16I32 (a : BitVec 5) (d : BitVec 5)
  /-- SUB16_F32 (R132). 16-bit form FP32 vd := vd - va. -/
  | sub16F32 (a : BitVec 5) (d : BitVec 5)
  /-- MUL16_I32 (R131). 16-bit form low 32 bits of vd times va. -/
  | mul16I32 (a : BitVec 5) (d : BitVec 5)
  /-- MUL16_F32 (R132). 16-bit form FP32 vd := vd x va. -/
  | mul16F32 (a : BitVec 5) (d : BitVec 5)
  /-- AND16 (R131). 16-bit form vd := vd AND va. -/
  | and16 (a : BitVec 5) (d : BitVec 5)
  /-- OR16 (R131). 16-bit form vd := vd OR va. -/
  | or16 (a : BitVec 5) (d : BitVec 5)
  /-- XOR16 (R131). 16-bit form vd := vd XOR va. -/
  | xor16 (a : BitVec 5) (d : BitVec 5)
  /-- SHL16 (R131). 16-bit form shift left by va[4:0]. -/
  | shl16 (a : BitVec 5) (d : BitVec 5)
  /-- SHR16_N32 (R131). 16-bit form logical shift right by va[4:0]. -/
  | shr16N32 (a : BitVec 5) (d : BitVec 5)
  /-- SHR16_I32 (R132). 16-bit form arithmetic shift right by va[4:0]. -/
  | shr16I32 (a : BitVec 5) (d : BitVec 5)
  /-- MIN16_I32 (R131). 16-bit form signed minimum. -/
  | min16I32 (a : BitVec 5) (d : BitVec 5)
  /-- MIN16_F32 (R132). 16-bit form FP32 minimum. -/
  | min16F32 (a : BitVec 5) (d : BitVec 5)
  /-- MAX16_I32 (R131). 16-bit form signed maximum. -/
  | max16I32 (a : BitVec 5) (d : BitVec 5)
  /-- MAX16_F32 (R132). 16-bit form FP32 maximum. -/
  | max16F32 (a : BitVec 5) (d : BitVec 5)
  /-- NEG16_I32 (R131). 16-bit form integer negation of va. -/
  | neg16I32 (a : BitVec 5) (d : BitVec 5)
  /-- NEG16_F32 (R132). 16-bit form FP32 sign flip of va. -/
  | neg16F32 (a : BitVec 5) (d : BitVec 5)
  /-- NOT16 (R131). 16-bit form bitwise NOT of va. -/
  | not16 (a : BitVec 5) (d : BitVec 5)
  /-- ABS16_F32 (R132). 16-bit form FP32 absolute value of va. -/
  | abs16F32 (a : BitVec 5) (d : BitVec 5)
  /-- ADDI5 (R131). 16-bit form adds a signed 5-bit immediate to vd. -/
  | addi5 (imm : BitVec 5) (d : BitVec 5)
  /-- MOVI5 (R131). 16-bit form loads a signed 5-bit immediate. -/
  | movi5 (imm : BitVec 5) (d : BitVec 5)
  /-- S2V16 (R131). 16-bit form broadcasts scalar s0-s31 into vd. -/
  | s2v16 (sn : BitVec 5) (d : BitVec 5)
  /-- BOAT_FORMATION (R67). Every 4 c a partition groups ready crews into boats. -/
  | boatFormation (core : Nat) (part : Nat)
  /-- BOAT_ISSUE (R68). Each cycle a partition issues its highest-class ready boat. -/
  | boatIssue (core : Nat) (part : Nat)
  /-- AGE_PROMOTION (R117). A ready crew not issued for AGE_LIMIT cycles is raised one class. -/
  | agePromotion (crew : Nat)
  /-- HOST_LAUNCH_ARRIVAL (R402). The hub takes the next launch queue entry, which is its arrival, and checks the record. -/
  | hostLaunchArrival
  /-- GRID_TABLE_WAIT_END (R94). A launch held for a full grid table is accepted when an entry frees. -/
  | gridTableWaitEnd
  /-- SQUAD_ADMISSION (R95). A waiting squad is admitted onto a core when room and producer conditions allow, starting its crews. -/
  | squadAdmission (grid : Nat) (core : Nat)
  /-- CREW_RESOURCES_FREED (R85). An ended crew's slot, scalars and tank allotment are freed once its accesses and commands are done. -/
  | crewResourcesFreed (crew : Nat)
  /-- GRID_RETIREMENT (R90). A grid whose squads, tasks, children and commands are all done retires. -/
  | gridRetirement (grid : Nat)
  /-- JOIN_RESUME (R108). A swapped-out squad is readmitted and restored when its last child retires. -/
  | joinResume (squad : Nat) (core : Nat)
  /-- TASK_START (R113). A READY task's crew starts when a core of the die has room. -/
  | taskStart (die : Nat) (entry : Nat) (core : Nat)
  /-- TASK_DRAINED (R113). A draining task's accesses are globally performed, its successor counter raised and its entry freed. -/
  | taskDrained (die : Nat) (entry : Nat)
  /-- PREEMPTION_HALT_COMPLETE (R391). All named crews of a core have rolled back and halted. -/
  | preemptionHaltComplete (core : Nat)
  /-- REGION_FREQUENCY_CHANGE (R399). A clock region stops and begins moving to the requested frequency. -/
  | regionFrequencyChange (region : Nat)
  /-- REGION_STOP_END (R399). A region's frequency-change stop ends and its crews issue again. -/
  | regionStopEnd (region : Nat)
  /-- AUTOMATIC_WAKE (R415). The egress queue reaching WAKE_DEPTH with AUTO set wakes every PARKED wavelength. -/
  | automaticWake (link : Nat)
  /-- LINK_DRAINED (R418). A DRAINING switched link has every flit acknowledged and moves to SWITCHING. -/
  | linkDrained (link : Nat)
  /-- LINE_FETCH (R247). Home slice handles a core's fetch or upgrade of a deck line at an asked format, adding or changing its pointer. -/
  | lineFetch (core : Nat) (line : Nat) (fmt : SubFmt) (upd : Bool)
  /-- EVICTION_NOTICE (R248). Home receives a core's eviction notice and removes its pointer unless BCAST is set. -/
  | evictionNotice (core : Nat) (line : Nat)
  /-- COLLECTIVE_TIMEOUT (R310). A peer has not issued within TIMEOUT; remaining peers complete with PEER_LOST. -/
  | collectiveTimeout (cmd : PeerWait)
  /-- PEER_LEAVES (R310). A peer package leaves the topology, ending affected commands with PEER_LOST. -/
  | peerLeaves (pkg : BitVec 13)
  /-- STROKE_RECEIVE (R339). A package receives a stroke record, checks CRC and CHECK, numbers it and applies or holds it. -/
  | strokeReceive (rec : BitVec 512)
  /-- REPAIR_REQUEST (R340). A package receives a repair request and queues the strokes it holds for re-sending. -/
  | repairRequest (rec : BitVec 512)
  /-- WAVEGUIDE_BREAK (R341). A break in the primary waveguide loops traffic onto the standby loop. -/
  | waveguideBreak (both : LoopBreak)
  /-- COUNT_COLLECTION (R341). The count-collection symbol passes a package or returns, leading to a new token. -/
  | countCollection (highest : BitVec 64) (returned : Bool)
  /-- RING_INITIALISATION (R323). The ring is initialised, zeroing replicas, notes and stroke numbering. -/
  | ringInitialisation (n : Nat) (burst : Nat) (alone : Bool)
  /-- REPLICA_RESYNC (R342). The service kernel copies a peer replica and notes and sets SK_APPLIED to leave FAULT. -/
  | replicaResync (replica : List Cell) (notes : List DWord) (j : JoinPoint)
  /-- LQ_PUSH (R402). A service core pushes a host launch into the hub's launch queue, waiting while it is full. -/
  | lqPush (va : Pc) (asid : BitVec 12)
  /-- SWAP_OUT_FOR_ROOM (R97). After 10 us of waiting, the scheduler may swap out squads stopped in WAITC or JOIN. -/
  | swapOutForRoom (squad : Nat)
  /-- TASK_READY (R386). Writing a task id to TASK_READY moves a PAGEWAIT entry to READY. -/
  | taskReady (task : BitVec 64)
  /-- GEN_RAISE (R191). Writing an ASID to GEN_RAISE raises its generation, invalidating its cached translations. -/
  | genRaise (asid : BitVec 12)
  /-- PREEMPT_HALT (R390). A PREEMPT_REQ halt operation stops the named crews at instruction boundaries. -/
  | preemptHalt (core : Nat) (slot : Nat)
  /-- PREEMPT_RELEASE (R390). A PREEMPT_REQ release operation lets halted unsaved crews issue again. -/
  | preemptRelease (core : Nat) (slot : Nat)
  /-- CLK_CTL (R400). Writing CLK_CTL requests a new core frequency for all regions. -/
  | clkCtl (mhz : BitVec 64)
  /-- CLOCK_STRETCH (R398). The power manager stretches a domain's clock periods to keep it under its allotment. -/
  | clockStretch (region : Nat)
  /-- DEVICE_RESET (R401). At reset the device enters STARTING and verifies its firmware. -/
  | deviceReset (image : FirmwareImage)
  /-- PART_TEST_COMPLETE (R401). A part finishes its start-up test, advancing DEV_STATE to REDUCED, FULL or FAILED. -/
  | partTestComplete (part : TestedPart) (passed : Bool)
  /-- SPARE_TAKEOVER (R404). A spare replaces a failed part, setting SPARED and sending event 0x40. -/
  | spareTakeover (part : SparePart)
  /-- HOST_BIAS_FLIP (R312). A host access to a device-bias HBM page flips the page to host bias. -/
  | hostBiasFlip (page : Nat)
  /-- BIAS_FLIP_TIMEOUT (R313). After 10 us a waiting flip proceeds and the engine read restarts under host bias. -/
  | biasFlipTimeout (page : Nat)
  /-- SNP_DATA (R314). The HLC receives a SnpData or BISnpData snoop and responds per line state. -/
  | snpData (line : Nat) (pool : Bool)
  /-- SNP_INV (R314). The HLC receives a SnpInv or BISnpInv snoop and invalidates the line. -/
  | snpInv (line : Nat) (pool : Bool)
  /-- POOL_SHELF_FAILURE (R316). A pool shelf's link fails or it signals containment, failing commands and sending event 0x21. -/
  | poolShelfFailure (base : Nat) (len : Nat)
  /-- POOL_COMPLETION_TIMEOUT (R316). A pool CXL.mem request unanswered after 10 ms fails its shelf. -/
  | poolCompletionTimeout (base : Nat) (len : Nat)
  /-- ATS_INVALIDATION (R317). A host revocation invalidates a host page after engine accesses drain or abort. -/
  | atsInvalidation (page : Nat) (drained : Bool)
  /-- SWEEP_PACKET (R433). A Sweep packet of a remote copy arrives, clearing and later setting destination line presence. -/
  | sweepPacket (pkt : SweepPacket)
  /-- HEADER_FLIT (R440). A far-link header flit is received and opens a piece of a remote copy. -/
  | headerFlit (link : Nat) (flit : BitVec 576)
  /-- READ_REQUEST_FLIT (R440). A read-request flit makes the peer engine read and return a piece. -/
  | readRequestFlit (link : Nat) (flit : BitVec 576)
  /-- PAYLOAD_FLIT (R440). A payload flit's 64 bytes are written at the destination. -/
  | payloadFlit (link : Nat) (flit : BitVec 576)
  /-- COMPLETION_FLIT (R440). A completion flit ends a remote copy with its status. -/
  | completionFlit (link : Nat) (flit : BitVec 576)
  /-- ACKNOWLEDGEMENT (R409). An acknowledgement flit frees replay-buffer flits up to its SEQ. -/
  | acknowledgement (link : Nat) (flit : BitVec 576)
  /-- NEGATIVE_ACKNOWLEDGEMENT (R409). A negative acknowledgement makes the sender replay every flit after its SEQ. -/
  | negativeAcknowledgement (link : Nat) (flit : BitVec 576)
  /-- IDLE_FLIT (R408). An idle flit is received and dropped. -/
  | idleFlit (link : Nat) (flit : BitVec 576)
  /-- CONTROL_FLIT (R412). A control flit carries active lists or width handshakes between link ends. -/
  | controlFlit (link : Nat) (ctl : LinkControl)
  /-- ACK_TIMER (R408). 100 ns with unacknowledged deliveries sends an acknowledgement. -/
  | ackTimer (link : Nat)
  /-- REPLAY_TIMEOUT (R409). 2 us without acknowledgement replays every outstanding flit. -/
  | replayTimeout (link : Nat)
  /-- LOSS_OF_LIGHT (R412). Power below LOL_THRESH for 32 ns narrows the direction and replays from the boundary. -/
  | lossOfLight (link : Nat) (receive : Bool) (lost : BitVec 16)
  /-- LASER_MODULE_FAILURE (R443). A laser module fails, narrowing every UP link it feeds and sending event 0x40. -/
  | laserModuleFailure (els : Nat)
  /-- NARROWING_TIMEOUT (R413). A narrowing handshake not finished within 1 us takes the link DOWN. -/
  | narrowingTimeout (link : Nat)
  /-- FLIT_WAIT_TIMEOUT (R413). A copy whose flits wait over 10 ms on a DOWN link completes with PEER_LOST. -/
  | flitWaitTimeout (cmd : Nat)
  /-- BRINGUP_STAGE_COMPLETE (R411). A bring-up stage finishes and the link moves to the next stage, UP or QUARANTINE. -/
  | bringupStageComplete (link : Nat) (good : StageMasks) (peer : BitVec 13)
  /-- BRINGUP_STAGE_TIMEOUT (R411). A bring-up stage times out, restarting bring-up or failing the link. -/
  | bringupStageTimeout (link : Nat)
  /-- WAKE_COMPLETE (R414). A wake's handshake ends and the woken wavelengths become LIT. -/
  | wakeComplete (link : Nat)
  /-- WAKE_BUDGET_EXPIRY (R414). Wavelengths still WAKING at WAKE_BUDGET become DARK. -/
  | wakeBudgetExpiry (link : Nat) (stuck : BitVec 16)
  /-- DRAW_RUN (R417). Every DRAW_INT the Draw engine allots switched links to destinations. -/
  | drawRun
  /-- CIRCUIT_SWITCH_REPORT (R418). The circuit switch reports the new path and bring-up starts. -/
  | circuitSwitchReport (link : Nat)
  /-- SWITCH_TIMEOUT (R418). No switch report within 1 ms takes the link DOWN. -/
  | switchTimeout (link : Nat)
  /-- EXCLUSION_CLEAR (R418). The service kernel clears a quarantine exclusion. -/
  | exclusionClear (link : Nat) (pkg : BitVec 13)
  /-- LINK_PARAMETER_WRITE (R416). The service kernel sets a far-link parameter through the hub. -/
  | linkParameterWrite (link : Nat) (par : LinkParam)
  /-- DISCARDED_FLIT (R408). A far-link flit arrives with a failed CRC or an undefined TYPE and is discarded, together with later flits, and one negative acknowledgement is sent. -/
  | discardedFlit (link : Nat)
  /-- LANES_LOST (R311). A CXL port loses lanes and retrains at reduced width x8 or x4. -/
  | lanesLost (port : Bool) (width : Nat)
  /-- POOL_RANGE_REENABLE (R316). System software re-enables a failed pool shelf's HPA range, so that commands no longer complete with POOL_LOST. -/
  | poolRangeReenable (base : Nat)
  /-- BIAS_TABLE_WRITE (R312). System software writes an HBM page's bias, device or host, in the hub's table through the service cores. -/
  | biasTableWrite (page : Nat) (host : Bool)
  /-- ROUTE_TABLE_WRITE (R417). The service kernel writes the hub's route table of far-link destinations and servable packages. -/
  | routeTableWrite (fixed : List (Nat × BitVec 13)) (served : List (BitVec 13))
  /-- CONTEXT_TEARDOWN (R358). A context is torn down, which aborts its engine commands with ABORTED detail 3 and returns its Erg slots to IDLE. -/
  | contextTeardown (asid : BitVec 12)
  /-- FIRMWARE_IMAGE (R405). A firmware or identity image presented in service is checked and either accepted or rejected, with the running image kept on rejection. -/
  | firmwareImage (image : FirmwareImage)
  /-- CXL_RESPONSE (R314). The host or a pool device answers a device request (RdShared/RdOwn grant, BISnp response or MemRd data), moving the HLC line state and letting the engine access proceed. -/
  | cxlResponse (line : Nat) (pool : Bool) (grant : CxlGrant)
  /-- REQUEST_QUEUE_TAKE (R387). The service kernel takes a request out of the hub's 4,096-entry request queue, which frees room for crews held by SVCALL or page requests. -/
  | requestQueueTake
  deriving DecidableEq, Repr

end Sys2Proof
end

