-- ==== Sys2Proof/WellFormed.lean ====
section
/-! DEFINITION. Which instructions have a legal encoding beyond their fields' types (spec/02_encoding.md R27, R34, R37 and the
encoding tables of the chapters). -/

namespace Sys2Proof

/-- The thread registers of R374, named only with V = 1 (R377). -/
def SysReg.isThread : SysReg → Bool
  | .pcvSave | .trapAddr | .trapTcause | .trapTstate => true
  | .devState | .devId | .coreId | .schedAge | .genRaise | .preemptReq | .lqPush | .lqStat | .clkCtl | .fwState | .taskReady
  | .trapCause | .trapMask | .trapInfo | .repSave | .trapScr0 | .trapScr1 | .trapScr2 | .trapScr3 | .tankInfo | .ctxAsid | .ctxRoot
  | .trapBase | .skmWin | .ctxKey | .ctxFlags => false

/-- A direct vector code that starts a multi-register operand is a multiple of k (R37); codes 60 to 63 are indexed (R35). -/
def multCode (k : Nat) (c : VCode) : Bool := decide (60 ≤ c.toNat) || c.toNat % k == 0
def evenCode (c : VCode) : Bool := multCode 2 c
def octCode (c : VCode) : Bool := multCode 8 c

/-- The vt of a memory access of a size (R34, R37). -/
def sizeOk : MSize → VCode → Bool
  | .w64, t => multCode 2 t
  | .w128, t => multCode 4 t
  | .s8, _ | .n8, _ | .s16, _ | .n16, _ | .w32, _ => true

/-- The sizes a store accepts (R34). -/
def storeSize : MSize → Bool
  | .s8 | .s16 | .w32 | .w64 | .w128 => true
  | .n8 | .n16 => false

/-- The vt of a CAS (R200). -/
def casOk : CasSize → VCode → Bool
  | .c32, t => multCode 2 t
  | .c64, t => multCode 4 t
  | .c128, t => multCode 8 t

/-- No decode check of R27 refuses the instruction. -/
def Instr.wellFormed : Instr → Bool
  | .bra _ => true
  | .brp _ _ _ => true
  | .brs _ _ _ => true
  | .jmpv _ a => (evenCode a)
  | .call _ => true
  | .callv _ a => (evenCode a)
  | .ret _ => true
  | .switch _ _ => true
  | .refuse => true
  | .exit _ => true
  | .yield _ => true
  | .spawn _ _ _ e => (e != 0)
  | .launch _ _ => true
  | .waitcCounter r _ _ => (r != 31)
  | .waitcHandle r _ => (r != 31)
  | .fork _ _ => true
  | .join _ => true
  | .taskq _ _ => true
  | .taskend => true
  | .role _ => true
  | .add _ _ _ _ _ => true
  | .mul f _ _ _ d => (!((f == .wideI || f == .wideN)) || (evenCode d))
  | .mad f _ _ _ d => (!((f == .wideI || f == .wideN)) || (evenCode d))
  | .log _ _ _ _ _ => true
  | .shf _ _ _ _ _ => true
  | .minmax f _ b _ _ => (!((f == .absI || f == .absSatI)) || (b == 0))
  | .bit _ _ _ _ => true
  | .bfx _ _ _ _ _ => true
  | .bfi _ _ _ _ => true
  | .sel _ _ _ _ _ => true
  | .opi f imm _ _ => (!((f == .shli || f == .shriN || f == .shriI)) || decide (imm.toNat < 32))
  | .lih _ _ => true
  | .cmp t c _ _ _ => (!((c == .nan || c == .num)) || (t == .f32))
  | .plog _ _ _ _ => true
  | .pmov _ _ => true
  | .pset _ _ => true
  | .p2v b _ => (b == 0 || b == 32)
  | .v2p _ b => (b == 0 || b == 32)
  | .shfl _ f b _ _ => (!(f != .idx) || decide (b.toNat < 32))
  | .vote _ _ _ => true
  | .redx _ _ _ _ _ => true
  | .s2v f l sn v => decide (sn.toNat < 384) && (!(f != .lane) || (l == 0)) && (!(f == .pair) || ((evenCode v && sn.toNat % 2 == 0)))
  | .v2s f l sn v => decide (sn.toNat < 384) && (!(f == .first) || (l == 0)) && (!(f == .pair) || ((evenCode v && sn.toNat % 2 == 0)))
  | .sop f a d => decide (a.toNat < 384) && decide (d.toNat < 384) && (!((f == .dmov || f == .dadd || f == .dsub)) || ((a.toNat % 2 == 0 && d.toNat % 2 == 0)))
  | .sli _ d => decide (d.toNat < 384)
  | .saddi _ d => decide (d.toNat < 384)
  | .slih _ d => decide (d.toNat < 384)
  | .xsetImm imm _ => decide (imm.toNat < 256)
  | .xsetScalar n _ => decide (n.toNat < 384)
  | .xadd _ _ => true
  | .rep _ _ _ => true
  | .far _ _ _ _ _ => true
  | .ffma _ _ _ _ _ => true
  | .fun _ _ _ _ => true
  | .sfu _ _ _ _ => true
  | .cvt _ _ _ _ _ => true
  | .icvt _ _ _ _ _ => true
  | .pack _ _ _ _ _ => true
  | .unpk _ _ _ _ _ _ => true
  | .hop _ _ _ _ _ => true
  | .renc _ _ _ _ => true
  | .rdec _ _ _ _ => true
  | .fcls _ _ _ _ => true
  | .ld _ z _ _ t => (sizeOk z t)
  | .st z _ _ t => (sizeOk z t) && (storeSize z)
  | .lda _ z _ _ t => (sizeOk z t)
  | .stl _ z _ _ t => (sizeOk z t) && (storeSize z)
  | .lds _ z _ _ t => (sizeOk z t)
  | .sts z _ _ t => (sizeOk z t) && (storeSize z)
  | .atom w _ p _ _ t => (!(w == 1) || ((evenCode t && p != .addF)))
  | .cas _ p _ _ t => (casOk p t)
  | .fence _ => true
  | .fenceAcq _ => true
  | .fenceRel _ => true
  | .fenceWaitEnd _ => true
  | .bar n _ d => decide (d.toNat < 384) && decide (n.toNat ≤ 48)
  | .barPhaseComplete _ _ => true
  | .bbarArm _ _ _ => true
  | .bbarWait _ _ => true
  | .bbarTake _ _ => true
  | .bbarConditionMet _ => true
  | .pres _ _ _ _ => true
  | .mon _ _ _ _ => true
  | .mwait _ d => decide (d.toNat < 384)
  | .mwaitWake _ => true
  | .mwaitTimeout _ => true
  | .subs r _ _ _ _ => (r != 31)
  | .unsub _ _ => true
  | .subup _ _ _ => true
  | .subqLine r _ => (r != 31)
  | .subqSlot r _ => (r != 31)
  | .subqCnt r => (r != 31)
  | .lineFetch _ _ _ _ => true
  | .homeWriteApply _ => true
  | .inval _ => true
  | .upd _ => true
  | .sharerAcknowledgement _ => true
  | .evictionNotice _ _ => true
  | .accessUnpark _ => true
  | .cvset a _ => decide (a.toNat < 384)
  | .cvsetLive _ => true
  | .cvsetImm _ _ => true
  | .mma _ _ _ _ _ => true
  | .mmaSet _ _ _ _ _ => true
  | .mmr _ _ _ _ _ => true
  | .mmrSet _ _ _ _ _ => true
  | .matrixOperationComplete _ => true
  | .mzero _ => true
  | .mepi _ _ _ _ => true
  | .mstConv _ _ _ _ => true
  | .mstRaw _ _ _ => true
  | .mldConv _ _ _ _ => true
  | .mldRawF32 _ _ _ => true
  | .mldRawRes _ _ _ => true
  | .movfGet _ _ d => (octCode d)
  | .movfPutF32 _ _ a => (octCode a)
  | .movfPutI32 _ _ a => (octCode a)
  | .copy1 _ _ _ _ _ => true
  | .copy2 _ _ _ _ _ => true
  | .copyt _ _ _ _ _ => true
  | .fill _ b _ _ _ => b == 0
  | .copyr _ _ _ _ _ => true
  | .copyh _ _ _ _ _ => true
  | .gather _ _ _ _ _ => true
  | .scatter _ _ _ _ _ => true
  | .scatadd _ _ _ _ _ => true
  | .gatherq _ _ _ _ => true
  | .allred _ _ _ _ _ => true
  | .redscat _ _ _ _ _ => true
  | .allgath _ _ _ _ _ => true
  | .barrier _ _ _ _ => true
  | .engineAcceptance _ => true
  | .engineChunkDelivered _ _ _ => true
  | .commandCompletion _ => true
  | .collectiveTimeout _ => true
  | .peerLeaves _ => true
  | .xlnStat r _ => (r != 31)
  | .ease _ _ _ _ => true
  | .wake _ _ _ _ => true
  | .qpush a _ => decide (a.toNat < 384) && (a.toNat % 2 == 0)
  | .qpushS a _ => decide (a.toNat < 384)
  | .qpop _ d => decide (d.toNat < 384) && (d.toNat % 2 == 0)
  | .queueWaitEnd _ => true
  | .tlwait _ _ _ => true
  | .tlwaitComplete _ => true
  | .tlrdSt r _ _ => (r != 31)
  | .tlrdIssued r _ => (r != 31)
  | .tlrdDone r _ => (r != 31)
  | .tlrdFails r _ => (r != 31)
  | .skStore _ _ _ _ _ => true
  | .skAdd _ _ _ _ _ => true
  | .skClaim _ _ _ _ _ => true
  | .skSwap _ _ _ _ _ => true
  | .skMax _ _ _ _ _ => true
  | .skGen _ _ _ => true
  | .skLaunch _ _ _ => true
  | .skNote _ _ _ => true
  | .strokeAcceptance _ => true
  | .wstrk _ _ => true
  | .wstrkNote _ _ _ => true
  | .wstrkComplete _ => true
  | .strkn r => (r != 31)
  | .strknNote r _ => (r != 31)
  | .strknStat r => (r != 31)
  | .coxToken _ => true
  | .strokeReceive _ => true
  | .repairRequest _ => true
  | .waveguideBreak _ => true
  | .countCollection _ _ => true
  | .ringInitialisation _ _ _ => true
  | .replicaResync _ _ _ => true
  | .apxe _ => true
  | .apxl _ => true
  | .apxi _ _ => true
  | .apxiAll _ => true
  | .apxqStat r _ => (r != 31)
  | .apxqCount r _ => (r != 31)
  | .apxqErr r _ => (r != 31)
  | .apxqMisc r _ => (r != 31)
  | .apxcRetire _ _ => true
  | .apxcReset _ _ => true
  | .apxcShift _ _ _ => true
  | .apxcDet _ _ _ => true
  | .apxcLoadw _ _ _ => true
  | .apxcDumpw _ _ _ => true
  | .apxsSave _ _ _ => true
  | .apxsLoad _ _ _ => true
  | .apxsDrop _ _ => true
  | .ergWatchNotification _ => true
  | .trainingBatch _ _ => true
  | .trap _ => true
  | .rett => true
  | .gsr r d => !r.isThread && decide (d.toNat < 384) && (d.toNat % 2 == 0)
  | .gsrV r v => r.isThread && (evenCode v)
  | .ssr r d => !r.isThread && decide (d.toNat < 384) && (d.toNat % 2 == 0)
  | .ssrV r v => r.isThread && (evenCode v)
  | .svcall _ _ _ _ => true
  | .svwait _ _ => true
  | .svwaitWake _ => true
  | .tksv _ _ _ => true
  | .tkld _ _ _ => true
  | .ctxsvCrew r _ _ => (r != 31)
  | .ctxsvTiles r _ _ => (r != 31)
  | .ctxsvSquad r _ _ => (r != 31)
  | .ctxldCrew r _ _ => (r != 31)
  | .ctxldTiles r _ _ => (r != 31)
  | .ctxldSquad r _ => (r != 31)
  | .halt _ => true
  | .crend _ => true
  | .crendS d => decide (d.toNat < 384)
  | .cyc d => decide (d.toNat < 384) && (d.toNat % 2 == 0)
  | .cycTime d => decide (d.toNat < 384) && (d.toNat % 2 == 0)
  | .mov16 a d => (a != 0 || d != 0)
  | .add16I32 _ _ => true
  | .add16F32 _ _ => true
  | .sub16I32 _ _ => true
  | .sub16F32 _ _ => true
  | .mul16I32 _ _ => true
  | .mul16F32 _ _ => true
  | .and16 _ _ => true
  | .or16 _ _ => true
  | .xor16 _ _ => true
  | .shl16 _ _ => true
  | .shr16N32 _ _ => true
  | .shr16I32 _ _ => true
  | .min16I32 _ _ => true
  | .min16F32 _ _ => true
  | .max16I32 _ _ => true
  | .max16F32 _ _ => true
  | .neg16I32 _ _ => true
  | .neg16F32 _ _ => true
  | .not16 _ _ => true
  | .abs16F32 _ _ => true
  | .addi5 _ _ => true
  | .movi5 _ _ => true
  | .s2v16 _ _ => true
  | .boatFormation _ _ => true
  | .boatIssue _ _ => true
  | .agePromotion _ => true
  | .lqPush _ _ => true
  | .hostLaunchArrival => true
  | .gridTableWaitEnd => true
  | .squadAdmission _ _ => true
  | .swapOutForRoom _ => true
  | .crewResourcesFreed _ => true
  | .gridRetirement _ => true
  | .joinResume _ _ => true
  | .taskStart _ _ _ => true
  | .taskDrained _ _ => true
  | .taskReady _ => true
  | .genRaise _ => true
  | .preemptHalt _ _ => true
  | .preemptRelease _ _ => true
  | .preemptionHaltComplete _ => true
  | .clkCtl _ => true
  | .regionFrequencyChange _ => true
  | .regionStopEnd _ => true
  | .clockStretch _ => true
  | .deviceReset _ => true
  | .partTestComplete _ _ => true
  | .spareTakeover _ => true
  | .hostBiasFlip _ => true
  | .biasFlipTimeout _ => true
  | .snpData _ _ => true
  | .snpInv _ _ => true
  | .poolShelfFailure _ _ => true
  | .poolCompletionTimeout _ _ => true
  | .atsInvalidation _ _ => true
  | .sweepPacket _ => true
  | .headerFlit _ _ => true
  | .readRequestFlit _ _ => true
  | .payloadFlit _ _ => true
  | .completionFlit _ _ => true
  | .acknowledgement _ _ => true
  | .negativeAcknowledgement _ _ => true
  | .idleFlit _ _ => true
  | .controlFlit _ _ => true
  | .ackTimer _ => true
  | .replayTimeout _ => true
  | .lossOfLight _ _ _ => true
  | .laserModuleFailure _ => true
  | .narrowingTimeout _ => true
  | .flitWaitTimeout _ => true
  | .bringupStageComplete _ _ _ => true
  | .bringupStageTimeout _ => true
  | .wakeComplete _ => true
  | .wakeBudgetExpiry _ _ => true
  | .automaticWake _ => true
  | .drawRun => true
  | .linkDrained _ => true
  | .circuitSwitchReport _ => true
  | .switchTimeout _ => true
  | .exclusionClear _ _ => true
  | .linkParameterWrite _ _ => true
  | .discardedFlit _ => true
  | .lanesLost _ _ => true
  | .poolRangeReenable _ => true
  | .biasTableWrite _ _ => true
  | .routeTableWrite _ _ => true
  | .contextTeardown _ => true
  | .firmwareImage _ => true
  | .cxlResponse _ _ _ => true
  | .requestQueueTake => true

end Sys2Proof
end

