-- ==== Sys2Proof/Decode.lean ====
section
/-! DEFINITION. Decoding of instruction words, total on any bits, and the encoder (spec/02_encoding.md R26 to R34, R47 and
the encoding tables of the chapters). Reserved words give none (R27). -/

namespace Sys2Proof

/-- Field [lo+n-1:lo] of a word. -/
def fld (w lo n : Nat) : Nat := w / 2 ^ lo % 2 ^ n

/-- Field [lo+n-1:lo] of a word as a bit vector. -/
def bv (w lo n : Nat) : BitVec n := BitVec.ofNat n (w / 2 ^ lo)

/-- The field code. Members of ADD (R121). -/
def AddOp.code : AddOp → Nat
  | .add => 0
  | .sub => 1
  | .addSatI => 2
  | .subSatI => 3
  | .addSatN => 4
  | .subSatN => 5
  | .adiffI => 6
  | .adiffN => 7

/-- The member with a field code; none for a reserved code. -/
def AddOp.ofCode : Nat → Option AddOp
  | 0 => some .add
  | 1 => some .sub
  | 2 => some .addSatI
  | 3 => some .subSatI
  | 4 => some .addSatN
  | 5 => some .subSatN
  | 6 => some .adiffI
  | 7 => some .adiffN
  | _ => none

/-- The field code. Members of MUL and MAD (R122); 7 is reserved. -/
def MulOp.code : MulOp → Nat
  | .lo => 0
  | .hiI => 1
  | .hiN => 2
  | .satI => 3
  | .satN => 4
  | .wideI => 5
  | .wideN => 6

/-- The member with a field code; none for a reserved code. -/
def MulOp.ofCode : Nat → Option MulOp
  | 0 => some .lo
  | 1 => some .hiI
  | 2 => some .hiN
  | 3 => some .satI
  | 4 => some .satN
  | 5 => some .wideI
  | 6 => some .wideN
  | _ => none

/-- The field code. Members of LOG (R123). -/
def LogOp.code : LogOp → Nat
  | .and => 0
  | .or => 1
  | .xor => 2
  | .andn => 3
  | .orn => 4
  | .xnor => 5
  | .nand => 6
  | .nor => 7

/-- The member with a field code; none for a reserved code. -/
def LogOp.ofCode : Nat → Option LogOp
  | 0 => some .and
  | 1 => some .or
  | 2 => some .xor
  | 3 => some .andn
  | 4 => some .orn
  | 5 => some .xnor
  | 6 => some .nand
  | 7 => some .nor
  | _ => none

/-- The field code. Members of SHF (R124); 5 to 7 are reserved. -/
def ShfOp.code : ShfOp → Nat
  | .shl => 0
  | .shrN => 1
  | .shrI => 2
  | .rol => 3
  | .ror => 4

/-- The member with a field code; none for a reserved code. -/
def ShfOp.ofCode : Nat → Option ShfOp
  | 0 => some .shl
  | 1 => some .shrN
  | 2 => some .shrI
  | 3 => some .rol
  | 4 => some .ror
  | _ => none

/-- The field code. Members of MINMAX (R125). -/
def MinMaxOp.code : MinMaxOp → Nat
  | .minI => 0
  | .maxI => 1
  | .minN => 2
  | .maxN => 3
  | .clampI => 4
  | .clampN => 5
  | .absI => 6
  | .absSatI => 7

/-- The member with a field code; none for a reserved code. -/
def MinMaxOp.ofCode : Nat → Option MinMaxOp
  | 0 => some .minI
  | 1 => some .maxI
  | 2 => some .minN
  | 3 => some .maxN
  | 4 => some .clampI
  | 5 => some .clampN
  | 6 => some .absI
  | 7 => some .absSatI
  | _ => none

/-- The field code. Members of BIT (R126); 6 and 7 are reserved. -/
def BitOp.code : BitOp → Nat
  | .popc => 0
  | .clz => 1
  | .ctz => 2
  | .brev => 3
  | .bswap => 4
  | .cls => 5

/-- The member with a field code; none for a reserved code. -/
def BitOp.ofCode : Nat → Option BitOp
  | 0 => some .popc
  | 1 => some .clz
  | 2 => some .ctz
  | 3 => some .brev
  | 4 => some .bswap
  | 5 => some .cls
  | _ => none

/-- The field code. Members of BFX (R127); 2 and 3 are reserved. -/
def BfxOp.code : BfxOp → Nat
  | .unsigned => 0
  | .signed => 1

/-- The member with a field code; none for a reserved code. -/
def BfxOp.ofCode : Nat → Option BfxOp
  | 0 => some .unsigned
  | 1 => some .signed
  | _ => none

/-- The field code. Members of OPI (R129). -/
def OpiOp.code : OpiOp → Nat
  | .addi => 0
  | .andi => 1
  | .ori => 2
  | .xori => 3
  | .shli => 4
  | .shriN => 5
  | .shriI => 6
  | .muli => 7

/-- The member with a field code; none for a reserved code. -/
def OpiOp.ofCode : Nat → Option OpiOp
  | 0 => some .addi
  | 1 => some .andi
  | 2 => some .ori
  | 3 => some .xori
  | 4 => some .shli
  | 5 => some .shriN
  | 6 => some .shriI
  | 7 => some .muli
  | _ => none

/-- The field code. Conditions of CMP (R133). -/
def CmpCond.code : CmpCond → Nat
  | .eq => 0
  | .ne => 1
  | .lt => 2
  | .le => 3
  | .gt => 4
  | .ge => 5
  | .nan => 6
  | .num => 7

/-- The member with a field code; none for a reserved code. -/
def CmpCond.ofCode : Nat → Option CmpCond
  | 0 => some .eq
  | 1 => some .ne
  | 2 => some .lt
  | 3 => some .le
  | 4 => some .gt
  | 5 => some .ge
  | 6 => some .nan
  | 7 => some .num
  | _ => none

/-- The field code. Types of CMP (R133); 3 to 7 are reserved. -/
def CmpType.code : CmpType → Nat
  | .i32 => 0
  | .n32 => 1
  | .f32 => 2

/-- The member with a field code; none for a reserved code. -/
def CmpType.ofCode : Nat → Option CmpType
  | 0 => some .i32
  | 1 => some .n32
  | 2 => some .f32
  | _ => none

/-- The field code. Functions of PLOG (R134). -/
def PlogOp.code : PlogOp → Nat
  | .pand => 0
  | .por => 1
  | .pxor => 2
  | .pandn => 3
  | .porn => 4
  | .pnand => 5
  | .pnor => 6
  | .pxnor => 7

/-- The member with a field code; none for a reserved code. -/
def PlogOp.ofCode : Nat → Option PlogOp
  | 0 => some .pand
  | 1 => some .por
  | 2 => some .pxor
  | 3 => some .pandn
  | 4 => some .porn
  | 5 => some .pnand
  | 6 => some .pnor
  | 7 => some .pxnor
  | _ => none

/-- The field code. Members of SHFL (R137). -/
def ShflOp.code : ShflOp → Nat
  | .idx => 0
  | .up => 1
  | .down => 2
  | .xor => 3

/-- The member with a field code; none for a reserved code. -/
def ShflOp.ofCode : Nat → Option ShflOp
  | 0 => some .idx
  | 1 => some .up
  | 2 => some .down
  | 3 => some .xor
  | _ => none

/-- The field code. Members of VOTE (R138); 4 to 7 are reserved. -/
def VoteOp.code : VoteOp → Nat
  | .all => 0
  | .any => 1
  | .uni => 2
  | .ballot => 3

/-- The member with a field code; none for a reserved code. -/
def VoteOp.ofCode : Nat → Option VoteOp
  | 0 => some .all
  | 1 => some .any
  | 2 => some .uni
  | 3 => some .ballot
  | _ => none

/-- The field code. Scopes of REDX (R139); 3 is reserved. -/
def RedxScope.code : RedxScope → Nat
  | .crew => 0
  | .four => 1
  | .scan => 2

/-- The member with a field code; none for a reserved code. -/
def RedxScope.ofCode : Nat → Option RedxScope
  | 0 => some .crew
  | 1 => some .four
  | 2 => some .scan
  | _ => none

/-- The field code. Operations of REDX (R139); 11 to 63 are reserved. -/
def RedxOp.code : RedxOp → Nat
  | .add => 0
  | .minI => 1
  | .maxI => 2
  | .minN => 3
  | .maxN => 4
  | .and => 5
  | .or => 6
  | .xor => 7
  | .addF => 8
  | .minF => 9
  | .maxF => 10

/-- The member with a field code; none for a reserved code. -/
def RedxOp.ofCode : Nat → Option RedxOp
  | 0 => some .add
  | 1 => some .minI
  | 2 => some .maxI
  | 3 => some .minN
  | 4 => some .maxN
  | 5 => some .and
  | 6 => some .or
  | 7 => some .xor
  | 8 => some .addF
  | 9 => some .minF
  | 10 => some .maxF
  | _ => none

/-- The field code. Members of S2V (R140); 3 to 7 are reserved. -/
def S2vOp.code : S2vOp → Nat
  | .w => 0
  | .pair => 1
  | .lane => 2

/-- The member with a field code; none for a reserved code. -/
def S2vOp.ofCode : Nat → Option S2vOp
  | 0 => some .w
  | 1 => some .pair
  | 2 => some .lane
  | _ => none

/-- The field code. Members of V2S (R141); 3 to 7 are reserved. -/
def V2sOp.code : V2sOp → Nat
  | .lane => 0
  | .first => 1
  | .pair => 2

/-- The member with a field code; none for a reserved code. -/
def V2sOp.ofCode : Nat → Option V2sOp
  | 0 => some .lane
  | 1 => some .first
  | 2 => some .pair
  | _ => none

/-- The field code. Members of SOP (R142); codes not listed are reserved. -/
def SopOp.code : SopOp → Nat
  | .smov => 0
  | .sadd => 1
  | .ssub => 2
  | .smul => 3
  | .smulhiI => 4
  | .smulhiN => 5
  | .sand => 6
  | .sor => 7
  | .sxor => 8
  | .sandn => 9
  | .sshl => 10
  | .sshr => 11
  | .ssar => 12
  | .sminI => 13
  | .smaxI => 14
  | .sminN => 15
  | .smaxN => 16
  | .snot => 17
  | .sneg => 18
  | .spopc => 19
  | .sclz => 20
  | .sctz => 21
  | .saddSat => 22
  | .ssubSat => 23
  | .sseq => 24
  | .ssltI => 25
  | .ssltN => 26
  | .dmov => 32
  | .dadd => 33
  | .dsub => 34

/-- The member with a field code; none for a reserved code. -/
def SopOp.ofCode : Nat → Option SopOp
  | 0 => some .smov
  | 1 => some .sadd
  | 2 => some .ssub
  | 3 => some .smul
  | 4 => some .smulhiI
  | 5 => some .smulhiN
  | 6 => some .sand
  | 7 => some .sor
  | 8 => some .sxor
  | 9 => some .sandn
  | 10 => some .sshl
  | 11 => some .sshr
  | 12 => some .ssar
  | 13 => some .sminI
  | 14 => some .smaxI
  | 15 => some .sminN
  | 16 => some .smaxN
  | 17 => some .snot
  | 18 => some .sneg
  | 19 => some .spopc
  | 20 => some .sclz
  | 21 => some .sctz
  | 22 => some .saddSat
  | 23 => some .ssubSat
  | 24 => some .sseq
  | 25 => some .ssltI
  | 26 => some .ssltN
  | 32 => some .dmov
  | 33 => some .dadd
  | 34 => some .dsub
  | _ => none

/-- The field code. Members of FAR (R161); 7 is reserved. -/
def FarOp.code : FarOp → Nat
  | .add => 0
  | .sub => 1
  | .mul => 2
  | .min => 3
  | .max => 4
  | .copysign => 5
  | .adiff => 6

/-- The member with a field code; none for a reserved code. -/
def FarOp.ofCode : Nat → Option FarOp
  | 0 => some .add
  | 1 => some .sub
  | 2 => some .mul
  | 3 => some .min
  | 4 => some .max
  | 5 => some .copysign
  | 6 => some .adiff
  | _ => none

/-- The field code. Members of FFMA (R162); 4 to 7 are reserved. -/
def FfmaOp.code : FfmaOp → Nat
  | .fma => 0
  | .fms => 1
  | .fnma => 2
  | .fnms => 3

/-- The member with a field code; none for a reserved code. -/
def FfmaOp.ofCode : Nat → Option FfmaOp
  | 0 => some .fma
  | 1 => some .fms
  | 2 => some .fnma
  | 3 => some .fnms
  | _ => none

/-- The field code. Members of FUN (R163); 6 and 7 are reserved. -/
def FunOp.code : FunOp → Nat
  | .floor => 0
  | .ceil => 1
  | .trunc => 2
  | .rint => 3
  | .fract => 4
  | .sign => 5

/-- The member with a field code; none for a reserved code. -/
def FunOp.ofCode : Nat → Option FunOp
  | 0 => some .floor
  | 1 => some .ceil
  | 2 => some .trunc
  | 3 => some .rint
  | 4 => some .fract
  | 5 => some .sign
  | _ => none

/-- The field code. Functions of SFU (R164); 8 to 63 are reserved. -/
def SfuOp.code : SfuOp → Nat
  | .rcp => 0
  | .rsqrt => 1
  | .sqrt => 2
  | .exp2 => 3
  | .log2 => 4
  | .sinpi => 5
  | .cospi => 6
  | .tanh => 7

/-- The member with a field code; none for a reserved code. -/
def SfuOp.ofCode : Nat → Option SfuOp
  | 0 => some .rcp
  | 1 => some .rsqrt
  | 2 => some .sqrt
  | 3 => some .exp2
  | 4 => some .log2
  | 5 => some .sinpi
  | 6 => some .cospi
  | 7 => some .tanh
  | _ => none

/-- The field code. Members of CVT (R166); 2 and 3 are reserved. -/
def CvtOp.code : CvtOp → Nat
  | .narrow => 0
  | .widen => 1

/-- The member with a field code; none for a reserved code. -/
def CvtOp.ofCode : Nat → Option CvtOp
  | 0 => some .narrow
  | 1 => some .widen
  | _ => none

/-- The field code. Rounding modes (R9, R149, R153). -/
def Rnd.code : Rnd → Nat
  | .rne => 0
  | .rtz => 1
  | .rdn => 2
  | .rup => 3

/-- The member with a field code; none for a reserved code. -/
def Rnd.ofCode : Nat → Option Rnd
  | 0 => some .rne
  | 1 => some .rtz
  | 2 => some .rdn
  | 3 => some .rup
  | _ => none

/-- The field code. Functions of ICVT (R167); 4 to 63 are reserved. -/
def IcvtOp.code : IcvtOp → Nat
  | .i2f => 0
  | .n2f => 1
  | .f2i => 2
  | .f2n => 3

/-- The member with a field code; none for a reserved code. -/
def IcvtOp.ofCode : Nat → Option IcvtOp
  | 0 => some .i2f
  | 1 => some .n2f
  | 2 => some .f2i
  | 3 => some .f2n
  | _ => none

/-- The field code. Members of PACK (R168); 7 is reserved. -/
def PackOp.code : PackOp → Nat
  | .p16 => 0
  | .p8lo => 1
  | .p8hi => 2
  | .p4b0 => 3
  | .p4b1 => 4
  | .p4b2 => 5
  | .p4b3 => 6

/-- The member with a field code; none for a reserved code. -/
def PackOp.ofCode : Nat → Option PackOp
  | 0 => some .p16
  | 1 => some .p8lo
  | 2 => some .p8hi
  | 3 => some .p4b0
  | 4 => some .p4b1
  | 5 => some .p4b2
  | 6 => some .p4b3
  | _ => none

/-- The field code. Members of UNPK (R169); 3 is reserved. -/
def UnpkOp.code : UnpkOp → Nat
  | .widen => 0
  | .raw => 1
  | .raws => 2

/-- The member with a field code; none for a reserved code. -/
def UnpkOp.ofCode : Nat → Option UnpkOp
  | 0 => some .widen
  | 1 => some .raw
  | 2 => some .raws
  | _ => none

/-- The field code. Members of HOP (R170). -/
def HopOp.code : HopOp → Nat
  | .addBf => 0
  | .subBf => 1
  | .mulBf => 2
  | .fmaBf => 3
  | .addF16 => 4
  | .subF16 => 5
  | .mulF16 => 6
  | .fmaF16 => 7

/-- The member with a field code; none for a reserved code. -/
def HopOp.ofCode : Nat → Option HopOp
  | 0 => some .addBf
  | 1 => some .subBf
  | 2 => some .mulBf
  | 3 => some .fmaBf
  | 4 => some .addF16
  | 5 => some .subF16
  | 6 => some .mulF16
  | 7 => some .fmaF16
  | _ => none

/-- The field code. Members of RENC (R171); 2 and 3 are reserved. -/
def RencOp.code : RencOp → Nat
  | .plain => 0
  | .sat => 1

/-- The member with a field code; none for a reserved code. -/
def RencOp.ofCode : Nat → Option RencOp
  | 0 => some .plain
  | 1 => some .sat
  | _ => none

/-- The field code. Members of RDEC (R172); 4 to 63 are reserved. -/
def RdecOp.code : RdecOp → Nat
  | .i32 => 0
  | .r255 => 1
  | .r256 => 2
  | .r257 => 3

/-- The member with a field code; none for a reserved code. -/
def RdecOp.ofCode : Nat → Option RdecOp
  | 0 => some .i32
  | 1 => some .r255
  | 2 => some .r256
  | 3 => some .r257
  | _ => none

/-- The field code. Formats of FCLS (R173); 5 to 7 are reserved. -/
def FclsType.code : FclsType → Nat
  | .f32 => 0
  | .bf16 => 1
  | .f16 => 2
  | .e4m3 => 3
  | .e5m2 => 4

/-- The member with a field code; none for a reserved code. -/
def FclsType.ofCode : Nat → Option FclsType
  | 0 => some .f32
  | 1 => some .bf16
  | 2 => some .f16
  | 3 => some .e4m3
  | 4 => some .e5m2
  | _ => none

/-- The field code. Memory sizes (R34); 7 is reserved. -/
def MSize.code : MSize → Nat
  | .s8 => 0
  | .n8 => 1
  | .s16 => 2
  | .n16 => 3
  | .w32 => 4
  | .w64 => 5
  | .w128 => 6

/-- The member with a field code; none for a reserved code. -/
def MSize.ofCode : Nat → Option MSize
  | 0 => some .s8
  | 1 => some .n8
  | 2 => some .s16
  | 3 => some .n16
  | 4 => some .w32
  | 5 => some .w64
  | 6 => some .w128
  | _ => none

/-- The field code. Scopes (R217, R232). -/
def Scope.code : Scope → Nat
  | .crew => 0
  | .squad => 1
  | .pkg => 2
  | .pod => 3

/-- The member with a field code; none for a reserved code. -/
def Scope.ofCode : Nat → Option Scope
  | 0 => some .crew
  | 1 => some .squad
  | 2 => some .pkg
  | 3 => some .pod
  | _ => none

/-- The field code. Orders of ATOM and CAS (R34). -/
def Order.code : Order → Nat
  | .relaxed => 0
  | .acquire => 1
  | .release => 2
  | .acqrel => 3

/-- The member with a field code; none for a reserved code. -/
def Order.ofCode : Nat → Option Order
  | 0 => some .relaxed
  | 1 => some .acquire
  | 2 => some .release
  | 3 => some .acqrel
  | _ => none

/-- The field code. Operations of ATOM (R205); 12 to 15 are reserved. -/
def Aop.code : Aop → Nat
  | .swap => 0
  | .add => 1
  | .and => 2
  | .or => 3
  | .xor => 4
  | .minI => 5
  | .maxI => 6
  | .minN => 7
  | .maxN => 8
  | .inc => 9
  | .dec => 10
  | .addF => 11

/-- The member with a field code; none for a reserved code. -/
def Aop.ofCode : Nat → Option Aop
  | 0 => some .swap
  | 1 => some .add
  | 2 => some .and
  | 3 => some .or
  | 4 => some .xor
  | 5 => some .minI
  | 6 => some .maxI
  | 7 => some .minN
  | 8 => some .maxN
  | 9 => some .inc
  | 10 => some .dec
  | 11 => some .addF
  | _ => none

/-- The field code. Sizes of CAS: aop 4, 5 and 6 (R199, R207). -/
def CasSize.code : CasSize → Nat
  | .c32 => 4
  | .c64 => 5
  | .c128 => 6

/-- The member with a field code; none for a reserved code. -/
def CasSize.ofCode : Nat → Option CasSize
  | 4 => some .c32
  | 5 => some .c64
  | 6 => some .c128
  | _ => none

/-- The field code. Subscription formats (R240); 5 to 7 are reserved. -/
def SubFmt.code : SubFmt → Nat
  | .exact => 0
  | .bf16 => 1
  | .f16 => 2
  | .e4m3 => 3
  | .e5m2 => 4

/-- The member with a field code; none for a reserved code. -/
def SubFmt.ofCode : Nat → Option SubFmt
  | 0 => some .exact
  | 1 => some .bf16
  | 2 => some .f16
  | 3 => some .e4m3
  | 4 => some .e5m2
  | _ => none

/-- The field code. Classes of ROLE (R100, R116); other values are illegal. -/
def RoleClass.code : RoleClass → Nat
  | .loader => 0
  | .storer => 1
  | .computer => 2

/-- The member with a field code; none for a reserved code. -/
def RoleClass.ofCode : Nat → Option RoleClass
  | 0 => some .loader
  | 1 => some .storer
  | 2 => some .computer
  | _ => none

/-- The field code. System registers by number (R374). -/
def SysReg.code : SysReg → Nat
  | .devState => 0
  | .devId => 1
  | .coreId => 2
  | .schedAge => 8
  | .genRaise => 9
  | .preemptReq => 10
  | .lqPush => 11
  | .lqStat => 12
  | .clkCtl => 13
  | .fwState => 14
  | .taskReady => 15
  | .pcvSave => 32
  | .trapAddr => 33
  | .trapTcause => 34
  | .trapTstate => 35
  | .trapCause => 40
  | .trapMask => 41
  | .trapInfo => 42
  | .repSave => 43
  | .trapScr0 => 44
  | .trapScr1 => 45
  | .trapScr2 => 46
  | .trapScr3 => 47
  | .tankInfo => 48
  | .ctxAsid => 64
  | .ctxRoot => 65
  | .trapBase => 66
  | .skmWin => 67
  | .ctxKey => 68
  | .ctxFlags => 69

/-- The member with a field code; none for a reserved code. -/
def SysReg.ofCode : Nat → Option SysReg
  | 0 => some .devState
  | 1 => some .devId
  | 2 => some .coreId
  | 8 => some .schedAge
  | 9 => some .genRaise
  | 10 => some .preemptReq
  | 11 => some .lqPush
  | 12 => some .lqStat
  | 13 => some .clkCtl
  | 14 => some .fwState
  | 15 => some .taskReady
  | 32 => some .pcvSave
  | 33 => some .trapAddr
  | 34 => some .trapTcause
  | 35 => some .trapTstate
  | 40 => some .trapCause
  | 41 => some .trapMask
  | 42 => some .trapInfo
  | 43 => some .repSave
  | 44 => some .trapScr0
  | 45 => some .trapScr1
  | 46 => some .trapScr2
  | 47 => some .trapScr3
  | 48 => some .tankInfo
  | 64 => some .ctxAsid
  | 65 => some .ctxRoot
  | 66 => some .trapBase
  | 67 => some .skmWin
  | 68 => some .ctxKey
  | 69 => some .ctxFlags
  | _ => none

/-- MOV16 (R131). -/
def dec16_00 (w : Nat) : Option Instr :=
  if fld w 15 1 = 0 then some (.mov16 (bv w 10 5) (bv w 5 5))
  else none

/-- ADD16_I32, ADD16_F32 (R131). -/
def dec16_01 (w : Nat) : Option Instr :=
  if fld w 15 1 = 0 then some (.add16I32 (bv w 10 5) (bv w 5 5))
  else if fld w 15 1 = 1 then some (.add16F32 (bv w 10 5) (bv w 5 5))
  else none

/-- SUB16_I32, SUB16_F32 (R131). -/
def dec16_02 (w : Nat) : Option Instr :=
  if fld w 15 1 = 0 then some (.sub16I32 (bv w 10 5) (bv w 5 5))
  else if fld w 15 1 = 1 then some (.sub16F32 (bv w 10 5) (bv w 5 5))
  else none

/-- MUL16_I32, MUL16_F32 (R131). -/
def dec16_03 (w : Nat) : Option Instr :=
  if fld w 15 1 = 0 then some (.mul16I32 (bv w 10 5) (bv w 5 5))
  else if fld w 15 1 = 1 then some (.mul16F32 (bv w 10 5) (bv w 5 5))
  else none

/-- AND16 (R131). -/
def dec16_04 (w : Nat) : Option Instr :=
  if fld w 15 1 = 0 then some (.and16 (bv w 10 5) (bv w 5 5))
  else none

/-- OR16 (R131). -/
def dec16_05 (w : Nat) : Option Instr :=
  if fld w 15 1 = 0 then some (.or16 (bv w 10 5) (bv w 5 5))
  else none

/-- XOR16 (R131). -/
def dec16_06 (w : Nat) : Option Instr :=
  if fld w 15 1 = 0 then some (.xor16 (bv w 10 5) (bv w 5 5))
  else none

/-- SHL16 (R131). -/
def dec16_07 (w : Nat) : Option Instr :=
  if fld w 15 1 = 0 then some (.shl16 (bv w 10 5) (bv w 5 5))
  else none

/-- SHR16_N32, SHR16_I32 (R131). -/
def dec16_08 (w : Nat) : Option Instr :=
  if fld w 15 1 = 0 then some (.shr16N32 (bv w 10 5) (bv w 5 5))
  else if fld w 15 1 = 1 then some (.shr16I32 (bv w 10 5) (bv w 5 5))
  else none

/-- MIN16_I32, MIN16_F32 (R131). -/
def dec16_09 (w : Nat) : Option Instr :=
  if fld w 15 1 = 0 then some (.min16I32 (bv w 10 5) (bv w 5 5))
  else if fld w 15 1 = 1 then some (.min16F32 (bv w 10 5) (bv w 5 5))
  else none

/-- MAX16_I32, MAX16_F32 (R131). -/
def dec16_0a (w : Nat) : Option Instr :=
  if fld w 15 1 = 0 then some (.max16I32 (bv w 10 5) (bv w 5 5))
  else if fld w 15 1 = 1 then some (.max16F32 (bv w 10 5) (bv w 5 5))
  else none

/-- NEG16_I32, NEG16_F32 (R131). -/
def dec16_0b (w : Nat) : Option Instr :=
  if fld w 15 1 = 0 then some (.neg16I32 (bv w 10 5) (bv w 5 5))
  else if fld w 15 1 = 1 then some (.neg16F32 (bv w 10 5) (bv w 5 5))
  else none

/-- NOT16, ABS16_F32 (R131). -/
def dec16_0c (w : Nat) : Option Instr :=
  if fld w 15 1 = 0 then some (.not16 (bv w 10 5) (bv w 5 5))
  else if fld w 15 1 = 1 then some (.abs16F32 (bv w 10 5) (bv w 5 5))
  else none

/-- ADDI5 (R131). -/
def dec16_0d (w : Nat) : Option Instr :=
  if fld w 15 1 = 0 then some (.addi5 (bv w 10 5) (bv w 5 5))
  else none

/-- MOVI5 (R131). -/
def dec16_0e (w : Nat) : Option Instr :=
  if fld w 15 1 = 0 then some (.movi5 (bv w 10 5) (bv w 5 5))
  else none

/-- S2V16 (R131). -/
def dec16_0f (w : Nat) : Option Instr :=
  if fld w 15 1 = 0 then some (.s2v16 (bv w 10 5) (bv w 5 5))
  else none

/-- BRA (R74). -/
def dec32_00 (w : Nat) : Option Instr :=
  some (.bra (bv w 8 24))

/-- BRP (R74). -/
def dec32_01 (w : Nat) : Option Instr :=
  some (.brp (bv w 15 17) (bv w 14 1) (bv w 8 6))

/-- BRS (R74). -/
def dec32_02 (w : Nat) : Option Instr :=
  some (.brs (bv w 15 17) (bv w 14 1) (bv w 8 6))

/-- JMPV (R75). -/
def dec32_03 (w : Nat) : Option Instr :=
  if fld w 8 6 = 0 ∧ fld w 20 6 = 0 ∧ fld w 29 3 = 0 then some (.jmpv (bv w 26 3) (bv w 14 6))
  else none

/-- CALL (R77). -/
def dec32_04 (w : Nat) : Option Instr :=
  some (.call (bv w 8 24))

/-- CALLV (R75). -/
def dec32_05 (w : Nat) : Option Instr :=
  if fld w 8 6 = 0 ∧ fld w 20 6 = 0 ∧ fld w 29 3 = 0 then some (.callv (bv w 26 3) (bv w 14 6))
  else none

/-- RET (R78). -/
def dec32_06 (w : Nat) : Option Instr :=
  if fld w 8 18 = 0 ∧ fld w 29 3 = 0 then some (.ret (bv w 26 3))
  else none

/-- SWITCH (R81). -/
def dec32_07 (w : Nat) : Option Instr :=
  if fld w 14 1 = 0 then some (.switch (bv w 15 17) (bv w 8 6))
  else none

/-- REFUSE (R82). -/
def dec32_08 (w : Nat) : Option Instr :=
  if fld w 8 24 = 1835008 then some (.refuse)
  else none

/-- EXIT (R84). -/
def dec32_09 (w : Nat) : Option Instr :=
  if fld w 8 18 = 0 ∧ fld w 29 3 = 0 then some (.exit (bv w 26 3))
  else none

/-- SPAWN (R106). -/
def dec32_0a (w : Nat) : Option Instr :=
  some (.spawn (bv w 27 5) (bv w 21 6) (bv w 15 6) (bv w 8 7))

/-- LAUNCH (R103). -/
def dec32_0b (w : Nat) : Option Instr :=
  if fld w 8 7 = 0 ∧ fld w 21 6 = 0 then some (.launch (bv w 27 5) (bv w 15 6))
  else none

/-- WAITC_COUNTER, WAITC_HANDLE (R104). -/
def dec32_0c (w : Nat) : Option Instr :=
  if fld w 8 7 = 0 then some (.waitcCounter (bv w 27 5) (bv w 21 6) (bv w 15 6))
  else if fld w 8 7 = 1 ∧ fld w 21 6 = 0 then some (.waitcHandle (bv w 27 5) (bv w 15 6))
  else none

/-- FORK (R109). -/
def dec32_0d (w : Nat) : Option Instr :=
  if fld w 8 7 = 0 ∧ fld w 21 6 = 0 then some (.fork (bv w 27 5) (bv w 15 6))
  else none

/-- JOIN (R108). -/
def dec32_0e (w : Nat) : Option Instr :=
  if fld w 8 19 = 0 then some (.join (bv w 27 5))
  else none

/-- TASKQ (R111). -/
def dec32_0f (w : Nat) : Option Instr :=
  if fld w 8 7 = 0 ∧ fld w 21 6 = 0 then some (.taskq (bv w 27 5) (bv w 15 6))
  else none

/-- TASKEND (R115). -/
def dec32_10 (w : Nat) : Option Instr :=
  if fld w 8 24 = 16252928 then some (.taskend)
  else none

/-- ROLE (R116). -/
def dec32_11 (w : Nat) : Option Instr :=
  if fld w 8 9 = 0 then (RoleClass.ofCode (fld w 17 15)).bind fun imm => some (.role imm)
  else none

/-- YIELD (R83). -/
def dec32_12 (w : Nat) : Option Instr :=
  if fld w 8 18 = 0 ∧ fld w 29 3 = 0 then some (.yield (bv w 26 3))
  else none

/-- ADD (R121). -/
def dec32_14 (w : Nat) : Option Instr :=
  (AddOp.ofCode (fld w 29 3)).bind fun f => some (.add f (bv w 26 3) (bv w 20 6) (bv w 14 6) (bv w 8 6))

/-- MUL (R122). -/
def dec32_15 (w : Nat) : Option Instr :=
  (MulOp.ofCode (fld w 29 3)).bind fun f => some (.mul f (bv w 26 3) (bv w 20 6) (bv w 14 6) (bv w 8 6))

/-- MAD (R122). -/
def dec32_16 (w : Nat) : Option Instr :=
  (MulOp.ofCode (fld w 29 3)).bind fun f => some (.mad f (bv w 26 3) (bv w 20 6) (bv w 14 6) (bv w 8 6))

/-- LOG (R123). -/
def dec32_17 (w : Nat) : Option Instr :=
  (LogOp.ofCode (fld w 29 3)).bind fun f => some (.log f (bv w 26 3) (bv w 20 6) (bv w 14 6) (bv w 8 6))

/-- SHF (R124). -/
def dec32_18 (w : Nat) : Option Instr :=
  (ShfOp.ofCode (fld w 29 3)).bind fun f => some (.shf f (bv w 26 3) (bv w 20 6) (bv w 14 6) (bv w 8 6))

/-- MINMAX (R125). -/
def dec32_19 (w : Nat) : Option Instr :=
  (MinMaxOp.ofCode (fld w 29 3)).bind fun f => some (.minmax f (bv w 26 3) (bv w 20 6) (bv w 14 6) (bv w 8 6))

/-- BIT (R126). -/
def dec32_1a (w : Nat) : Option Instr :=
  if fld w 20 6 = 0 then (BitOp.ofCode (fld w 29 3)).bind fun f => some (.bit f (bv w 26 3) (bv w 14 6) (bv w 8 6))
  else none

/-- BFX (R127). -/
def dec32_1b (w : Nat) : Option Instr :=
  (BfxOp.ofCode (fld w 26 2)).bind fun f => some (.bfx (bv w 28 4) f (bv w 20 6) (bv w 14 6) (bv w 8 6))

/-- BFI (R127). -/
def dec32_1c (w : Nat) : Option Instr :=
  if fld w 26 2 = 0 then some (.bfi (bv w 28 4) (bv w 20 6) (bv w 14 6) (bv w 8 6))
  else none

/-- SEL (R128). -/
def dec32_1d (w : Nat) : Option Instr :=
  some (.sel (bv w 29 3) (bv w 26 3) (bv w 20 6) (bv w 14 6) (bv w 8 6))

/-- OPI (R129). -/
def dec32_1e (w : Nat) : Option Instr :=
  (OpiOp.ofCode (fld w 29 3)).bind fun f => some (.opi f (bv w 20 9) (bv w 14 6) (bv w 8 6))

/-- LIH (R130). -/
def dec32_1f (w : Nat) : Option Instr :=
  some (.lih (bv w 14 18) (bv w 8 6))

/-- CMP (R133). -/
def dec32_20 (w : Nat) : Option Instr :=
  (CmpType.ofCode (fld w 29 3)).bind fun t => (CmpCond.ofCode (fld w 26 3)).bind fun c => some (.cmp t c (bv w 20 6) (bv w 14 6) (bv w 8 6))

/-- PLOG (R134). -/
def dec32_21 (w : Nat) : Option Instr :=
  if fld w 29 3 = 0 then (PlogOp.ofCode (fld w 26 3)).bind fun c => some (.plog c (bv w 20 6) (bv w 14 6) (bv w 8 6))
  else none

/-- PMOV, PSET, P2V, V2P (R135). -/
def dec32_22 (w : Nat) : Option Instr :=
  if fld w 20 12 = 0 then some (.pmov (bv w 14 6) (bv w 8 6))
  else if fld w 14 12 = 0 ∧ fld w 27 5 = 4 then some (.pset (bv w 26 1) (bv w 8 6))
  else if fld w 20 12 = 1024 then some (.p2v (bv w 14 6) (bv w 8 6))
  else if fld w 20 12 = 1536 then some (.v2p (bv w 14 6) (bv w 8 6))
  else none

/-- SHFL (R137). -/
def dec32_23 (w : Nat) : Option Instr :=
  (ShflOp.ofCode (fld w 26 2)).bind fun f => some (.shfl (bv w 28 4) f (bv w 20 6) (bv w 14 6) (bv w 8 6))

/-- VOTE (R138). -/
def dec32_24 (w : Nat) : Option Instr :=
  if fld w 20 9 = 0 then (VoteOp.ofCode (fld w 29 3)).bind fun t => some (.vote t (bv w 14 6) (bv w 8 6))
  else none

/-- REDX (R139). -/
def dec32_25 (w : Nat) : Option Instr :=
  (RedxScope.ofCode (fld w 26 2)).bind fun f => (RedxOp.ofCode (fld w 20 6)).bind fun o => some (.redx (bv w 28 4) f o (bv w 14 6) (bv w 8 6))

/-- S2V (R140). -/
def dec32_26 (w : Nat) : Option Instr :=
  if fld w 28 1 = 0 then (S2vOp.ofCode (fld w 29 3)).bind fun f => some (.s2v f (bv w 23 5) (bv w 14 9) (bv w 8 6))
  else none

/-- V2S (R141). -/
def dec32_27 (w : Nat) : Option Instr :=
  if fld w 28 1 = 0 then (V2sOp.ofCode (fld w 29 3)).bind fun f => some (.v2s f (bv w 23 5) (bv w 14 9) (bv w 8 6))
  else none

/-- SOP (R142). -/
def dec32_28 (w : Nat) : Option Instr :=
  (SopOp.ofCode (fld w 26 6)).bind fun f => some (.sop f (bv w 17 9) (bv w 8 9))

/-- SLI (R143). -/
def dec32_29 (w : Nat) : Option Instr :=
  some (.sli (bv w 17 15) (bv w 8 9))

/-- SADDI (R143). -/
def dec32_2a (w : Nat) : Option Instr :=
  some (.saddi (bv w 17 15) (bv w 8 9))

/-- SLIH (R143). -/
def dec32_2b (w : Nat) : Option Instr :=
  some (.slih (bv w 17 15) (bv w 8 9))

/-- XSET_IMM, XSET_SCALAR (R144). -/
def dec32_2c (w : Nat) : Option Instr :=
  if fld w 10 7 = 0 then some (.xsetImm (bv w 17 15) (bv w 8 2))
  else if fld w 10 7 = 1 ∧ fld w 26 6 = 0 then some (.xsetScalar (bv w 17 9) (bv w 8 2))
  else none

/-- XADD (R144). -/
def dec32_2d (w : Nat) : Option Instr :=
  if fld w 10 7 = 0 then some (.xadd (bv w 17 15) (bv w 8 2))
  else none

/-- REP (R43). -/
def dec32_2e (w : Nat) : Option Instr :=
  if fld w 20 12 = 0 then some (.rep (bv w 18 2) (bv w 14 4) (bv w 8 6))
  else none

/-- FAR (R161). -/
def dec32_30 (w : Nat) : Option Instr :=
  (FarOp.ofCode (fld w 29 3)).bind fun f => some (.far f (bv w 26 3) (bv w 20 6) (bv w 14 6) (bv w 8 6))

/-- FFMA (R162). -/
def dec32_31 (w : Nat) : Option Instr :=
  (FfmaOp.ofCode (fld w 29 3)).bind fun f => some (.ffma f (bv w 26 3) (bv w 20 6) (bv w 14 6) (bv w 8 6))

/-- FUN (R163). -/
def dec32_32 (w : Nat) : Option Instr :=
  if fld w 20 6 = 0 then (FunOp.ofCode (fld w 29 3)).bind fun f => some (.fun f (bv w 26 3) (bv w 14 6) (bv w 8 6))
  else none

/-- SFU (R164). -/
def dec32_33 (w : Nat) : Option Instr :=
  if fld w 26 2 = 0 then (SfuOp.ofCode (fld w 20 6)).bind fun f => some (.sfu (bv w 28 4) f (bv w 14 6) (bv w 8 6))
  else none

/-- CVT (R166). -/
def dec32_34 (w : Nat) : Option Instr :=
  if fld w 23 3 = 0 then (CvtOp.ofCode (fld w 26 2)).bind fun f => some (.cvt (bv w 28 4) f (bv w 20 3) (bv w 14 6) (bv w 8 6))
  else none

/-- ICVT (R167). -/
def dec32_35 (w : Nat) : Option Instr :=
  (Rnd.ofCode (fld w 26 2)).bind fun r => (IcvtOp.ofCode (fld w 20 6)).bind fun f => some (.icvt (bv w 28 4) r f (bv w 14 6) (bv w 8 6))

/-- PACK (R168). -/
def dec32_36 (w : Nat) : Option Instr :=
  (PackOp.ofCode (fld w 29 3)).bind fun f => some (.pack f (bv w 26 3) (bv w 20 6) (bv w 14 6) (bv w 8 6))

/-- UNPK (R169). -/
def dec32_37 (w : Nat) : Option Instr :=
  (UnpkOp.ofCode (fld w 26 2)).bind fun f => some (.unpk (bv w 28 4) f (bv w 23 3) (bv w 20 3) (bv w 14 6) (bv w 8 6))

/-- HOP (R170). -/
def dec32_38 (w : Nat) : Option Instr :=
  (HopOp.ofCode (fld w 29 3)).bind fun f => some (.hop f (bv w 26 3) (bv w 20 6) (bv w 14 6) (bv w 8 6))

/-- RENC (R171). -/
def dec32_39 (w : Nat) : Option Instr :=
  if fld w 20 6 = 0 then (RencOp.ofCode (fld w 26 2)).bind fun f => some (.renc (bv w 28 4) f (bv w 14 6) (bv w 8 6))
  else none

/-- RDEC (R172). -/
def dec32_3a (w : Nat) : Option Instr :=
  if fld w 26 2 = 0 then (RdecOp.ofCode (fld w 20 6)).bind fun f => some (.rdec (bv w 28 4) f (bv w 14 6) (bv w 8 6))
  else none

/-- FCLS (R173). -/
def dec32_3b (w : Nat) : Option Instr :=
  (FclsType.ofCode (fld w 29 3)).bind fun t => some (.fcls t (bv w 20 9) (bv w 14 6) (bv w 8 6))

/-- LD (R202). -/
def dec32_3c (w : Nat) : Option Instr :=
  (MSize.ofCode (fld w 25 3)).bind fun z => some (.ld (bv w 28 4) z (bv w 20 5) (bv w 14 6) (bv w 8 6))

/-- ST (R203). -/
def dec32_3d (w : Nat) : Option Instr :=
  if fld w 28 4 = 0 then (MSize.ofCode (fld w 25 3)).bind fun z => some (.st z (bv w 20 5) (bv w 14 6) (bv w 8 6))
  else none

/-- LDA (R202). -/
def dec32_3e (w : Nat) : Option Instr :=
  if fld w 28 2 = 0 then (Scope.ofCode (fld w 30 2)).bind fun c => (MSize.ofCode (fld w 25 3)).bind fun z => some (.lda c z (bv w 20 5) (bv w 14 6) (bv w 8 6))
  else none

/-- STL (R203). -/
def dec32_3f (w : Nat) : Option Instr :=
  if fld w 28 2 = 0 then (Scope.ofCode (fld w 30 2)).bind fun c => (MSize.ofCode (fld w 25 3)).bind fun z => some (.stl c z (bv w 20 5) (bv w 14 6) (bv w 8 6))
  else none

/-- LDS (R201). -/
def dec32_40 (w : Nat) : Option Instr :=
  (MSize.ofCode (fld w 25 3)).bind fun z => some (.lds (bv w 28 4) z (bv w 20 5) (bv w 14 6) (bv w 8 6))

/-- STS (R201). -/
def dec32_41 (w : Nat) : Option Instr :=
  if fld w 28 4 = 0 then (MSize.ofCode (fld w 25 3)).bind fun z => some (.sts z (bv w 20 5) (bv w 14 6) (bv w 8 6))
  else none

/-- ATOM (R204). -/
def dec32_42 (w : Nat) : Option Instr :=
  (Order.ofCode (fld w 29 2)).bind fun r => (Aop.ofCode (fld w 25 4)).bind fun p => some (.atom (bv w 31 1) r p (bv w 20 5) (bv w 14 6) (bv w 8 6))

/-- CAS (R207). -/
def dec32_43 (w : Nat) : Option Instr :=
  if fld w 31 1 = 0 then (Order.ofCode (fld w 29 2)).bind fun r => (CasSize.ofCode (fld w 25 4)).bind fun p => some (.cas r p (bv w 20 5) (bv w 14 6) (bv w 8 6))
  else none

/-- FENCE, FENCE_ACQ, FENCE_REL (R233). -/
def dec32_44 (w : Nat) : Option Instr :=
  if fld w 8 9 = 0 ∧ fld w 19 13 = 0 then (Scope.ofCode (fld w 17 2)).bind fun c => some (.fence c)
  else if fld w 8 9 = 0 ∧ fld w 19 13 = 1 then (Scope.ofCode (fld w 17 2)).bind fun c => some (.fenceAcq c)
  else if fld w 8 9 = 0 ∧ fld w 19 13 = 2 then (Scope.ofCode (fld w 17 2)).bind fun c => some (.fenceRel c)
  else none

/-- BAR (R236). -/
def dec32_45 (w : Nat) : Option Instr :=
  if fld w 27 5 = 0 then some (.bar (bv w 21 6) (bv w 17 4) (bv w 8 9))
  else none

/-- BBAR_ARM, BBAR_WAIT, BBAR_TAKE (R239). -/
def dec32_46 (w : Nat) : Option Instr :=
  if fld w 8 7 = 0 then some (.bbarArm (bv w 27 5) (bv w 21 6) (bv w 15 6))
  else if fld w 8 7 = 8 ∧ fld w 21 6 = 0 then some (.bbarWait (bv w 27 5) (bv w 15 6))
  else if fld w 8 7 = 16 ∧ fld w 21 6 = 0 then some (.bbarTake (bv w 27 5) (bv w 15 6))
  else none

/-- PRES (R208). -/
def dec32_47 (w : Nat) : Option Instr :=
  if fld w 25 3 = 4 then some (.pres (bv w 28 4) (bv w 20 5) (bv w 14 6) (bv w 8 6))
  else none

/-- MON (R209). -/
def dec32_48 (w : Nat) : Option Instr :=
  if fld w 25 3 = 4 then some (.mon (bv w 28 4) (bv w 20 5) (bv w 14 6) (bv w 8 6))
  else none

/-- MWAIT (R211). -/
def dec32_49 (w : Nat) : Option Instr :=
  some (.mwait (bv w 17 15) (bv w 8 9))

/-- SUBS (R260). -/
def dec32_4c (w : Nat) : Option Instr :=
  if fld w 12 3 = 0 then (SubFmt.ofCode (fld w 8 3)).bind fun f => some (.subs (bv w 27 5) (bv w 21 6) (bv w 15 6) (bv w 11 1) f)
  else none

/-- UNSUB (R261). -/
def dec32_4d (w : Nat) : Option Instr :=
  if fld w 8 7 = 0 ∧ fld w 21 6 = 0 then some (.unsub (bv w 27 5) (bv w 15 6))
  else none

/-- SUBUP (R262). -/
def dec32_4e (w : Nat) : Option Instr :=
  if fld w 11 4 = 0 ∧ fld w 21 6 = 0 then (SubFmt.ofCode (fld w 8 3)).bind fun f => some (.subup (bv w 27 5) (bv w 15 6) f)
  else none

/-- SUBQ_LINE, SUBQ_SLOT, SUBQ_CNT (R263). -/
def dec32_4f (w : Nat) : Option Instr :=
  if fld w 8 7 = 0 ∧ fld w 21 6 = 0 then some (.subqLine (bv w 27 5) (bv w 15 6))
  else if fld w 8 7 = 1 ∧ fld w 21 6 = 0 then some (.subqSlot (bv w 27 5) (bv w 15 6))
  else if fld w 8 19 = 2 then some (.subqCnt (bv w 27 5))
  else none

/-- CVSET, CVSET_LIVE, CVSET_IMM (R279). -/
def dec32_50 (w : Nat) : Option Instr :=
  if fld w 12 5 = 0 ∧ fld w 26 6 = 0 then some (.cvset (bv w 17 9) (bv w 8 4))
  else if fld w 12 20 = 16384 then some (.cvsetLive (bv w 8 4))
  else if fld w 12 5 = 0 ∧ fld w 25 7 = 4 then some (.cvsetImm (bv w 17 8) (bv w 8 4))
  else none

/-- MMA, MMA_SET (R280). -/
def dec32_51 (w : Nat) : Option Instr :=
  if fld w 24 8 = 0 then some (.mma (bv w 20 4) (bv w 17 3) (bv w 14 3) (bv w 11 3) (bv w 8 3))
  else if fld w 24 8 = 16 then some (.mmaSet (bv w 20 4) (bv w 17 3) (bv w 14 3) (bv w 11 3) (bv w 8 3))
  else none

/-- MMR, MMR_SET (R281). -/
def dec32_52 (w : Nat) : Option Instr :=
  if fld w 24 8 = 0 then some (.mmr (bv w 20 4) (bv w 17 3) (bv w 14 3) (bv w 11 3) (bv w 8 3))
  else if fld w 24 8 = 16 then some (.mmrSet (bv w 20 4) (bv w 17 3) (bv w 14 3) (bv w 11 3) (bv w 8 3))
  else none

/-- MZERO (R283). -/
def dec32_53 (w : Nat) : Option Instr :=
  if fld w 11 21 = 0 then some (.mzero (bv w 8 3))
  else none

/-- MEPI (R284). -/
def dec32_54 (w : Nat) : Option Instr :=
  if fld w 14 3 = 0 ∧ fld w 20 4 = 0 ∧ fld w 28 4 = 0 then some (.mepi (bv w 24 4) (bv w 17 3) (bv w 11 3) (bv w 8 3))
  else none

/-- MST_CONV, MST_RAW (R285). -/
def dec32_55 (w : Nat) : Option Instr :=
  if fld w 25 7 = 0 then some (.mstConv (bv w 20 5) (bv w 14 6) (bv w 11 3) (bv w 8 3))
  else if fld w 11 3 = 0 ∧ fld w 25 7 = 1 then some (.mstRaw (bv w 20 5) (bv w 14 6) (bv w 8 3))
  else none

/-- MLD_CONV, MLD_RAW_F32, MLD_RAW_RES (R287). -/
def dec32_56 (w : Nat) : Option Instr :=
  if fld w 25 7 = 0 then some (.mldConv (bv w 20 5) (bv w 14 6) (bv w 11 3) (bv w 8 3))
  else if fld w 11 3 = 0 ∧ fld w 25 7 = 1 then some (.mldRawF32 (bv w 20 5) (bv w 14 6) (bv w 8 3))
  else if fld w 11 3 = 0 ∧ fld w 25 7 = 2 then some (.mldRawRes (bv w 20 5) (bv w 14 6) (bv w 8 3))
  else none

/-- MOVF_GET, MOVF_PUT_F32, MOVF_PUT_I32 (R288). -/
def dec32_57 (w : Nat) : Option Instr :=
  if fld w 14 6 = 0 ∧ fld w 23 5 = 0 then some (.movfGet (bv w 28 4) (bv w 20 3) (bv w 8 6))
  else if fld w 8 6 = 0 ∧ fld w 23 5 = 8 then some (.movfPutF32 (bv w 28 4) (bv w 20 3) (bv w 14 6))
  else if fld w 8 6 = 0 ∧ fld w 23 5 = 16 then some (.movfPutI32 (bv w 28 4) (bv w 20 3) (bv w 14 6))
  else none

/-- COPY1, COPY2, COPYT, FILL, COPYR, COPYH (R303). -/
def dec32_58 (w : Nat) : Option Instr :=
  if fld w 11 3 = 1 then some (.copy1 (bv w 27 5) (bv w 21 6) (bv w 15 6) (bv w 14 1) (bv w 8 3))
  else if fld w 11 3 = 2 then some (.copy2 (bv w 27 5) (bv w 21 6) (bv w 15 6) (bv w 14 1) (bv w 8 3))
  else if fld w 11 3 = 3 then some (.copyt (bv w 27 5) (bv w 21 6) (bv w 15 6) (bv w 14 1) (bv w 8 3))
  else if fld w 11 3 = 4 ∧ fld w 21 6 = 0 then some (.fill (bv w 27 5) (bv w 21 6) (bv w 15 6) (bv w 14 1) (bv w 8 3))
  else if fld w 11 3 = 5 then some (.copyr (bv w 27 5) (bv w 21 6) (bv w 15 6) (bv w 14 1) (bv w 8 3))
  else if fld w 11 3 = 6 then some (.copyh (bv w 27 5) (bv w 21 6) (bv w 15 6) (bv w 14 1) (bv w 8 3))
  else none

/-- GATHER, SCATTER, SCATADD, GATHERQ (R305). -/
def dec32_59 (w : Nat) : Option Instr :=
  if fld w 11 3 = 1 then some (.gather (bv w 27 5) (bv w 21 6) (bv w 15 6) (bv w 14 1) (bv w 8 3))
  else if fld w 11 3 = 2 then some (.scatter (bv w 27 5) (bv w 21 6) (bv w 15 6) (bv w 14 1) (bv w 8 3))
  else if fld w 11 3 = 3 then some (.scatadd (bv w 27 5) (bv w 21 6) (bv w 15 6) (bv w 14 1) (bv w 8 3))
  else if fld w 11 3 = 4 ∧ fld w 15 6 = 0 then some (.gatherq (bv w 27 5) (bv w 21 6) (bv w 14 1) (bv w 8 3))
  else none

/-- ALLRED, REDSCAT, ALLGATH, BARRIER (R308). -/
def dec32_5a (w : Nat) : Option Instr :=
  if fld w 11 3 = 1 then some (.allred (bv w 27 5) (bv w 21 6) (bv w 15 6) (bv w 14 1) (bv w 8 3))
  else if fld w 11 3 = 2 then some (.redscat (bv w 27 5) (bv w 21 6) (bv w 15 6) (bv w 14 1) (bv w 8 3))
  else if fld w 11 3 = 3 then some (.allgath (bv w 27 5) (bv w 21 6) (bv w 15 6) (bv w 14 1) (bv w 8 3))
  else if fld w 11 3 = 4 ∧ fld w 21 6 = 0 then some (.barrier (bv w 27 5) (bv w 15 6) (bv w 14 1) (bv w 8 3))
  else none

/-- XLN_STAT, EASE, WAKE (R420). -/
def dec32_5b (w : Nat) : Option Instr :=
  if fld w 8 7 = 0 ∧ fld w 21 6 = 0 then some (.xlnStat (bv w 27 5) (bv w 15 6))
  else if fld w 11 4 = 1 then some (.ease (bv w 27 5) (bv w 21 6) (bv w 15 6) (bv w 8 3))
  else if fld w 11 4 = 2 then some (.wake (bv w 27 5) (bv w 21 6) (bv w 15 6) (bv w 8 3))
  else none

/-- QPUSH, QPUSH_S (R295). -/
def dec32_5c (w : Nat) : Option Instr :=
  if fld w 12 5 = 0 ∧ fld w 26 6 = 0 then some (.qpush (bv w 17 9) (bv w 8 4))
  else if fld w 12 5 = 0 ∧ fld w 26 6 = 1 then some (.qpushS (bv w 17 9) (bv w 8 4))
  else none

/-- QPOP (R295). -/
def dec32_5d (w : Nat) : Option Instr :=
  if fld w 21 11 = 0 then some (.qpop (bv w 17 4) (bv w 8 9))
  else none

/-- TLWAIT (R299). -/
def dec32_5e (w : Nat) : Option Instr :=
  if fld w 11 4 = 0 ∧ fld w 21 6 = 0 then some (.tlwait (bv w 27 5) (bv w 15 6) (bv w 8 3))
  else none

/-- TLRD_ST, TLRD_ISSUED, TLRD_DONE, TLRD_FAILS (R299). -/
def dec32_5f (w : Nat) : Option Instr :=
  if fld w 11 4 = 0 ∧ fld w 21 6 = 0 then some (.tlrdSt (bv w 27 5) (bv w 15 6) (bv w 8 3))
  else if fld w 11 16 = 1 then some (.tlrdIssued (bv w 27 5) (bv w 8 3))
  else if fld w 11 16 = 2 then some (.tlrdDone (bv w 27 5) (bv w 8 3))
  else if fld w 11 16 = 3 then some (.tlrdFails (bv w 27 5) (bv w 8 3))
  else none

/-- SK_STORE, SK_ADD, SK_CLAIM, SK_SWAP, SK_MAX, SK_GEN, SK_LAUNCH, SK_NOTE (R334). -/
def dec32_60 (w : Nat) : Option Instr :=
  if fld w 8 4 = 1 ∧ fld w 14 1 = 0 then some (.skStore (bv w 27 5) (bv w 21 6) (bv w 15 6) (bv w 13 1) (bv w 12 1))
  else if fld w 8 4 = 2 ∧ fld w 14 1 = 0 then some (.skAdd (bv w 27 5) (bv w 21 6) (bv w 15 6) (bv w 13 1) (bv w 12 1))
  else if fld w 8 4 = 3 ∧ fld w 14 1 = 0 then some (.skClaim (bv w 27 5) (bv w 21 6) (bv w 15 6) (bv w 13 1) (bv w 12 1))
  else if fld w 8 4 = 4 ∧ fld w 14 1 = 0 then some (.skSwap (bv w 27 5) (bv w 21 6) (bv w 15 6) (bv w 13 1) (bv w 12 1))
  else if fld w 8 4 = 5 ∧ fld w 14 1 = 0 then some (.skMax (bv w 27 5) (bv w 21 6) (bv w 15 6) (bv w 13 1) (bv w 12 1))
  else if fld w 8 5 = 8 ∧ fld w 14 7 = 0 then some (.skGen (bv w 27 5) (bv w 21 6) (bv w 13 1))
  else if fld w 8 5 = 9 ∧ fld w 14 7 = 0 then some (.skLaunch (bv w 27 5) (bv w 21 6) (bv w 13 1))
  else if fld w 8 5 = 10 ∧ fld w 14 7 = 0 then some (.skNote (bv w 27 5) (bv w 21 6) (bv w 13 1))
  else none

/-- WSTRK, WSTRK_NOTE (R336). -/
def dec32_61 (w : Nat) : Option Instr :=
  if fld w 8 7 = 0 ∧ fld w 21 6 = 0 then some (.wstrk (bv w 27 5) (bv w 15 6))
  else if fld w 8 7 = 8 then some (.wstrkNote (bv w 27 5) (bv w 21 6) (bv w 15 6))
  else none

/-- STRKN, STRKN_NOTE, STRKN_STAT (R337). -/
def dec32_62 (w : Nat) : Option Instr :=
  if fld w 8 19 = 0 then some (.strkn (bv w 27 5))
  else if fld w 8 7 = 8 ∧ fld w 21 6 = 0 then some (.strknNote (bv w 27 5) (bv w 15 6))
  else if fld w 8 19 = 16 then some (.strknStat (bv w 27 5))
  else none

/-- APXE (R365). -/
def dec32_64 (w : Nat) : Option Instr :=
  if fld w 12 20 = 1015808 then some (.apxe (bv w 8 4))
  else none

/-- APXL (R366). -/
def dec32_65 (w : Nat) : Option Instr :=
  if fld w 12 20 = 1015808 then some (.apxl (bv w 8 4))
  else none

/-- APXI, APXI_ALL (R367). -/
def dec32_66 (w : Nat) : Option Instr :=
  if fld w 12 15 = 0 then some (.apxi (bv w 27 5) (bv w 8 4))
  else if fld w 8 19 = 16 then some (.apxiAll (bv w 27 5))
  else none

/-- APXQ_STAT, APXQ_COUNT, APXQ_ERR, APXQ_MISC (R368). -/
def dec32_67 (w : Nat) : Option Instr :=
  if fld w 12 15 = 0 then some (.apxqStat (bv w 27 5) (bv w 8 4))
  else if fld w 12 15 = 1 then some (.apxqCount (bv w 27 5) (bv w 8 4))
  else if fld w 12 15 = 2 then some (.apxqErr (bv w 27 5) (bv w 8 4))
  else if fld w 12 15 = 3 then some (.apxqMisc (bv w 27 5) (bv w 8 4))
  else none

/-- APXC_RETIRE, APXC_RESET, APXC_SHIFT, APXC_DET, APXC_LOADW, APXC_DUMPW (R369). -/
def dec32_68 (w : Nat) : Option Instr :=
  if fld w 12 15 = 0 then some (.apxcRetire (bv w 27 5) (bv w 8 4))
  else if fld w 12 15 = 1 then some (.apxcReset (bv w 27 5) (bv w 8 4))
  else if fld w 12 3 = 2 ∧ fld w 21 6 = 0 then some (.apxcShift (bv w 27 5) (bv w 15 6) (bv w 8 4))
  else if fld w 12 3 = 3 ∧ fld w 21 6 = 0 then some (.apxcDet (bv w 27 5) (bv w 15 6) (bv w 8 4))
  else if fld w 12 3 = 4 ∧ fld w 21 6 = 0 then some (.apxcLoadw (bv w 27 5) (bv w 15 6) (bv w 8 4))
  else if fld w 12 3 = 5 ∧ fld w 21 6 = 0 then some (.apxcDumpw (bv w 27 5) (bv w 15 6) (bv w 8 4))
  else none

/-- APXS_SAVE, APXS_LOAD, APXS_DROP (R370). -/
def dec32_69 (w : Nat) : Option Instr :=
  if fld w 12 3 = 0 ∧ fld w 21 6 = 0 then some (.apxsSave (bv w 27 5) (bv w 15 6) (bv w 8 4))
  else if fld w 12 3 = 1 ∧ fld w 21 6 = 0 then some (.apxsLoad (bv w 27 5) (bv w 15 6) (bv w 8 4))
  else if fld w 12 15 = 2 then some (.apxsDrop (bv w 27 5) (bv w 8 4))
  else none

/-- TRAP (R382). -/
def dec32_6a (w : Nat) : Option Instr :=
  if fld w 8 9 = 0 then some (.trap (bv w 17 15))
  else none

/-- RETT (R381). -/
def dec32_6b (w : Nat) : Option Instr :=
  if fld w 8 24 = 1835008 then some (.rett)
  else none

/-- GSR, GSR_V (R377). -/
def dec32_6c (w : Nat) : Option Instr :=
  if fld w 29 3 = 0 then (SysReg.ofCode (fld w 17 12)).bind fun r => some (.gsr r (bv w 8 9))
  else if fld w 14 3 = 0 ∧ fld w 29 3 = 1 then (SysReg.ofCode (fld w 17 12)).bind fun r => some (.gsrV r (bv w 8 6))
  else none

/-- SSR, SSR_V (R377). -/
def dec32_6d (w : Nat) : Option Instr :=
  if fld w 29 3 = 0 then (SysReg.ofCode (fld w 17 12)).bind fun r => some (.ssr r (bv w 8 9))
  else if fld w 14 3 = 0 ∧ fld w 29 3 = 1 then (SysReg.ofCode (fld w 17 12)).bind fun r => some (.ssrV r (bv w 8 6))
  else none

/-- SVCALL (R387). -/
def dec32_6e (w : Nat) : Option Instr :=
  some (.svcall (bv w 27 5) (bv w 21 6) (bv w 15 6) (bv w 8 7))

/-- SVWAIT (R388). -/
def dec32_6f (w : Nat) : Option Instr :=
  if fld w 8 7 = 0 ∧ fld w 21 6 = 0 then some (.svwait (bv w 27 5) (bv w 15 6))
  else none

/-- TKSV (R395). -/
def dec32_70 (w : Nat) : Option Instr :=
  if fld w 11 4 = 0 ∧ fld w 21 6 = 0 then some (.tksv (bv w 27 5) (bv w 15 6) (bv w 8 3))
  else none

/-- TKLD (R395). -/
def dec32_71 (w : Nat) : Option Instr :=
  if fld w 11 4 = 0 ∧ fld w 21 6 = 0 then some (.tkld (bv w 27 5) (bv w 15 6) (bv w 8 3))
  else none

/-- CTXSV_CREW, CTXSV_TILES, CTXSV_SQUAD (R392). -/
def dec32_72 (w : Nat) : Option Instr :=
  if fld w 8 7 = 0 then some (.ctxsvCrew (bv w 27 5) (bv w 21 6) (bv w 15 6))
  else if fld w 8 7 = 8 then some (.ctxsvTiles (bv w 27 5) (bv w 21 6) (bv w 15 6))
  else if fld w 8 7 = 16 then some (.ctxsvSquad (bv w 27 5) (bv w 21 6) (bv w 15 6))
  else none

/-- CTXLD_CREW, CTXLD_TILES, CTXLD_SQUAD (R394). -/
def dec32_73 (w : Nat) : Option Instr :=
  if fld w 8 7 = 0 then some (.ctxldCrew (bv w 27 5) (bv w 21 6) (bv w 15 6))
  else if fld w 8 7 = 8 then some (.ctxldTiles (bv w 27 5) (bv w 21 6) (bv w 15 6))
  else if fld w 8 7 = 16 ∧ fld w 21 6 = 0 then some (.ctxldSquad (bv w 27 5) (bv w 15 6))
  else none

/-- HALT (R385). -/
def dec32_74 (w : Nat) : Option Instr :=
  if fld w 8 9 = 0 then some (.halt (bv w 17 15))
  else none

/-- CREND, CREND_S (R384). -/
def dec32_75 (w : Nat) : Option Instr :=
  if fld w 8 9 = 0 ∧ fld w 31 1 = 0 then some (.crend (bv w 17 14))
  else if fld w 17 15 = 16384 then some (.crendS (bv w 8 9))
  else none

/-- CYC, CYC_TIME (R397). -/
def dec32_76 (w : Nat) : Option Instr :=
  if fld w 17 15 = 0 then some (.cyc (bv w 8 9))
  else if fld w 17 15 = 1 then some (.cycTime (bv w 8 9))
  else none

/-- The 16-bit form (R30) by op4; the word 0x0000 is refused by WellFormed. -/
def raw16 (w : Nat) : Option Instr :=
  match fld w 1 4 with
  | 0 => dec16_00 w
  | 1 => dec16_01 w
  | 2 => dec16_02 w
  | 3 => dec16_03 w
  | 4 => dec16_04 w
  | 5 => dec16_05 w
  | 6 => dec16_06 w
  | 7 => dec16_07 w
  | 8 => dec16_08 w
  | 9 => dec16_09 w
  | 10 => dec16_0a w
  | 11 => dec16_0b w
  | 12 => dec16_0c w
  | 13 => dec16_0d w
  | 14 => dec16_0e w
  | 15 => dec16_0f w
  | _ => none

/-- The 32-bit form by major (R47). -/
def raw32 (w : Nat) : Option Instr :=
  match fld w 1 7 with
  | 0 => dec32_00 w
  | 1 => dec32_01 w
  | 2 => dec32_02 w
  | 3 => dec32_03 w
  | 4 => dec32_04 w
  | 5 => dec32_05 w
  | 6 => dec32_06 w
  | 7 => dec32_07 w
  | 8 => dec32_08 w
  | 9 => dec32_09 w
  | 10 => dec32_0a w
  | 11 => dec32_0b w
  | 12 => dec32_0c w
  | 13 => dec32_0d w
  | 14 => dec32_0e w
  | 15 => dec32_0f w
  | 16 => dec32_10 w
  | 17 => dec32_11 w
  | 18 => dec32_12 w
  | 20 => dec32_14 w
  | 21 => dec32_15 w
  | 22 => dec32_16 w
  | 23 => dec32_17 w
  | 24 => dec32_18 w
  | 25 => dec32_19 w
  | 26 => dec32_1a w
  | 27 => dec32_1b w
  | 28 => dec32_1c w
  | 29 => dec32_1d w
  | 30 => dec32_1e w
  | 31 => dec32_1f w
  | 32 => dec32_20 w
  | 33 => dec32_21 w
  | 34 => dec32_22 w
  | 35 => dec32_23 w
  | 36 => dec32_24 w
  | 37 => dec32_25 w
  | 38 => dec32_26 w
  | 39 => dec32_27 w
  | 40 => dec32_28 w
  | 41 => dec32_29 w
  | 42 => dec32_2a w
  | 43 => dec32_2b w
  | 44 => dec32_2c w
  | 45 => dec32_2d w
  | 46 => dec32_2e w
  | 48 => dec32_30 w
  | 49 => dec32_31 w
  | 50 => dec32_32 w
  | 51 => dec32_33 w
  | 52 => dec32_34 w
  | 53 => dec32_35 w
  | 54 => dec32_36 w
  | 55 => dec32_37 w
  | 56 => dec32_38 w
  | 57 => dec32_39 w
  | 58 => dec32_3a w
  | 59 => dec32_3b w
  | 60 => dec32_3c w
  | 61 => dec32_3d w
  | 62 => dec32_3e w
  | 63 => dec32_3f w
  | 64 => dec32_40 w
  | 65 => dec32_41 w
  | 66 => dec32_42 w
  | 67 => dec32_43 w
  | 68 => dec32_44 w
  | 69 => dec32_45 w
  | 70 => dec32_46 w
  | 71 => dec32_47 w
  | 72 => dec32_48 w
  | 73 => dec32_49 w
  | 76 => dec32_4c w
  | 77 => dec32_4d w
  | 78 => dec32_4e w
  | 79 => dec32_4f w
  | 80 => dec32_50 w
  | 81 => dec32_51 w
  | 82 => dec32_52 w
  | 83 => dec32_53 w
  | 84 => dec32_54 w
  | 85 => dec32_55 w
  | 86 => dec32_56 w
  | 87 => dec32_57 w
  | 88 => dec32_58 w
  | 89 => dec32_59 w
  | 90 => dec32_5a w
  | 91 => dec32_5b w
  | 92 => dec32_5c w
  | 93 => dec32_5d w
  | 94 => dec32_5e w
  | 95 => dec32_5f w
  | 96 => dec32_60 w
  | 97 => dec32_61 w
  | 98 => dec32_62 w
  | 100 => dec32_64 w
  | 101 => dec32_65 w
  | 102 => dec32_66 w
  | 103 => dec32_67 w
  | 104 => dec32_68 w
  | 105 => dec32_69 w
  | 106 => dec32_6a w
  | 107 => dec32_6b w
  | 108 => dec32_6c w
  | 109 => dec32_6d w
  | 110 => dec32_6e w
  | 111 => dec32_6f w
  | 112 => dec32_70 w
  | 113 => dec32_71 w
  | 114 => dec32_72 w
  | 115 => dec32_73 w
  | 116 => dec32_74 w
  | 117 => dec32_75 w
  | 118 => dec32_76 w
  | _ => none

/-- Decode of a 16-bit word (R27, R30). -/
def decode16 (w : Nat) : Option Instr := (raw16 w).filter Instr.wellFormed

/-- Decode of a 32-bit word (R27, R31). -/
def decode32 (w : Nat) : Option Instr := (raw32 w).filter Instr.wellFormed

/-- Decode of the halfwords at an address: bit 0 of the first decides the length (R26). -/
def decodeHalves (h0 h1 : Nat) : Option (Instr × Nat) :=
  if h0 % 2 = 0 then (decode16 h0).map (·, 2) else (decode32 (h0 + 65536 * h1)).map (·, 4)

/-- Decode of a byte stream, with the rest of it (R2, R26). -/
def decode : List Byte → Option (Instr × List Byte)
  | a :: b :: rest =>
    if (a.toNat + 256 * b.toNat) % 2 = 0 then (decode16 (a.toNat + 256 * b.toNat)).map (·, rest)
    else
      match rest with
      | c :: d :: rest => (decode32 (a.toNat + 256 * b.toNat + 65536 * (c.toNat + 256 * d.toNat))).map (·, rest)
      | _ => none
  | _ => none

/-- Byte k of a word laid out little-endian (R2). -/
def byteAt (w k : Nat) : Byte := BitVec.ofNat 8 (w / 256 ^ k)

/-- The instruction the decoder reads from bits numbered as the opcode table numbers them, little-endian, zeros above nbits. -/
def decodeTableWord (nbits w : Nat) : Option Instr :=
  (decode [byteAt (w % 2 ^ nbits) 0, byteAt (w % 2 ^ nbits) 1, byteAt (w % 2 ^ nbits) 2, byteAt (w % 2 ^ nbits) 3]).map Prod.fst

/-- Length of an instruction in bytes (R26); 0 for an event. -/
def Instr.length : Instr → Nat
  | .bra _ => 4
  | .brp _ _ _ => 4
  | .brs _ _ _ => 4
  | .jmpv _ _ => 4
  | .call _ => 4
  | .callv _ _ => 4
  | .ret _ => 4
  | .switch _ _ => 4
  | .refuse => 4
  | .exit _ => 4
  | .yield _ => 4
  | .spawn _ _ _ _ => 4
  | .launch _ _ => 4
  | .waitcCounter _ _ _ => 4
  | .waitcHandle _ _ => 4
  | .fork _ _ => 4
  | .join _ => 4
  | .taskq _ _ => 4
  | .taskend => 4
  | .role _ => 4
  | .add _ _ _ _ _ => 4
  | .mul _ _ _ _ _ => 4
  | .mad _ _ _ _ _ => 4
  | .log _ _ _ _ _ => 4
  | .shf _ _ _ _ _ => 4
  | .minmax _ _ _ _ _ => 4
  | .bit _ _ _ _ => 4
  | .bfx _ _ _ _ _ => 4
  | .bfi _ _ _ _ => 4
  | .sel _ _ _ _ _ => 4
  | .opi _ _ _ _ => 4
  | .lih _ _ => 4
  | .cmp _ _ _ _ _ => 4
  | .plog _ _ _ _ => 4
  | .pmov _ _ => 4
  | .pset _ _ => 4
  | .p2v _ _ => 4
  | .v2p _ _ => 4
  | .shfl _ _ _ _ _ => 4
  | .vote _ _ _ => 4
  | .redx _ _ _ _ _ => 4
  | .s2v _ _ _ _ => 4
  | .v2s _ _ _ _ => 4
  | .sop _ _ _ => 4
  | .sli _ _ => 4
  | .saddi _ _ => 4
  | .slih _ _ => 4
  | .xsetImm _ _ => 4
  | .xsetScalar _ _ => 4
  | .xadd _ _ => 4
  | .rep _ _ _ => 4
  | .far _ _ _ _ _ => 4
  | .ffma _ _ _ _ _ => 4
  | .fun _ _ _ _ => 4
  | .sfu _ _ _ _ => 4
  | .cvt _ _ _ _ _ => 4
  | .icvt _ _ _ _ _ => 4
  | .pack _ _ _ _ _ => 4
  | .unpk _ _ _ _ _ _ => 4
  | .hop _ _ _ _ _ => 4
  | .renc _ _ _ _ => 4
  | .rdec _ _ _ _ => 4
  | .fcls _ _ _ _ => 4
  | .ld _ _ _ _ _ => 4
  | .st _ _ _ _ => 4
  | .lda _ _ _ _ _ => 4
  | .stl _ _ _ _ _ => 4
  | .lds _ _ _ _ _ => 4
  | .sts _ _ _ _ => 4
  | .atom _ _ _ _ _ _ => 4
  | .cas _ _ _ _ _ => 4
  | .fence _ => 4
  | .fenceAcq _ => 4
  | .fenceRel _ => 4
  | .fenceWaitEnd _ => 0
  | .bar _ _ _ => 4
  | .barPhaseComplete _ _ => 0
  | .bbarArm _ _ _ => 4
  | .bbarWait _ _ => 4
  | .bbarTake _ _ => 4
  | .bbarConditionMet _ => 0
  | .pres _ _ _ _ => 4
  | .mon _ _ _ _ => 4
  | .mwait _ _ => 4
  | .mwaitWake _ => 0
  | .mwaitTimeout _ => 0
  | .subs _ _ _ _ _ => 4
  | .unsub _ _ => 4
  | .subup _ _ _ => 4
  | .subqLine _ _ => 4
  | .subqSlot _ _ => 4
  | .subqCnt _ => 4
  | .lineFetch _ _ _ _ => 0
  | .homeWriteApply _ => 0
  | .inval _ => 0
  | .upd _ => 0
  | .sharerAcknowledgement _ => 0
  | .evictionNotice _ _ => 0
  | .accessUnpark _ => 0
  | .cvset _ _ => 4
  | .cvsetLive _ => 4
  | .cvsetImm _ _ => 4
  | .mma _ _ _ _ _ => 4
  | .mmaSet _ _ _ _ _ => 4
  | .mmr _ _ _ _ _ => 4
  | .mmrSet _ _ _ _ _ => 4
  | .matrixOperationComplete _ => 0
  | .mzero _ => 4
  | .mepi _ _ _ _ => 4
  | .mstConv _ _ _ _ => 4
  | .mstRaw _ _ _ => 4
  | .mldConv _ _ _ _ => 4
  | .mldRawF32 _ _ _ => 4
  | .mldRawRes _ _ _ => 4
  | .movfGet _ _ _ => 4
  | .movfPutF32 _ _ _ => 4
  | .movfPutI32 _ _ _ => 4
  | .copy1 _ _ _ _ _ => 4
  | .copy2 _ _ _ _ _ => 4
  | .copyt _ _ _ _ _ => 4
  | .fill _ _ _ _ _ => 4
  | .copyr _ _ _ _ _ => 4
  | .copyh _ _ _ _ _ => 4
  | .gather _ _ _ _ _ => 4
  | .scatter _ _ _ _ _ => 4
  | .scatadd _ _ _ _ _ => 4
  | .gatherq _ _ _ _ => 4
  | .allred _ _ _ _ _ => 4
  | .redscat _ _ _ _ _ => 4
  | .allgath _ _ _ _ _ => 4
  | .barrier _ _ _ _ => 4
  | .engineAcceptance _ => 0
  | .engineChunkDelivered _ _ _ => 0
  | .commandCompletion _ => 0
  | .collectiveTimeout _ => 0
  | .peerLeaves _ => 0
  | .xlnStat _ _ => 4
  | .ease _ _ _ _ => 4
  | .wake _ _ _ _ => 4
  | .qpush _ _ => 4
  | .qpushS _ _ => 4
  | .qpop _ _ => 4
  | .queueWaitEnd _ => 0
  | .tlwait _ _ _ => 4
  | .tlwaitComplete _ => 0
  | .tlrdSt _ _ _ => 4
  | .tlrdIssued _ _ => 4
  | .tlrdDone _ _ => 4
  | .tlrdFails _ _ => 4
  | .skStore _ _ _ _ _ => 4
  | .skAdd _ _ _ _ _ => 4
  | .skClaim _ _ _ _ _ => 4
  | .skSwap _ _ _ _ _ => 4
  | .skMax _ _ _ _ _ => 4
  | .skGen _ _ _ => 4
  | .skLaunch _ _ _ => 4
  | .skNote _ _ _ => 4
  | .strokeAcceptance _ => 0
  | .wstrk _ _ => 4
  | .wstrkNote _ _ _ => 4
  | .wstrkComplete _ => 0
  | .strkn _ => 4
  | .strknNote _ _ => 4
  | .strknStat _ => 4
  | .coxToken _ => 0
  | .strokeReceive _ => 0
  | .repairRequest _ => 0
  | .waveguideBreak _ => 0
  | .countCollection _ _ => 0
  | .ringInitialisation _ _ _ => 0
  | .replicaResync _ _ _ => 0
  | .apxe _ => 4
  | .apxl _ => 4
  | .apxi _ _ => 4
  | .apxiAll _ => 4
  | .apxqStat _ _ => 4
  | .apxqCount _ _ => 4
  | .apxqErr _ _ => 4
  | .apxqMisc _ _ => 4
  | .apxcRetire _ _ => 4
  | .apxcReset _ _ => 4
  | .apxcShift _ _ _ => 4
  | .apxcDet _ _ _ => 4
  | .apxcLoadw _ _ _ => 4
  | .apxcDumpw _ _ _ => 4
  | .apxsSave _ _ _ => 4
  | .apxsLoad _ _ _ => 4
  | .apxsDrop _ _ => 4
  | .ergWatchNotification _ => 0
  | .trainingBatch _ _ => 0
  | .trap _ => 4
  | .rett => 4
  | .gsr _ _ => 4
  | .gsrV _ _ => 4
  | .ssr _ _ => 4
  | .ssrV _ _ => 4
  | .svcall _ _ _ _ => 4
  | .svwait _ _ => 4
  | .svwaitWake _ => 0
  | .tksv _ _ _ => 4
  | .tkld _ _ _ => 4
  | .ctxsvCrew _ _ _ => 4
  | .ctxsvTiles _ _ _ => 4
  | .ctxsvSquad _ _ _ => 4
  | .ctxldCrew _ _ _ => 4
  | .ctxldTiles _ _ _ => 4
  | .ctxldSquad _ _ => 4
  | .halt _ => 4
  | .crend _ => 4
  | .crendS _ => 4
  | .cyc _ => 4
  | .cycTime _ => 4
  | .mov16 _ _ => 2
  | .add16I32 _ _ => 2
  | .add16F32 _ _ => 2
  | .sub16I32 _ _ => 2
  | .sub16F32 _ _ => 2
  | .mul16I32 _ _ => 2
  | .mul16F32 _ _ => 2
  | .and16 _ _ => 2
  | .or16 _ _ => 2
  | .xor16 _ _ => 2
  | .shl16 _ _ => 2
  | .shr16N32 _ _ => 2
  | .shr16I32 _ _ => 2
  | .min16I32 _ _ => 2
  | .min16F32 _ _ => 2
  | .max16I32 _ _ => 2
  | .max16F32 _ _ => 2
  | .neg16I32 _ _ => 2
  | .neg16F32 _ _ => 2
  | .not16 _ _ => 2
  | .abs16F32 _ _ => 2
  | .addi5 _ _ => 2
  | .movi5 _ _ => 2
  | .s2v16 _ _ => 2
  | .boatFormation _ _ => 0
  | .boatIssue _ _ => 0
  | .agePromotion _ => 0
  | .lqPush _ _ => 0
  | .hostLaunchArrival => 0
  | .gridTableWaitEnd => 0
  | .squadAdmission _ _ => 0
  | .swapOutForRoom _ => 0
  | .crewResourcesFreed _ => 0
  | .gridRetirement _ => 0
  | .joinResume _ _ => 0
  | .taskStart _ _ _ => 0
  | .taskDrained _ _ => 0
  | .taskReady _ => 0
  | .genRaise _ => 0
  | .preemptHalt _ _ => 0
  | .preemptRelease _ _ => 0
  | .preemptionHaltComplete _ => 0
  | .clkCtl _ => 0
  | .regionFrequencyChange _ => 0
  | .regionStopEnd _ => 0
  | .clockStretch _ => 0
  | .deviceReset _ => 0
  | .partTestComplete _ _ => 0
  | .spareTakeover _ => 0
  | .hostBiasFlip _ => 0
  | .biasFlipTimeout _ => 0
  | .snpData _ _ => 0
  | .snpInv _ _ => 0
  | .poolShelfFailure _ _ => 0
  | .poolCompletionTimeout _ _ => 0
  | .atsInvalidation _ _ => 0
  | .sweepPacket _ => 0
  | .headerFlit _ _ => 0
  | .readRequestFlit _ _ => 0
  | .payloadFlit _ _ => 0
  | .completionFlit _ _ => 0
  | .acknowledgement _ _ => 0
  | .negativeAcknowledgement _ _ => 0
  | .idleFlit _ _ => 0
  | .controlFlit _ _ => 0
  | .ackTimer _ => 0
  | .replayTimeout _ => 0
  | .lossOfLight _ _ _ => 0
  | .laserModuleFailure _ => 0
  | .narrowingTimeout _ => 0
  | .flitWaitTimeout _ => 0
  | .bringupStageComplete _ _ _ => 0
  | .bringupStageTimeout _ => 0
  | .wakeComplete _ => 0
  | .wakeBudgetExpiry _ _ => 0
  | .automaticWake _ => 0
  | .drawRun => 0
  | .linkDrained _ => 0
  | .circuitSwitchReport _ => 0
  | .switchTimeout _ => 0
  | .exclusionClear _ _ => 0
  | .linkParameterWrite _ _ => 0
  | .discardedFlit _ => 0
  | .lanesLost _ _ => 0
  | .poolRangeReenable _ => 0
  | .biasTableWrite _ _ => 0
  | .routeTableWrite _ _ => 0
  | .contextTeardown _ => 0
  | .firmwareImage _ => 0
  | .cxlResponse _ _ _ => 0
  | .requestQueueTake => 0

/-- A field value placed at bit lo of a word. -/
def put (v lo w : Nat) : Nat := w + v * 2 ^ lo

/-- The word of an instruction, from the encoding tables (0 for an event, which has none). -/
def encodeNat : Instr → Nat
  | .bra d => put (d.toNat) 8 0x1
  | .brp d n p => put (p.toNat) 8 (put (n.toNat) 14 (put (d.toNat) 15 0x3))
  | .brs d n sn => put (sn.toNat) 8 (put (n.toNat) 14 (put (d.toNat) 15 0x5))
  | .jmpv g a => put (a.toNat) 14 (put (g.toNat) 26 0x7)
  | .call d => put (d.toNat) 8 0x9
  | .callv g a => put (a.toNat) 14 (put (g.toNat) 26 0xb)
  | .ret g => put (g.toNat) 26 0xd
  | .switch d v => put (v.toNat) 8 (put (d.toNat) 15 0xf)
  | .refuse => 0x1c000011
  | .exit g => put (g.toNat) 26 0x13
  | .yield g => put (g.toNat) 26 0x25
  | .spawn r b a e => put (e.toNat) 8 (put (a.toNat) 15 (put (b.toNat) 21 (put (r.toNat) 27 0x15)))
  | .launch r a => put (a.toNat) 15 (put (r.toNat) 27 0x17)
  | .waitcCounter r b a => put (a.toNat) 15 (put (b.toNat) 21 (put (r.toNat) 27 0x19))
  | .waitcHandle r a => put (a.toNat) 15 (put (r.toNat) 27 0x119)
  | .fork r a => put (a.toNat) 15 (put (r.toNat) 27 0x1b)
  | .join r => put (r.toNat) 27 0x1d
  | .taskq r a => put (a.toNat) 15 (put (r.toNat) 27 0x1f)
  | .taskend => 0xf8000021
  | .role imm => put (imm.code) 17 0x23
  | .add f g b a d => put (d.toNat) 8 (put (a.toNat) 14 (put (b.toNat) 20 (put (g.toNat) 26 (put (f.code) 29 0x29))))
  | .mul f g b a d => put (d.toNat) 8 (put (a.toNat) 14 (put (b.toNat) 20 (put (g.toNat) 26 (put (f.code) 29 0x2b))))
  | .mad f g b a d => put (d.toNat) 8 (put (a.toNat) 14 (put (b.toNat) 20 (put (g.toNat) 26 (put (f.code) 29 0x2d))))
  | .log f g b a d => put (d.toNat) 8 (put (a.toNat) 14 (put (b.toNat) 20 (put (g.toNat) 26 (put (f.code) 29 0x2f))))
  | .shf f g b a d => put (d.toNat) 8 (put (a.toNat) 14 (put (b.toNat) 20 (put (g.toNat) 26 (put (f.code) 29 0x31))))
  | .minmax f g b a d => put (d.toNat) 8 (put (a.toNat) 14 (put (b.toNat) 20 (put (g.toNat) 26 (put (f.code) 29 0x33))))
  | .bit f g a d => put (d.toNat) 8 (put (a.toNat) 14 (put (g.toNat) 26 (put (f.code) 29 0x35)))
  | .bfx l f b a d => put (d.toNat) 8 (put (a.toNat) 14 (put (b.toNat) 20 (put (f.code) 26 (put (l.toNat) 28 0x37))))
  | .bfi l b a d => put (d.toNat) 8 (put (a.toNat) 14 (put (b.toNat) 20 (put (l.toNat) 28 0x39)))
  | .sel q g b a d => put (d.toNat) 8 (put (a.toNat) 14 (put (b.toNat) 20 (put (g.toNat) 26 (put (q.toNat) 29 0x3b))))
  | .opi f imm a d => put (d.toNat) 8 (put (a.toNat) 14 (put (imm.toNat) 20 (put (f.code) 29 0x3d)))
  | .lih imm d => put (d.toNat) 8 (put (imm.toNat) 14 0x3f)
  | .cmp t c b a p => put (p.toNat) 8 (put (a.toNat) 14 (put (b.toNat) 20 (put (c.code) 26 (put (t.code) 29 0x41))))
  | .plog c b a p => put (p.toNat) 8 (put (a.toNat) 14 (put (b.toNat) 20 (put (c.code) 26 0x43)))
  | .pmov a p => put (p.toNat) 8 (put (a.toNat) 14 0x45)
  | .pset c p => put (p.toNat) 8 (put (c.toNat) 26 0x20000045)
  | .p2v b v => put (v.toNat) 8 (put (b.toNat) 14 0x40000045)
  | .v2p v b => put (b.toNat) 8 (put (v.toNat) 14 0x60000045)
  | .shfl l f b a d => put (d.toNat) 8 (put (a.toNat) 14 (put (b.toNat) 20 (put (f.code) 26 (put (l.toNat) 28 0x47))))
  | .vote t a p => put (p.toNat) 8 (put (a.toNat) 14 (put (t.code) 29 0x49))
  | .redx l f o a d => put (d.toNat) 8 (put (a.toNat) 14 (put (o.code) 20 (put (f.code) 26 (put (l.toNat) 28 0x4b))))
  | .s2v f l sn v => put (v.toNat) 8 (put (sn.toNat) 14 (put (l.toNat) 23 (put (f.code) 29 0x4d)))
  | .v2s f l sn v => put (v.toNat) 8 (put (sn.toNat) 14 (put (l.toNat) 23 (put (f.code) 29 0x4f)))
  | .sop f a d => put (d.toNat) 8 (put (a.toNat) 17 (put (f.code) 26 0x51))
  | .sli imm d => put (d.toNat) 8 (put (imm.toNat) 17 0x53)
  | .saddi imm d => put (d.toNat) 8 (put (imm.toNat) 17 0x55)
  | .slih imm d => put (d.toNat) 8 (put (imm.toNat) 17 0x57)
  | .xsetImm imm k => put (k.toNat) 8 (put (imm.toNat) 17 0x59)
  | .xsetScalar n k => put (k.toNat) 8 (put (n.toNat) 17 0x459)
  | .xadd imm k => put (k.toNat) 8 (put (imm.toNat) 17 0x5b)
  | .rep st m c => put (c.toNat) 8 (put (m.toNat) 14 (put (st.toNat) 18 0x5d))
  | .far f g b a d => put (d.toNat) 8 (put (a.toNat) 14 (put (b.toNat) 20 (put (g.toNat) 26 (put (f.code) 29 0x61))))
  | .ffma f g b a d => put (d.toNat) 8 (put (a.toNat) 14 (put (b.toNat) 20 (put (g.toNat) 26 (put (f.code) 29 0x63))))
  | .fun f g a d => put (d.toNat) 8 (put (a.toNat) 14 (put (g.toNat) 26 (put (f.code) 29 0x65)))
  | .sfu l f a d => put (d.toNat) 8 (put (a.toNat) 14 (put (f.code) 20 (put (l.toNat) 28 0x67)))
  | .cvt l f fs a d => put (d.toNat) 8 (put (a.toNat) 14 (put (fs.toNat) 20 (put (f.code) 26 (put (l.toNat) 28 0x69))))
  | .icvt l r f a d => put (d.toNat) 8 (put (a.toNat) 14 (put (f.code) 20 (put (r.code) 26 (put (l.toNat) 28 0x6b))))
  | .pack f g b a d => put (d.toNat) 8 (put (a.toNat) 14 (put (b.toNat) 20 (put (g.toNat) 26 (put (f.code) 29 0x6d))))
  | .unpk l f ix fs a d => put (d.toNat) 8 (put (a.toNat) 14 (put (fs.toNat) 20 (put (ix.toNat) 23 (put (f.code) 26 (put (l.toNat) 28 0x6f)))))
  | .hop f g b a d => put (d.toNat) 8 (put (a.toNat) 14 (put (b.toNat) 20 (put (g.toNat) 26 (put (f.code) 29 0x71))))
  | .renc l f a d => put (d.toNat) 8 (put (a.toNat) 14 (put (f.code) 26 (put (l.toNat) 28 0x73)))
  | .rdec l f a d => put (d.toNat) 8 (put (a.toNat) 14 (put (f.code) 20 (put (l.toNat) 28 0x75)))
  | .fcls t m a p => put (p.toNat) 8 (put (a.toNat) 14 (put (m.toNat) 20 (put (t.code) 29 0x77)))
  | .ld l z b o t => put (t.toNat) 8 (put (o.toNat) 14 (put (b.toNat) 20 (put (z.code) 25 (put (l.toNat) 28 0x79))))
  | .st z b o t => put (t.toNat) 8 (put (o.toNat) 14 (put (b.toNat) 20 (put (z.code) 25 0x7b)))
  | .lda c z b o t => put (t.toNat) 8 (put (o.toNat) 14 (put (b.toNat) 20 (put (z.code) 25 (put (c.code) 30 0x7d))))
  | .stl c z b o t => put (t.toNat) 8 (put (o.toNat) 14 (put (b.toNat) 20 (put (z.code) 25 (put (c.code) 30 0x7f))))
  | .lds l z b o t => put (t.toNat) 8 (put (o.toNat) 14 (put (b.toNat) 20 (put (z.code) 25 (put (l.toNat) 28 0x81))))
  | .sts z b o t => put (t.toNat) 8 (put (o.toNat) 14 (put (b.toNat) 20 (put (z.code) 25 0x83)))
  | .atom w r p b o t => put (t.toNat) 8 (put (o.toNat) 14 (put (b.toNat) 20 (put (p.code) 25 (put (r.code) 29 (put (w.toNat) 31 0x85)))))
  | .cas r p b o t => put (t.toNat) 8 (put (o.toNat) 14 (put (b.toNat) 20 (put (p.code) 25 (put (r.code) 29 0x87))))
  | .fence c => put (c.code) 17 0x89
  | .fenceAcq c => put (c.code) 17 0x80089
  | .fenceRel c => put (c.code) 17 0x100089
  | .fenceWaitEnd _ => 0
  | .bar n id d => put (d.toNat) 8 (put (id.toNat) 17 (put (n.toNat) 21 0x8b))
  | .barPhaseComplete _ _ => 0
  | .bbarArm r b a => put (a.toNat) 15 (put (b.toNat) 21 (put (r.toNat) 27 0x8d))
  | .bbarWait r a => put (a.toNat) 15 (put (r.toNat) 27 0x88d)
  | .bbarTake r a => put (a.toNat) 15 (put (r.toNat) 27 0x108d)
  | .bbarConditionMet _ => 0
  | .pres l b o t => put (t.toNat) 8 (put (o.toNat) 14 (put (b.toNat) 20 (put (l.toNat) 28 0x800008f)))
  | .mon l b o t => put (t.toNat) 8 (put (o.toNat) 14 (put (b.toNat) 20 (put (l.toNat) 28 0x8000091)))
  | .mwait imm d => put (d.toNat) 8 (put (imm.toNat) 17 0x93)
  | .mwaitWake _ => 0
  | .mwaitTimeout _ => 0
  | .subs r b a m f => put (f.code) 8 (put (m.toNat) 11 (put (a.toNat) 15 (put (b.toNat) 21 (put (r.toNat) 27 0x99))))
  | .unsub r a => put (a.toNat) 15 (put (r.toNat) 27 0x9b)
  | .subup r a f => put (f.code) 8 (put (a.toNat) 15 (put (r.toNat) 27 0x9d))
  | .subqLine r a => put (a.toNat) 15 (put (r.toNat) 27 0x9f)
  | .subqSlot r a => put (a.toNat) 15 (put (r.toNat) 27 0x19f)
  | .subqCnt r => put (r.toNat) 27 0x29f
  | .lineFetch _ _ _ _ => 0
  | .homeWriteApply _ => 0
  | .inval _ => 0
  | .upd _ => 0
  | .sharerAcknowledgement _ => 0
  | .evictionNotice _ _ => 0
  | .accessUnpark _ => 0
  | .cvset a c => put (c.toNat) 8 (put (a.toNat) 17 0xa1)
  | .cvsetLive c => put (c.toNat) 8 0x40000a1
  | .cvsetImm m c => put (c.toNat) 8 (put (m.toNat) 17 0x80000a1)
  | .mma c fs b a t => put (t.toNat) 8 (put (a.toNat) 11 (put (b.toNat) 14 (put (fs.toNat) 17 (put (c.toNat) 20 0xa3))))
  | .mmaSet c fs b a t => put (t.toNat) 8 (put (a.toNat) 11 (put (b.toNat) 14 (put (fs.toNat) 17 (put (c.toNat) 20 0x100000a3))))
  | .mmr c fs b a t => put (t.toNat) 8 (put (a.toNat) 11 (put (b.toNat) 14 (put (fs.toNat) 17 (put (c.toNat) 20 0xa5))))
  | .mmrSet c fs b a t => put (t.toNat) 8 (put (a.toNat) 11 (put (b.toNat) 14 (put (fs.toNat) 17 (put (c.toNat) 20 0x100000a5))))
  | .matrixOperationComplete _ => 0
  | .mzero t => put (t.toNat) 8 0xa7
  | .mepi l fs d t => put (t.toNat) 8 (put (d.toNat) 11 (put (fs.toNat) 17 (put (l.toNat) 24 0xa9)))
  | .mstConv b sp f t => put (t.toNat) 8 (put (f.toNat) 11 (put (sp.toNat) 14 (put (b.toNat) 20 0xab)))
  | .mstRaw b sp t => put (t.toNat) 8 (put (sp.toNat) 14 (put (b.toNat) 20 0x20000ab))
  | .mldConv b sp f t => put (t.toNat) 8 (put (f.toNat) 11 (put (sp.toNat) 14 (put (b.toNat) 20 0xad)))
  | .mldRawF32 b sp t => put (t.toNat) 8 (put (sp.toNat) 14 (put (b.toNat) 20 0x20000ad))
  | .mldRawRes b sp t => put (t.toNat) 8 (put (sp.toNat) 14 (put (b.toNat) 20 0x40000ad))
  | .movfGet l t d => put (d.toNat) 8 (put (t.toNat) 20 (put (l.toNat) 28 0xaf))
  | .movfPutF32 l t a => put (a.toNat) 14 (put (t.toNat) 20 (put (l.toNat) 28 0x40000af))
  | .movfPutI32 l t a => put (a.toNat) 14 (put (t.toNat) 20 (put (l.toNat) 28 0x80000af))
  | .copy1 r b a e l => put (l.toNat) 8 (put (e.toNat) 14 (put (a.toNat) 15 (put (b.toNat) 21 (put (r.toNat) 27 0x8b1))))
  | .copy2 r b a e l => put (l.toNat) 8 (put (e.toNat) 14 (put (a.toNat) 15 (put (b.toNat) 21 (put (r.toNat) 27 0x10b1))))
  | .copyt r b a e l => put (l.toNat) 8 (put (e.toNat) 14 (put (a.toNat) 15 (put (b.toNat) 21 (put (r.toNat) 27 0x18b1))))
  | .fill r b a e l => put (l.toNat) 8 (put (e.toNat) 14 (put (a.toNat) 15 (put (b.toNat) 21 (put (r.toNat) 27 0x20b1))))
  | .copyr r b a e l => put (l.toNat) 8 (put (e.toNat) 14 (put (a.toNat) 15 (put (b.toNat) 21 (put (r.toNat) 27 0x28b1))))
  | .copyh r b a e l => put (l.toNat) 8 (put (e.toNat) 14 (put (a.toNat) 15 (put (b.toNat) 21 (put (r.toNat) 27 0x30b1))))
  | .gather r b a e l => put (l.toNat) 8 (put (e.toNat) 14 (put (a.toNat) 15 (put (b.toNat) 21 (put (r.toNat) 27 0x8b3))))
  | .scatter r b a e l => put (l.toNat) 8 (put (e.toNat) 14 (put (a.toNat) 15 (put (b.toNat) 21 (put (r.toNat) 27 0x10b3))))
  | .scatadd r b a e l => put (l.toNat) 8 (put (e.toNat) 14 (put (a.toNat) 15 (put (b.toNat) 21 (put (r.toNat) 27 0x18b3))))
  | .gatherq r b e l => put (l.toNat) 8 (put (e.toNat) 14 (put (b.toNat) 21 (put (r.toNat) 27 0x20b3)))
  | .allred r b a e l => put (l.toNat) 8 (put (e.toNat) 14 (put (a.toNat) 15 (put (b.toNat) 21 (put (r.toNat) 27 0x8b5))))
  | .redscat r b a e l => put (l.toNat) 8 (put (e.toNat) 14 (put (a.toNat) 15 (put (b.toNat) 21 (put (r.toNat) 27 0x10b5))))
  | .allgath r b a e l => put (l.toNat) 8 (put (e.toNat) 14 (put (a.toNat) 15 (put (b.toNat) 21 (put (r.toNat) 27 0x18b5))))
  | .barrier r a e l => put (l.toNat) 8 (put (e.toNat) 14 (put (a.toNat) 15 (put (r.toNat) 27 0x20b5)))
  | .engineAcceptance _ => 0
  | .engineChunkDelivered _ _ _ => 0
  | .commandCompletion _ => 0
  | .collectiveTimeout _ => 0
  | .peerLeaves _ => 0
  | .xlnStat r a => put (a.toNat) 15 (put (r.toNat) 27 0xb7)
  | .ease r b a l => put (l.toNat) 8 (put (a.toNat) 15 (put (b.toNat) 21 (put (r.toNat) 27 0x8b7)))
  | .wake r b a l => put (l.toNat) 8 (put (a.toNat) 15 (put (b.toNat) 21 (put (r.toNat) 27 0x10b7)))
  | .qpush a q => put (q.toNat) 8 (put (a.toNat) 17 0xb9)
  | .qpushS a q => put (q.toNat) 8 (put (a.toNat) 17 0x40000b9)
  | .qpop q d => put (d.toNat) 8 (put (q.toNat) 17 0xbb)
  | .queueWaitEnd _ => 0
  | .tlwait r a l => put (l.toNat) 8 (put (a.toNat) 15 (put (r.toNat) 27 0xbd))
  | .tlwaitComplete _ => 0
  | .tlrdSt r a l => put (l.toNat) 8 (put (a.toNat) 15 (put (r.toNat) 27 0xbf))
  | .tlrdIssued r l => put (l.toNat) 8 (put (r.toNat) 27 0x8bf)
  | .tlrdDone r l => put (l.toNat) 8 (put (r.toNat) 27 0x10bf)
  | .tlrdFails r l => put (l.toNat) 8 (put (r.toNat) 27 0x18bf)
  | .skStore r b a e w => put (w.toNat) 12 (put (e.toNat) 13 (put (a.toNat) 15 (put (b.toNat) 21 (put (r.toNat) 27 0x1c1))))
  | .skAdd r b a e w => put (w.toNat) 12 (put (e.toNat) 13 (put (a.toNat) 15 (put (b.toNat) 21 (put (r.toNat) 27 0x2c1))))
  | .skClaim r b a e w => put (w.toNat) 12 (put (e.toNat) 13 (put (a.toNat) 15 (put (b.toNat) 21 (put (r.toNat) 27 0x3c1))))
  | .skSwap r b a e w => put (w.toNat) 12 (put (e.toNat) 13 (put (a.toNat) 15 (put (b.toNat) 21 (put (r.toNat) 27 0x4c1))))
  | .skMax r b a e w => put (w.toNat) 12 (put (e.toNat) 13 (put (a.toNat) 15 (put (b.toNat) 21 (put (r.toNat) 27 0x5c1))))
  | .skGen r b e => put (e.toNat) 13 (put (b.toNat) 21 (put (r.toNat) 27 0x8c1))
  | .skLaunch r b e => put (e.toNat) 13 (put (b.toNat) 21 (put (r.toNat) 27 0x9c1))
  | .skNote r b e => put (e.toNat) 13 (put (b.toNat) 21 (put (r.toNat) 27 0xac1))
  | .strokeAcceptance _ => 0
  | .wstrk r a => put (a.toNat) 15 (put (r.toNat) 27 0xc3)
  | .wstrkNote r b a => put (a.toNat) 15 (put (b.toNat) 21 (put (r.toNat) 27 0x8c3))
  | .wstrkComplete _ => 0
  | .strkn r => put (r.toNat) 27 0xc5
  | .strknNote r a => put (a.toNat) 15 (put (r.toNat) 27 0x8c5)
  | .strknStat r => put (r.toNat) 27 0x10c5
  | .coxToken _ => 0
  | .strokeReceive _ => 0
  | .repairRequest _ => 0
  | .waveguideBreak _ => 0
  | .countCollection _ _ => 0
  | .ringInitialisation _ _ _ => 0
  | .replicaResync _ _ _ => 0
  | .apxe sl => put (sl.toNat) 8 0xf80000c9
  | .apxl sl => put (sl.toNat) 8 0xf80000cb
  | .apxi r sl => put (sl.toNat) 8 (put (r.toNat) 27 0xcd)
  | .apxiAll r => put (r.toNat) 27 0x10cd
  | .apxqStat r sl => put (sl.toNat) 8 (put (r.toNat) 27 0xcf)
  | .apxqCount r sl => put (sl.toNat) 8 (put (r.toNat) 27 0x10cf)
  | .apxqErr r sl => put (sl.toNat) 8 (put (r.toNat) 27 0x20cf)
  | .apxqMisc r sl => put (sl.toNat) 8 (put (r.toNat) 27 0x30cf)
  | .apxcRetire r sl => put (sl.toNat) 8 (put (r.toNat) 27 0xd1)
  | .apxcReset r sl => put (sl.toNat) 8 (put (r.toNat) 27 0x10d1)
  | .apxcShift r a sl => put (sl.toNat) 8 (put (a.toNat) 15 (put (r.toNat) 27 0x20d1))
  | .apxcDet r a sl => put (sl.toNat) 8 (put (a.toNat) 15 (put (r.toNat) 27 0x30d1))
  | .apxcLoadw r a sl => put (sl.toNat) 8 (put (a.toNat) 15 (put (r.toNat) 27 0x40d1))
  | .apxcDumpw r a sl => put (sl.toNat) 8 (put (a.toNat) 15 (put (r.toNat) 27 0x50d1))
  | .apxsSave r a sl => put (sl.toNat) 8 (put (a.toNat) 15 (put (r.toNat) 27 0xd3))
  | .apxsLoad r a sl => put (sl.toNat) 8 (put (a.toNat) 15 (put (r.toNat) 27 0x10d3))
  | .apxsDrop r sl => put (sl.toNat) 8 (put (r.toNat) 27 0x20d3)
  | .ergWatchNotification _ => 0
  | .trainingBatch _ _ => 0
  | .trap imm => put (imm.toNat) 17 0xd5
  | .rett => 0x1c0000d7
  | .gsr r d => put (d.toNat) 8 (put (r.code) 17 0xd9)
  | .gsrV r v => put (v.toNat) 8 (put (r.code) 17 0x200000d9)
  | .ssr r d => put (d.toNat) 8 (put (r.code) 17 0xdb)
  | .ssrV r v => put (v.toNat) 8 (put (r.code) 17 0x200000db)
  | .svcall r b a svc => put (svc.toNat) 8 (put (a.toNat) 15 (put (b.toNat) 21 (put (r.toNat) 27 0xdd)))
  | .svwait r a => put (a.toNat) 15 (put (r.toNat) 27 0xdf)
  | .svwaitWake _ => 0
  | .tksv r a t => put (t.toNat) 8 (put (a.toNat) 15 (put (r.toNat) 27 0xe1))
  | .tkld r a t => put (t.toNat) 8 (put (a.toNat) 15 (put (r.toNat) 27 0xe3))
  | .ctxsvCrew r b a => put (a.toNat) 15 (put (b.toNat) 21 (put (r.toNat) 27 0xe5))
  | .ctxsvTiles r b a => put (a.toNat) 15 (put (b.toNat) 21 (put (r.toNat) 27 0x8e5))
  | .ctxsvSquad r b a => put (a.toNat) 15 (put (b.toNat) 21 (put (r.toNat) 27 0x10e5))
  | .ctxldCrew r b a => put (a.toNat) 15 (put (b.toNat) 21 (put (r.toNat) 27 0xe7))
  | .ctxldTiles r b a => put (a.toNat) 15 (put (b.toNat) 21 (put (r.toNat) 27 0x8e7))
  | .ctxldSquad r a => put (a.toNat) 15 (put (r.toNat) 27 0x10e7)
  | .halt imm => put (imm.toNat) 17 0xe9
  | .crend c => put (c.toNat) 17 0xeb
  | .crendS d => put (d.toNat) 8 0x800000eb
  | .cyc d => put (d.toNat) 8 0xed
  | .cycTime d => put (d.toNat) 8 0x200ed
  | .mov16 a d => put (d.toNat) 5 (put (a.toNat) 10 0x0)
  | .add16I32 a d => put (d.toNat) 5 (put (a.toNat) 10 0x2)
  | .add16F32 a d => put (d.toNat) 5 (put (a.toNat) 10 0x8002)
  | .sub16I32 a d => put (d.toNat) 5 (put (a.toNat) 10 0x4)
  | .sub16F32 a d => put (d.toNat) 5 (put (a.toNat) 10 0x8004)
  | .mul16I32 a d => put (d.toNat) 5 (put (a.toNat) 10 0x6)
  | .mul16F32 a d => put (d.toNat) 5 (put (a.toNat) 10 0x8006)
  | .and16 a d => put (d.toNat) 5 (put (a.toNat) 10 0x8)
  | .or16 a d => put (d.toNat) 5 (put (a.toNat) 10 0xa)
  | .xor16 a d => put (d.toNat) 5 (put (a.toNat) 10 0xc)
  | .shl16 a d => put (d.toNat) 5 (put (a.toNat) 10 0xe)
  | .shr16N32 a d => put (d.toNat) 5 (put (a.toNat) 10 0x10)
  | .shr16I32 a d => put (d.toNat) 5 (put (a.toNat) 10 0x8010)
  | .min16I32 a d => put (d.toNat) 5 (put (a.toNat) 10 0x12)
  | .min16F32 a d => put (d.toNat) 5 (put (a.toNat) 10 0x8012)
  | .max16I32 a d => put (d.toNat) 5 (put (a.toNat) 10 0x14)
  | .max16F32 a d => put (d.toNat) 5 (put (a.toNat) 10 0x8014)
  | .neg16I32 a d => put (d.toNat) 5 (put (a.toNat) 10 0x16)
  | .neg16F32 a d => put (d.toNat) 5 (put (a.toNat) 10 0x8016)
  | .not16 a d => put (d.toNat) 5 (put (a.toNat) 10 0x18)
  | .abs16F32 a d => put (d.toNat) 5 (put (a.toNat) 10 0x8018)
  | .addi5 imm d => put (d.toNat) 5 (put (imm.toNat) 10 0x1a)
  | .movi5 imm d => put (d.toNat) 5 (put (imm.toNat) 10 0x1c)
  | .s2v16 sn d => put (d.toNat) 5 (put (sn.toNat) 10 0x1e)
  | .boatFormation _ _ => 0
  | .boatIssue _ _ => 0
  | .agePromotion _ => 0
  | .lqPush _ _ => 0
  | .hostLaunchArrival => 0
  | .gridTableWaitEnd => 0
  | .squadAdmission _ _ => 0
  | .swapOutForRoom _ => 0
  | .crewResourcesFreed _ => 0
  | .gridRetirement _ => 0
  | .joinResume _ _ => 0
  | .taskStart _ _ _ => 0
  | .taskDrained _ _ => 0
  | .taskReady _ => 0
  | .genRaise _ => 0
  | .preemptHalt _ _ => 0
  | .preemptRelease _ _ => 0
  | .preemptionHaltComplete _ => 0
  | .clkCtl _ => 0
  | .regionFrequencyChange _ => 0
  | .regionStopEnd _ => 0
  | .clockStretch _ => 0
  | .deviceReset _ => 0
  | .partTestComplete _ _ => 0
  | .spareTakeover _ => 0
  | .hostBiasFlip _ => 0
  | .biasFlipTimeout _ => 0
  | .snpData _ _ => 0
  | .snpInv _ _ => 0
  | .poolShelfFailure _ _ => 0
  | .poolCompletionTimeout _ _ => 0
  | .atsInvalidation _ _ => 0
  | .sweepPacket _ => 0
  | .headerFlit _ _ => 0
  | .readRequestFlit _ _ => 0
  | .payloadFlit _ _ => 0
  | .completionFlit _ _ => 0
  | .acknowledgement _ _ => 0
  | .negativeAcknowledgement _ _ => 0
  | .idleFlit _ _ => 0
  | .controlFlit _ _ => 0
  | .ackTimer _ => 0
  | .replayTimeout _ => 0
  | .lossOfLight _ _ _ => 0
  | .laserModuleFailure _ => 0
  | .narrowingTimeout _ => 0
  | .flitWaitTimeout _ => 0
  | .bringupStageComplete _ _ _ => 0
  | .bringupStageTimeout _ => 0
  | .wakeComplete _ => 0
  | .wakeBudgetExpiry _ _ => 0
  | .automaticWake _ => 0
  | .drawRun => 0
  | .linkDrained _ => 0
  | .circuitSwitchReport _ => 0
  | .switchTimeout _ => 0
  | .exclusionClear _ _ => 0
  | .linkParameterWrite _ _ => 0
  | .discardedFlit _ => 0
  | .lanesLost _ _ => 0
  | .poolRangeReenable _ => 0
  | .biasTableWrite _ _ => 0
  | .routeTableWrite _ _ => 0
  | .contextTeardown _ => 0
  | .firmwareImage _ => 0
  | .cxlResponse _ _ _ => 0
  | .requestQueueTake => 0

/-- An instruction word, not an event. -/
def Instr.isWord (i : Instr) : Bool := i.length != 0

/-- The bytes of an instruction, little-endian (R2). -/
def encode (i : Instr) : List Byte := (List.range i.length).map (byteAt (encodeNat i))

end Sys2Proof
end

