-- ==== Sys2Proof/Machine/Num.lean ====
section
/-! DEFINITION. Exact values, the float formats and ROUND (spec/06_float.md R146 to R152), format slots (R153 to R156), residue
elements (R157, R158), and the float operations the instructions share (R132, R161 to R165, R173). -/

namespace Sys2Proof.Machine

/-- An exact float value: a NaN, an infinity or a fraction with its sign kept for zeros (R147, R150). -/
inductive Fv where
  | nan
  | inf (neg : Bool)
  | fin (neg : Bool) (num den : Nat)
  deriving DecidableEq, Repr

/-- A float format (R146): fraction bits, exponent bits, encoding of the largest finite value, infinities or not. -/
structure Fmt where
  fw   : Nat
  ew   : Nat
  top  : Nat
  infs : Bool
  deriving DecidableEq, Repr

def Fmt.f32 : Fmt := ⟨23, 8, 0x7F7FFFFF, true⟩
def Fmt.bf16 : Fmt := ⟨7, 8, 0x7F7F, true⟩
def Fmt.f16 : Fmt := ⟨10, 5, 0x7BFF, true⟩
def Fmt.e4m3 : Fmt := ⟨3, 4, 0x7E, false⟩
def Fmt.e5m2 : Fmt := ⟨2, 5, 0x7B, true⟩

def Fmt.bias (f : Fmt) : Nat := 2 ^ (f.ew - 1) - 1
def Fmt.width (f : Fmt) : Nat := f.fw + f.ew + 1
def Fmt.signBit (f : Fmt) : Nat := 2 ^ (f.fw + f.ew)
/-- Canonical NaN (R148): E4M3 has one NaN magnitude, the other formats set the top fraction bit. -/
def Fmt.cnan (f : Fmt) : Nat := if f.infs then (2 ^ f.ew - 1) * 2 ^ f.fw + 2 ^ (f.fw - 1) else 0x7F
def Fmt.infEnc (f : Fmt) : Nat := (2 ^ f.ew - 1) * 2 ^ f.fw

/-- Two raised to an integer, as a fraction. -/
def pow2 (e : Int) : Nat × Nat := if 0 ≤ e then (2 ^ e.toNat, 1) else (1, 2 ^ (-e).toNat)

/-- The value of an encoding (R147). -/
def Fmt.decode (f : Fmt) (w : Nat) : Fv :=
  let neg := w / f.signBit % 2 == 1
  let e := w / 2 ^ f.fw % 2 ^ f.ew
  let m := w % 2 ^ f.fw
  if f.infs && e == 2 ^ f.ew - 1 then (if m == 0 then .inf neg else .nan)
  else if !f.infs && w % f.signBit == 0x7F then .nan
  else if e == 0 then
    let p := pow2 (1 - (f.bias : Int) - f.fw)
    .fin neg (m * p.1) p.2
  else
    let p := pow2 ((e : Int) - f.bias - f.fw)
    .fin neg ((2 ^ f.fw + m) * p.1) p.2

/-- The integer a fraction rounds to, by magnitude (R149 step 1). -/
def roundDiv (mode : Rnd) (neg : Bool) (n d : Nat) : Nat :=
  let q := n / d
  let r := n % d
  match mode with
  | .rne => if 2 * r > d || (2 * r == d && q % 2 == 1) then q + 1 else q
  | .rtz => q
  | .rdn => if neg && r != 0 then q + 1 else q
  | .rup => if !neg && r != 0 then q + 1 else q

/-- floor(log2(n/d)) of a positive fraction. -/
def floorLog2 (n d : Nat) : Int :=
  let e : Int := (Nat.log2 n : Int) - Nat.log2 d
  let p := pow2 e
  if d * p.1 ≤ n * p.2 then e else e - 1

/-- The magnitude encoding of a positive fraction with the exponent range unbounded above (R149 step 1). -/
def Fmt.roundMag (f : Fmt) (mode : Rnd) (neg : Bool) (n d : Nat) : Nat :=
  let e := max (floorLog2 n d) (1 - (f.bias : Int))
  let p := pow2 (e - f.fw)
  (e + f.bias - 1).toNat * 2 ^ f.fw + roundDiv mode neg (n * p.2) (d * p.1)

/-- The overflow value of R149 step 2, by magnitude. -/
def Fmt.overflow (f : Fmt) (mode : Rnd) (neg : Bool) : Nat :=
  if !f.infs then f.top
  else match mode with
    | .rne => f.infEnc
    | .rtz => f.top
    | .rdn => if neg then f.infEnc else f.top
    | .rup => if neg then f.top else f.infEnc

def Fmt.sign (f : Fmt) (neg : Bool) : Nat := if neg then f.signBit else 0

/-- Whether step 2 of R149 applies to a value. -/
def Fmt.overflows (f : Fmt) (mode : Rnd) : Fv → Bool
  | .fin neg n d => n != 0 && decide (f.top < f.roundMag mode neg n d)
  | .nan | .inf _ => false

/-- ROUND(fmt, x, mode) (R9, R149). -/
def Fmt.round (f : Fmt) (mode : Rnd) : Fv → Nat
  | .nan => f.cnan
  | .inf neg => f.sign neg + (if f.infs then f.infEnc else f.top)
  | .fin neg n d =>
    if n == 0 then f.sign neg
    else
      let m := f.roundMag mode neg n d
      f.sign neg + (if f.top < m then f.overflow mode neg else m)

namespace Fv
def isNan : Fv → Bool | .nan => true | .inf _ => false | .fin .. => false
def isInf : Fv → Bool | .inf _ => true | .nan => false | .fin .. => false
def isZero : Fv → Bool | .fin _ n _ => n == 0 | .nan => false | .inf _ => false
def negative : Fv → Bool | .fin s _ _ => s | .inf s => s | .nan => false
def neg : Fv → Fv | .nan => .nan | .inf s => .inf (!s) | .fin s n d => .fin (!s) n d
def abs : Fv → Fv | .nan => .nan | .inf _ => .inf false | .fin _ n d => .fin false n d

/-- The signed numerator of a finite value. -/
def inum : Fv → Int | .fin s n _ => if s then -(n : Int) else n | .nan => 0 | .inf _ => 0
def den : Fv → Nat | .fin _ _ d => d | .nan => 1 | .inf _ => 1

/-- An exact product; 0 x infinity is a NaN (R150). -/
def mul : Fv → Fv → Fv
  | .nan, _ => .nan
  | .inf _, .nan => .nan
  | .fin .., .nan => .nan
  | .inf s, .inf t => .inf (s != t)
  | .inf s, .fin t n _ => if n == 0 then .nan else .inf (s != t)
  | .fin s n _, .inf t => if n == 0 then .nan else .inf (s != t)
  | .fin s n d, .fin t m e => .fin (s != t) (n * m) (d * e)

/-- An exact quotient with the signs of R150; infinity / infinity is a NaN, x / 0 an infinity, 0 / 0 a NaN. -/
def div : Fv → Fv → Fv
  | .nan, _ => .nan
  | .inf _, .nan => .nan
  | .fin .., .nan => .nan
  | .inf _, .inf _ => .nan
  | .inf s, .fin t _ _ => .inf (s != t)
  | .fin s _ _, .inf t => .fin (s != t) 0 1
  | .fin s n d, .fin t m e =>
    if m == 0 then (if n == 0 then .nan else .inf (s != t)) else .fin (s != t) (n * e) (d * m)

/-- The sum of two fractions with a common denominator kept small. -/
def addFrac (a : Int × Nat) (b : Int × Nat) : Int × Nat :=
  if a.2 % b.2 == 0 then (a.1 + b.1 * (a.2 / b.2 : Nat), a.2)
  else if b.2 % a.2 == 0 then (a.1 * (b.2 / a.2 : Nat) + b.1, b.2)
  else (a.1 * b.2 + b.1 * a.2, a.2 * b.2)

/-- An exact fraction as a value, an exact zero taking the given sign. -/
def ofFrac (zeroNeg : Bool) (x : Int × Nat) : Fv :=
  if x.1 == 0 then .fin zeroNeg 0 1 else .fin (decide (x.1 < 0)) x.1.natAbs x.2

/-- The exact sum of terms (R139, R150, R280): NaN, infinities, and -0 only when every term is -0. -/
def sum (ts : List Fv) : Fv :=
  let pos := ts.any fun t => t.isInf && !t.negative
  let ngt := ts.any fun t => t.isInf && t.negative
  if ts.any isNan || (pos && ngt) then .nan
  else if pos then .inf false
  else if ngt then .inf true
  else ofFrac (!ts.isEmpty && ts.all (·.negative)) (ts.foldl (fun a t => addFrac a (t.inum, t.den)) (0, 1))

/-- a < b of two values that are no NaN (-0 equals +0). -/
def lt : Fv → Fv → Bool
  | .inf s, .inf t => s && !t
  | .inf s, .fin .. => s
  | .fin .., .inf t => !t
  | .fin s n d, .fin t m e => decide ((Fv.fin s n d).inum * e < (Fv.fin t m e).inum * d)
  | .nan, .nan => false
  | .nan, .inf _ => false
  | .nan, .fin .. => false
  | .inf _, .nan => false
  | .fin .., .nan => false

/-- Rounded to an integer under a mode; infinities and NaN give 0. -/
def toInt (mode : Rnd) : Fv → Int
  | .fin s n d => let k := roundDiv mode s n d; if s then -(k : Int) else k
  | .nan => 0
  | .inf _ => 0

/-- An exact integer. -/
def ofInt (z : Int) : Fv := .fin (decide (z < 0)) z.natAbs 1
end Fv

/-! FP32 operations -/

/-- The value of an FP32 word. -/
def f32v (w : Word) : Fv := Fmt.f32.decode w.toNat
def f32r (v : Fv) : Word := BitVec.ofNat 32 (Fmt.f32.round .rne v)
def f32nan : Word := 0x7FC00000

/-- add, sub and mul of FP32 (R132, R161). -/
def fadd (a b : Word) : Word := f32r (.sum [f32v a, f32v b])
def fsub (a b : Word) : Word := f32r (.sum [f32v a, (f32v b).neg])
def fmul (a b : Word) : Word := f32r ((f32v a).mul (f32v b))

/-- MIN and MAX of R132: -0 below +0, a NaN gives the other operand, two NaNs the canonical one. -/
def fmin (a b : Word) : Word :=
  let x := f32v a
  let y := f32v b
  if x.isNan && y.isNan then f32nan else if x.isNan then b else if y.isNan then a
  else if x.lt y || (x.isZero && y.isZero && x.negative) then a else b
def fmax (a b : Word) : Word :=
  let x := f32v a
  let y := f32v b
  if x.isNan && y.isNan then f32nan else if x.isNan then b else if y.isNan then a
  else if y.lt x || (x.isZero && y.isZero && !x.negative) then a else b

/-- A word with its sign bit set; a NaN gives the canonical NaN with that sign (R148, R132, R161). -/
def withSign (a : Word) (neg : Bool) : Word :=
  (if (f32v a).isNan then f32nan else a) &&& 0x7FFFFFFF ||| (if neg then 0x80000000 else 0)

/-- |a - b| with +0 for an exact zero (R161). -/
def fadiff (a b : Word) : Word := f32r (Fv.sum [f32v a, (f32v b).neg]).abs

/-- a x b + c in one rounding, the product and the addend negated where asked (R162, R170). -/
def Fmt.fma (f : Fmt) (np nc : Bool) (a b c : Nat) : Nat :=
  let p := (f.decode a).mul (f.decode b)
  let z := f.decode c
  f.round .rne (.sum [if np then p.neg else p, if nc then z.neg else z])

/-- An integral value of a's sign (R163). -/
def integral (mode : Rnd) (a : Word) : Word :=
  match f32v a with
  | .nan => f32nan
  | .inf _ => a
  | .fin s n d => f32r (.fin s (roundDiv mode s n d) 1)

/-- FUN (R163). -/
def funOp : FunOp → Word → Word
  | .floor, a => integral .rdn a
  | .ceil, a => integral .rup a
  | .trunc, a => integral .rtz a
  | .rint, a => integral .rne a
  | .fract, a =>
    match f32v a with
    | .nan => f32nan
    | .inf _ => f32nan
    | .fin s n d =>
      if n == 0 then 0
      else
        let fl : Int := (Fv.fin s n d).toInt .rdn
        let r := f32r (.sum [.fin s n d, Fv.ofInt (-fl)])
        if r.toNat < 0x3F7FFFFF || r.toNat ≥ 0x80000000 then r else 0x3F7FFFFF
  | .sign, a =>
    match f32v a with
    | .nan => f32nan
    | .inf s => if s then 0xBF800000 else 0x3F800000
    | .fin s n _ => if n == 0 then a else if s then 0xBF800000 else 0x3F800000

/-- Formats of FCLS (R173). -/
def fclsFmt : FclsType → Fmt
  | .f32 => .f32 | .bf16 => .bf16 | .f16 => .f16 | .e4m3 => .e4m3 | .e5m2 => .e5m2

/-- The class number of an encoding (R173). -/
def Fmt.cls (f : Fmt) (w : Nat) : Nat :=
  match f.decode w with
  | .nan => 0
  | .inf s => if s then 1 else 8
  | .fin s n _ =>
    if n == 0 then (if s then 4 else 5)
    else if w / 2 ^ f.fw % 2 ^ f.ew == 0 then (if s then 3 else 6)
    else (if s then 2 else 7)

/-! Format slots (R153 to R156) -/

inductive Elem where
  | flt (f : Fmt) | int (w : Nat) | res
  deriving DecidableEq, Repr

def slotElem (fs : DWord) : Elem :=
  match (fs.extractLsb' 0 4).toNat with
  | 0 => .flt .f32 | 1 => .flt .bf16 | 2 => .flt .f16 | 3 => .flt .e4m3 | 4 => .flt .e5m2
  | 5 => .int 8 | 6 => .int 4 | 7 => .int 16 | 8 => .int 32 | _ => .res
def slotRnd (fs : DWord) : Rnd :=
  match (fs.extractLsb' 4 2).toNat with | 0 => .rne | 1 => .rtz | 2 => .rdn | _ => .rup
def slotSat (fs : DWord) : Bool := fs.getLsbD 6
def slotSym (fs : DWord) : Bool := fs.getLsbD 7
/-- SCALE, all-zero magnitude taken as 1 (R154). -/
def slotScale (fs : DWord) : Fv :=
  let w := fs.extractLsb' 32 32
  if w.toNat % 0x80000000 == 0 then .fin false 1 1 else f32v w
/-- Element width with RES counted as 32 (R153, R169). -/
def Elem.width : Elem → Nat | .flt f => f.width | .int w => w | .res => 32

/-- RESENC (R157). -/
def resEnc (a : Int) : Word :=
  BitVec.ofNat 32 ((a % 255).toNat + (a % 256).toNat * 256 + (a % 257).toNat * 65536)
def r255 (w : Word) : Nat := w.toNat % 256 % 255
def r256 (w : Word) : Nat := w.toNat / 256 % 256
def r257 (w : Word) : Nat := w.toNat / 65536 % 512 % 257
/-- CRT (R158). -/
def crt (w : Word) : Int :=
  let x := (r255 w * 128 % 255 * 65792 + r256 w * 255 % 256 * 65535 + r257 w * 129 % 257 * 65280) % 16776960
  if x < 8388480 then x else (x : Int) - 16776960

def clampI (z lo hi : Int) : Int := min (max z lo) hi
/-- SAT(i32, x) and SAT(n32, x) as words (R118). -/
def satI (z : Int) : Word := BitVec.ofInt 32 (clampI z (-2147483648) 2147483647)
def satN (z : Int) : Word := BitVec.ofInt 32 (clampI z 0 4294967295)

/-- Integer limits of an element (R155). -/
def intLimits (e : Elem) (sym : Bool) : Int × Int :=
  match e with
  | .int 8 => (if sym then -127 else -128, 127)
  | .int w => (-(2 ^ (w - 1) : Nat), (2 ^ (w - 1) : Nat) - 1)
  | .res => (-8388480, 8388479)
  | .flt _ => (0, 0)

/-- SLOT.NARROW of an exact value, and whether the epilogue counts an overflow (R155, R282). -/
def narrowV (fs : DWord) (x : Fv) : Word × Bool :=
  let y := x.mul (slotScale fs)
  let m := slotRnd fs
  match slotElem fs with
  | .flt f =>
    match y with
    | .nan => (BitVec.ofNat 32 f.cnan, false)
    | .inf s => (BitVec.ofNat 32 (f.sign s + (if slotSat fs || !f.infs then f.top else f.infEnc)), false)
    | .fin s n d =>
      let r := f.round m (.fin s n d)
      let o := f.overflows m (.fin s n d)
      (BitVec.ofNat 32 (if o then f.sign s + f.top else r), o)
  | .int w =>
    let l := intLimits (.int w) (slotSym fs)
    match y with
    | .nan => (0, false)
    | .inf s => (BitVec.ofInt 32 (if s then l.1 else l.2), false)
    | .fin s n d =>
      let z := (Fv.fin s n d).toInt m
      (BitVec.ofInt 32 (clampI z l.1 l.2), decide (z < l.1 ∨ l.2 < z))
  | .res =>
    let l := intLimits .res false
    match y with
    | .nan => (resEnc 0, false)
    | .inf s => (resEnc (if s then l.1 else l.2), false)
    | .fin s n d =>
      let z := (Fv.fin s n d).toInt m
      (resEnc (clampI z l.1 l.2), decide (z < l.1 ∨ l.2 < z))

/-- SLOT.NARROW of an FP32 word (R155). -/
def narrow (fs : DWord) (x : Word) : Word := (narrowV fs (f32v x)).1

/-- SEXT of the low w bits (R9). -/
def sextN (x w : Nat) : Int :=
  let y := x % 2 ^ w
  if 2 * y < 2 ^ w then y else (y : Int) - 2 ^ w

/-- The value of an element in the low bits of a word (R156). -/
def elemValue (fs : DWord) (w : Word) : Fv :=
  match slotElem fs with
  | .flt f => f.decode (w.toNat % 2 ^ f.width)
  | .int k => .ofInt (sextN w.toNat k)
  | .res => .ofInt (crt w)

/-- SLOT.WIDEN (R156). -/
def widen (fs : DWord) (w : Word) : Word :=
  let y := (elemValue fs w).div (slotScale fs)
  match y with
  | .nan => f32nan
  | .inf s => BitVec.ofNat 32 (Fmt.f32.sign s + Fmt.f32.infEnc)
  | .fin s n d =>
    let o := Fmt.f32.overflows (slotRnd fs) (.fin s n d)
    BitVec.ofNat 32 (if o then Fmt.f32.sign s + Fmt.f32.top else Fmt.f32.round (slotRnd fs) (.fin s n d))

/-! Subscription formats (R240, R241) -/

def subRank : SubFmt → Nat
  | .exact => 4 | .f16 => 3 | .bf16 => 2 | .e4m3 => 1 | .e5m2 => 0
def subFmt : SubFmt → Fmt
  | .exact => .f32 | .bf16 => .bf16 | .f16 => .f16 | .e4m3 => .e4m3 | .e5m2 => .e5m2
/-- round_F of a word, as an encoding (R241). -/
def subRound (f : SubFmt) (x : Word) : Word :=
  match f with
  | .exact => x
  | .bf16 | .f16 | .e4m3 | .e5m2 => BitVec.ofNat 32 ((subFmt f).round .rne (f32v x))
/-- An encoding of F widened exactly to FP32; a NaN gives the canonical one (R255). -/
def subWiden (f : SubFmt) (e : Word) : Word :=
  match f with
  | .exact => e
  | .bf16 | .f16 | .e4m3 | .e5m2 => f32r ((subFmt f).decode e.toNat)

/-! SFU (R164, R165): exact where the spec lists an exact case, else 600-bit fixed point and one rounding (log 22). -/

namespace Sfu

def prec : Nat := 600
def one : Int := 2 ^ prec

/-- x y of two fixed-point numbers. -/
def fxMul (x y : Int) : Int := x * y / one

/-- Sum of t, t z/(k(k+1)..), ...: the series with term ratio z/(num k), fuel terms. -/
def series (ratio : Nat → Int → Int) : Nat → Nat → Int → Int → Int
  | 0, _, _, acc => acc
  | fuel + 1, k, t, acc => series ratio fuel (k + 1) (ratio k t) (acc + t)

/-- exp of a fixed-point number below 2. -/
def exp (x : Int) : Int := series (fun k t => fxMul t x / ((k : Int) + 1)) 200 0 one 0

/-- Sum over k of sign^k z^(2k+1)/(2k+1): atanh for sign 1, atan for sign -1. -/
def atanSeries (sign : Int) (z2 : Int) : Nat → Nat → Int → Int → Int
  | 0, _, _, acc => acc
  | fuel + 1, k, p, acc => atanSeries sign z2 fuel (k + 1) (sign * fxMul p z2) (acc + p / (2 * (k : Int) + 1))

def atanh (z : Int) : Int := atanSeries 1 (fxMul z z) 420 0 z 0
def atan (z : Int) : Int := atanSeries (-1) (fxMul z z) 420 0 z 0
def ln2 : Int := 2 * atanh (one / 3)
def pi : Int := 16 * atan (one / 5) - 4 * atan (one / 239)

/-- sin of a fixed-point number below 2. -/
def sin (x : Int) : Int := series (fun k t => -(fxMul (fxMul t x) x) / ((2 * (k : Int) + 2) * (2 * k + 3))) 160 0 x 0

/-- A fixed-point number as a value. -/
def toFv (neg : Bool) (x : Int) : Fv := .fin neg x.natAbs (2 ^ prec)

/-- A fraction as a fixed-point number. -/
def ofFrac (n d : Nat) : Int := (n * 2 ^ prec / d : Nat)

/-- The square root of a fraction with a sticky bit, so that one rounding of it is exact. -/
def sqrt (n d : Nat) : Fv :=
  let m := n * 4 ^ 400 / d
  let q := Nat.sqrt m
  .fin false (2 * q + (if q * q == m && m * d == n * 4 ^ 400 then 0 else 1)) (2 * 2 ^ 400)

/-- 2^a of a finite value. -/
def exp2 (s : Bool) (n d : Nat) : Fv :=
  let a : Int := if s then -(n : Int) else n
  let i := a / d
  let f := (a % d).toNat
  if 128 ≤ i then .inf false
  else if i < -160 then .fin false 1 (2 ^ 160)
  else
    let p := pow2 i
    if f == 0 then .fin false p.1 p.2
    else .fin false ((exp (fxMul (ofFrac f d) ln2)).toNat * p.1) (2 ^ prec * p.2)

/-- log2 of a positive value. -/
def log2 (n d : Nat) : Fv :=
  let e := floorLog2 n d
  let p := pow2 e
  let m := ofFrac (n * p.2) (d * p.1)
  if m == one then .ofInt e
  else
    let l := 2 * atanh ((m - one) * one / (m + one))
    let y := e * one + l * one / ln2
    .fin (decide (y < 0)) y.natAbs (2 ^ prec)

/-- sin(pi a) of a finite value that is no integer; cos(pi a) = sin(pi (a + 1/2)). -/
def sinpi (s : Bool) (n d : Nat) : Fv :=
  let r := n % (2 * d)                    -- a mod 2, as r/d
  let flip := decide (d ≤ r)
  let q := if d ≤ r then r - d else r     -- in [0, 1)
  let q := if d < 2 * q then d - q else q -- in [0, 1/2]
  if 2 * q == d then .fin (s != flip) 1 1
  else toFv (s != flip) (sin (fxMul pi (ofFrac q d)))

/-- tanh of a finite value. -/
def tanh (s : Bool) (n d : Nat) : Fv :=
  if 16 * d ≤ n then .fin s 1 1
  else
    let y := ofFrac (2 * n) d
    let i := y / ln2
    let e := exp (y - i * ln2) * (2 ^ i.toNat : Nat)
    .fin s (e - one).natAbs (e + one).natAbs

end Sfu

/-- SFU of an FP32 word (R164, R165). -/
def sfuOp (f : SfuOp) (a : Word) : Word :=
  let v := f32v a
  match f with
  | .rcp =>
    match v with
    | .nan => f32nan
    | .inf s => f32r (.fin s 0 1)
    | .fin s n d => if n == 0 then f32r (.inf s) else f32r (.fin s d n)
  | .rsqrt =>
    match v with
    | .nan => f32nan
    | .inf s => if s then f32nan else 0
    | .fin s n d => if n == 0 then f32r (.inf s) else if s then f32nan else f32r (Sfu.sqrt d n)
  | .sqrt =>
    match v with
    | .nan => f32nan
    | .inf s => if s then f32nan else a
    | .fin s n d => if n == 0 then a else if s then f32nan else f32r (Sfu.sqrt n d)
  | .exp2 =>
    match v with
    | .nan => f32nan
    | .inf s => if s then 0 else a
    | .fin s n d => f32r (Sfu.exp2 s n d)
  | .log2 =>
    match v with
    | .nan => f32nan
    | .inf s => if s then f32nan else a
    | .fin s n d => if n == 0 then f32r (.inf true) else if s then f32nan else f32r (Sfu.log2 n d)
  | .sinpi =>
    match v with
    | .nan => f32nan
    | .inf _ => f32nan
    | .fin s n d => if n % d == 0 then f32r (.fin s 0 1) else f32r (Sfu.sinpi s n d)
  | .cospi =>
    match v with
    | .nan => f32nan
    | .inf _ => f32nan
    | .fin _ n d => if (2 * n + d) % (2 * d) == 0 then 0 else f32r (Sfu.sinpi false (2 * n + d) (2 * d))
  | .tanh =>
    match v with
    | .nan => f32nan
    | .inf s => if s then 0xBF800000 else 0x3F800000
    | .fin s n d => if n == 0 then a else f32r (Sfu.tanh s n d)

/-- ICVT (R167). -/
def icvtOp (f : IcvtOp) (mode : Rnd) (a : Word) : Word :=
  match f with
  | .i2f => BitVec.ofNat 32 (Fmt.f32.round mode (.ofInt a.toInt))
  | .n2f => BitVec.ofNat 32 (Fmt.f32.round mode (.ofInt a.toNat))
  | .f2i =>
    match f32v a with
    | .nan => 0
    | .inf s => if s then 0x80000000 else 0x7FFFFFFF
    | .fin s n d => satI ((Fv.fin s n d).toInt mode)
  | .f2n =>
    match f32v a with
    | .nan => 0
    | .inf s => if s then 0 else 0xFFFFFFFF
    | .fin s n d => satN ((Fv.fin s n d).toInt mode)

end Sys2Proof.Machine
end

