-- ==== Sys2Proof/Machine/Alu.lean ====
section
/-! DEFINITION. The integer and packing functions of spec/05_integer.md and spec/06_float.md R161 to R172 on words. -/

namespace Sys2Proof.Machine

/-- ADD (R121). -/
def addOp (f : AddOp) (a b : Word) : Word :=
  match f with
  | .add => a + b
  | .sub => a - b
  | .addSatI => satI (a.toInt + b.toInt)
  | .subSatI => satI (a.toInt - b.toInt)
  | .addSatN => satN (a.toNat + b.toNat)
  | .subSatN => satN ((a.toNat : Int) - b.toNat)
  | .adiffI => BitVec.ofInt 32 (a.toInt - b.toInt).natAbs
  | .adiffN => BitVec.ofInt 32 ((a.toNat : Int) - b.toNat).natAbs

/-- The exact products of R122. -/
def prodI (a b : Word) : Int := a.toInt * b.toInt
def prodN (a b : Word) : Int := (a.toNat * b.toNat : Nat)
/-- Bits [63:32] of the two's-complement 64-bit form (R122). -/
def hi32 (p : Int) : Word := (BitVec.ofInt 64 p).extractLsb' 32 32
def lo32 (d : DWord) : Word := d.extractLsb' 0 32
def up32 (d : DWord) : Word := d.extractLsb' 32 32
/-- A pair from its words (R21). -/
def pair (lo hi : Word) : DWord := hi ++ lo

/-- MUL and MAD (R122): the words written from vd upward; c is the addend, C its pair, both 0 for MUL. -/
def mulOp (f : MulOp) (a b c cHi : Word) : List Word :=
  match f with
  | .lo => [a * b + c]
  | .hiI => [hi32 (prodI a b) + c]
  | .hiN => [hi32 (prodN a b) + c]
  | .satI => [satI (prodI a b + c.toInt)]
  | .satN => [satN (prodN a b + c.toNat)]
  | .wideI =>
    let r := BitVec.ofInt 64 (prodI a b) + pair c cHi
    [lo32 r, up32 r]
  | .wideN =>
    let r := BitVec.ofInt 64 (prodN a b) + pair c cHi
    [lo32 r, up32 r]

/-- Whether a MUL or MAD member works on a pair (R122). -/
def mulWide (f : MulOp) : Bool :=
  match f with | .wideI | .wideN => true | .lo | .hiI | .hiN | .satI | .satN => false

/-- LOG (R123). -/
def logOp (f : LogOp) (a b : Word) : Word :=
  match f with
  | .and => a &&& b | .or => a ||| b | .xor => a ^^^ b | .andn => a &&& ~~~b | .orn => a ||| ~~~b
  | .xnor => ~~~(a ^^^ b) | .nand => ~~~(a &&& b) | .nor => ~~~(a ||| b)

/-- SHF by the whole 32-bit count (R124). -/
def shfOp (f : ShfOp) (a b : Word) : Word :=
  match f with
  | .shl => if b.toNat < 32 then a <<< b.toNat else 0
  | .shrN => if b.toNat < 32 then a >>> b.toNat else 0
  | .shrI => a.sshiftRight (min b.toNat 31)
  | .rol => a.rotateLeft (b.toNat % 32)
  | .ror => a.rotateRight (b.toNat % 32)

def minI (a b : Word) : Word := if a.slt b then a else b
def maxI (a b : Word) : Word := if a.slt b then b else a
def minN (a b : Word) : Word := if a.ult b then a else b
def maxN (a b : Word) : Word := if a.ult b then b else a

/-- MINMAX (R125); c is the old vd. -/
def minmaxOp (f : MinMaxOp) (a b c : Word) : Word :=
  match f with
  | .minI => minI a b | .maxI => maxI a b | .minN => minN a b | .maxN => maxN a b
  | .clampI => minI (maxI c a) b
  | .clampN => minN (maxN c a) b
  | .absI => BitVec.ofInt 32 a.toInt.natAbs
  | .absSatI => satI a.toInt.natAbs

/-- Bits of a word from bit 31 down. -/
def bitsDown (a : Word) : List Bool := (List.range 32).map fun k => a.getLsbD (31 - k)
def popc (a : Word) : Word := BitVec.ofNat 32 ((bitsDown a).count true)
def clz (a : Word) : Word := BitVec.ofNat 32 ((bitsDown a).takeWhile (! ·)).length
def ctz (a : Word) : Word := BitVec.ofNat 32 ((bitsDown a).reverse.takeWhile (! ·)).length

/-- BIT (R126). -/
def bitOp (f : BitOp) (a : Word) : Word :=
  match f with
  | .popc => popc a
  | .clz => clz a
  | .ctz => ctz a
  | .brev => a.reverse
  | .bswap => a.extractLsb' 0 8 ++ a.extractLsb' 8 8 ++ a.extractLsb' 16 8 ++ a.extractLsb' 24 8
  | .cls => BitVec.ofNat 32 ((bitsDown a).tail.takeWhile (· == a.getLsbD 31)).length

/-- Position and width of BFX and BFI (R127). -/
def bfPos (b : Word) : Nat := b.toNat % 32
def bfWidth (b : Word) : Nat := min (b.toNat / 256 % 64) (32 - bfPos b)

/-- BFX (R127). -/
def bfxOp (f : BfxOp) (a b : Word) : Word :=
  let w := bfWidth b
  let x := a.toNat / 2 ^ bfPos b % 2 ^ w
  match f with
  | .unsigned => BitVec.ofNat 32 x
  | .signed => if w == 0 then 0 else BitVec.ofInt 32 (sextN x w)

/-- BFI into the old vd c (R127). -/
def bfiOp (a b c : Word) : Word :=
  let m : Word := BitVec.ofNat 32 ((2 ^ bfWidth b - 1) * 2 ^ bfPos b)
  c &&& ~~~m ||| (a <<< bfPos b) &&& m

/-- OPI (R129). -/
def opiOp (f : OpiOp) (imm : BitVec 9) (a : Word) : Word :=
  let k := imm.signExtend 32
  match f with
  | .addi => a + k | .andi => a &&& k | .ori => a ||| k | .xori => a ^^^ k
  | .shli => a <<< (imm.toNat % 32)
  | .shriN => a >>> (imm.toNat % 32)
  | .shriI => a.sshiftRight (imm.toNat % 32)
  | .muli => a * k

/-- SOP on words (R142); the pair members are dopOp. -/
def sopOp (f : SopOp) (c a : Word) : Word :=
  match f with
  | .smov => a | .sadd => c + a | .ssub => c - a | .smul => c * a
  | .smulhiI => hi32 (prodI c a) | .smulhiN => hi32 (prodN c a)
  | .sand => c &&& a | .sor => c ||| a | .sxor => c ^^^ a | .sandn => c &&& ~~~a
  | .sshl => shfOp .shl c a | .sshr => shfOp .shrN c a | .ssar => shfOp .shrI c a
  | .sminI => minI c a | .smaxI => maxI c a | .sminN => minN c a | .smaxN => maxN c a
  | .snot => ~~~a | .sneg => 0 - a | .spopc => popc a | .sclz => clz a | .sctz => ctz a
  | .saddSat => satI (c.toInt + a.toInt) | .ssubSat => satI (c.toInt - a.toInt)
  | .sseq => if c == a then 1 else 0
  | .ssltI => if c.slt a then 1 else 0
  | .ssltN => if c.ult a then 1 else 0
  | .dmov | .dadd | .dsub => c

/-- Whether a SOP member works on pairs (R142). -/
def sopPair (f : SopOp) : Bool := f == .dmov || f == .dadd || f == .dsub

def dopOp (f : SopOp) (c a : DWord) : DWord :=
  if f == .dmov then a else if f == .dadd then c + a else c - a

/-- FAR (R161). -/
def farOp (f : FarOp) (a b : Word) : Word :=
  match f with
  | .add => fadd a b | .sub => fsub a b | .mul => fmul a b | .min => fmin a b | .max => fmax a b
  | .copysign => withSign a (b.getLsbD 31)
  | .adiff => fadiff a b

/-- FFMA (R162); c is the old vd. -/
def ffmaOp (f : FfmaOp) (a b c : Word) : Word :=
  BitVec.ofNat 32 <| match f with
  | .fma => Fmt.f32.fma false false a.toNat b.toNat c.toNat
  | .fms => Fmt.f32.fma false true a.toNat b.toNat c.toNat
  | .fnma => Fmt.f32.fma true false a.toNat b.toNat c.toNat
  | .fnms => Fmt.f32.fma true true a.toNat b.toNat c.toNat

/-- One half of HOP (R170). -/
def hopHalf (f : HopOp) (a b c : BitVec 16) : BitVec 16 :=
  let ar (g : Fmt) (k : Nat) : Nat :=
    let x := g.decode a.toNat
    let y := g.decode b.toNat
    match k with
    | 0 => g.round .rne (.sum [x, y])
    | 1 => g.round .rne (.sum [x, y.neg])
    | 2 => g.round .rne (x.mul y)
    | _ => g.fma false false a.toNat b.toNat c.toNat
  BitVec.ofNat 16 <| match f with
  | .addBf => ar .bf16 0 | .subBf => ar .bf16 1 | .mulBf => ar .bf16 2 | .fmaBf => ar .bf16 3
  | .addF16 => ar .f16 0 | .subF16 => ar .f16 1 | .mulF16 => ar .f16 2 | .fmaF16 => ar .f16 3

/-- HOP: each half alone (R170). -/
def hopOp (f : HopOp) (a b c : Word) : Word :=
  hopHalf f (a.extractLsb' 16 16) (b.extractLsb' 16 16) (c.extractLsb' 16 16)
    ++ hopHalf f (a.extractLsb' 0 16) (b.extractLsb' 0 16) (c.extractLsb' 0 16)

/-- A word with its bits [lo+n-1:lo] replaced. -/
def setBits (c : Word) (lo n : Nat) (v : Nat) : Word :=
  let m : Word := BitVec.ofNat 32 ((2 ^ n - 1) * 2 ^ lo)
  c &&& ~~~m ||| BitVec.ofNat 32 (v % 2 ^ n * 2 ^ lo)

/-- PACK into the old vd c (R168). -/
def packOp (f : PackOp) (a b c : Word) : Word :=
  let p4 (j : Nat) := setBits c (8 * j) 8 (b.toNat % 16 * 16 + a.toNat % 16)
  match f with
  | .p16 => setBits c 0 32 (b.toNat % 65536 * 65536 + a.toNat % 65536)
  | .p8lo => setBits c 0 16 (b.toNat % 256 * 256 + a.toNat % 256)
  | .p8hi => setBits c 16 16 (b.toNat % 256 * 256 + a.toNat % 256)
  | .p4b0 => p4 0 | .p4b1 => p4 1 | .p4b2 => p4 2 | .p4b3 => p4 3

/-- UNPK (R169). -/
def unpkOp (f : UnpkOp) (fs : DWord) (i : Nat) (a : Word) : Word :=
  let w := (slotElem fs).width
  let x := a.toNat / 2 ^ (w * (i % (32 / w))) % 2 ^ w
  match f with
  | .widen => widen fs (BitVec.ofNat 32 x)
  | .raw => BitVec.ofNat 32 x
  | .raws => BitVec.ofInt 32 (sextN x w)

/-- RENC (R171). -/
def rencOp (f : RencOp) (a : Word) : Word :=
  match f with
  | .plain => resEnc a.toInt
  | .sat => resEnc (clampI a.toInt (-8388480) 8388479)

/-- RDEC (R172). -/
def rdecOp (f : RdecOp) (a : Word) : Word :=
  match f with
  | .i32 => BitVec.ofInt 32 (crt a)
  | .r255 => BitVec.ofNat 32 (r255 a)
  | .r256 => BitVec.ofNat 32 (r256 a)
  | .r257 => BitVec.ofNat 32 (r257 a)

/-- REDX over the values of G(t) in lane order (R139). -/
def redxOp (o : RedxOp) (xs : List Word) : Word :=
  let fold (f : Word → Word → Word) : Word := match xs with | [] => 0 | x :: r => r.foldl f x
  match o with
  | .add => fold (· + ·)
  | .minI => fold minI | .maxI => fold maxI | .minN => fold minN | .maxN => fold maxN
  | .and => fold (· &&& ·) | .or => fold (· ||| ·) | .xor => fold (· ^^^ ·)
  | .addF => f32r (.sum (xs.map f32v))
  | .minF => let r := fold fmin; if (f32v r).isNan then f32nan else r
  | .maxF => let r := fold fmax; if (f32v r).isNan then f32nan else r

/-- ATOM's OP on values of w bits (R205). -/
def atomOp (p : Aop) (w : Nat) (old b : Nat) : Nat :=
  let lt (x y : Nat) : Bool := decide (sextN x w < sextN y w)
  match p with
  | .swap => b
  | .add => (old + b) % 2 ^ w
  | .and => old &&& b
  | .or => old ||| b
  | .xor => old ^^^ b
  | .minI => if lt b old then b else old
  | .maxI => if lt old b then b else old
  | .minN => min old b
  | .maxN => max old b
  | .inc => if b ≤ old then 0 else old + 1
  | .dec => if old == 0 || b < old then b else old - 1
  | .addF => (fadd (BitVec.ofNat 32 old) (BitVec.ofNat 32 b)).toNat

end Sys2Proof.Machine
end

