-- ==== Sys2Proof/Machine/Flags.lean ====
section
/-! DEFINITION. What sets a predicate: comparisons (R133), predicate logic (R134), float classes (R173), votes (R138). -/

namespace Sys2Proof.Machine

/-- An ordered comparison from "less" and "equal" (R133). -/
def condOf (c : CmpCond) (lt eq : Bool) : Bool :=
  match c with
  | .eq => eq | .ne => !eq | .lt => lt | .le => lt || eq | .gt => !lt && !eq | .ge => !lt
  | .nan => false | .num => true

/-- CMP (R133). -/
def cmpOp (t : CmpType) (c : CmpCond) (a b : Word) : Bool :=
  match t with
  | .i32 => condOf c (a.slt b) (a == b)
  | .n32 => condOf c (a.ult b) (a == b)
  | .f32 =>
    let x := f32v a
    let y := f32v b
    if x.isNan || y.isNan then c == .ne || c == .nan
    else condOf c (x.lt y) (!x.lt y && !y.lt x)

/-- PLOG (R134). -/
def plogOp (c : PlogOp) (a b : Bool) : Bool :=
  match c with
  | .pand => a && b | .por => a || b | .pxor => a != b | .pandn => a && !b | .porn => a || !b
  | .pnand => !(a && b) | .pnor => !(a || b) | .pxnor => a == b

/-- FCLS (R173): the mask bit of the encoding's class. -/
def fclsOp (t : FclsType) (mask : BitVec 9) (a : Word) : Bool :=
  mask.getLsbD ((fclsFmt t).cls (a.toNat % 2 ^ (fclsFmt t).width))

/-- VOTE over the predicate values of the ACTIVE threads (R138); ballot sets no predicate. -/
def voteOp (t : VoteOp) (ps : List Bool) : Bool :=
  match t with
  | .all => ps.all id
  | .any => ps.any id
  | .uni => ps.all id || !ps.any id
  | .ballot => false

end Sys2Proof.Machine
end

