-- ==== Sys2Proof/Config.lean ====
section
/-! DEFINITION. What is fixed for the part or left open by the spec: the figures of spec/01 R11 to R13, and the free values
(opaque constants without a body: no proof can see what they are; each names its entry of the assumption log). -/

namespace Sys2Proof.Config

/-- Cores of a compute die (R12). -/
def coresPerDie : Nat := 80
/-- Logical cores of the package (R12). -/
def cores : Nat := 320
/-- Bytes of the deck (R177). -/
def deckBytes : Nat := 0x18000000
/-- Bytes of the deck of one die (R177). -/
def dieBytes : Nat := 0x6000000
/-- Bytes of a deck line (R177). -/
def lineBytes : Nat := 128
/-- Squad-memory bytes of a core (R95). -/
def squadMemBytes : Nat := 262144
/-- Bytes of stroke memory (R323). -/
def skmBytes : Nat := 0x400000
/-- Window bases of R175. -/
def squadBase : Nat := 0xFFF000000000
def spillBase : Nat := 0xFFF800000000
def skmBase : Nat := 0xFFFC00000000
/-- Entries of the grid table (R93), of a range table (R112), of the launch queue (R402), of the request queue (R387). -/
def gridTable : Nat := 4096
def rangeTable : Nat := 256
def launchQueue : Nat := 256
def requestQueue : Nat := 4096
/-- Physical tile slots of a core (R265). -/
def tankSlots : Nat := 128
/-- Strokes of the outbound queue (R320), records held past a gap and history kept (R340). -/
def outbound : Nat := 64
def heldRecords : Nat := 4096
/-- Replay buffer of a far link (R409). -/
def replayFlits : Nat := 4096
/-- Pending-table entries and watched lines of an Erg (R350, R348). -/
def pendingTable : Nat := 4096
def watchedLines : Nat := 65536
/-- Subscription entries of a core (R242). -/
def subEntries : Nat := 128

/-- The part number of DEV_ID (R374). -/
def partNumber : BitVec 16 := 0x0940

/-- FREE VALUE: the stepping of DEV_ID, fused (R374, log 8). -/
opaque stepping : BitVec 8
/-- FREE VALUE: the package's own identifier, fused (R16, R374, log 8): one of the 6,144 of 96 pods. -/
opaque packageFuse : Fin 6144
/-- Identifiers of packages (R16). -/
def packages : Nat := 6144
def packageId : BitVec 13 := BitVec.ofNat 13 packageFuse.val
/-- FREE VALUE: the fused rollback counter (R405, log 8). -/
opaque rollback : BitVec 16
/-- FREE VALUE: room of the host event ring, set up by the service kernel (R423, log 8). -/
opaque eventRoom : Nat
/-- FREE VALUE: where the service kernel has set up the host event ring in host memory (R423, log 8). -/
opaque eventBase : Nat
/-- FREE VALUE: whether a wake has come to the end of its code lock by now (R414, log 63). -/
opaque codeLock (key link : Nat) : Bool
/-- FREE VALUE: records the host takes out of its event ring in a tick (R423, log 8). -/
opaque hostTakes (key : Nat) : Nat
/-- FREE VALUE: the payload of a control flit, which the spec does not lay out: what it is for (0 stage 6, 1 narrowing, 2 a change of width), the
active lists of the sender's transmit and receive directions and its PARKED mask (R411, R412, R414, log 34). -/
opaque controlPayload (what : Nat) (transmit receive parked : BitVec 16) : BitVec 512
/-- FREE VALUE: bytes whose contents the spec calls undefined (R182, R183, R298, log 4 and 14). -/
opaque freeByte (seed off : Nat) : Byte
/-- FREE VALUE: which of two values a lookahead window gives (R40, log 5). -/
opaque lookaheadOld (key left lane reg : Nat) : Bool
/-- FREE VALUE: whether a cached translation is still held (R190, R192, log 6). -/
opaque tlbHeld (key level : Nat) : Bool
/-- FREE VALUE: whether a thread reads a store of its core that is not yet at home before a release has shown it (R223, log 9). -/
opaque seesEarly (key write lane : Nat) : Bool
/-- FREE VALUE: whether a load or a squad-memory store still to perform is performed in this tick, and the ticks after which it is at the latest
(R181, R213, R218, log 9). -/
opaque performsNow (key access : Nat) : Bool
opaque latency : Nat
/-- FREE VALUE: the order of threads the spec leaves undefined, as a sort key (R195, R70, R305, log 10). -/
opaque orderKey (key lane : Nat) : Nat
/-- FREE VALUE: whether an overlapping copy reads the original byte (R304, R306, log 13). -/
opaque overlapOld (cmd k : Nat) : Bool
/-- FREE VALUE: nanoseconds of TIME that pass in one tick of the model (R397, R398, log 7). -/
opaque tickNs (key : Nat) : Nat
/-- FREE VALUE: the ECDSA and LMS checks of a firmware image against the fused hashes (R405, log 19). -/
opaque ecdsaOk (image : List Byte) : Bool
opaque lmsOk (image : List Byte) : Bool
/-- FREE VALUE: whether a piece received over a fabric was the last of its command (R440, log 20). -/
opaque lastPiece (tag base count : Nat) : Bool
/-- FREE VALUE: the fragment bases of a pending matrix operation restored by CTXLD (R271, R392, log 21). -/
opaque restoredFragment (key cv lane : Nat) : BitVec 3
/-- FREE VALUE: the address of the signing instruction of a signature restored by CTXLD (R271, R289, log 21). -/
opaque restoredSigner (key cv lane : Nat) : BitVec 48
/-- FREE VALUE: the last error and the compared samples of an Erg slot loaded from an image, which does not hold them, and the entry E of its
grid where no grid binds its descriptor (R370, log 21). -/
opaque restoredErr (key : Nat) : BitVec 32
opaque restoredCompared (key : Nat) : Nat
opaque restoredEntry (key : Nat) : BitVec 48
/-- FREE VALUE: the part field of a 0x41 record, which the spec does not lay out (R423, R443, log 26). -/
opaque partCode (key : Nat) : BitVec 16
/-- FREE VALUE: the HBM stack a page of HBM lies in (R11, R401, log 26). -/
opaque hbmStack (page : Nat) : Fin 12
/-- FREE VALUE: the HBM channel a line of HBM lies in (R404, log 26). -/
opaque hbmChannel (line : Nat) : Nat
/-- FREE VALUE: the HBM stack that a channel is one of (R404, log 26). -/
opaque channelStack (channel : Nat) : Fin 12
/-- FREE VALUE: whether the deck has a spare line left for one that fails its test (R401, R404, log 82). -/
opaque deckSpareLeft (key : Nat) : Bool
/-- FREE VALUE: the HBM lines whose data a failed channel had not yet written back (R404, log 26). -/
opaque hbmUnwritten (key channel : Nat) : List Nat
/-- FREE VALUE: the reply of CTXLD for a crew, which the spec does not state (R394, log 25). -/
opaque ctxldReply (key : Nat) : BitVec 64
/-- FREE VALUE: bytes a peer had written when a copy to it failed (R297, log 20). -/
opaque peerGot (cmd : Nat) : Nat
/-- FREE VALUE: how many commands beyond one the input buffer of an engine of a kind holds (R293, log 20). -/
opaque engineBuffer (unit : Nat) : Nat
/-- FREE VALUE: the tag an issuing engine chooses for a remote copy (R440, log 20). -/
opaque commandTag (key : Nat) : BitVec 64
end Sys2Proof.Config
end

