-- ==== Sys2Proof/Machine/State.lean ====
section
/-! DEFINITION. The state of one Izgar package as plain data, what stops it, and the machine right after reset
(INVENTORY.md, heading State, gives the rule and the reset value of every field). -/

namespace Sys2Proof.Machine

open Host (Cell)

/-- Why a run stops with a fault. Every trap of the spec is a next state, so no meaning raises one. -/
inductive Fault where
  /-- Raised by no meaning of this model: traps are taken (R380) and engine errors complete commands (R297). Safe. -/
  | stuck
  deriving DecidableEq, Repr

/-- Why an instruction has no meaning. -/
inductive Refusal where
  /-- Raised by an arm of exec whose instruction has no meaning yet. Safe: nothing is claimed of it. -/
  | notModelled (mnemonic : String)
  deriving DecidableEq, Repr

/-- The answer of one step. -/
abbrev Out (σ : Type) := Host.Outcome σ Fault Refusal

/-- Causes of traps with the codes of R378. -/
inductive Cause where
  | illegal | priv | misalign | page | prot | farAccess | regBound | rstackEmpty | tankOwned | poison | ergOwned | swtrap
  | depthLimit | queueFault
  deriving DecidableEq, Repr

/-- A byte memory without presence of its own: sorted, no entry equal to 0, unlisted addresses read 0 (log 3). -/
abbrev Memory := List Cell

/-- A byte store whose unlisted bytes are free values (squad memory and spill, R182, R183, log 4). -/
structure Region where
  seed  : Nat
  cells : List Cell
  deriving DecidableEq, Repr

/-- A register of a lookahead window (R39, R40): instructions left, register, the value before, the long result once there is one, and whether
the thread has written the register since. -/
structure LookEntry where
  key   : Nat
  left  : Nat
  reg   : Nat
  old   : Word
  new   : Option Word
  wrote : Bool
  deriving DecidableEq, Repr

/-- The region flag of a thread when valid (R350): slot and REC. -/
structure InReg where
  slot : Nat
  recd : Bool
  deriving DecidableEq, Repr

/-- A thread (R20, R59, R374). -/
structure Thread where
  v          : List Word
  p          : DWord
  pcv        : Pc
  live       : Bool
  yex        : Bool
  rwait      : Bool
  rsd        : BitVec 16
  rs         : List Pc          -- resident entries, newest first
  inreg      : Option InReg
  pcvSave    : DWord
  trapAddr   : DWord
  trapTcause : BitVec 8
  trapTstate : BitVec 3
  win        : List LookEntry
  deriving DecidableEq, Repr

/-- A signature (R272): lane, address of the signing instruction, first A and B register, the two fragments. -/
structure Signature where
  lane : Nat
  at_  : Pc
  a    : Nat
  b    : Nat
  wa   : List Word
  wb   : List Word
  deriving DecidableEq, Repr

/-- A convergence register (R271). -/
structure Cv where
  signed : Lanes
  decl   : BitVec 8
  pend   : Bool
  opword : Word
  sigs   : List Signature
  deriving DecidableEq, Repr

/-- REP state of a crew (R43) with the prefix being repeated, decoded (step, mask, count). -/
structure RepCtl where
  step  : Nat
  mask  : BitVec 4
  count : Nat
  deriving DecidableEq, Repr

/-- fixed is the set ACTIVE of the repeats, fixed at repeat 0 (R44); none when idle, and after an image that no save of this package left. -/
structure Rep where
  active : Bool
  i      : BitVec 6
  ctl    : RepCtl
  fixed  : Option Lanes
  deriving DecidableEq, Repr

/-- The memory a monitored line lies in (R209). -/
inductive LineSpace where
  | deck | squad (id : Nat) | skm
  deriving DecidableEq, Repr

/-- A monitor entry (R209); va is the line's virtual address as armed, kept for the save area (R392). -/
structure MonEntry where
  space     : LineSpace
  line      : Nat
  va        : Nat
  triggered : Bool
  deriving DecidableEq, Repr

/-- A stroke on its way into the outbound queue (R326, R334), without SLOT, CHECK and CRC. -/
structure Stroke where
  kind   : BitVec 8
  flags  : BitVec 8
  core   : BitVec 9
  offset : DWord
  p0     : DWord
  p1     : DWord
  deriving DecidableEq, Repr

/-- A full structure that holds a crew's instruction until room frees (R111, R293, R386, R387, R402). -/
inductive Hold where
  | rangeTable (die : Nat) | requests | engine (die : Nat) (unit : Nat) | lq
  deriving DecidableEq, Repr

/-- What a crew that is not ready waits for (R66). -/
inductive Wait where
  | fence (reads all pod : Bool)                                  -- R233
  | bar (id : Nat) (sd : Nat)                                     -- R236
  | bbar (take : Bool) (reply : Reply) (off : Nat)                -- R239
  | mwait (sd : Nat) (deadline : Option Nat)                      -- R211
  | svwait (reply : Reply) (off : Nat) (triggered : Bool)         -- R388
  | wstrk (note : Option Nat) (n : Nat) (reply : Reply)           -- R336
  | tlwait (tl : Nat) (m : Nat) (reply : Reply)                   -- R299
  | park (lines : List Nat)                                       -- R179
  | strk (stroke : Stroke) (takes : Bool) (reply : Reply)            -- R334
  | queue (q : Nat) (push : Bool)                                 -- R56
  | room (h : Hold)                                               -- R66: the instruction is issued again when room frees
  | perform (reply : Reply) (d : DWord)                           -- R369: DUMPW until its bytes are globally performed
  | join (reply : Reply) (count : Nat) (handle : Option DWord)    -- R108, R109
  deriving DecidableEq, Repr

/-- A pending WAITC (R104). -/
inductive WaitcOn where
  | deck (off target : Nat) | squad (off target : Nat) | skm (off target : Nat) | handle (h : DWord)
  deriving DecidableEq, Repr

structure Waitc where
  on    : WaitcOn
  reply : Reply
  deriving DecidableEq, Repr

/-- Kinds of a tile (R266). -/
inductive TileKind where
  | empty | f32 | res
  deriving DecidableEq, Repr

/-- A tile slot of a tank (R265, R266, R289): owner tag, elements as 64-bit words, status. -/
structure Tile where
  core  : Nat
  slot  : Nat
  tag   : Option (BitVec 12 × BitVec 42)
  elems : List DWord         -- 256; F32: the encoding; RES: residue word low, FOLD high
  kind  : TileKind
  depth : BitVec 4
  lost  : Bool
  ovf   : BitVec 16
  deriving DecidableEq, Repr

/-- Where an access of a thread lands (R14). -/
inductive Loc where
  | deck (off : Nat) | squad (off : Nat) | spill (off : Nat) | skm (off : Nat)
  deriving DecidableEq, Repr

/-- A load of one thread that has issued and whose result is still to come (R181, R218): the registers from reg upward, the location and its
virtual address, the format and mode it asks for (R247), the instructions left in its lookahead window, and the ticks it has taken. -/
structure PendLoad where
  key  : Nat
  lane : Nat
  reg  : Nat
  size : MSize
  loc  : Loc
  va   : Nat
  fmt  : SubFmt
  upd  : Bool
  left : Nat
  age  : Nat
  deriving DecidableEq, Repr

/-- A thread's store to squad memory that has issued and is still to be performed at the banks (R181, R227). -/
structure BankWrite where
  key   : Nat
  crew  : Nat
  lane  : Nat
  instr : Nat                -- the instruction it belongs to
  off   : Nat
  bytes : List Byte
  age   : Nat                -- ticks it has taken
  deriving DecidableEq, Repr

/-- A write to the deck that is not globally performed (R178, R249). -/
structure Write where
  id      : Nat
  core    : Option Nat       -- the writing core; none for engines and the hub
  crew    : Option Nat
  lane    : Nat              -- the storing thread; 32 for a crew-wide instruction
  instr   : Nat              -- the instruction it belongs to (R447)
  off     : Nat
  bytes   : List Byte
  plus    : Bool             -- an add of 1 to the 8 bytes it meets (R454)
  after   : List Nat         -- of a release: the writes that must be globally performed before home applies it (R219, R220)
  before  : List Nat         -- the writes ordered before it that were not globally performed: who reads it has them happen before (R218, R220)
  known   : List Nat         -- crews that have issued it, read from it or acquired it: their releases cover it (R220)
  ordered : List Nat         -- crews whose later accesses it is ordered before, releases or not (R218)
  shown   : Bool             -- a release has made it visible to every thread of its core (R223)
  seen    : List (Nat × Nat) -- threads of its core that have read from it before (R223)
  bcast   : Bool             -- it has met BCAST (R253)
  applied : Bool
  acks    : Nat              -- actions not yet acknowledged
  done    : Bool             -- globally performed, and kept while a write before it is not
  turn    : Nat              -- when home applied it
  old     : List (Option Byte) -- of an applied one: the bytes before it, none where a later write has been globally performed
  deriving DecidableEq, Repr

/-- A crew (R20; R374 for the trap registers). -/
structure Crew where
  id        : Nat
  core      : Nat
  part      : Nat
  slot      : Nat
  asid      : BitVec 12
  squad     : Nat
  grid      : DWord
  n         : Nat
  m         : Nat
  tileSlots : List Nat           -- physical slots of a0 upward (R265)
  threads   : List Thread
  s         : List Word
  x         : List Byte
  cv        : List Cv
  q         : List (List DWord)  -- q0 to q5
  rep       : Rep
  mon       : List MonEntry
  monOvf    : Bool
  icnt      : List Word
  cid       : Word
  role      : RoleClass
  raised    : Nat                -- classes raised by ageing (R117)
  age       : Nat                -- consecutive cycles it has been ready and has not issued (R117)
  lastIssue : Nat                -- cycle of its last issue, or of its start (log 11)
  passed    : Nat                -- issue cycles its ready boat has been passed over (R69)
  cause     : BitVec 8           -- TRAP_CAUSE fields (R379)
  privSave  : Bool
  inh       : Bool
  trapMask  : Lanes
  trapInfo  : BitVec 15
  repSave   : BitVec 7
  repFixed  : Option Lanes       -- ACTIVE of the REP that REP_SAVE holds (R44, R45)
  scr       : List DWord
  tankInfo  : DWord
  spill     : Region
  spillLen  : Nat
  spillBad  : List Nat           -- poisoned lines of its spill storage (R79; none at crew start, log 68)
  sb        : List Nat           -- reply pairs scoreboarded (R33)
  wait      : Option Wait
  waitLanes : Lanes              -- threads of the waiting instruction
  waitc     : List Waitc
  held      : Lanes              -- threads held at the issue address by R274
  haltReq   : Bool               -- a pre-emption request has named it and it has not halted yet (R390, R391)
  halted    : Bool
  loads     : List PendLoad      -- loads still to perform (R181, R218)
  replay    : List Write         -- stores a halt has dropped, issued again on resumption (R226, R389)
  bankOut   : List BankWrite     -- stores to squad memory a halt has dropped, likewise
  torn      : List Nat           -- instructions of which a store is visible and another access is still to perform (R389)
  haltCode  : Option (BitVec 15)
  s5Start   : Word
  pool      : Bool               -- in a SPAWN pool context (R106)
  task      : Option (Nat × Nat) -- die and range-table entry of a task crew (R114)
  task_idem : Bool
  ended     : Bool
  tilesOut  : List Tile          -- tiles of a crew that is swapped out (R108)
  deriving DecidableEq, Repr

/-- A crew saved by CTXSV (R392): the deck offsets of the 256-byte blocks of its area, and the crew behind the image, which takes replies and
completions that still arrive (R294, R389). -/
structure SavedCrew where
  blocks : List Nat
  crew   : Crew
  deriving DecidableEq, Repr

/-- A crew barrier (R235); all is set when the arrival that opened the phase carried COUNT 0. -/
structure Bar where
  isOpen  : Bool
  need    : BitVec 6
  arrived : BitVec 6
  all     : Bool
  deriving DecidableEq, Repr

/-- A timeline (R296); window holds the statuses of completed commands, by number. -/
structure Timeline where
  issued : DWord
  done   : DWord
  fails  : DWord
  window : List (Nat × DWord)
  deriving DecidableEq, Repr

/-- A subscription slot (R242). -/
structure SubSlot where
  valid : Bool
  fmt   : SubFmt
  upd   : Bool
  count : Nat
  base  : Nat
  seq   : BitVec 16
  deriving DecidableEq, Repr

/-- A squad (R88): where it runs, its memory, barriers, timelines and subscriptions. -/
structure Squad where
  id      : Nat
  core    : Nat
  grid    : DWord
  asid    : BitVec 12
  index   : Nat
  memLen  : Nat
  mem     : Region
  bank    : List BankWrite   -- stores to its memory still to perform, oldest first (R181, R227)
  bars    : List Bar
  tls     : List Timeline
  subs    : List SubSlot
  task    : Bool
  ended   : Bool             -- kept for its engine commands (R301)
  early   : Bool             -- admitted before its producer was fully admitted (R96)
  out     : Option Nat       -- deck offset of the area it is saved in (R393)
  slotNo  : Option Nat       -- squad slot given by CTXLD (R394)
  swapped : List Crew        -- crews in the swap area (R108); the squad is out when nonempty
  deriving DecidableEq, Repr

/-- A grid in flight or a launch not yet accepted: the fields of its record (R91) and its progress. -/
structure Grid where
  handle      : DWord
  asid        : BitVec 12
  entry       : Pc
  dimX        : Nat
  dimY        : Nat
  dimZ        : Nat
  crewsPer    : Nat
  n           : Nat
  m           : Nat
  squadMem    : Nat
  spill       : Nat
  tiles       : Nat
  cls         : RoleClass
  early       : Bool
  idempotent  : Bool
  e7          : Bool
  arg         : DWord
  waitOn      : DWord
  counter     : DWord
  slots       : List DWord   -- format slots fs0 to fs7
  binds       : List Word    -- region bindings
  cap         : Nat
  depth       : Nat
  parent      : DWord
  parentSquad : Option Nat
  args        : List Word    -- s8 to s15 of R24
  next        : Nat          -- squads admitted
  endCode     : Option (BitVec 14)
  recOff      : Nat          -- deck offset of the record
  since       : Nat          -- TIME of its acceptance (R97)
  add         : Option Nat   -- the add to its counter that is on its way (R90)
  deriving DecidableEq, Repr

/-- A launch held for a grid-table entry (R94), with the pair that waits for its reply. -/
structure HeldLaunch where
  grid  : Grid
  crew  : Option Nat
  reply : Reply
  fork  : Bool
  deriving DecidableEq, Repr

/-- A LAUNCH or FORK that has passed its checks and whose record has not been read yet (R103, R109): who issued it, the deck offset of the record,
the fields of the launching crew it takes, and the writes to be globally performed first. -/
structure PendingLaunch where
  crew   : Nat
  squad  : Nat
  core   : Nat
  asid   : BitVec 12
  off    : Nat
  depth  : Nat
  parent : DWord
  reply  : Reply
  fork   : Bool
  after  : List Nat
  deriving DecidableEq, Repr

/-- States of a range-table entry (R113). -/
inductive TaskState where
  | held | ready | running | draining | pageWait
  deriving DecidableEq, Repr

/-- A range-table entry that is not FREE (R112, R113) with its task record (R110). -/
structure Task where
  die       : Nat
  entry     : Nat
  id        : DWord
  asid      : BitVec 12
  grid      : DWord
  state     : TaskState
  conflicts : List Nat
  code      : Pc
  arg       : DWord
  tile      : DWord
  counter   : DWord
  rBase     : Nat
  rLen      : Nat
  wBase     : Nat
  wLen      : Nat
  flags     : Word
  recVa     : DWord
  crew      : Nat
  normal    : Bool
  add       : Option Nat     -- the add to its counter that is on its way (R113)
  deriving DecidableEq, Repr

/-- A boat of a partition (R67, R68); ran: it has just issued and its members have not been looked at again. -/
structure Boat where
  core    : Nat
  part    : Nat
  members : List Nat
  cls     : Nat              -- class of the crew that opened it
  ran     : Bool
  issued  : Nat              -- cycle of its last issue, plus 1; 0 before it has issued
  deriving DecidableEq, Repr

/-- A sharer pointer (R245). -/
structure Ptr where
  core : Nat
  fmt  : SubFmt
  upd  : Bool
  deriving DecidableEq, Repr

/-- A clear of a line under way (R251, R253): the acknowledgements it waits for, whether it ends BCAST, the core it sent no INVAL, and the write
that home applies when it ends. -/
structure LineClear where
  id    : Nat
  acks  : Nat
  bcast : Bool
  but   : Option Nat
  write : Option Nat
  deriving DecidableEq, Repr

/-- A directory entry that differs from the reset one (R245). PRES is "absentBy is empty" (R304: absent until every
command that cleared the line has delivered or failed on it, and its clears are acknowledged, R251). -/
structure DirEntry where
  line     : Nat
  ptrs     : List Ptr
  bcast    : Bool
  clears   : List LineClear
  hold     : Option Nat      -- the crew whose read-modify-write a finished BCAST clear waits for (R253)
  watch    : BitVec 4
  absentBy : List Nat
  poison   : Bool
  deriving DecidableEq, Repr

/-- A deck line held in the L1 of a core (R246): encodings of its 32 words in the held format. -/
structure Copy where
  core  : Nat
  line  : Nat
  va    : Nat                -- virtual line and ASID it was fetched under
  asid  : BitVec 12
  fmt   : SubFmt
  upd   : Bool
  words : List Word
  under : List (Nat × Word)  -- words an UPD brought beneath a store of the core not yet globally performed (R256)
  deriving DecidableEq, Repr

/-- Word that a core has dropped its copy of a line, on its way to home: evicted to make room (R248), or as its squad asked (R243, R260, R261). -/
structure Notice where
  core  : Nat
  line  : Nat
  asked : Bool
  deriving DecidableEq, Repr

/-- What an acknowledgement counts for (R249, R251): a write, or a clear of a line. -/
inductive AckTo where
  | write (id : Nat) | clear (line id : Nat)
  deriving DecidableEq, Repr

/-- A message from a home slice to a core (R249, R252). -/
structure Msg where
  id     : Nat
  core   : Nat
  line   : Nat
  upd    : Bool
  words  : List (Nat × Word) -- of an UPD: word and encoding
  silent : Bool              -- an INVAL of R251 or R253, counted only where a copy is held (R263)
  ackTo  : AckTo
  deriving DecidableEq, Repr

structure Ack where
  id    : Nat
  ackTo : AckTo
  deriving DecidableEq, Repr

/-- A spill or SKM line held in the L1 of a core (R178, R248): it takes 128 bytes of room. -/
structure PlainLine where
  core : Nat
  crew : Option Nat          -- the crew of a spill line; none for SKM
  line : Nat
  deriving DecidableEq, Repr

/-- A notification to an Erg (R254). -/
structure Note where
  id    : Nat
  die   : Nat
  line  : Nat
  write : Option Nat
  deriving DecidableEq, Repr

/-- INVAL and UPD counters of a core (R263). -/
structure CoreCount where
  core  : Nat
  inval : Word
  upd   : Word
  deriving DecidableEq, Repr

/-- Where a translation is cached (R190). -/
inductive TlbPlace where
  | core (c : Nat) | die (d : Nat)
  deriving DecidableEq, Repr

/-- A leaf or whole-region translation (R187): page size in bits, R W X P, target, frame or package and frame. -/
structure Leaf where
  bits  : Nat
  r     : Bool
  w     : Bool
  x     : Bool
  p     : Bool
  tgt   : BitVec 4
  pkg   : BitVec 13
  frame : Nat
  deriving DecidableEq, Repr

structure TlbEntry where
  place : TlbPlace
  asid  : BitVec 12
  gen   : BitVec 20
  page  : Nat                -- VA shifted by the page size
  leaf  : Leaf
  deriving DecidableEq, Repr

/-- A root or directory entry in a die's walk cache (R190): level 1 root, 2 directory. -/
structure WalkEntry where
  die   : Nat
  asid  : BitVec 12
  gen   : BitVec 20
  level : Nat
  key   : Nat
  entry : DWord
  deriving DecidableEq, Repr

/-- The context-table entry of an ASID (R374). -/
structure Ctx where
  asid     : BitVec 12
  root     : DWord
  trapBase : DWord
  skmWin   : DWord
  key      : BitVec 42
  priv     : Bool
  swap     : Bool
  gen      : BitVec 20
  deriving DecidableEq, Repr

/-- A matrix operation that has issued and not completed (R273, R276); frags holds the fragments lane by lane. -/
structure MatOp where
  core  : Nat
  crew  : Nat
  slot  : Nat
  isSet : Bool
  resid : Bool               -- MMR
  lost  : Bool               -- discarded at issue: it only sets LOST
  fa    : DWord              -- input format slots
  fb    : DWord
  frags : List (List Word × List Word)  -- per lane, A and B
  deriving DecidableEq, Repr

/-- Functions of engine commands (R303, R305, R308, R419). -/
inductive EngFn where
  | copy1 | copy2 | copyt | fill | copyr | copyh | gather | scatter | scatadd | gatherq
  | allred | redscat | allgath | barrier | ease | wake
  deriving DecidableEq, Repr

/-- An engine command from its issue to its completion (R293 to R298). -/
structure Cmd where
  id        : Nat
  fn        : EngFn
  rel       : Bool
  after     : List Nat       -- of a release form: the writes to be globally performed first (R228)
  crew      : Nat
  squad     : Nat
  grid      : DWord
  asid      : BitVec 12
  priv      : Bool
  core      : Nat
  tl        : Nat
  reply     : Reply
  opA       : DWord
  opB       : DWord
  args      : List DWord
  number    : Nat            -- 0 until accepted
  delivered : Nat            -- bytes of the command's stream delivered
  landed    : Nat            -- bytes counted for its record (R302); more than delivered after a restart (R313)
  status    : Option (BitVec 8 × BitVec 8)
  cleared   : List Nat       -- deck lines it holds absent
  waitLines : List Nat       -- lines absent at acceptance that have not been present since (R304)
  since     : Nat            -- TIME of its acceptance
  before    : List (Nat × Byte)     -- bytes of the deck or squad memory it has overwritten
  link      : Option Nat     -- far link of a COPYR (R441)
  out       : Bool           -- of COPYR: the remote side is the destination
  peers     : List (BitVec 13) -- the peer of a COPYR; PEER of a group (R307)
  ranks     : Nat            -- N of a group; 1 for other commands
  inbuf     : List Byte      -- bytes received from a peer in order and not yet written
  early     : List (Nat × List Byte) -- bytes received ahead of them, by their place in the stream
  tag       : DWord          -- of a remote copy (R440); TAG of a group (R307)
  timeout   : Nat            -- TIMEOUT of a group in ns (R307)
  sent      : Bool           -- requests handed to the fabric
  acked     : Bool           -- the peer's completion has arrived
  again     : Option Nat     -- byte from which a read whose bytes have been used already is made again (R313)
  deriving DecidableEq, Repr

/-- A piece of a remote copy being received (R440). -/
structure RxPiece where
  peer   : BitVec 13
  tag    : DWord
  answer : Bool
  base   : Nat
  count  : Nat
  got    : Nat               -- in-order bytes of a far-link piece
  ranges : List (Nat × Nat)  -- ranges of a Sweep piece that have arrived
  key    : Nat
  lines  : List Nat          -- lines cleared for it and not yet settled
  link   : Option Nat        -- the far link it comes over; none for the Sweep fabric
  deriving DecidableEq, Repr

/-- A read request of a peer that this package still answers (R440); failed: a piece of its command has failed. -/
structure Serve where
  peer   : BitVec 13
  tag    : DWord
  base   : Nat
  count  : Nat
  link   : Option Nat
  waits  : List Nat          -- lines absent when the request arrived that have not been present since (R304)
  failed : Bool
  deriving DecidableEq, Repr

/-- HLC line states (R314). -/
inductive HlcState where
  | m | e | s | i | o
  deriving DecidableEq, Repr

structure HlcLine where
  line : Nat
  pool : Bool
  st   : HlcState
  by_  : Nat                 -- the last command that read it
  pois : Bool                -- its data carry poison (R315)
  deriving DecidableEq, Repr

/-- A request of the package on a CXL port (R311, R312, R314). -/
inductive CxlKind where
  | rdShared | rdOwn | rdCurr | itoMWr | biSnpData | biSnpInv | dirtyEvict | cleanEvict | writeBack   -- port H0
  | memRd | memWr | memRdData                                                                       -- port H1
  deriving DecidableEq, Repr

/-- A request for a line; pois is the poison flag of data it carries (R315). -/
structure CxlReq where
  kind : CxlKind
  line : Nat
  pool : Bool
  pois : Bool
  deriving DecidableEq, Repr

/-- Ring states (R337). -/
inductive RingState where
  | down | inService | lagging | fault
  deriving DecidableEq, Repr

/-- The Cox ring interface (R319 to R342). -/
structure Ring where
  state     : RingState
  standby   : Bool
  alone     : Bool
  burst     : Nat
  n         : Nat
  repairs   : Word
  applied   : Nat                   -- SK_APPLIED
  counted   : Nat                   -- highest number numbered here by reception
  sent      : Nat                   -- highest number given to a stroke of this package
  notes     : List (Nat × DWord)    -- NOTE words that are not 0
  held      : List (Nat × BitVec 512)
  missing   : List (Nat × Nat)      -- missing number and requests made for it
  outq      : List (Stroke × Option (Nat × Reply))
  history   : List (Nat × BitVec 512)
  owed      : List Nat              -- numbers owed to requesters
  out       : List (BitVec 512)     -- records sent on the ring
  tokenOut  : Option (BitVec 32)    -- the token passed on
  holding   : Bool                  -- the token stays here: a ring of one (R335)
  symbolOut : Option Nat            -- the count-collection symbol passed on, with the highest number entered (R341)
  faulted   : Bool                  -- the replica is in FAULT, also while STATE is DOWN (R342)
  deriving DecidableEq, Repr

/-- Erg slot states (R358). -/
inductive ErgState where
  | idle | observe | train | trial | fitted | fallback | retired
  deriving DecidableEq, Repr

/-- A region descriptor as read (R346). -/
structure Desc where
  ok       : Bool
  nin      : Nat
  nout     : Nat
  h1       : Nat
  h2       : Nat
  preload  : Bool
  trust    : Bool
  ins      : List Nat
  outs     : List Nat
  entry    : Int
  exit     : Int
  dom      : List (Word × Word)
  scale    : List Word
  errLimit : Word
  errSpike : Word
  rate     : Word
  window   : Nat
  epochs   : Nat
  minsamp  : Nat
  trial    : Nat
  cooldown : Nat
  weights  : DWord
  deps     : List (Nat × Nat)
  deriving DecidableEq, Repr

/-- A training sample (R354). -/
structure Sample where
  x    : List Word
  y    : List Word
  cid  : Word
  icnt : Word
  lane : Nat
  deriving DecidableEq, Repr

/-- A slot of an Erg (R348, R358, R368). -/
structure ErgSlot where
  die       : Nat
  slot      : Nat
  state     : ErgState
  impure    : Bool
  reason    : BitVec 3
  tries     : Nat
  shift     : BitVec 4
  det       : Bool
  fallbacks : BitVec 16
  invals    : BitVec 16
  asid      : BitVec 12
  descVa    : Nat
  base      : Nat              -- E, the grid's entry
  desc      : Desc
  epoch     : Nat
  subst     : Word
  trueRuns  : Word
  drops     : Word
  batches   : BitVec 16
  skips     : BitVec 16
  lastE     : Word
  weights   : List (BitVec 16)
  window    : List Word            -- the last WINDOW errors, a ring
  winNext   : Nat                  -- next window index
  buffer    : List Sample
  cooled    : Nat
  compared  : Nat
  trained   : Nat
  watched   : List Nat
  deriving DecidableEq, Repr

/-- A pending-table entry of an Erg (R350). -/
structure ErgPending where
  die   : Nat
  slot  : Nat
  crew  : Nat
  lane  : Nat
  x     : List Word
  p     : Option (List Word)
  epoch : Nat
  icnt  : Word
  deriving DecidableEq, Repr

/-- States of a far link (R420, R418). -/
inductive LinkState where
  | down | bringup | up | narrowing | waking | quarantine | failed | draining | switching
  deriving DecidableEq, Repr

/-- A width command of a link (R421, R422): the engine command it belongs to (none: automatic wake). -/
structure LinkCmd where
  cmd     : Option Nat
  ease    : Bool
  mask    : BitVec 16
  started : Bool
  deriving DecidableEq, Repr

/-- A flit as it is sent (R407): the number of its first beat since the restripe boundary, and the active list it is striped over. -/
structure WireFlit where
  flit : BitVec 576
  beat : Nat
  list : BitVec 16
  deriving DecidableEq, Repr

/-- A far link (R406 to R422). -/
structure Link where
  lit       : BitVec 16
  parked    : BitVec 16
  waking    : BitVec 16
  dark      : BitVec 16
  found     : BitVec 16             -- in bring-up: unparked wavelengths that have passed its stages so far (R411); DARK until FLOW
  rxFound   : BitVec 16             -- the same of the receive fibre
  rxLit     : BitVec 16             -- states of the receive wavelengths, as the peer's transmitter sets them (R410)
  rxParked  : BitVec 16
  rxWaking  : BitVec 16
  rxDark    : BitVec 16
  state     : LinkState
  peer      : BitVec 13
  dest      : Option (BitVec 13)    -- circuit of a switched link
  txSeq     : BitVec 16
  acked     : BitVec 16             -- last acknowledged SEQ
  replay    : List (BitVec 576)     -- sent, not acknowledged, oldest first
  egress    : List (BitVec 13 × BitVec 512) -- payloads of data flits not yet sent, with the package they are for
  resend    : Nat                   -- flits at the end of replay still to be sent again
  ctlOut    : List (BitVec 576)     -- acknowledgements, negative acknowledgements and control flits sent ahead (R408)
  wire      : Option WireFlit       -- the flit sent last
  rxSeq     : BitVec 16             -- SEQ expected
  rxUnacked : Nat
  nakSent   : Bool
  beats     : Nat                   -- beats sent since the restripe boundary (R407)
  rxBeats   : Nat                   -- beats received since it
  rx        : Option RxPiece
  late      : List DWord            -- tags of completed read commands whose answers may still come (R440)
  stage     : Nat
  fails     : Nat
  lost      : BitVec 16             -- transmit wavelengths lost in the narrowing under way
  rxLost    : BitVec 16             -- receive wavelengths lost in it
  lostAt    : Option Nat            -- TIME at which this package detected the transmit loss (R443)
  rxLostAt  : Option Nat            -- TIME at which it detected the receive loss
  told      : Bool                  -- the control flit of a wake, its last step, has been sent (R414)
  rxNext    : Option (BitVec 16 × BitVec 16 × BitVec 16) -- the peer's next active list, PARKED and WAKING masks, being agreed on (R414)
  drain     : Bool                  -- Draw moves it: DRAINING, also while it narrows (R418)
  cmds      : List LinkCmd
  lolThresh : Int
  wakeDepth : Nat
  auto      : Bool
  deriving DecidableEq, Repr

/-- A clock region (R396, R399). -/
structure ClockRegion where
  freq      : BitVec 16
  stopped   : Bool
  stretched : Bool
  cycles    : DWord
  deriving DecidableEq, Repr

/-- Device states (R375). -/
inductive DevState where
  | starting | reduced | full | failed
  deriving DecidableEq, Repr

/-- An event record for the host (R423). -/
structure HostEvent where
  type   : Byte
  flag   : Bool              -- FLAGS[0]: records dropped before this one
  die    : BitVec 3
  unit   : BitVec 9
  link   : BitVec 16
  time   : DWord
  detail : BitVec 128
  deriving DecidableEq, Repr

/-- The state of the package. -/
structure State where
  -- threads, crews, scheduler
  crews     : List Crew
  squads    : List Squad
  grids     : List Grid
  gridSeq   : Nat
  held      : List HeldLaunch
  launches  : List PendingLaunch
  tasks     : List Task
  taskSeq   : Nat
  saved     : List SavedCrew        -- crews saved by CTXSV (R294, R392)
  arrived   : List (Nat × BitVec 12) -- stroke launches that have arrived and whose record lines are absent (R330)
  boats     : List Boat
  boatOut   : List (Nat × Nat)      -- partitions whose boat has just issued and whose members are looked at again (R68)
  lq        : List (Pc × BitVec 12)
  lqCount   : Word
  lqWait    : List (Pc × BitVec 12) -- pushes of the service cores that wait for room in it (R402)
  -- memories
  deck      : Memory
  hbm       : Memory
  host      : Memory
  pool      : Memory
  skm       : Memory
  hbmPoison : List Nat              -- HBM bytes with a poison mark (R315)
  dir       : List DirEntry
  copies    : List Copy
  plain     : List PlainLine
  notices   : List Notice           -- on their way (R248, R260, R261)
  writes    : List Write
  msgs      : List Msg
  acks      : List Ack
  notes     : List Note
  counts    : List CoreCount
  tlb       : List TlbEntry
  walkCache : List WalkEntry
  -- contexts and package registers
  ctxs      : List Ctx
  dev       : DevState
  spared    : Bool
  fwOk      : Bool
  coresUp   : List Nat
  hbmUp     : BitVec 12
  tested    : List TestedPart
  schedAge  : Nat
  clkCtl    : BitVec 16
  fwEcdsa   : Bool
  fwLms     : Bool
  fwAcc     : Bool
  fwVer     : BitVec 16
  time      : DWord
  regions   : List ClockRegion
  requests  : List (List DWord)     -- request queue, oldest first
  pageReqs  : List (List DWord)     -- page requests that wait for room in it (R386), words 1 upward
  reqSeq    : BitVec 48
  events    : List HostEvent        -- records in the host event ring that the host has not taken (R423)
  eventNo   : Nat                   -- records written so far
  eventWait : List HostEvent        -- records that wait for an earlier one (R423)
  dropped   : Bool
  spares    : List (SparePart)      -- spares taken
  -- tanks
  tiles     : List Tile
  matops    : List MatOp
  -- engines
  cmds      : List Cmd
  rx        : List RxPiece          -- Sweep pieces being received
  serves    : List Serve            -- read requests of peers
  sweepOut  : List (BitVec 13 × SweepPacket)
  hlc       : List HlcLine
  biasHost  : List Nat              -- HBM pages under host bias
  flips     : List Nat              -- pages whose flip to host bias waits (R313)
  reading   : List (Nat × Nat)      -- HBM page and command of an engine read in progress
  cxlOut    : List CxlReq
  granted   : List (Nat × CxlGrant) -- HBM lines the host has answered for (R312)
  lostPools : List (Nat × Nat)
  atsWait   : List (Nat × List Nat) -- host pages whose ATS invalidation waits for engine commands (R317)
  atsDone   : List Nat              -- host pages whose ATS invalidation has completed (R317)
  portWidth : List Nat
  -- ring, Erg, far links
  ring      : Ring
  ergs      : List ErgSlot
  pending   : List ErgPending
  links     : List Link
  routes    : List (Nat × BitVec 13)
  served    : List (BitVec 13)
  excluded  : List (Nat × BitVec 13)
  lasers    : List Nat              -- laser modules that have failed
  drawInt   : Nat
  drawHyst  : Nat
  -- the model's own fields
  fresh     : Nat
  cur       : Option Nat
  issueQ    : List Nat
  inbox     : List Instr
  deriving DecidableEq, Repr

/-- A far link after reset (R410, R416, R420). -/
def Link.reset : Link :=
  { lit := 0, parked := 0, waking := 0, dark := 0xFFFF, found := 0, rxFound := 0, rxLit := 0, rxParked := 0, rxWaking := 0, rxDark := 0xFFFF, state := .down, peer := 0, dest := none, txSeq := 0
    acked := 0xFFFF, replay := [], egress := [], resend := 0, ctlOut := [], wire := none, rxSeq := 0, rxUnacked := 0, nakSent := false
    beats := 0, rxBeats := 0, rx := none, late := [], stage := 1, fails := 0, lost := 0, rxLost := 0, lostAt := none, rxLostAt := none, told := false, rxNext := none, drain := false, cmds := [], lolThresh := -14, wakeDepth := 256
    auto := true }

/-- The ring interface after reset (R337, R322). -/
def Ring.reset : Ring :=
  { state := .down, standby := false, alone := false, burst := 4, n := 0, repairs := 0, applied := 0, counted := 0, sent := 0, notes := []
    held := [], missing := [], outq := [], history := [], owed := [], out := [], tokenOut := none, holding := false, symbolOut := none, faulted := false }

/-- A clock region after reset (R375 FREQ, R401). -/
def ClockRegion.reset : ClockRegion := { freq := 1200, stopped := false, stretched := false, cycles := 0 }

/-- The machine right after reset (R374, R375, R337, R420, R416; the values the spec does not state are in log 8). -/
def State.reset : State :=
  { crews := [], squads := [], grids := [], gridSeq := 0, held := [], launches := [], tasks := [], taskSeq := 0, saved := [], arrived := [], boats := [], boatOut := [], lq := [], lqCount := 0, lqWait := []
    deck := [], hbm := [], host := [], pool := [], skm := [], hbmPoison := [], dir := [], copies := [], plain := [], notices := [], writes := [], msgs := []
    acks := [], notes := [], counts := [], tlb := [], walkCache := []
    ctxs := [], dev := .starting, spared := false, fwOk := false, coresUp := [], hbmUp := 0, tested := [], schedAge := 64
    clkCtl := 1200, fwEcdsa := false, fwLms := false, fwAcc := false, fwVer := 0, time := 0
    regions := List.replicate 21 ClockRegion.reset, requests := [], pageReqs := [], reqSeq := 0, events := [], eventNo := 0, eventWait := [], dropped := false, spares := []
    tiles := [], matops := [], cmds := [], rx := [], serves := [], sweepOut := [], hlc := [], biasHost := [], flips := [], reading := []
    cxlOut := [], granted := [], lostPools := [], atsWait := [], atsDone := [], portWidth := [16, 16]
    ring := Ring.reset, ergs := [], pending := [], links := List.replicate 32 Link.reset, routes := [], served := [], excluded := []
    lasers := [], drawInt := 10, drawHyst := 2, fresh := 0, cur := none, issueQ := [], inbox := [] }

end Sys2Proof.Machine
end

