-- ==== Sys2Proof/Machine/Ops.lean ====
section
/-! DEFINITION. The named operations over bytes, registers, crews and the tables of the state; taking an exception (R380),
returning from one (R381), ending a crew (R384) and sending an event record (R423). -/

namespace Sys2Proof.Machine

/-! ## Bytes -/

/-- The little-endian number of a list of bytes (R2). -/
def leNat : List Byte → Nat
  | [] => 0
  | b :: r => b.toNat + 256 * leNat r

/-- The n low bytes of a number, little-endian (R2). -/
def leBytes : Nat → Nat → List Byte
  | 0, _ => []
  | n + 1, v => BitVec.ofNat 8 v :: leBytes n (v / 256)

/-- The canonical form of a memory: addresses strictly rising, no byte equal to 0 (log 3). -/
def Memory.wf : Memory → Bool
  | [] => true
  | [(_, b)] => b != 0
  | (x, b) :: (y, c) :: r => b != 0 && decide (x < y) && Memory.wf ((y, c) :: r)

/-- One byte of a memory; an unlisted address reads 0 (log 3). -/
def Memory.read : Memory → Nat → Byte
  | [], _ => 0
  | (x, b) :: r, a => if x = a then b else Memory.read r a

/-- One byte written, keeping the canonical form. -/
def Memory.write : Memory → Nat → Byte → Memory
  | [], a, b => if b = 0 then [] else [(a, b)]
  | (x, c) :: r, a, b =>
    if a < x then (if b = 0 then (x, c) :: r else (a, b) :: (x, c) :: r)
    else if a = x then (if b = 0 then r else (a, b) :: r)
    else (x, c) :: Memory.write r a b

def Memory.readN (m : Memory) (a n : Nat) : List Byte := (List.range n).map fun k => m.read (a + k)
def Memory.writeN (m : Memory) (a : Nat) : List Byte → Memory
  | [] => m
  | b :: r => Memory.writeN (m.write a b) (a + 1) r

/-- Insertion of a byte into a region's list, addresses strictly rising. -/
def cellPut : List Host.Cell → Nat → Byte → List Host.Cell
  | [], a, b => [(a, b)]
  | (x, c) :: r, a, b =>
    if a < x then (a, b) :: (x, c) :: r else if a = x then (a, b) :: r else (x, c) :: cellPut r a b

/-- One byte of squad memory or spill; a byte nothing has written is free (R182, R183). -/
def Region.read (g : Region) (a : Nat) : Byte :=
  match g.cells.find? (·.1 == a) with
  | some c => c.2
  | none => Config.freeByte g.seed a
def Region.readN (g : Region) (a n : Nat) : List Byte := (List.range n).map fun k => g.read (a + k)
def Region.writeN (g : Region) (a : Nat) : List Byte → Region
  | [] => g
  | b :: r => Region.writeN { g with cells := cellPut g.cells a b } (a + 1) r

/-! ## Order by a key -/

/-- Insertion by a numeric key, ascending, later entries after equal ones. -/
def insertBy {α : Type} (f : α → Nat) (x : α) : List α → List α
  | [] => [x]
  | y :: r => if f y ≤ f x then y :: insertBy f x r else x :: y :: r
def sortBy {α : Type} (f : α → Nat) (xs : List α) : List α := xs.foldl (fun acc x => insertBy f x acc) []

/-! ## Lanes -/

def laneBit (t : Nat) : Lanes := 1#32 <<< t
/-- The set of the lanes that satisfy a test. -/
def laneSet (f : Nat → Bool) : Lanes := (List.range 32).foldl (fun a t => if f t then a ||| laneBit t else a) 0
/-- The lanes of a set, ascending. -/
def laneList (k : Lanes) : List Nat := (List.range 32).filter k.getLsbD

/-! ## Tables of the state -/

def State.crew? (s : State) (id : Nat) : Option Crew := s.crews.find? (·.id == id)
def State.setCrew (s : State) (c : Crew) : State := { s with crews := s.crews.map fun d => if d.id == c.id then c else d }
def State.curCrew (s : State) : Option Crew := s.cur.bind s.crew?
def State.squad? (s : State) (id : Nat) : Option Squad := s.squads.find? (·.id == id)
def State.setSquad (s : State) (q : Squad) : State := { s with squads := s.squads.map fun d => if d.id == q.id then q else d }
def State.grid? (s : State) (h : DWord) : Option Grid := s.grids.find? (·.handle == h)
def State.setGrid (s : State) (g : Grid) : State := { s with grids := s.grids.map fun d => if d.handle == g.handle then g else d }
def State.cmd? (s : State) (id : Nat) : Option Cmd := s.cmds.find? (·.id == id)
def State.setCmd (s : State) (c : Cmd) : State := { s with cmds := s.cmds.map fun d => if d.id == c.id then c else d }
/-- The next free-value key (a counter of the model, log 8). -/
def State.bump (s : State) : State := { s with fresh := s.fresh + 1 }

/-- A context-table entry at reset (R374). -/
def Ctx.reset (a : BitVec 12) : Ctx := { asid := a, root := 0, trapBase := 0, skmWin := 0, key := 0, priv := false, swap := false, gen := 0 }
def State.ctx (s : State) (a : BitVec 12) : Ctx := (s.ctxs.find? (·.asid == a)).getD (Ctx.reset a)
def State.setCtx (s : State) (x : Ctx) : State := { s with ctxs := x :: s.ctxs.filter (·.asid != x.asid) }

/-- The die of a core (R12). -/
def dieOf (core : Nat) : Nat := core / Config.coresPerDie
/-- The clock region of a core (R396). -/
def regionOf (core : Nat) : Nat := core / 20
/-- No firmware image was accepted at reset: only CXL.io configuration space answers (R405). -/
def State.dead (s : State) : Bool := s.dev == .failed && !s.fwOk
/-- The compute die of an HBM stack: CDd holds stacks 3d to 3d + 2 (R11). -/
def stackDie (stack : Nat) : Nat := stack / 3
def State.region (s : State) (k : Nat) : ClockRegion := s.regions.getD k ClockRegion.reset
/-- CYCLES of a core's region (R397). -/
def State.cycles (s : State) (core : Nat) : DWord := (s.region (regionOf core)).cycles
/-- A crew is privileged by its context or inside a handler (R372). -/
def State.privileged (s : State) (c : Crew) : Bool := (s.ctx c.asid).priv || c.inh

/-! ## Threads and crews -/

/-- A thread that was never launched (R25). -/
def Thread.none : Thread :=
  { v := [], p := 0, pcv := 0, live := false, yex := false, rwait := false, rsd := 0, rs := [], inreg := .none, pcvSave := 0
    trapAddr := 0, trapTcause := 0, trapTstate := 0, win := [] }
def Crew.thread (c : Crew) (t : Nat) : Thread := c.threads.getD t Thread.none
/-- Every thread rewritten, with its lane. -/
def Crew.mapT (c : Crew) (f : Nat → Thread → Thread) : Crew := { c with threads := c.threads.mapIdx f }

/-- pcv with bit 0 zero, modulo 2^48 (R20, R64). -/
def mkPc (a : Nat) : Pc := BitVec.ofNat 48 (a / 2 * 2)
def Thread.setPc (t : Thread) (a : Nat) : Thread := { t with pcv := mkPc a }

/-- Eligible by R60 alone. -/
def Thread.eligible (t : Thread) : Bool := t.live && !t.yex && !t.rwait
/-- Eligible by R60 and R274; under an active REP the threads of its fixed set (R44). -/
def Crew.eligible (c : Crew) (t : Nat) : Bool :=
  match c.rep.fixed with
  | some a => a.getLsbD t && (c.thread t).live && !c.held.getLsbD t
  | none => (c.thread t).eligible && !c.held.getLsbD t
def Crew.liveSet (c : Crew) : Lanes := laneSet fun t => (c.thread t).live
/-- The issue address: the least pcv of the eligible threads (R60). -/
def Crew.issueAddr (c : Crew) : Option Nat :=
  (((List.range 32).filter c.eligible).map fun t => (c.thread t).pcv.toNat).min?
def Crew.pc (c : Crew) : Nat := c.issueAddr.getD 0
/-- The eligible threads at the issue address (R8 without the guard). -/
def Crew.active (c : Crew) : Lanes :=
  match c.issueAddr with
  | none => 0
  | some a => laneSet fun t => c.eligible t && (c.thread t).pcv.toNat == a
/-- The threads of a set whose guard predicate is 1 (R8, R32). -/
def Crew.guarded (c : Crew) (act : Lanes) (g : Guard) : Lanes :=
  if g == 7 then act else laneSet fun t => act.getLsbD t && (c.thread t).p.getLsbD g.toNat
/-- The address of the instruction itself: after the prefix in a repeat (R45, R380). -/
def Crew.instrAddr (c : Crew) : Nat := if c.rep.active then c.pc + 4 else c.pc

/-- A vector register as a thread reads it; inside lookahead windows the value before or after any of their long instructions, or what the thread
has itself written since (R40, log 5). -/
def Thread.val (t : Thread) (lane r : Nat) : Word :=
  t.win.foldl (fun w e =>
    if e.reg != r || e.left == 0 then w
    else if Config.lookaheadOld e.key e.left lane r then e.old
    else if Config.lookaheadOld e.key (e.left + 32) lane r then e.new.getD w
    else w) (t.v.getD r 0)
/-- What a register written inside windows holds in the end: the write, or a long result of theirs (R40). -/
def Thread.final (t : Thread) (lane r : Nat) (w : Word) : Word :=
  t.win.foldl (fun w e => if e.reg == r && e.left != 0 && Config.lookaheadOld e.key (e.left + 16) lane r then e.new.getD w else w) w
/-- A vector register written. A window whose long result is still to come learns of it (R40). -/
def Thread.put (t : Thread) (lane r : Nat) (w : Word) : Thread :=
  { t with v := t.v.set r (t.final lane r w), win := t.win.map fun e => if e.reg == r then { e with wrote := true } else e }
def Thread.puts (t : Thread) (lane : Nat) (ws : List (Nat × Word)) : Thread :=
  ws.foldl (fun t w => t.put lane w.1 w.2) t
/-- Window entries opened by results with a lookahead of la (R39); advance counts the instruction itself down. -/
def Thread.opens (t : Thread) (key la : Nat) (ws : List (Nat × Word)) (before : Thread) : Thread :=
  if la == 0 then t
  else { t with win := t.win ++ ws.map fun w =>
    { key := key, left := la + 1, reg := w.1, old := before.v.getD w.1 0, new := some w.2, wrote := false } }
/-- Window entries of registers whose results are still to come (R39, R40). -/
def Thread.expects (t : Thread) (key la : Nat) (rs : List Nat) : Thread :=
  { t with win := t.win ++ rs.map fun r =>
    { key := key, left := if la == 0 then 0 else la + 1, reg := r, old := t.v.getD r 0, new := .none, wrote := false } }
/-- Windows that are over go, unless a result still to come for the same register was asked for inside them. -/
def Thread.prune (t : Thread) : Thread :=
  { t with win := t.win.filter fun e => e.left != 0 || e.new.isNone || t.win.any fun x => x.reg == e.reg && x.new.isNone }
/-- A long result comes (R40): the register holds it in the end, or what an instruction of its window, or the long instruction of a window it stands
in, has written; for a later long instruction it is the value before. -/
def Thread.arrive (t : Thread) (lane key r : Nat) (w : Word) : Thread :=
  match t.win.findIdx? fun e => e.key == key && e.reg == r with
  | .none => t.put lane r w
  | some j =>
    let pick (n : Nat) : Bool := Config.lookaheadOld key n lane r
    let mine := (t.win[j]?).any (·.wrote)
    let later := (t.win.drop (j + 1)).any fun e => e.reg == r && e.new.isSome
    let x := ((t.win.take j).filter (·.reg == r)).foldl (fun x e => if pick (128 + e.key) then e.new.getD x else x) w
    let x := if (mine || later) && pick 48 then t.v.getD r 0 else x
    ({ t with
      v := t.v.set r x
      win := t.win.mapIdx fun i e =>
        if i == j then { e with new := some w }
        else if j < i && e.reg == r && !(mine && pick 49) then { e with old := w }
        else e } : Thread).prune
/-- Vector results of the threads of a set, all computed from the crew before (R8). -/
def Crew.writeV (c : Crew) (key la : Nat) (act : Lanes) (f : Nat → Thread → List (Nat × Word)) : Crew :=
  c.mapT fun k t => if act.getLsbD k then (t.puts k (f k t)).opens key la (f k t) t else t
/-- A predicate written in the threads of a set. -/
def Thread.setP (t : Thread) (k : Nat) (b : Bool) : Thread :=
  { t with p := if b then t.p ||| (1#64 <<< k) else t.p &&& ~~~(1#64 <<< k) }
def Crew.writeP (c : Crew) (act : Lanes) (k : Nat) (f : Nat → Thread → Bool) : Crew :=
  c.mapT fun l t => if act.getLsbD l then t.setP k (f l t) else t

def Crew.sc (c : Crew) (k : Nat) : Word := c.s.getD k 0
def Crew.setS (c : Crew) (k : Nat) (w : Word) : Crew := { c with s := c.s.set k w }
/-- The pair dN (R21). -/
def Crew.pr (c : Crew) (n : Nat) : DWord := pair (c.sc (2 * n)) (c.sc (2 * n + 1))
def Crew.setPr (c : Crew) (n : Nat) (d : DWord) : Crew := (c.setS (2 * n) (lo32 d)).setS (2 * n + 1) (up32 d)
/-- A reply: written unless the code is 31, and the pair leaves the scoreboard (R33). -/
def Crew.reply (c : Crew) (r : Reply) (d : DWord) : Crew :=
  if r == 31 then c else { c.setPr r.toNat d with sb := c.sb.filter (· != r.toNat) }
/-- A reply pair scoreboarded until its reply (R33). -/
def Crew.await (c : Crew) (r : Reply) : Crew := if r == 31 then c else { c with sb := r.toNat :: c.sb }

def Rep.idle : Rep := { active := false, i := 0, ctl := { step := 1, mask := 0, count := 1 }, fixed := none }

/-- Majors that close a lookahead window (R39). -/
def closesWindow (i : Instr) : Bool :=
  let m := encodeNat i / 2 % 128
  i.length == 4 && (decide (m ≤ 0x12) || m == 0x44 || m == 0x45 || m == 0x46 || m == 0x49 || (decide (0x6A ≤ m) && decide (m ≤ 0x76)))

/-- One more instruction of the thread's windows has issued (R39). -/
def Thread.countWin (t : Thread) : Thread := ({ t with win := t.win.map fun e => { e with left := e.left - 1 } } : Thread).prune
/-- The thread's windows close (R39). -/
def Thread.endWin (t : Thread) : Thread := ({ t with win := t.win.map fun e => { e with left := 0 } } : Thread).prune
def Thread.tickWin (t : Thread) (i : Instr) : Thread := if closesWindow i then t.endWin else t.countWin
/-- A closing instruction waits for the results of the windows it closes: its threads have none when it reads, nor have loads that are still to come (R39). -/
def Crew.closeWin (c : Crew) (i : Instr) (act : Lanes) : Crew :=
  if closesWindow i then
    { c.mapT (fun k t => if act.getLsbD k then t.endWin else t) with
      loads := c.loads.map fun (p : PendLoad) => if act.getLsbD p.lane then { p with left := 0 } else p }
  else c

/-- The scheduler's record of an issue: the class returns and the counts restart (R67, R69, R117). -/
def Crew.issued (c : Crew) (now : Nat) : Crew := { c with raised := 0, age := 0, passed := 0, lastIssue := now }
/-- YEX ends in every thread once an instruction has issued (R83). -/
def Crew.endYield (c : Crew) : Crew := c.mapT fun _ t => { t with yex := false }

/-- A pending load of a thread of the set, once the instruction has issued: its window counts it, or ends at it (R39). -/
def PendLoad.tick (p : PendLoad) (i : Instr) (act : Lanes) : PendLoad :=
  if act.getLsbD p.lane then { p with left := if closesWindow i then 0 else p.left - 1 } else p

/-- The crew after it has issued an instruction (R43, R73, R83, R117, R118). While repeats remain nothing moves: ACTIVE and the threads that
have yielded stay as they are (R44). -/
def Crew.advance (c : Crew) (i : Instr) (act : Lanes) (now : Nat) : Crew :=
  if c.rep.active && decide (c.rep.i.toNat + 1 < c.rep.ctl.count) then
    { c with rep := { c.rep with i := c.rep.i + 1 } }.issued now
  else
    let len := if c.rep.active then 4 + i.length else i.length
    { (c.mapT fun k t => if act.getLsbD k then (t.setPc (t.pcv.toNat + len)).tickWin i else t).endYield with
        rep := Rep.idle, loads := c.loads.map fun (p : PendLoad) => p.tick i act }.issued now

/-- The state after the current instruction completed for a crew whose threads of the set advance. -/
def State.done (s : State) (i : Instr) (c : Crew) (act : Lanes) : State :=
  s.setCrew (c.advance i act (s.cycles c.core).toNat)

/-- A wait after which the crew issues the instruction again. -/
def Wait.again : Wait → Bool
  | .park _ | .queue _ _ | .room _ => true
  | _ => false
/-- A crew stops in an instruction until its event (R66); its threads stay at the instruction. It has issued, so that YEX ends (R83), unless it
is to issue again. -/
def State.waits (s : State) (c : Crew) (w : Wait) (act : Lanes) : State :=
  let c' := (if w.again then c else c.endYield).issued (s.cycles c.core).toNat
  s.setCrew { c' with wait := some w, waitLanes := act }

/-- A waiting crew's instruction completes: its threads advance by 4 (all waits are 32-bit instructions outside REP). A window the instruction
closes was closed at its issue; any other counts it (R39). -/
def Crew.wake (c : Crew) : Crew :=
  { c.mapT (fun k t => if c.waitLanes.getLsbD k then (t.setPc (t.pcv.toNat + 4)).countWin else t) with
    wait := none, waitLanes := 0
    loads := c.loads.map fun (p : PendLoad) => if c.waitLanes.getLsbD p.lane then { p with left := p.left - 1 } else p }

/-! ## What a crew's releases cover (R219, R220, R223) -/

/-- An identifier among a list's, once. -/
def addId {α : Type} [BEq α] (x : α) (xs : List α) : List α := if xs.contains x then xs else x :: xs
/-- A write that happens before the accesses a crew makes from now on: its releases cover it (R220). -/
def Write.learnt (w : Write) (crew : Nat) : Write := { w with known := addId crew w.known, ordered := addId crew w.ordered }
/-- An acquire of a crew: what the other crews of its core have issued, read or acquired happens before its later accesses (R219, log 9). -/
def State.acquires (s : State) (k : Crew) : State :=
  { s with writes := s.writes.map fun (w : Write) =>
      if w.known.any fun id => id != k.id && (s.crew? id).all (·.core == k.core) then w.learnt k.id else w }
/-- What a crew has issued, read or acquired is ordered before its later accesses: a BAR (R218). -/
def State.ordersAll (s : State) (k : Crew) : State :=
  { s with writes := s.writes.map fun (w : Write) => if w.known.contains k.id then { w with ordered := addId k.id w.ordered } else w }
/-- A release of a crew: from here every thread of its core reads the writes it covers, at CREW scope every thread of the crew (R217, R223). -/
def State.releases (s : State) (k : Crew) (crewOnly : Bool) : State :=
  { s with writes := s.writes.map fun (w : Write) =>
      if !w.known.contains k.id then w
      else if crewOnly then { w with seen := (List.range 32).foldl (fun xs l => addId (k.id, l) xs) w.seen }
      else { w with shown := true } }
/-- Lines that home holds for a crew's read-modify-write are free again (R253). -/
def State.dropHold (s : State) (crew : Nat) : State :=
  { s with dir := s.dir.map fun (d : DirEntry) => if d.hold == some crew then { d with hold := none } else d }

/-- The end of a wait, which is an acquire (R218). -/
def State.wakes (s : State) (c : Crew) : State := (s.setCrew c.wake).acquires c
/-- Room has freed: the crews it held issue their instructions again. -/
def State.freeRoom (s : State) (on : Hold → Bool) : State :=
  { s with crews := s.crews.map fun (c : Crew) =>
      match c.wait with
      | some (.room h) => if on h then { c with wait := none, waitLanes := 0 } else c
      | _ => c }

/-! ## Events for the host (R423) -/

/-- Fields of a DETAIL, packed in order (value, bytes). -/
def packDetail (fs : List (Nat × Nat)) : BitVec 128 :=
  BitVec.ofNat 128 (leNat (fs.flatMap fun f => leBytes f.2 f.1))

/-- The 32 bytes of a record (R423). -/
def HostEvent.bytes (e : HostEvent) : List Byte :=
  leBytes 1 e.type.toNat ++ leBytes 1 (if e.flag then 1 else 0) ++ leBytes 2 (e.die.toNat + 8 * e.unit.toNat) ++ leBytes 2 e.link.toNat ++ [0, 0]
    ++ leBytes 8 e.time.toNat ++ leBytes 16 e.detail.toNat
/-- One record written into the ring in host memory; it is dropped when the ring is full, and the next one written says so. -/
def State.record (s : State) (e : HostEvent) : State :=
  if s.events.length < Config.eventRoom then
    let e := { e with flag := s.dropped }
    { s with
      events := s.events ++ [e], eventNo := s.eventNo + 1, dropped := false
      host := s.host.writeN (Config.eventBase + 32 * (s.eventNo % Config.eventRoom)) e.bytes }
  else { s with dropped := true }
/-- TIMEs of the records of narrowings under way, which are written when they complete (R443). -/
def State.owedTimes (s : State) : List Nat := s.links.flatMap fun x => if x.state == .narrowing then x.lostAt.toList ++ x.rxLostAt.toList else []
/-- Records are written in TIME order: those that no record still to come precedes (R423). -/
def State.post (s : State) : State :=
  let due (e : HostEvent) : Bool := s.owedTimes.all fun t => decide (e.time.toNat ≤ t)
  (sortBy (·.time.toNat) (s.eventWait.filter due)).foldl (fun (s : State) e => s.record e) { s with eventWait := s.eventWait.filter fun e => !due e }
/-- An event record with a TIME of its own. -/
def State.eventAt (s : State) (time : DWord) (type die unit link : Nat) (detail : List (Nat × Nat)) : State :=
  ({ s with eventWait := s.eventWait ++
      [{ type := BitVec.ofNat 8 type, flag := false, die := BitVec.ofNat 3 die, unit := BitVec.ofNat 9 unit, link := BitVec.ofNat 16 link
         time := time, detail := packDetail detail }] } : State).post
/-- An event record of now. -/
def State.event (s : State) (type die unit link : Nat) (detail : List (Nat × Nat)) : State := s.eventAt s.time type die unit link detail

/-! ## Ending a crew (R84, R85, R384) -/

/-- The crew ends; with a code by CREND or a trap in a handler, without one by EXIT or TASKEND (R104, R113, R236, R350).
It leaves its boat at once, so the next member is the boat's first from then on (R68 does not say; DESIGN CHOICE, log 85). -/
def State.endCrew (s : State) (c : Crew) (code : Option (BitVec 14)) : State :=
  let c' : Crew := { c.mapT (fun _ t => { t with live := false, yex := false, rwait := false, inreg := none, rs := [], rsd := 0 }) with
    ended := true, wait := none, waitLanes := 0, held := 0, rep := Rep.idle, q := List.replicate 6 []
    cv := if code.isSome then c.cv.map (fun v => { v with pend := false, signed := 0, sigs := [] }) else c.cv }
  let s := (s.setCrew c').dropHold c.id
  { s with
    squads := s.squads.map fun q =>
      if q.id == c.squad then { q with bars := q.bars.map fun b => if b.isOpen && b.all then { b with need := b.need - 1 } else b } else q
    grids := s.grids.map fun g =>
      if g.handle == c.grid && g.endCode.isNone then { g with endCode := code } else g
    tasks := s.tasks.map fun k =>
      if c.task == some (k.die, k.entry) && k.state == .running then { k with state := .draining, normal := code.isNone } else k
    pending := s.pending.filter (·.crew != c.id)
    boats := s.boats.map fun b => { b with members := b.members.filter (· != c.id) } }

/-! ## Traps (R378 to R381) -/

def Cause.code : Cause → Nat
  | .illegal => 0x01 | .priv => 0x02 | .misalign => 0x03 | .page => 0x04 | .prot => 0x05 | .farAccess => 0x06 | .regBound => 0x07
  | .rstackEmpty => 0x08 | .tankOwned => 0x09 | .poison => 0x0A | .ergOwned => 0x0B | .swtrap => 0x0C | .depthLimit => 0x0D
  | .queueFault => 0x0E

/-- Priorities of R378, 1 the highest. -/
def Cause.prio : Cause → Nat
  | .illegal => 1 | .priv => 2 | .regBound => 3 | .queueFault => 4 | .depthLimit => 5 | .tankOwned => 6 | .ergOwned => 7
  | .rstackEmpty => 8 | .misalign => 9 | .farAccess => 10 | .prot => 11 | .page => 12 | .poison => 13 | .swtrap => 14

/-- A thread marked by a trap: its cause and what TRAP_ADDR takes. -/
structure Mark where
  lane  : Nat
  cause : Cause
  addr  : Nat
  deriving DecidableEq, Repr

/-- The cause of highest priority among the marks (R378). -/
def topCause (ms : List Mark) : Cause :=
  (ms.foldl (fun a m => if m.cause.prio < a.prio then m.cause else a) .swtrap)

/-- Page requests take the room of the request queue, oldest first, each with the next sequence number (R386). -/
def State.placePages : List (List DWord) → State → State
  | [], s => s
  | r :: rs, s =>
    if s.requests.length < Config.requestQueue then
      State.placePages rs { s with
        pageReqs := rs, reqSeq := s.reqSeq + 1, requests := s.requests ++ [BitVec.ofNat 64 (s.reqSeq.toNat + 2 ^ 55) :: r] }
    else s

/-- A store of a crew that no other thread can have read: home has not applied it, no release has shown it, and nobody else has met it (R198, R223). -/
def Write.hidden (w : Write) (crew : Nat) : Bool :=
  w.crew == some crew && !w.applied && !w.shown && w.seen.all (·.1 == crew) && w.known.all (· == crew)
/-- The abort of an idempotent task that takes PAGE (R386): invisible stores go, the entry waits, a page request is placed when the request
queue has room. -/
def State.abortTask (s : State) (c : Crew) (va : Nat) : State :=
  match s.tasks.find? (fun k => c.task == some (k.die, k.entry)) with
  | none => s
  | some k =>
    let s := s.endCrew { c with task := none, loads := [] } none
    let s : State := { s with
      writes := s.writes.filter fun w => !w.hidden c.id
      squads := s.squads.map fun q => { q with bank := q.bank.filter (·.crew != c.id) }
      tasks := s.tasks.map fun e => if e.die == k.die && e.entry == k.entry then { e with state := .pageWait } else e
      pageReqs := s.pageReqs ++ [[BitVec.ofNat 64 va, k.id, BitVec.ofNat 64 (c.asid.toNat + c.core * 2 ^ 12 + c.slot * 2 ^ 21), 0, 0, 0, 0]] }
    State.placePages s.pageReqs s

/-- Trap entry (R380; R212 for a trap inside MWAIT) at the address p for the marked threads of a crew. -/
def State.takeTrapFrom (s : State) (c : Crew) (p : Nat) (ms : List Mark) (info : BitVec 15) : State :=
  let cause := topCause ms
  let mark (k : Nat) : Option Mark := ms.find? (·.lane == k)
  if c.inh then
    (s.endCrew c (some (BitVec.ofNat 14 (0x3F00 + cause.code)))).event 0x10 (dieOf c.core) c.core 0xFFFF
      [(0x3F00 + cause.code, 2), (c.asid.toNat, 2)]
  else if cause == .page && c.task_idem && c.task.isSome then s.abortTask c ((ms.find? (·.cause == .page)).elim 0 (·.addr))
  else
    let c' := c.mapT fun k t =>
      if t.live then
        { t with
          pcvSave := match mark k with
            | some _ => BitVec.ofNat 64 (if cause == .swtrap then (p + 4) % 2 ^ 48 else p)
            | none => t.pcv.zeroExtend 64
          trapTstate := BitVec.ofNat 3 ((if t.yex then 1 else 0) + (if t.rwait then 2 else 0) + (if (mark k).isSome then 4 else 0))
          trapAddr := match mark k with | some m => BitVec.ofNat 64 m.addr | none => 0
          trapTcause := match mark k with | some m => BitVec.ofNat 8 m.cause.code | none => 0
          yex := false
          rwait := false
          pcv := mkPc ((s.ctx c.asid).trapBase.toNat + 64 * cause.code) }
      else t
    (s.dropHold c.id).setCrew { c'.issued (s.cycles c.core).toNat with
      mon := match c.wait with
        | some (.mwait _ _) => c.mon.map fun m => { m with triggered := true }
        | _ => c.mon
      trapMask := laneSet fun k => (mark k).isSome
      cause := BitVec.ofNat 8 cause.code
      privSave := s.privileged c
      inh := true
      trapInfo := info
      repSave := BitVec.ofNat 7 (c.rep.i.toNat + (if c.rep.active then 64 else 0))
      repFixed := c.rep.fixed
      rep := Rep.idle
      held := 0
      wait := none
      waitLanes := 0 }

/-- Trap entry at the issue address of a crew as it stood before the instruction. -/
def State.takeTrap (s : State) (c : Crew) (ms : List Mark) (info : BitVec 15) : State := s.takeTrapFrom c c.pc ms info

/-- A cause of the whole instruction: every thread of ACTIVE is marked at its address (R378). -/
def State.trapAll (s : State) (c : Crew) (cause : Cause) (act : Lanes) : State :=
  s.takeTrap c ((laneList act).map fun t => ⟨t, cause, c.instrAddr⟩) 0

/-- A cause of the whole instruction that reports an address (R286). -/
def State.trapAt (s : State) (c : Crew) (cause : Cause) (act : Lanes) (addr : Nat) : State :=
  s.takeTrap c ((laneList act).map fun t => ⟨t, cause, addr⟩) 0

/-- The set ACTIVE of a REP that goes on (R44, R45): the threads it was fixed to at repeat 0 that still stand at the issue address. -/
def Crew.refix (c : Crew) (on : Option Lanes) : Option Lanes :=
  on.bind fun a =>
    let x : Lanes := a &&& ({ c with rep := Rep.idle, held := 0 } : Crew).active
    if x == 0 then none else some x
/-- The return from a trap (R381): pcv, YEX and RWAIT of every live thread and the REP state come back, INH ends. -/
def State.returnTrap (s : State) (c : Crew) : State :=
  let c' := c.mapT fun _ t =>
    if t.live then
      { t with pcv := mkPc t.pcvSave.toNat, yex := t.trapTstate.getLsbD 0, rwait := t.trapTstate.getLsbD 1 }
    else t
  s.setCrew { c'.issued (s.cycles c.core).toNat with
    rep := { Rep.idle with
      active := c.repSave.getLsbD 6, i := c.repSave.extractLsb' 0 6, fixed := if c.repSave.getLsbD 6 then c'.refix c.repFixed else none }
    inh := false }

end Sys2Proof.Machine
end

