-- ==== Sys2Proof/Machine/Operands.lean ====
section
/-! DEFINITION. Operand forms: register numbers under index registers and REP stepping (R35, R38, R41, R42), what an instruction
names (R36, R37), and the checks every instruction shares (R28, R33, R36, R179, R104). -/

namespace Sys2Proof.Machine

/-- The fields a REP prefix can step (R41). -/
inductive RepField where
  | vd | va | vb
  deriving DecidableEq, Repr

def RepField.bit : RepField → Nat | .vd => 0 | .va => 1 | .vb => 2

/-- What repeat i adds to a field (R41): i x step where the list names it; a field of code 60 also where it names x0, once. -/
def Crew.stepOf (k : Crew) (f : RepField) (is60 : Bool) : Nat :=
  if k.rep.active && (k.rep.ctl.mask.getLsbD f.bit || (is60 && k.rep.ctl.mask.getLsbD 3)) then k.rep.i.toNat * k.rep.ctl.step else 0

/-- The register number of a 6-bit vector code (R35, R42). -/
def Crew.vnum (k : Crew) (f : RepField) (code : VCode) : Nat :=
  (if code.toNat < 60 then code.toNat else (k.x.getD (code.toNat - 60) 0).toNat) + k.stepOf f (code == 60)
/-- The register number of a 5-bit code (R35). -/
def Crew.vnum16 (k : Crew) (f : RepField) (code : BitVec 5) : Nat := code.toNat + k.stepOf f false
/-- A predicate number (R42) and the scalar number of the 16-bit S2V (R41). -/
def pnum (k : Crew) (f : RepField) (code : BitVec 6) : Nat := code.toNat + k.stepOf f false
def snum16 (k : Crew) (code : BitVec 5) : Nat := code.toNat + k.stepOf .va false

/-- Consecutive vector registers an instruction names: first, count, alignment of the first, written or not. -/
structure VecUse where
  first : Nat
  count : Nat
  align : Nat
  write : Bool
  deriving DecidableEq, Repr

/-- What an instruction names: vector registers, scalars, predicates, tiles; and the scalars it reads without naming them, which only the
scoreboard looks at (R33). -/
structure Uses where
  vec    : List VecUse := []
  sc     : List Nat := []
  pred   : List Nat := []
  tile   : List Nat := []
  silent : List Nat := []
  deriving DecidableEq, Repr

def vr (k : Crew) (f : RepField) (code : VCode) (count align : Nat) : VecUse := ⟨k.vnum f code, count, align, false⟩
def vw (k : Crew) (code : VCode) (count align : Nat) : VecUse := ⟨k.vnum .vd code, count, align, true⟩
def vr16 (k : Crew) (code : BitVec 5) : VecUse := ⟨k.vnum16 .va code, 1, 1, false⟩
def vw16 (k : Crew) (code : BitVec 5) : VecUse := ⟨k.vnum16 .vd code, 1, 1, true⟩
def frag (v8 : BitVec 3) : VecUse := ⟨8 * v8.toNat, 8, 8, false⟩
/-- The scalars of a pair operand, and of a reply pair (R33). -/
def prs {w : Nat} (p : BitVec w) : List Nat := [2 * p.toNat, 2 * p.toNat + 1]
def rprs (r : Reply) : List Nat := if r == 31 then [] else prs r

/-- Registers at vt by memory size (R34), and of one CAS value (R200). -/
def sizeRegs : MSize → Nat | .s8 => 1 | .n8 => 1 | .s16 => 1 | .n16 => 1 | .w32 => 1 | .w64 => 2 | .w128 => 4
def sizeBytes : MSize → Nat | .s8 => 1 | .n8 => 1 | .s16 => 2 | .n16 => 2 | .w32 => 4 | .w64 => 8 | .w128 => 16
def casRegs : CasSize → Nat | .c32 => 1 | .c64 => 2 | .c128 => 4
/-- Registers one MEPI writes (R284). -/
def epiRegs (g : List DWord) (fs : BitVec 3) : Nat := (slotElem (g.getD fs.toNat 0)).width / 4

/-- The registers an instruction names, for a crew and the format slots of its grid. -/
def uses (g : List DWord) (k : Crew) : Instr → Uses
  | .bra _ => {}
  | .brp _ _ _ => {}
  | .brs _ _ sn => { sc := [sn.toNat] }
  | .jmpv _ a => { vec := [vr k .va a 2 2] }
  | .call _ => {}
  | .callv _ a => { vec := [vr k .va a 2 2] }
  | .ret _ => {}
  | .switch _ v => { vec := [vr k .vd v 1 1] }
  | .refuse => {}
  | .exit _ => {}
  | .yield _ => {}
  | .spawn r b a _ => { sc := rprs r ++ prs b ++ prs a, silent := [2, 3, 4, 6, 7] }
  | .launch r a => { sc := rprs r ++ prs a, silent := [7] }
  | .waitcCounter r b a => { sc := rprs r ++ prs b ++ prs a }
  | .waitcHandle r a => { sc := rprs r ++ prs a }
  | .fork r a => { sc := rprs r ++ prs a, silent := [7] }
  | .join r => { sc := rprs r }
  | .taskq r a => { sc := rprs r ++ prs a }
  | .taskend => {}
  | .role _ => {}
  | .add _ _ b a d => { vec := [vr k .va a 1 1, vr k .vb b 1 1, vw k d 1 1] }
  | .mul f _ b a d => { vec := [vr k .va a 1 1, vr k .vb b 1 1, if mulWide f then vw k d 2 2 else vw k d 1 1] }
  | .mad f _ b a d => { vec := [vr k .va a 1 1, vr k .vb b 1 1, if mulWide f then vw k d 2 2 else vw k d 1 1] }
  | .log _ _ b a d => { vec := [vr k .va a 1 1, vr k .vb b 1 1, vw k d 1 1] }
  | .shf _ _ b a d => { vec := [vr k .va a 1 1, vr k .vb b 1 1, vw k d 1 1] }
  | .minmax f _ b a d => { vec := [vr k .va a 1 1, vw k d 1 1] ++ (if f == .absI || f == .absSatI then [] else [vr k .vb b 1 1]) }
  | .bit _ _ a d => { vec := [vr k .va a 1 1, vw k d 1 1] }
  | .bfx _ _ b a d => { vec := [vr k .va a 1 1, vr k .vb b 1 1, vw k d 1 1] }
  | .bfi _ b a d => { vec := [vr k .va a 1 1, vr k .vb b 1 1, vw k d 1 1] }
  | .sel _ _ b a d => { vec := [vr k .va a 1 1, vr k .vb b 1 1, vw k d 1 1] }
  | .opi _ _ a d => { vec := [vr k .va a 1 1, vw k d 1 1] }
  | .lih _ d => { vec := [vw k d 1 1] }
  | .cmp _ _ b a p => { vec := [vr k .va a 1 1, vr k .vb b 1 1], pred := [pnum k .vd p] }
  | .plog _ b a p => { pred := [pnum k .va a, pnum k .vb b, pnum k .vd p] }
  | .pmov a p => { pred := [pnum k .va a, pnum k .vd p] }
  | .pset _ p => { pred := [pnum k .vd p] }
  | .p2v _ v => { vec := [vw k v 1 1] }
  | .v2p v _ => { vec := [vr k .va v 1 1] }
  | .shfl _ f b a d => { vec := [vr k .va a 1 1, vw k d 1 1] ++ (if f == .idx then [vr k .vb b 1 1] else []) }
  | .vote t a p => if t == .ballot then { vec := [vw k p 1 1], pred := [pnum k .va a] } else { pred := [pnum k .va a, pnum k .vd p] }
  | .redx _ _ _ a d => { vec := [vr k .va a 1 1, vw k d 1 1] }
  | .s2v f _ sn v => { vec := [if f == .pair then vw k v 2 2 else vw k v 1 1], sc := if f == .pair then [sn.toNat, sn.toNat + 1] else [sn.toNat] }
  | .v2s f _ sn v => { vec := [if f == .pair then vr k .vd v 2 2 else vr k .vd v 1 1], sc := if f == .pair then [sn.toNat, sn.toNat + 1] else [sn.toNat] }
  | .sop f a d => { sc := if sopPair f then [a.toNat, a.toNat + 1, d.toNat, d.toNat + 1] else [a.toNat, d.toNat] }
  | .sli _ d => { sc := [d.toNat] }
  | .saddi _ d => { sc := [d.toNat] }
  | .slih _ d => { sc := [d.toNat] }
  | .xsetImm _ _ => {}
  | .xsetScalar n _ => { sc := [n.toNat] }
  | .xadd _ _ => {}
  | .rep _ _ _ => {}
  | .far _ _ b a d => { vec := [vr k .va a 1 1, vr k .vb b 1 1, vw k d 1 1] }
  | .ffma _ _ b a d => { vec := [vr k .va a 1 1, vr k .vb b 1 1, vw k d 1 1] }
  | .fun _ _ a d => { vec := [vr k .va a 1 1, vw k d 1 1] }
  | .sfu _ _ a d => { vec := [vr k .va a 1 1, vw k d 1 1] }
  | .cvt _ _ _ a d => { vec := [vr k .va a 1 1, vw k d 1 1] }
  | .icvt _ _ _ a d => { vec := [vr k .va a 1 1, vw k d 1 1] }
  | .pack _ _ b a d => { vec := [vr k .va a 1 1, vr k .vb b 1 1, vw k d 1 1] }
  | .unpk _ _ _ _ a d => { vec := [vr k .va a 1 1, vw k d 1 1] }
  | .hop _ _ b a d => { vec := [vr k .va a 1 1, vr k .vb b 1 1, vw k d 1 1] }
  | .renc _ _ a d => { vec := [vr k .va a 1 1, vw k d 1 1] }
  | .rdec _ _ a d => { vec := [vr k .va a 1 1, vw k d 1 1] }
  | .fcls _ _ a p => { vec := [vr k .va a 1 1], pred := [pnum k .vd p] }
  | .ld _ z b o t => { vec := [vr k .va o 1 1, vw k t (sizeRegs z) (sizeRegs z)], sc := prs b }
  | .st z b o t => { vec := [vr k .va o 1 1, vr k .vd t (sizeRegs z) (sizeRegs z)], sc := prs b }
  | .lda _ z b o t => { vec := [vr k .va o 1 1, vw k t (sizeRegs z) (sizeRegs z)], sc := prs b }
  | .stl _ z b o t => { vec := [vr k .va o 1 1, vr k .vd t (sizeRegs z) (sizeRegs z)], sc := prs b }
  | .lds _ z b o t => { vec := [vr k .va o 1 1, vw k t (sizeRegs z) (sizeRegs z)], sc := prs b }
  | .sts z b o t => { vec := [vr k .va o 1 1, vr k .vd t (sizeRegs z) (sizeRegs z)], sc := prs b }
  | .atom w _ _ b o t => { vec := [vr k .va o 1 1, vw k t (w.toNat + 1) (w.toNat + 1)], sc := prs b }
  | .cas _ p b o t => { vec := [vr k .va o 1 1, vw k t (2 * casRegs p) (2 * casRegs p)], sc := prs b }
  | .fence _ => {}
  | .fenceAcq _ => {}
  | .fenceRel _ => {}
  | .fenceWaitEnd _ => {}
  | .bar _ _ d => { sc := [d.toNat] }
  | .barPhaseComplete _ _ => {}
  | .bbarArm r b a => { sc := rprs r ++ prs b ++ prs a }
  | .bbarWait r a => { sc := rprs r ++ prs a }
  | .bbarTake r a => { sc := rprs r ++ prs a }
  | .bbarConditionMet _ => {}
  | .pres _ b o t => { vec := [vr k .va o 1 1, vw k t 1 1], sc := prs b }
  | .mon _ b o t => { vec := [vr k .va o 1 1, vw k t 1 1], sc := prs b }
  | .mwait _ d => { sc := [d.toNat] }
  | .mwaitWake _ => {}
  | .mwaitTimeout _ => {}
  | .subs r b a _ _ => { sc := rprs r ++ prs b ++ prs a }
  | .unsub r a => { sc := rprs r ++ prs a }
  | .subup r a _ => { sc := rprs r ++ prs a }
  | .subqLine r a => { sc := rprs r ++ prs a }
  | .subqSlot r a => { sc := rprs r ++ prs a }
  | .subqCnt r => { sc := rprs r }
  | .lineFetch _ _ _ _ => {}
  | .homeWriteApply _ => {}
  | .inval _ => {}
  | .upd _ => {}
  | .sharerAcknowledgement _ => {}
  | .evictionNotice _ _ => {}
  | .accessUnpark _ => {}
  | .cvset a _ => { sc := [a.toNat] }
  | .cvsetLive _ => {}
  | .cvsetImm _ _ => {}
  | .mma _ _ b a t => { vec := [frag a, frag b], tile := [t.toNat] }
  | .mmaSet _ _ b a t => { vec := [frag a, frag b], tile := [t.toNat] }
  | .mmr _ _ b a t => { vec := [frag a, frag b], tile := [t.toNat] }
  | .mmrSet _ _ b a t => { vec := [frag a, frag b], tile := [t.toNat] }
  | .matrixOperationComplete _ => {}
  | .mzero t => { tile := [t.toNat] }
  | .mepi _ fs d t => { vec := [⟨8 * d.toNat, epiRegs g fs, 8, true⟩], tile := [t.toNat] }
  | .mstConv b sp _ t => { sc := prs b ++ prs sp, tile := [t.toNat] }
  | .mstRaw b sp t => { sc := prs b ++ prs sp, tile := [t.toNat] }
  | .mldConv b sp _ t => { sc := prs b ++ prs sp, tile := [t.toNat] }
  | .mldRawF32 b sp t => { sc := prs b ++ prs sp, tile := [t.toNat] }
  | .mldRawRes b sp t => { sc := prs b ++ prs sp, tile := [t.toNat] }
  | .movfGet _ t d => { vec := [vw k d 8 8], tile := [t.toNat] }
  | .movfPutF32 _ t a => { vec := [vr k .va a 8 8], tile := [t.toNat] }
  | .movfPutI32 _ t a => { vec := [vr k .va a 8 8], tile := [t.toNat] }
  | .copy1 r b a _ _ => { sc := rprs r ++ prs b ++ prs a }
  | .copy2 r b a _ _ => { sc := rprs r ++ prs b ++ prs a }
  | .copyt r b a _ _ => { sc := rprs r ++ prs b ++ prs a }
  | .fill r b a _ _ => { sc := rprs r ++ prs b ++ prs a }
  | .copyr r b a _ _ => { sc := rprs r ++ prs b ++ prs a }
  | .copyh r b a _ _ => { sc := rprs r ++ prs b ++ prs a }
  | .gather r b a _ _ => { sc := rprs r ++ prs b ++ prs a }
  | .scatter r b a _ _ => { sc := rprs r ++ prs b ++ prs a }
  | .scatadd r b a _ _ => { sc := rprs r ++ prs b ++ prs a }
  | .gatherq r b _ _ => { sc := rprs r ++ prs b }
  | .allred r b a _ _ => { sc := rprs r ++ prs b ++ prs a }
  | .redscat r b a _ _ => { sc := rprs r ++ prs b ++ prs a }
  | .allgath r b a _ _ => { sc := rprs r ++ prs b ++ prs a }
  | .barrier r a _ _ => { sc := rprs r ++ prs a }
  | .engineAcceptance _ => {}
  | .engineChunkDelivered _ _ _ => {}
  | .commandCompletion _ => {}
  | .collectiveTimeout _ => {}
  | .peerLeaves _ => {}
  | .xlnStat r a => { sc := rprs r ++ prs a }
  | .ease r b a _ => { sc := rprs r ++ prs b ++ prs a }
  | .wake r b a _ => { sc := rprs r ++ prs b ++ prs a }
  | .qpush a _ => { sc := [a.toNat, a.toNat + 1] }
  | .qpushS a _ => { sc := [a.toNat] }
  | .qpop _ d => { sc := [d.toNat, d.toNat + 1] }
  | .queueWaitEnd _ => {}
  | .tlwait r a _ => { sc := rprs r ++ prs a }
  | .tlwaitComplete _ => {}
  | .tlrdSt r a _ => { sc := rprs r ++ prs a }
  | .tlrdIssued r _ => { sc := rprs r }
  | .tlrdDone r _ => { sc := rprs r }
  | .tlrdFails r _ => { sc := rprs r }
  | .skStore r b a _ _ => { sc := rprs r ++ prs b ++ prs a }
  | .skAdd r b a _ _ => { sc := rprs r ++ prs b ++ prs a }
  | .skClaim r b a _ _ => { sc := rprs r ++ prs b ++ prs a }
  | .skSwap r b a _ _ => { sc := rprs r ++ prs b ++ prs a }
  | .skMax r b a _ _ => { sc := rprs r ++ prs b ++ prs a }
  | .skGen r b _ => { sc := rprs r ++ prs b }
  | .skLaunch r b _ => { sc := rprs r ++ prs b }
  | .skNote r b _ => { sc := rprs r ++ prs b }
  | .strokeAcceptance _ => {}
  | .wstrk r a => { sc := rprs r ++ prs a }
  | .wstrkNote r b a => { sc := rprs r ++ prs b ++ prs a }
  | .wstrkComplete _ => {}
  | .strkn r => { sc := rprs r }
  | .strknNote r a => { sc := rprs r ++ prs a }
  | .strknStat r => { sc := rprs r }
  | .coxToken _ => {}
  | .strokeReceive _ => {}
  | .repairRequest _ => {}
  | .waveguideBreak _ => {}
  | .countCollection _ _ => {}
  | .ringInitialisation _ _ _ => {}
  | .replicaResync _ _ _ => {}
  | .apxe _ => {}
  | .apxl _ => {}
  | .apxi r _ => { sc := rprs r }
  | .apxiAll r => { sc := rprs r }
  | .apxqStat r _ => { sc := rprs r }
  | .apxqCount r _ => { sc := rprs r }
  | .apxqErr r _ => { sc := rprs r }
  | .apxqMisc r _ => { sc := rprs r }
  | .apxcRetire r _ => { sc := rprs r }
  | .apxcReset r _ => { sc := rprs r }
  | .apxcShift r a _ => { sc := rprs r ++ prs a }
  | .apxcDet r a _ => { sc := rprs r ++ prs a }
  | .apxcLoadw r a _ => { sc := rprs r ++ prs a }
  | .apxcDumpw r a _ => { sc := rprs r ++ prs a }
  | .apxsSave r a _ => { sc := rprs r ++ prs a }
  | .apxsLoad r a _ => { sc := rprs r ++ prs a }
  | .apxsDrop r _ => { sc := rprs r }
  | .ergWatchNotification _ => {}
  | .trainingBatch _ _ => {}
  | .trap _ => {}
  | .rett => {}
  | .gsr _ d => { sc := [d.toNat, d.toNat + 1] }
  | .gsrV _ v => { vec := [vw k v 2 2] }
  | .ssr _ d => { sc := [d.toNat, d.toNat + 1] }
  | .ssrV _ v => { vec := [vr k .vd v 2 2] }
  | .svcall r b a _ => { sc := rprs r ++ prs b ++ prs a }
  | .svwait r a => { sc := rprs r ++ prs a }
  | .svwaitWake _ => {}
  | .tksv r a t => { sc := rprs r ++ prs a, tile := [t.toNat] }
  | .tkld r a t => { sc := rprs r ++ prs a, tile := [t.toNat] }
  | .ctxsvCrew r b a => { sc := rprs r ++ prs b ++ prs a }
  | .ctxsvTiles r b a => { sc := rprs r ++ prs b ++ prs a }
  | .ctxsvSquad r b a => { sc := rprs r ++ prs b ++ prs a }
  | .ctxldCrew r b a => { sc := rprs r ++ prs b ++ prs a }
  | .ctxldTiles r b a => { sc := rprs r ++ prs b ++ prs a }
  | .ctxldSquad r a => { sc := rprs r ++ prs a }
  | .halt _ => {}
  | .crend _ => {}
  | .crendS d => { sc := [d.toNat] }
  | .cyc d => { sc := [d.toNat, d.toNat + 1] }
  | .cycTime d => { sc := [d.toNat, d.toNat + 1] }
  | .mov16 a d => { vec := [vr16 k a, vw16 k d] }
  | .add16I32 a d => { vec := [vr16 k a, vw16 k d] }
  | .add16F32 a d => { vec := [vr16 k a, vw16 k d] }
  | .sub16I32 a d => { vec := [vr16 k a, vw16 k d] }
  | .sub16F32 a d => { vec := [vr16 k a, vw16 k d] }
  | .mul16I32 a d => { vec := [vr16 k a, vw16 k d] }
  | .mul16F32 a d => { vec := [vr16 k a, vw16 k d] }
  | .and16 a d => { vec := [vr16 k a, vw16 k d] }
  | .or16 a d => { vec := [vr16 k a, vw16 k d] }
  | .xor16 a d => { vec := [vr16 k a, vw16 k d] }
  | .shl16 a d => { vec := [vr16 k a, vw16 k d] }
  | .shr16N32 a d => { vec := [vr16 k a, vw16 k d] }
  | .shr16I32 a d => { vec := [vr16 k a, vw16 k d] }
  | .min16I32 a d => { vec := [vr16 k a, vw16 k d] }
  | .min16F32 a d => { vec := [vr16 k a, vw16 k d] }
  | .max16I32 a d => { vec := [vr16 k a, vw16 k d] }
  | .max16F32 a d => { vec := [vr16 k a, vw16 k d] }
  | .neg16I32 a d => { vec := [vr16 k a, vw16 k d] }
  | .neg16F32 a d => { vec := [vr16 k a, vw16 k d] }
  | .not16 a d => { vec := [vr16 k a, vw16 k d] }
  | .abs16F32 a d => { vec := [vr16 k a, vw16 k d] }
  | .addi5 _ d => { vec := [vw16 k d] }
  | .movi5 _ d => { vec := [vw16 k d] }
  | .s2v16 sn d => { vec := [vw16 k d], sc := [snum16 k sn] }
  | .boatFormation _ _ => {}
  | .boatIssue _ _ => {}
  | .agePromotion _ => {}
  | .lqPush _ _ => {}
  | .hostLaunchArrival => {}
  | .gridTableWaitEnd => {}
  | .squadAdmission _ _ => {}
  | .swapOutForRoom _ => {}
  | .crewResourcesFreed _ => {}
  | .gridRetirement _ => {}
  | .joinResume _ _ => {}
  | .taskStart _ _ _ => {}
  | .taskDrained _ _ => {}
  | .taskReady _ => {}
  | .genRaise _ => {}
  | .preemptHalt _ _ => {}
  | .preemptRelease _ _ => {}
  | .preemptionHaltComplete _ => {}
  | .clkCtl _ => {}
  | .regionFrequencyChange _ => {}
  | .regionStopEnd _ => {}
  | .clockStretch _ => {}
  | .deviceReset _ => {}
  | .partTestComplete _ _ => {}
  | .spareTakeover _ => {}
  | .hostBiasFlip _ => {}
  | .biasFlipTimeout _ => {}
  | .snpData _ _ => {}
  | .snpInv _ _ => {}
  | .poolShelfFailure _ _ => {}
  | .poolCompletionTimeout _ _ => {}
  | .atsInvalidation _ _ => {}
  | .sweepPacket _ => {}
  | .headerFlit _ _ => {}
  | .readRequestFlit _ _ => {}
  | .payloadFlit _ _ => {}
  | .completionFlit _ _ => {}
  | .acknowledgement _ _ => {}
  | .negativeAcknowledgement _ _ => {}
  | .idleFlit _ _ => {}
  | .controlFlit _ _ => {}
  | .ackTimer _ => {}
  | .replayTimeout _ => {}
  | .lossOfLight _ _ _ => {}
  | .laserModuleFailure _ => {}
  | .narrowingTimeout _ => {}
  | .flitWaitTimeout _ => {}
  | .bringupStageComplete _ _ _ => {}
  | .bringupStageTimeout _ => {}
  | .wakeComplete _ => {}
  | .wakeBudgetExpiry _ _ => {}
  | .automaticWake _ => {}
  | .drawRun => {}
  | .linkDrained _ => {}
  | .circuitSwitchReport _ => {}
  | .switchTimeout _ => {}
  | .exclusionClear _ _ => {}
  | .linkParameterWrite _ _ => {}
  | .discardedFlit _ => {}
  | .lanesLost _ _ => {}
  | .poolRangeReenable _ => {}
  | .biasTableWrite _ _ => {}
  | .routeTableWrite _ _ => {}
  | .contextTeardown _ => {}
  | .firmwareImage _ => {}
  | .cxlResponse _ _ _ => {}
  | .requestQueueTake => {}

/-- R36, R37 and R42: every register lies below its allotment and starts where it must. A direct code that REP stepping makes misaligned is
REG_BOUND: R37 names ILLEGAL for the code in the word and REG_BOUND for a number from an index register (DESIGN CHOICE, log 67). -/
def Uses.inBounds (u : Uses) (k : Crew) : Bool :=
  u.vec.all (fun v => decide (v.first + v.count ≤ k.n) && v.first % v.align == 0)
    && u.sc.all (fun r => decide (r < k.m)) && u.pred.all (fun p => decide (p < 64))
    && u.tile.all (fun t => decide (t < k.tileSlots.length))

/-- A scalar of the instruction is scoreboarded (R33). -/
def Uses.blocked (u : Uses) (k : Crew) : Bool := (u.sc ++ u.silent).any fun r => k.sb.contains (r / 2)

/-! ## REP legality (R41) -/

/-- The fields of an instruction a prefix may step, with the vector code each holds (100 for a field that is no vector code). -/
structure RepUse where
  vd : Option Nat
  va : Option Nat
  vb : Option Nat
  deriving DecidableEq, Repr

def vc (code : VCode) : Option Nat := some code.toNat
def px : Option Nat := some 100

/-- The steppable fields of a repeatable instruction; none for another format (R41). -/
def repUse : Instr → Option RepUse
  | .bra _ => none
  | .brp _ _ _ => none
  | .brs _ _ _ => none
  | .jmpv _ _ => none
  | .call _ => none
  | .callv _ _ => none
  | .ret _ => none
  | .switch _ _ => none
  | .refuse => none
  | .exit _ => none
  | .yield _ => none
  | .spawn _ _ _ _ => none
  | .launch _ _ => none
  | .waitcCounter _ _ _ => none
  | .waitcHandle _ _ => none
  | .fork _ _ => none
  | .join _ => none
  | .taskq _ _ => none
  | .taskend => none
  | .role _ => none
  | .add _ _ b a d => some ⟨vc d, vc a, vc b⟩
  | .mul _ _ b a d => some ⟨vc d, vc a, vc b⟩
  | .mad _ _ b a d => some ⟨vc d, vc a, vc b⟩
  | .log _ _ b a d => some ⟨vc d, vc a, vc b⟩
  | .shf _ _ b a d => some ⟨vc d, vc a, vc b⟩
  | .minmax f _ b a d => some ⟨vc d, vc a, if f == .absI || f == .absSatI then none else vc b⟩
  | .bit _ _ a d => some ⟨vc d, vc a, none⟩
  | .bfx _ _ b a d => some ⟨vc d, vc a, vc b⟩
  | .bfi _ b a d => some ⟨vc d, vc a, vc b⟩
  | .sel _ _ b a d => some ⟨vc d, vc a, vc b⟩
  | .opi _ _ a d => some ⟨vc d, vc a, none⟩
  | .lih _ d => some ⟨vc d, none, none⟩
  | .cmp _ _ b a _ => some ⟨px, vc a, vc b⟩
  | .plog _ _ _ _ => some ⟨px, px, px⟩
  | .pmov _ _ => some ⟨px, px, none⟩
  | .pset _ _ => some ⟨px, none, none⟩
  | .p2v _ v => some ⟨vc v, none, none⟩
  | .v2p v _ => some ⟨none, vc v, none⟩
  | .shfl _ f b a d => some ⟨vc d, vc a, if f == .idx then vc b else none⟩
  | .vote t _ p => some ⟨if t == .ballot then vc p else px, px, none⟩
  | .redx _ _ _ a d => some ⟨vc d, vc a, none⟩
  | .s2v _ _ _ _ => none
  | .v2s _ _ _ _ => none
  | .sop _ _ _ => none
  | .sli _ _ => none
  | .saddi _ _ => none
  | .slih _ _ => none
  | .xsetImm _ _ => none
  | .xsetScalar _ _ => none
  | .xadd _ _ => none
  | .rep _ _ _ => none
  | .far _ _ b a d => some ⟨vc d, vc a, vc b⟩
  | .ffma _ _ b a d => some ⟨vc d, vc a, vc b⟩
  | .fun _ _ a d => some ⟨vc d, vc a, none⟩
  | .sfu _ _ a d => some ⟨vc d, vc a, none⟩
  | .cvt _ _ _ a d => some ⟨vc d, vc a, none⟩
  | .icvt _ _ _ a d => some ⟨vc d, vc a, none⟩
  | .pack _ _ b a d => some ⟨vc d, vc a, vc b⟩
  | .unpk _ _ _ _ a d => some ⟨vc d, vc a, none⟩
  | .hop _ _ b a d => some ⟨vc d, vc a, vc b⟩
  | .renc _ _ a d => some ⟨vc d, vc a, none⟩
  | .rdec _ _ a d => some ⟨vc d, vc a, none⟩
  | .fcls _ _ a _ => some ⟨px, vc a, none⟩
  | .ld _ _ _ o t => some ⟨vc t, vc o, none⟩
  | .st _ _ o t => some ⟨vc t, vc o, none⟩
  | .lda _ _ _ o t => some ⟨vc t, vc o, none⟩
  | .stl _ _ _ o t => some ⟨vc t, vc o, none⟩
  | .lds _ _ _ o t => some ⟨vc t, vc o, none⟩
  | .sts _ _ o t => some ⟨vc t, vc o, none⟩
  | .atom _ _ _ _ o t => some ⟨vc t, vc o, none⟩
  | .cas _ _ _ o t => some ⟨vc t, vc o, none⟩
  | .fence _ => none
  | .fenceAcq _ => none
  | .fenceRel _ => none
  | .fenceWaitEnd _ => none
  | .bar _ _ _ => none
  | .barPhaseComplete _ _ => none
  | .bbarArm _ _ _ => none
  | .bbarWait _ _ => none
  | .bbarTake _ _ => none
  | .bbarConditionMet _ => none
  | .pres _ _ o t => some ⟨vc t, vc o, none⟩
  | .mon _ _ o t => some ⟨vc t, vc o, none⟩
  | .mwait _ _ => none
  | .mwaitWake _ => none
  | .mwaitTimeout _ => none
  | .subs _ _ _ _ _ => none
  | .unsub _ _ => none
  | .subup _ _ _ => none
  | .subqLine _ _ => none
  | .subqSlot _ _ => none
  | .subqCnt _ => none
  | .lineFetch _ _ _ _ => none
  | .homeWriteApply _ => none
  | .inval _ => none
  | .upd _ => none
  | .sharerAcknowledgement _ => none
  | .evictionNotice _ _ => none
  | .accessUnpark _ => none
  | .cvset _ _ => none
  | .cvsetLive _ => none
  | .cvsetImm _ _ => none
  | .mma _ _ _ _ _ => none
  | .mmaSet _ _ _ _ _ => none
  | .mmr _ _ _ _ _ => none
  | .mmrSet _ _ _ _ _ => none
  | .matrixOperationComplete _ => none
  | .mzero _ => none
  | .mepi _ _ _ _ => none
  | .mstConv _ _ _ _ => some ⟨none, none, none⟩
  | .mstRaw _ _ _ => some ⟨none, none, none⟩
  | .mldConv _ _ _ _ => some ⟨none, none, none⟩
  | .mldRawF32 _ _ _ => some ⟨none, none, none⟩
  | .mldRawRes _ _ _ => some ⟨none, none, none⟩
  | .movfGet _ _ d => some ⟨vc d, none, none⟩
  | .movfPutF32 _ _ a => some ⟨none, vc a, none⟩
  | .movfPutI32 _ _ a => some ⟨none, vc a, none⟩
  | .copy1 _ _ _ _ _ => none
  | .copy2 _ _ _ _ _ => none
  | .copyt _ _ _ _ _ => none
  | .fill _ _ _ _ _ => none
  | .copyr _ _ _ _ _ => none
  | .copyh _ _ _ _ _ => none
  | .gather _ _ _ _ _ => none
  | .scatter _ _ _ _ _ => none
  | .scatadd _ _ _ _ _ => none
  | .gatherq _ _ _ _ => none
  | .allred _ _ _ _ _ => none
  | .redscat _ _ _ _ _ => none
  | .allgath _ _ _ _ _ => none
  | .barrier _ _ _ _ => none
  | .engineAcceptance _ => none
  | .engineChunkDelivered _ _ _ => none
  | .commandCompletion _ => none
  | .collectiveTimeout _ => none
  | .peerLeaves _ => none
  | .xlnStat _ _ => none
  | .ease _ _ _ _ => none
  | .wake _ _ _ _ => none
  | .qpush _ _ => none
  | .qpushS _ _ => none
  | .qpop _ _ => none
  | .queueWaitEnd _ => none
  | .tlwait _ _ _ => none
  | .tlwaitComplete _ => none
  | .tlrdSt _ _ _ => none
  | .tlrdIssued _ _ => none
  | .tlrdDone _ _ => none
  | .tlrdFails _ _ => none
  | .skStore _ _ _ _ _ => none
  | .skAdd _ _ _ _ _ => none
  | .skClaim _ _ _ _ _ => none
  | .skSwap _ _ _ _ _ => none
  | .skMax _ _ _ _ _ => none
  | .skGen _ _ _ => none
  | .skLaunch _ _ _ => none
  | .skNote _ _ _ => none
  | .strokeAcceptance _ => none
  | .wstrk _ _ => none
  | .wstrkNote _ _ _ => none
  | .wstrkComplete _ => none
  | .strkn _ => none
  | .strknNote _ _ => none
  | .strknStat _ => none
  | .coxToken _ => none
  | .strokeReceive _ => none
  | .repairRequest _ => none
  | .waveguideBreak _ => none
  | .countCollection _ _ => none
  | .ringInitialisation _ _ _ => none
  | .replicaResync _ _ _ => none
  | .apxe _ => none
  | .apxl _ => none
  | .apxi _ _ => none
  | .apxiAll _ => none
  | .apxqStat _ _ => none
  | .apxqCount _ _ => none
  | .apxqErr _ _ => none
  | .apxqMisc _ _ => none
  | .apxcRetire _ _ => none
  | .apxcReset _ _ => none
  | .apxcShift _ _ _ => none
  | .apxcDet _ _ _ => none
  | .apxcLoadw _ _ _ => none
  | .apxcDumpw _ _ _ => none
  | .apxsSave _ _ _ => none
  | .apxsLoad _ _ _ => none
  | .apxsDrop _ _ => none
  | .ergWatchNotification _ => none
  | .trainingBatch _ _ => none
  | .trap _ => none
  | .rett => none
  | .gsr _ _ => none
  | .gsrV _ _ => none
  | .ssr _ _ => none
  | .ssrV _ _ => none
  | .svcall _ _ _ _ => none
  | .svwait _ _ => none
  | .svwaitWake _ => none
  | .tksv _ _ _ => none
  | .tkld _ _ _ => none
  | .ctxsvCrew _ _ _ => none
  | .ctxsvTiles _ _ _ => none
  | .ctxsvSquad _ _ _ => none
  | .ctxldCrew _ _ _ => none
  | .ctxldTiles _ _ _ => none
  | .ctxldSquad _ _ => none
  | .halt _ => none
  | .crend _ => none
  | .crendS _ => none
  | .cyc _ => none
  | .cycTime _ => none
  | .mov16 _ _ => some ⟨px, px, none⟩
  | .add16I32 _ _ => some ⟨px, px, none⟩
  | .add16F32 _ _ => some ⟨px, px, none⟩
  | .sub16I32 _ _ => some ⟨px, px, none⟩
  | .sub16F32 _ _ => some ⟨px, px, none⟩
  | .mul16I32 _ _ => some ⟨px, px, none⟩
  | .mul16F32 _ _ => some ⟨px, px, none⟩
  | .and16 _ _ => some ⟨px, px, none⟩
  | .or16 _ _ => some ⟨px, px, none⟩
  | .xor16 _ _ => some ⟨px, px, none⟩
  | .shl16 _ _ => some ⟨px, px, none⟩
  | .shr16N32 _ _ => some ⟨px, px, none⟩
  | .shr16I32 _ _ => some ⟨px, px, none⟩
  | .min16I32 _ _ => some ⟨px, px, none⟩
  | .min16F32 _ _ => some ⟨px, px, none⟩
  | .max16I32 _ _ => some ⟨px, px, none⟩
  | .max16F32 _ _ => some ⟨px, px, none⟩
  | .neg16I32 _ _ => some ⟨px, px, none⟩
  | .neg16F32 _ _ => some ⟨px, px, none⟩
  | .not16 _ _ => some ⟨px, px, none⟩
  | .abs16F32 _ _ => some ⟨px, px, none⟩
  | .addi5 _ _ => some ⟨px, none, none⟩
  | .movi5 _ _ => some ⟨px, none, none⟩
  | .s2v16 _ _ => some ⟨px, px, none⟩
  | .boatFormation _ _ => none
  | .boatIssue _ _ => none
  | .agePromotion _ => none
  | .lqPush _ _ => none
  | .hostLaunchArrival => none
  | .gridTableWaitEnd => none
  | .squadAdmission _ _ => none
  | .swapOutForRoom _ => none
  | .crewResourcesFreed _ => none
  | .gridRetirement _ => none
  | .joinResume _ _ => none
  | .taskStart _ _ _ => none
  | .taskDrained _ _ => none
  | .taskReady _ => none
  | .genRaise _ => none
  | .preemptHalt _ _ => none
  | .preemptRelease _ _ => none
  | .preemptionHaltComplete _ => none
  | .clkCtl _ => none
  | .regionFrequencyChange _ => none
  | .regionStopEnd _ => none
  | .clockStretch _ => none
  | .deviceReset _ => none
  | .partTestComplete _ _ => none
  | .spareTakeover _ => none
  | .hostBiasFlip _ => none
  | .biasFlipTimeout _ => none
  | .snpData _ _ => none
  | .snpInv _ _ => none
  | .poolShelfFailure _ _ => none
  | .poolCompletionTimeout _ _ => none
  | .atsInvalidation _ _ => none
  | .sweepPacket _ => none
  | .headerFlit _ _ => none
  | .readRequestFlit _ _ => none
  | .payloadFlit _ _ => none
  | .completionFlit _ _ => none
  | .acknowledgement _ _ => none
  | .negativeAcknowledgement _ _ => none
  | .idleFlit _ _ => none
  | .controlFlit _ _ => none
  | .ackTimer _ => none
  | .replayTimeout _ => none
  | .lossOfLight _ _ _ => none
  | .laserModuleFailure _ => none
  | .narrowingTimeout _ => none
  | .flitWaitTimeout _ => none
  | .bringupStageComplete _ _ _ => none
  | .bringupStageTimeout _ => none
  | .wakeComplete _ => none
  | .wakeBudgetExpiry _ _ => none
  | .automaticWake _ => none
  | .drawRun => none
  | .linkDrained _ => none
  | .circuitSwitchReport _ => none
  | .switchTimeout _ => none
  | .exclusionClear _ _ => none
  | .linkParameterWrite _ _ => none
  | .discardedFlit _ => none
  | .lanesLost _ _ => none
  | .poolRangeReenable _ => none
  | .biasTableWrite _ _ => none
  | .routeTableWrite _ _ => none
  | .contextTeardown _ => none
  | .firmwareImage _ => none
  | .cxlResponse _ _ _ => none
  | .requestQueueTake => none

/-- Whether a REP prefix may stand before the instruction (R41). -/
def repLegal (mask : BitVec 4) (i : Instr) : Bool :=
  match repUse i with
  | none => false
  | some u =>
    (!mask.getLsbD 0 || u.vd.isSome) && (!mask.getLsbD 1 || u.va.isSome) && (!mask.getLsbD 2 || u.vb.isSome)
      && (!mask.getLsbD 3 || u.vd == some 60 || u.va == some 60 || u.vb == some 60)

/-! ## What every instruction shares -/

/-- The format slots of a crew's grid (R153). -/
def State.slots (s : State) (k : Crew) : List DWord := ((s.grid? k.grid).map (·.slots)).getD []
def State.slot (s : State) (k : Crew) (fs : BitVec 3) : DWord := (s.slots k).getD fs.toNat 0

/-- Registers unprivileged code may not read (R374). -/
def regPrivRead : SysReg → Bool
  | .devState | .devId | .coreId | .schedAge | .lqStat | .clkCtl | .fwState | .ctxAsid | .skmWin | .ctxFlags => false
  | .genRaise | .preemptReq | .lqPush | .taskReady | .pcvSave | .trapAddr | .trapTcause | .trapTstate | .trapCause | .trapMask
  | .trapInfo | .repSave | .trapScr0 | .trapScr1 | .trapScr2 | .trapScr3 | .tankInfo | .ctxRoot | .trapBase | .ctxKey => true

/-- Instructions that raise PRIV in unprivileged code (R372; RETT decides by itself, R381). -/
def needsPriv (i : Instr) : Bool :=
  match i with
  | .tksv .. | .tkld .. | .ctxsvCrew .. | .ctxsvTiles .. | .ctxsvSquad .. | .ctxldCrew .. | .ctxldTiles .. | .ctxldSquad ..
  | .apxsSave .. | .apxsLoad .. | .apxsDrop .. | .ssr .. | .ssrV .. | .skGen .. | .skLaunch .. => true
  | .gsr r _ => regPrivRead r
  | .gsrV r _ => regPrivRead r
  | _ => false

/-- The guard field of format V; 7 (no guard) for every other instruction (R32). -/
def guardOf : Instr → Guard
  | .jmpv g _ => g
  | .callv g _ => g
  | .ret g => g
  | .exit g => g
  | .yield g => g
  | .add _ g _ _ _ => g
  | .mul _ g _ _ _ => g
  | .mad _ g _ _ _ => g
  | .log _ g _ _ _ => g
  | .shf _ g _ _ _ => g
  | .minmax _ g _ _ _ => g
  | .bit _ g _ _ => g
  | .sel _ g _ _ _ => g
  | .far _ g _ _ _ => g
  | .ffma _ g _ _ _ => g
  | .fun _ g _ _ => g
  | .pack _ g _ _ _ => g
  | .hop _ g _ _ _ => g
  | _ => 7

/-- A crew that may issue: it is resident, not halted, not ended and waits for nothing (R66). -/
def Crew.mayIssue (k : Crew) : Bool := !k.halted && !k.ended && k.wait.isNone

/-- Instructions that wait for the crew's own pending loads and squad-memory stores (R181, R218, R228, R230, R233, R236): what starts other work or
reads memory for the crew as a whole, releases, fences and barriers. -/
def waitsForOwn : Instr → Bool
  | .spawn .. | .launch .. | .waitcCounter .. | .fork .. | .taskq .. | .stl .. | .fence .. | .fenceAcq .. | .fenceRel .. | .bar ..
  | .bbarArm .. | .bbarWait .. | .bbarTake .. | .mstConv .. | .mstRaw .. | .mldConv .. | .mldRawF32 .. | .mldRawRes .. | .apxe .. | .apxl ..
  | .apxi .. | .apxiAll .. | .apxqStat .. | .apxqCount .. | .apxqErr .. | .apxqMisc .. | .apxcRetire .. | .apxcReset .. | .apxcShift ..
  | .apxcDet .. | .apxcLoadw .. | .apxcDumpw .. | .apxsSave .. | .apxsLoad .. | .apxsDrop .. | .svcall .. | .tksv .. | .tkld ..
  | .ctxsvCrew .. | .ctxsvTiles .. | .ctxsvSquad .. | .ctxldCrew .. | .ctxldTiles .. | .ctxldSquad .. => true
  | .atom _ r _ _ _ _ => r == .release || r == .acqrel
  | .cas r _ _ _ _ => r == .release || r == .acqrel
  | .copy1 _ _ _ e _ | .copy2 _ _ _ e _ | .copyt _ _ _ e _ | .fill _ _ _ e _ | .copyr _ _ _ e _ | .copyh _ _ _ e _ | .gather _ _ _ e _
  | .scatter _ _ _ e _ | .scatadd _ _ _ e _ | .gatherq _ _ e _ | .allred _ _ _ e _ | .redscat _ _ _ e _ | .allgath _ _ _ e _
  | .barrier _ _ e _ | .skStore _ _ _ e _ | .skAdd _ _ _ e _ | .skClaim _ _ _ e _ | .skSwap _ _ _ e _ | .skMax _ _ _ e _
  | .skGen _ _ e | .skLaunch _ _ e | .skNote _ _ e => e == 1
  | _ => false

/-- Registers that a pending load is to write and that an instruction names, outside what is left of the load's lookahead window (R33, R39, R181). -/
def Uses.pends (u : Uses) (k : Crew) (i : Instr) : Bool :=
  k.loads.any fun p => (p.left == 0 || closesWindow i) && u.vec.any fun v =>
    decide (v.first < p.reg + sizeRegs p.size) && decide (p.reg < v.first + v.count)

/-- A crew has loads, or stores to squad memory, still to perform. -/
def State.owesAccess (s : State) (k : Crew) : Bool :=
  !k.loads.isEmpty || ((s.squad? k.squad).map fun q => q.bank.any (·.crew == k.id)).getD false

/-- Instructions that order a pending WAITC's read before what follows them elsewhere: fences, barriers and releases that are no memory instruction
(R218, R230, R233, R236). -/
def ordersWaitc : Instr → Bool
  | .fence .. | .fenceAcq .. | .fenceRel .. | .bar .. | .svcall .. | .taskq .. | .launch .. | .fork .. | .spawn .. => true
  | .copy1 _ _ _ e _ | .copy2 _ _ _ e _ | .copyt _ _ _ e _ | .fill _ _ _ e _ | .copyr _ _ _ e _ | .copyh _ _ _ e _ | .gather _ _ _ e _
  | .scatter _ _ _ e _ | .scatadd _ _ _ e _ | .gatherq _ _ e _ | .allred _ _ _ e _ | .redscat _ _ _ e _ | .allgath _ _ _ e _
  | .barrier _ _ e _ | .skStore _ _ _ e _ | .skAdd _ _ _ e _ | .skClaim _ _ _ e _ | .skSwap _ _ _ e _ | .skMax _ _ _ e _
  | .skGen _ _ e | .skLaunch _ _ e | .skNote _ _ e => e == 1
  | _ => false

/-- Every write a release of the crew covers is globally performed. -/
def State.coveredDone (s : State) (crew : Nat) : Bool := !s.writes.any (·.known.contains crew)
/-- An SVCALL is a release, so what it covers is performed before its request is placed (R387). -/
def releasesFirst : Instr → Bool
  | .svcall .. => true
  | _ => false

/-- An operand of the instruction is still to come (R33, R181), or the instruction waits for what the crew has still to perform. -/
def State.unready (s : State) (k : Crew) (i : Instr) : Bool :=
  (uses (s.slots k) k i).blocked k || (uses (s.slots k) k i).pends k i || (waitsForOwn i && s.owesAccess k)
    || (ordersWaitc i && !k.waitc.isEmpty) || (releasesFirst i && !s.coveredDone k.id)

/-- Some thread issues and no check before the instruction's own stops it: the condition under which a body runs (a register out of
bounds marks only threads of the guarded set, R36). -/
def State.issues (s : State) (k : Crew) (i : Instr) : Bool :=
  k.mayIssue && k.active != 0 && (!needsPriv i || s.privileged k)
    && ((uses (s.slots k) k i).inBounds k || k.guarded k.active (guardOf i) == 0) && !s.unready k i

/-- The state with the lookahead windows closed that an instruction closes before it reads (R39). -/
def State.closed (s : State) (k : Crew) (i : Instr) : State := if closesWindow i then s.setCrew (k.closeWin i k.active) else s

/-- One instruction of the current crew (R28, R33, R36, R378): without a crew, or for a crew that waits, nothing happens; PRIV
and REG_BOUND come first; a scoreboarded operand stalls the crew; the windows the instruction closes end (R39); then its own meaning. -/
def issue (i : Instr) (s : State) (body : State → Crew → Lanes → State) : Out State :=
  .next <|
    match s.curCrew with
    | none => s
    | some k =>
      if !k.mayIssue || k.active == 0 then s
      else if needsPriv i && !s.privileged k then s.trapAll k .priv k.active
      else if !(uses (s.slots k) k i).inBounds k && k.guarded k.active (guardOf i) != 0 then
        s.trapAll k .regBound (k.guarded k.active (guardOf i))
      else if s.unready k i then s
      else body (s.closed k i).bump (k.closeWin i k.active) k.active

/-- An instruction whose legality depends on the state: its ILLEGAL has the highest priority of all causes (R378). -/
def issueLegal (bad : State → Crew → Bool) (i : Instr) (s : State) (body : State → Crew → Lanes → State) : Out State :=
  match s.curCrew with
  | none => .next s
  | some k => if k.mayIssue && k.active != 0 && bad s k then .next (s.trapAll k .illegal k.active) else issue i s body

end Sys2Proof.Machine
end

