-- ==== Sys2Proof/Machine/Mem.lean ====
section
/-! DEFINITION. Address spaces, translation, the checks of an access, the deck with its directory, L1 copies and writes on their
way, squad memory, spill and stroke memory (spec/07_memory.md; spec/09_subscribe.md R245 to R256). -/

namespace Sys2Proof.Machine

/-! ## Translation (R184 to R192) -/

def State.deckN (s : State) (off n : Nat) : Nat := leNat (s.deck.readN off n)

/-- Whether a write covers some of n bytes. -/
def Write.covers (w : Write) (off n : Nat) : Bool := decide (w.off < off + n) && decide (off < w.off + w.bytes.length)
/-- A deck byte as the globally performed writes alone leave it: the writes home has applied and that are not performed are taken back, the last
first (R192). -/
def State.performedByte (s : State) (a : Nat) : Byte :=
  (sortBy (·.turn) (s.writes.filter fun w => w.applied && !w.done && w.covers a 1)).reverse.foldl (fun b w => (w.old.getD (a - w.off) none).getD b) (s.deck.read a)
/-- What the walker reads (R192). -/
def State.tableN (s : State) (off n : Nat) : Nat := leNat ((List.range n).map fun j => s.performedByte (off + j))

/-- Bits [hi:lo] of a number. -/
def bits (x hi lo : Nat) : Nat := x / 2 ^ lo % 2 ^ (hi + 1 - lo)

/-- A frame inside the deck when its target is a deck offset (R187). -/
def frameOk (tgt frame size : Nat) : Bool := if tgt == 0 || tgt == 2 then decide (frame + size ≤ Config.deckBytes) else true

/-- A leaf entry of a page of 2^b bytes (R187, R188). -/
def leafOf (e b : Nat) : Option Leaf :=
  let tgt := bits e 10 7
  let frame := if tgt == 2 then bits e 50 14 * 2 ^ 14 else bits e 51 14 * 2 ^ 14
  if bits e 0 0 == 1 && bits e 2 1 == 0 && bits e 13 11 == 0 && decide (tgt ≤ 4) && (tgt == 2 || bits e 63 52 == 0)
      && frame % 2 ^ b == 0 && frameOk tgt frame (2 ^ b) then
    some { bits := b, r := bits e 3 3 == 1, w := bits e 4 4 == 1, x := bits e 5 5 == 1, p := bits e 6 6 == 1
           tgt := BitVec.ofNat 4 tgt, pkg := if tgt == 2 then BitVec.ofNat 13 (bits e 63 51) else 0, frame := frame }
  else none

/-- A root entry (R185): the region directory. -/
def rootOf (e : Nat) : Option Nat :=
  let d := bits e 51 15 * 2 ^ 15
  if bits e 0 0 == 1 && bits e 14 1 == 0 && bits e 63 52 == 0 && decide (d + 32768 ≤ Config.deckBytes) then some d else none

/-- What a region-directory entry points to (R186). -/
inductive DirPoint where
  | small (leaf : Nat) | large (leaf : Nat) | whole (l : Leaf)
  deriving DecidableEq, Repr

def dirOfEntry (e : Nat) : Option DirPoint :=
  let sel := bits e 2 1
  if bits e 0 0 != 1 then none
  else if sel == 0 then
    let a := bits e 51 12 * 2 ^ 12
    if bits e 11 3 == 0 && bits e 63 52 == 0 && decide (a + 4096 ≤ Config.deckBytes) then some (.small a) else none
  else if sel == 1 then
    let a := bits e 51 11 * 2 ^ 11
    if bits e 10 3 == 0 && bits e 63 52 == 0 && decide (a + 128 ≤ Config.deckBytes) then some (.large a) else none
  else if sel == 2 then
    let tgt := bits e 10 7
    let frame := if tgt == 2 then bits e 50 23 * 2 ^ 23 else bits e 51 23 * 2 ^ 23
    if decide (tgt ≤ 4) && bits e 22 11 == 0 && (tgt == 2 || bits e 63 52 == 0) && frameOk tgt frame (2 ^ 23) then
      some (.whole { bits := 23, r := bits e 3 3 == 1, w := bits e 4 4 == 1, x := bits e 5 5 == 1, p := bits e 6 6 == 1
                     tgt := BitVec.ofNat 4 tgt, pkg := if tgt == 2 then BitVec.ofNat 13 (bits e 63 51) else 0, frame := frame })
    else none
  else none

/-- An entry of the walk that the die's walker still holds (R190, R191; a free value). -/
def State.walkHeld (s : State) (die : Nat) (asid : BitVec 12) (level key : Nat) : Option Nat :=
  ((s.walkCache.find? fun e => e.die == die && e.asid == asid && e.level == level && e.key == key && e.gen == (s.ctx asid).gen).filter
    fun _ => Config.tlbHeld s.fresh level).map (·.entry.toNat)
/-- The root entry of an address, and its region-directory entry: a walk reads only the levels below the deepest one held (R190). -/
def State.rootEntry (s : State) (die : Nat) (asid : BitVec 12) (va : Nat) : Nat :=
  (s.walkHeld die asid 1 (va / 2 ^ 35)).getD (s.tableN ((s.ctx asid).root.toNat + 8 * (va / 2 ^ 35 % 8192)) 8)
def State.dirEntry (s : State) (die : Nat) (asid : BitVec 12) (va : Nat) : Option Nat :=
  match s.walkHeld die asid 2 (va / 2 ^ 23) with
  | some e => some e
  | none => (rootOf (s.rootEntry die asid va)).map fun d => s.tableN (d + 8 * (va / 2 ^ 23 % 4096)) 8

/-- The walk (R184 to R188, R190); none is PAGE. -/
def State.walk (s : State) (die : Nat) (asid : BitVec 12) (va : Nat) : Option Leaf :=
  if Config.deckBytes < (s.ctx asid).root.toNat + 65536 then none
  else
    (s.dirEntry die asid va).bind fun e => (dirOfEntry e).bind fun p =>
      match p with
      | .small a => leafOf (s.tableN (a + 8 * (va / 2 ^ 14 % 512)) 8) 14
      | .large a => leafOf (s.tableN (a + 8 * (va / 2 ^ 19 % 16)) 8) 19
      | .whole l => some l

/-- The cached translation an access uses, if one of the current generation is still held (R190, R191; a free value). -/
def State.tlbHit (s : State) (core : Nat) (asid : BitVec 12) (va : Nat) : Option TlbEntry :=
  (s.tlb.find? fun e => (e.place == .core core || e.place == .die (dieOf core)) && e.asid == asid && e.gen == (s.ctx asid).gen
      && e.page == va / 2 ^ e.leaf.bits).filter fun _ => Config.tlbHeld s.fresh 3
/-- A translation: a cached one, else the walk (R190 to R192). -/
def State.translate (s : State) (core : Nat) (asid : BitVec 12) (va : Nat) : Option Leaf :=
  match s.tlbHit core asid va with
  | some e => some e.leaf
  | none => s.walk (dieOf core) asid va

/-- The newest entries of one place first, at most cap of them (R190). -/
def cached {α : Type} [DecidableEq α] (e : α) (mine : α → Bool) (cap : Nat) (es : List α) : List α :=
  (e :: (es.filter mine).filter (· != e)).take cap ++ es.filter fun x => !mine x
/-- The walk cache after a walk (R190): the root entry where the walk has read it and a directory entry that points to a leaf table, both well formed;
an entry of SEL 2 is held only in the TLBs. -/
def State.walked (s : State) (die : Nat) (asid : BitVec 12) (va : Nat) : List WalkEntry :=
  let entry (level key v : Nat) : WalkEntry :=
    { die := die, asid := asid, gen := (s.ctx asid).gen, level := level, key := key, entry := BitVec.ofNat 64 v }
  let add (e : WalkEntry) (es : List WalkEntry) : List WalkEntry :=
    cached e (·.die == die) 256 (es.filter fun x => !(x.die == die && x.asid == asid && x.level == e.level && x.key == e.key))
  let e1 := s.rootEntry die asid va
  let w1 := if (s.walkHeld die asid 2 (va / 2 ^ 23)).isSome || (rootOf e1).isNone then s.walkCache else add (entry 1 (va / 2 ^ 35) e1) s.walkCache
  match (s.dirEntry die asid va).bind fun e => (dirOfEntry e).map fun p => (e, p) with
  | some (e2, .small _) => add (entry 2 (va / 2 ^ 23) e2) w1
  | some (e2, .large _) => add (entry 2 (va / 2 ^ 23) e2) w1
  | some (_, .whole _) | none => w1

/-- The caches after a translation has been used: 64 entries per core, 4,096 per die, and 256 walk entries per die where the walker was
entered (R190). -/
def State.learn (s : State) (core : Nat) (asid : BitVec 12) (va : Nat) : State :=
  match s.translate core asid va with
  | none => s
  | some l =>
    let e (place : TlbPlace) : TlbEntry := { place := place, asid := asid, gen := (s.ctx asid).gen, page := va / 2 ^ l.bits, leaf := l }
    let add (place : TlbPlace) (cap : Nat) (es : List TlbEntry) : List TlbEntry := cached (e place) (·.place == place) cap es
    { s with
      tlb := add (.core core) 64 (add (.die (dieOf core)) 4096 s.tlb)
      walkCache := if (s.tlbHit core asid va).isSome then s.walkCache else s.walked (dieOf core) asid va }

/-- The physical address of a translated byte (R187). -/
def Leaf.phys (l : Leaf) (va : Nat) : Nat := l.frame + va % 2 ^ l.bits

/-! ## Checks of an access (R175, R196) -/

/-- How an access uses its location (R189, R208, R209). -/
inductive Acc where
  | load | store | rmw | mon | pres
  deriving DecidableEq, Repr

def Acc.writes : Acc → Bool | .store => true | .rmw => true | .load => false | .mon => false | .pres => false
def Acc.reads : Acc → Bool | .store => false | .rmw => true | .load => true | .mon => true | .pres => true

/-- Steps 4 to 6 of R196 for a translated address. -/
def State.checkPage (s : State) (k : Crew) (a : Acc) (va : Nat) : Except Cause Loc :=
  match s.translate k.core k.asid va with
  | none => .error .page
  | some l =>
    if l.p && !s.privileged k then .error .prot
    else if a.reads && !l.r then .error .prot
    else if a.writes && !l.w then .error .prot
    else if l.tgt != 0 then .error .farAccess
    else .ok (.deck (l.phys va))

/-- Steps 1 to 6 of R196: alignment, windows, translation, permission, target. -/
def State.check (s : State) (k : Crew) (a : Acc) (align n va : Nat) : Except Cause Loc :=
  if a != .pres && va % align != 0 then .error .misalign
  else if 2 ^ 48 ≤ va then .error .farAccess
  else if va < 2 ^ 47 then s.checkPage k a va
  else if va < Config.squadBase then .error .farAccess
  else if va < Config.spillBase then
    if va - Config.squadBase + n ≤ ((s.squad? k.squad).map (·.memLen)).getD 0 then .ok (.squad (va - Config.squadBase)) else .error .prot
  else if va < Config.skmBase then
    if a == .mon then .error .prot
    else if va - Config.spillBase + n ≤ k.spillLen then .ok (.spill (va - Config.spillBase)) else .error .prot
  else if a.writes then .error .prot
  else if va - Config.skmBase + n ≤ Config.skmBytes then .ok (.skm (va - Config.skmBase)) else .error .prot

/-- The check of LDS and STS at a signed offset (R201). -/
def State.checkSquad (s : State) (k : Crew) (n : Nat) (off : Int) : Except Cause Loc :=
  if off % n != 0 then .error .misalign
  else if off < 0 || (((s.squad? k.squad).map (·.memLen)).getD 0 : Int) < off + n then .error .prot
  else .ok (.squad off.toNat)

/-! ## The directory (R245) -/

/-- The home slice of a deck offset (R177). -/
def homeSlice (off : Nat) : Nat × Nat :=
  let l := off % Config.dieBytes / 128
  (off / Config.dieBytes, (l % 32) ^^^ (l / 32 % 32))
/-- The index of its line within the slice (R177). -/
def homeIndex (off : Nat) : Nat := off % Config.dieBytes / 128 / 32

def DirEntry.reset (line : Nat) : DirEntry :=
  { line := line, ptrs := [], bcast := false, clears := [], hold := none, watch := 0, absentBy := [], poison := false }
def State.dirOf (s : State) (line : Nat) : DirEntry := (s.dir.find? (·.line == line)).getD (DirEntry.reset line)
def State.setDir (s : State) (e : DirEntry) : State := { s with dir := e :: s.dir.filter (·.line != e.line) }
/-- PRES and POIS of a line (R179, R180, R245). -/
def State.present (s : State) (line : Nat) : Bool := (s.dirOf line).absentBy.isEmpty
def State.poisoned (s : State) (line : Nat) : Bool := (s.dirOf line).poison
/-- Home handles nothing else for a line while a clear of it runs, or while it waits for the read-modify-write it was cleared for (R251, R253). -/
def DirEntry.busy (d : DirEntry) : Bool := !d.clears.isEmpty || d.hold.isSome

/-- A core has a write on its way to the slice of an offset that home has not applied: home handles what the core sends after it (R252). -/
def State.sliceWaits (s : State) (core off : Nat) : Bool :=
  s.writes.any fun w => w.core == some core && !w.applied && homeSlice w.off == homeSlice off
/-- A crew's access to a line may go to home now (R179, R252, R253). -/
def State.lineOpen (s : State) (core crew line : Nat) : Bool :=
  let d := s.dirOf line
  d.absentBy.isEmpty && d.clears.isEmpty && (d.hold == some crew || (d.hold == none && !s.sliceWaits core (line * 128)))

/-! ## The L1 (R178, R246, R248) -/

def State.copyOf (s : State) (core line : Nat) : Option Copy := s.copies.find? fun c => c.core == core && c.line == line
def State.dropCopy (s : State) (core line : Nat) : State :=
  { s with copies := s.copies.filter fun c => !(c.core == core && c.line == line) }
def State.dropPtr (s : State) (core line : Nat) : State :=
  let d := s.dirOf line
  s.setDir { d with ptrs := d.ptrs.filter (·.core != core) }
/-- A copy evicted to make room: its notice sets out (R248). -/
def State.expel (s : State) (core line : Nat) : State :=
  { s.dropCopy core line with notices := s.notices ++ [{ core := core, line := line, asked := false }] }
/-- A copy dropped on its squad's account, with its pointer (R243, R260, R261): home hears of it behind what the core has sent before (R252). -/
def State.evict (s : State) (core line : Nat) : State :=
  if s.sliceWaits core (line * 128) then { s.dropCopy core line with notices := s.notices ++ [{ core := core, line := line, asked := true }] }
  else (s.dropCopy core line).dropPtr core line
/-- A notice at home: it removes the core's pointer, which BCAST keeps unless the drop was asked for (R248, R260, R261). -/
def State.takeNotice (s : State) (n : Notice) : State :=
  let s := if (s.dirOf n.line).bcast && !n.asked then s else s.dropPtr n.core n.line
  { s with notices := s.notices.erase n }

/-- Words of a line at home. -/
def State.homeWord (s : State) (line i : Nat) : Word := BitVec.ofNat 32 (s.deckN (line * 128 + 4 * i) 4)

/-- L1 room of a copy in bytes (R240). -/
def fmtRoom : SubFmt → Nat | .exact => 128 | .bf16 => 64 | .f16 => 64 | .e4m3 => 32 | .e5m2 => 32
/-- L1 bytes a core uses: deck copies, and spill and SKM lines of 128 bytes (R178, R248). -/
def State.roomUsed (s : State) (core : Nat) : Nat :=
  ((s.copies.filter (·.core == core)).map fun c => fmtRoom c.fmt).sum + 128 * (s.plain.filter (·.core == core)).length
/-- Evictions that make room in the L1 of a core for a line just filled; which lines go is free (R178, R248). -/
def State.makeRoom (s : State) (core : Nat) (keep : Option Nat) (stay : Option PlainLine) : Nat → State
  | 0 => s
  | fuel + 1 =>
    if s.roomUsed core ≤ 196608 then s
    else
      let ls := (s.copies.filter fun c => c.core == core && some c.line != keep).map (·.line)
      let ps := s.plain.filter fun x => x.core == core && some x != stay
      let j := Config.orderKey s.fresh fuel % (ls.length + ps.length)
      match ls[j]? with
      | some l => (s.expel core l).makeRoom core keep stay fuel
      | none =>
        match ps[j - ls.length]? with
        | some x => ({ s with plain := s.plain.filter (· != x) } : State).makeRoom core keep stay fuel
        | none => s
/-- A spill or SKM line that a load has filled (R178). -/
def State.fillPlain (s : State) (core : Nat) (crew : Option Nat) (line : Nat) : State :=
  let x : PlainLine := { core := core, crew := crew, line := line }
  if s.plain.contains x then s else ({ s with plain := x :: s.plain } : State).makeRoom core none (some x) 8

def SubSlot.empty : SubSlot := { valid := false, fmt := .exact, upd := false, count := 0, base := 0, seq := 0 }
/-- Whether a subscription slot covers a virtual line (R242). -/
def SubSlot.covers (b : SubSlot) (va : Nat) : Bool := b.valid && decide (b.base ≤ va / 128) && decide (va / 128 ≤ b.base + b.count)

/-- The asked format and mode of a squad for a line (R247): the highest rank, update winning a tie. -/
def Squad.asked (q : Squad) (va : Nat) : SubFmt × Bool :=
  match q.subs.filter (·.covers va) with
  | [] => (.exact, false)
  | b :: r => r.foldl (fun a c =>
      if subRank a.1 < subRank c.fmt then (c.fmt, c.upd) else if a.1 == c.fmt then (a.1, a.2 || c.upd) else a) (b.fmt, b.upd)
def State.asked (s : State) (k : Crew) (va : Nat) : SubFmt × Bool :=
  match s.squad? k.squad with
  | none => (.exact, false)
  | some q => q.asked va

/-! ## Reading what a core has written (R178, R223, R256) -/

/-- A write of the core that home has not applied, as a thread of a crew meets it (R223, R256): its own, one a release or the L1 shows to every
thread of the core, one it has read from before; all of them where the word is held in a reduced format. Lane 32 is the crew as a whole. -/
def Write.visible (w : Write) (all : Bool) (k : Crew) (lane : Nat) : Bool :=
  w.core == some k.core && !w.applied
    && (all || w.shown || (w.crew == some k.id && (w.lane == lane || w.lane == 32 || lane == 32)) || w.seen.contains (k.id, lane))
/-- Bytes of the visible writes laid over bytes read, the youngest last. -/
def State.overlay (s : State) (all : Bool) (k : Crew) (lane off : Nat) (bs : List Byte) : List Byte :=
  (s.writes.filter fun w => w.visible all k lane && w.covers off bs.length).foldl (fun bs w =>
    bs.mapIdx fun j b => if w.off ≤ off + j && off + j < w.off + w.bytes.length then w.bytes.getD (off + j - w.off) b else b) bs
def State.ownPending (s : State) (all : Bool) (k : Crew) (lane off n : Nat) : Bool :=
  s.writes.any fun w => w.visible all k lane && w.covers off n

/-- What a thread learns as it reads n bytes of the deck: it has now read from the writes it meets there, some of its core's among them by a free
choice, or all of them (R223, R256). They and what was ordered before them happen before what the crew does from here (R218, R220, log 79). -/
def State.glimpse (s : State) (all : Bool) (k : Crew) (lane off n : Nat) : State :=
  let meets (w : Write) : Bool := w.covers off n
    && (w.applied || w.visible all k lane || (w.core == some k.core && Config.seesEarly s.fresh w.id lane))
  let before := (s.writes.filter meets).flatMap (·.before)
  { s with writes := s.writes.map fun (w : Write) =>
      if !meets w && !before.contains w.id then w
      else if w.applied || w.core != some k.core then w.learnt k.id
      else { w.learnt k.id with seen := addId (k.id, lane) w.seen } }

/-- One word of a copy as a load returns it (R255, R256). -/
def State.copyWord (s : State) (c : Copy) (k : Crew) (lane off : Nat) : Word :=
  let e := c.words.getD (off / 4 % 32) 0
  match c.fmt with
  | .exact => BitVec.ofNat 32 (leNat (s.overlay false k lane off (leBytes 4 e.toNat)))
  | .bf16 | .f16 | .e4m3 | .e5m2 =>
    if s.ownPending true k lane off 4 then
      subWiden c.fmt (subRound c.fmt (BitVec.ofNat 32 (leNat (s.overlay true k lane off (s.deck.readN off 4)))))
    else subWiden c.fmt e
/-- One word that home sends at a format. -/
def State.sentWord (s : State) (f : SubFmt) (k : Crew) (lane off : Nat) : Word :=
  subWiden f (subRound f (BitVec.ofNat 32 (leNat (s.overlay false k lane off (s.deck.readN off 4)))))

/-- A load of 32 or 128 bits is served at a format (R247, R255). -/
def roundsAt (n : Nat) : Bool := n == 4 || n == 16
/-- A copy serves a load of n bytes that asks for a format: one of another size than 32 or 128 bits reads a reduced copy's line at home (R247, R255). -/
def Copy.serves (c : Copy) (f : SubFmt) (n : Nat) : Bool := (c.fmt == .exact || roundsAt n) && decide (subRank f ≤ subRank c.fmt)
/-- The bytes a load returns from the deck: of the core's copy, or of the line as home sends it at a format where no copy serves it (R202, R247, R255). -/
def State.loadDeck (s : State) (f : SubFmt) (k : Crew) (lane off n : Nat) : Nat :=
  let words (g : Nat → Word) : Nat :=
    leNat ((List.range n).map fun j => BitVec.ofNat 8 ((g ((off + j) / 4 * 4)).toNat / 256 ^ ((off + j) % 4)))
  match (s.copyOf k.core (off / 128)).filter fun c => c.serves f n with
  | none => if roundsAt n && f != .exact then words (s.sentWord f k lane) else leNat (s.overlay false k lane off (s.deck.readN off n))
  | some c => words (s.copyWord c k lane)

/-- A store of less than a word drops its core's copy of the line in a reduced format (R255). -/
def State.dropShort (s : State) (core off n : Nat) : State :=
  match s.copyOf core (off / 128) with
  | some c => if c.fmt != .exact && n < 4 then s.dropCopy core (off / 128) else s
  | none => s
/-- The writes that a release of a crew covers (R219, R220). -/
def State.orderedIds (s : State) (crew : Nat) : List Nat := (s.writes.filter fun w => w.known.contains crew && !w.done).map (·.id)
/-- Writes that are all globally performed. -/
def State.orderedDone (s : State) (ids : List Nat) : Bool := !s.writes.any fun w => ids.contains w.id && !w.done
/-- Every write of the crew itself is globally performed (R178); what a halt has dropped is not. -/
def State.crewWritesDone (s : State) (crew : Nat) : Bool :=
  !s.writes.any (fun w => w.crew == some crew && !w.done) && (s.crew? crew).all fun c => c.replay.isEmpty && c.bankOut.isEmpty
/-- The writes ordered before a write of a crew to n bytes (R218): for a release all it covers, else those ordered before its later accesses; its own
to the same bytes, and what is ordered before them. -/
def State.beforeOf (s : State) (k : Crew) (rel : Bool) (off n instr : Nat) : List Nat :=
  ((s.writes.filter fun w => w.instr != instr && !w.done && (if rel then w.known else w.ordered).contains k.id).map (·.id)
    ++ (s.writes.filter fun w => w.crew == some k.id && w.covers off n).flatMap fun w => w.id :: w.before).dedup

/-- A write of a thread, or of its crew, sets out for home (R178, R203, R219); a copy in a reduced format goes with a store of less than a word
(R255). -/
def State.storeDeck (s : State) (k : Crew) (lane off : Nat) (bs : List Byte) (after : List Nat) (rel : Bool) (instr : Nat) : State :=
  let w : Write := { id := s.fresh, core := some k.core, crew := some k.id, lane := lane, instr := instr, off := off, bytes := bs, plus := false
                     after := after, before := s.beforeOf k rel off bs.length instr, known := [k.id], ordered := [], shown := false, seen := []
                     bcast := false, applied := false, acks := 0, done := false, turn := 0, old := [] }
  ({ s.bump with writes := s.writes ++ [w] } : State).dropShort k.core off bs.length

/-! ## WAITC and monitors -/

/-- A write triggers the monitors of its line (R210) and a crew in SVWAIT on it (R388). -/
def State.trigger (s : State) (sp : LineSpace) (line : Nat) : State :=
  { s with crews := s.crews.map fun c =>
      { c with
        mon := c.mon.map fun m => if m.space == sp && m.line == line then { m with triggered := true } else m
        wait := match c.wait with
          | some (.svwait r o t) => some (.svwait r o (t || (sp == .deck && o / 128 == line)))
          | w => w } }

/-- The same for the crews of one core, to which a write lands when its INVAL or UPD arrives (R209, R388). -/
def State.triggerCore (s : State) (core line : Nat) : State :=
  { s with crews := s.crews.map fun c =>
      if c.core == core then
        { c with
          mon := c.mon.map fun m => if m.space == .deck && m.line == line then { m with triggered := true } else m
          wait := match c.wait with
            | some (.svwait r o t) => some (.svwait r o (t || o / 128 == line))
            | w => w }
      else c }

/-- A pending WAITC whose condition holds (R104): its reply. -/
def State.waitcMet (s : State) (c : Crew) (w : Waitc) : Option DWord :=
  let atLeast (v : Nat) (t : Nat) : Option DWord := if t ≤ v then some (BitVec.ofNat 64 v) else none
  match w.on with
  | .deck off t => if !s.present (off / 128) then none else atLeast (leNat (s.overlay false c 32 off (s.deck.readN off 8))) t
  | .squad off t => atLeast (((s.squad? c.squad).map fun q => leNat (q.mem.readN off 8)).getD 0) t
  | .skm off t => atLeast (leNat (s.skm.readN off 8)) t
  | .handle h => if s.grids.any (fun g => g.handle == h && g.asid == c.asid) then none else some 0

/-- The replies of the pending WAITCs of a crew whose condition holds (R104). -/
def State.answered (s : State) (c : Crew) : Crew :=
  c.waitc.foldl (fun d w =>
    match s.waitcMet c w with
    | some v => { d.reply w.reply v with waitc := d.waitc.filter (· != w) }
    | none => d) c
/-- Every pending WAITC whose condition holds is answered, which is an acquire (R104, R218). Halted crews too: the reply goes to their context. -/
def State.pollWaitc (s : State) : State :=
  (s.crews.filter fun c => !c.waitc.isEmpty && c.waitc.any fun w => (s.waitcMet c w).isSome).foldl (fun (t : State) (c : Crew) => t.acquires c)
    { s with crews := s.crews.map s.answered }

/-! ## The home slice (R249 to R254) -/

/-- Words of a line a write touches. -/
def touched (off n : Nat) : List Nat := (List.range 32).filter fun i =>
  let a := off / 128 * 128 + 4 * i
  decide (off < a + 4) && decide (a < off + n)

/-- The message a sharer is sent for a write (R249); none when its rounding of no word changes. -/
def actionFor (line : Nat) (p : Ptr) (ws : List (Nat × Word × Word)) (wid id : Nat) : Option Msg :=
  let diff := ws.filter fun x => subRound p.fmt x.2.1 != subRound p.fmt x.2.2
  if p.upd then
    if diff.isEmpty then none
    else some { id := id, core := p.core, line := line, upd := true, words := diff.map fun x => (x.1, subRound p.fmt x.2.2), silent := false
                ackTo := .write wid }
  else if p.fmt == .exact || !diff.isEmpty then
    some { id := id, core := p.core, line := line, upd := false, words := [], silent := false, ackTo := .write wid }
  else none

/-- INVALs of a presence or BCAST clear to some cores (R251, R253). -/
def clearMsgs (line clear base : Nat) (cores : List Nat) : List Msg :=
  cores.mapIdx fun j c => { id := base + j, core := c, line := line, upd := false, words := [], silent := true, ackTo := .clear line clear }
/-- The notifications of a watched line (R254). -/
def DirEntry.notes (d : DirEntry) (base : Nat) (write : Option Nat) : List Note :=
  ((List.range 4).filter fun k => d.watch.getLsbD k).map fun k => { id := base + k, die := k, line := d.line, write := write }

/-- A write under BCAST at home: INVAL to every core but the writer; when all have acknowledged the entry is cleared and the write, if one is given,
is applied (R253). -/
def State.bcastClear (s : State) (line : Nat) (writer : Option Nat) (write : Option Nat) : State :=
  let d := s.dirOf line
  let cs := (List.range Config.cores).filter fun c => some c != writer
  { s.setDir { d with clears := d.clears ++ [{ id := s.fresh, acks := cs.length, bcast := true, but := writer, write := write }] } with
    msgs := s.msgs ++ clearMsgs line s.fresh (s.fresh + 1) cs, fresh := s.fresh + 1 + cs.length }

/-- A globally performed write hides, from the walker's reading, what was there before writes that home applied earlier (R192). -/
def State.maskOlder (s : State) (w : Write) : List Write :=
  s.writes.map fun (x : Write) =>
    if x.applied && decide (x.turn < w.turn) then
      { x with old := x.old.mapIdx fun j b => if w.off ≤ x.off + j && x.off + j < w.off + w.bytes.length then none else b }
    else x

/-- A write is globally performed (R249). It is kept while a write ordered before it is not, for those who read it from now on (R220). -/
def State.writesAfter (s : State) (w : Write) : List Write :=
  let ws := (s.maskOlder w).map fun (x : Write) => if x.id == w.id then { x with done := true } else x
  ws.filter fun x => !x.done || x.before.any fun id => ws.any fun y => y.id == id && !y.done
/-- The words that UPDs have brought for a copy beneath a store of its core take effect when that store is globally performed, unless another of
the core's covers them (R256). -/
def State.surface (s : State) (w : Write) : List Copy :=
  s.copies.map fun c =>
    if some c.core == w.core && c.line == w.off / 128 then
      let free (j : Nat) : Bool := !s.writes.any fun x => x.id != w.id && x.core == w.core && x.applied && !x.done && x.covers (c.line * 128 + 4 * j) 4
      { c with
        words := c.words.mapIdx fun j e => if free j then ((c.under.find? (·.1 == j)).map (·.2)).getD e else e
        under := c.under.filter fun x => !free x.1 }
    else c
def State.perform (s : State) (w : Write) : State := { s with writes := s.writesAfter w, copies := s.surface w }

/-- An instruction of a crew of which one access is visible, while another is still to perform (R389). -/
def State.tear (s : State) (crew : Option Nat) (instr : Nat) : State :=
  { s with crews := s.crews.map fun (c : Crew) =>
      if some c.id == crew then
        { c with torn := (addId instr c.torn).filter fun j =>
            s.writes.any (fun w => w.crew == crew && w.instr == j && !w.applied) || s.squads.any fun q => q.bank.any fun b => some b.crew == crew && b.instr == j }
      else c }

/-- A write that is applied at home: actions for the sharers, watch notes, the bytes, the writer's own copy, monitors (R249). -/
def State.applyWrite (s : State) (w : Write) : State :=
  let w : Write := if w.plus then { w with bytes := leBytes 8 (s.deckN w.off 8 + 1) } else w
  let line := w.off / 128
  let d := s.dirOf line
  let deck := s.deck.writeN w.off w.bytes
  let new (i : Nat) : Word := BitVec.ofNat 32 (leNat (deck.readN (line * 128 + 4 * i) 4))
  let ws := (touched w.off w.bytes.length).map fun i => (i, s.homeWord line i, new i)
  let ms := ((d.ptrs.filter fun p => some p.core != w.core).mapIdx fun j p => actionFor line p ws w.id (s.fresh + j)).filterMap id
  let gone := (ms.filter fun m => !m.upd).map (·.core)
  let ptrs := d.ptrs.filter fun p => !gone.contains p.core
  -- the writer's pointer goes with a copy it dropped for this write (R255)
  let ptrs := ptrs.filter fun p => !(some p.core == w.core && (s.copyOf p.core line).isNone && !(p.fmt == .exact))
  let ns := d.notes (s.fresh + 400) (some w.id)
  let copies := s.copies.filterMap fun c =>
    if some c.core == w.core && c.line == line then
      if w.bcast then none
      else some { c with
        words := c.words.mapIdx fun i e => if (touched w.off w.bytes.length).contains i then subRound c.fmt (new i) else e
        under := c.under.filter fun x => !(touched w.off w.bytes.length).contains x.1 }
    else some c
  -- an UPD on its way beneath the writer's own store no longer carries the words it overwrote (R252, R256)
  let msgs := s.msgs.map fun m =>
    if m.upd && some m.core == w.core && m.line == line then { m with words := m.words.filter fun x => !(touched w.off w.bytes.length).contains x.1 } else m
  let w' : Write := { w with applied := true, acks := ms.length + ns.length, turn := s.fresh + 499, old := (s.deck.readN w.off w.bytes.length).map some }
  let s := { s.setDir { d with ptrs := ptrs } with
    deck := deck, copies := copies, msgs := msgs ++ ms, notes := s.notes ++ ns, fresh := s.fresh + 500
    writes := if s.writes.any (fun (x : Write) => x.id == w.id) then s.writes.map fun (x : Write) => if x.id == w.id then w' else x
      else s.writes ++ [w'] }
  (((if w'.acks == 0 then s.perform w' else s).tear w.crew w.instr).trigger .deck line).pollWaitc

/-- A write of an engine or of the hub: applied at once where home may, else after what home does for the line before it (R249, R253). An add
counts on the value it meets (R454). -/
def State.agentPut (s : State) (off : Nat) (bs : List Byte) (plus : Bool) : State :=
  let w : Write := { id := s.fresh, core := none, crew := none, lane := 32, instr := s.fresh, off := off, bytes := bs, plus := plus, after := []
                     before := [], known := [], ordered := [], shown := false, seen := [], bcast := false, applied := false, acks := 0, done := false
                     turn := 0, old := [] }
  let d := s.dirOf (off / 128)
  if d.bcast || d.busy || s.writes.any (fun (x : Write) => x.core.isNone && !x.applied && x.off / 128 == off / 128) then
    { s.bump with writes := s.writes ++ [w] }
  else s.bump.applyWrite w
def State.agentWrite (s : State) (off : Nat) (bs : List Byte) : State := s.agentPut off bs false
/-- Whether an agent's write to some of n bytes is still to be applied. -/
def State.agentWaits (s : State) (off n : Nat) : Bool := s.writes.any fun w => w.core.isNone && !w.applied && w.covers off n

/-- Bytes of any length written by an agent, line by line. -/
def State.agentWriteN (s : State) (off : Nat) (bs : List Byte) : State :=
  let ls := (List.range (bs.length + 128)).filter fun j => j < bs.length && (j == 0 || (off + j) % 128 == 0)
  ls.foldl (fun s j => s.agentWrite (off + j) ((bs.drop j).take (128 - (off + j) % 128))) s

/-- Commands and read requests that waited for a line find it present, or held absent by the command itself only (R304, R440). -/
def State.nowPresent (s : State) (line : Nat) : State :=
  let held := (s.dirOf line).absentBy
  { s with
    cmds := s.cmds.map fun (c : Cmd) =>
      if held.all (· == c.id) then { c with waitLines := c.waitLines.filter (· != line) } else c
    serves := if held.isEmpty then s.serves.map fun (v : Serve) => { v with waits := v.waits.filter (· != line) } else s.serves }

/-- A command or piece has delivered or failed on a line (R180, R298, R304): it is present again, poisoned, or good when all its
128 bytes were written by the command. -/
def State.settleLine (s : State) (line owner : Nat) (failed whole : Bool) : State :=
  let d := s.dirOf line
  ((s.setDir { d with absentBy := d.absentBy.filter (· != owner), poison := failed || (d.poison && !whole) }).nowPresent line).pollWaitc

/-- The end of a clear: all its INVALs are acknowledged. BCAST and the pointers go with one under BCAST, and the write that caused it is applied in
the same moment (R251, R253). -/
def State.endClear (s : State) (line : Nat) (c : LineClear) : State :=
  let d := s.dirOf line
  let s := s.setDir { d with
    clears := d.clears.filter (·.id != c.id), absentBy := d.absentBy.filter (· != c.id), ptrs := if c.bcast then [] else d.ptrs
    bcast := d.bcast && !c.bcast }
  let s := s.nowPresent line
  -- the copy of the core whose read-modify-write waits for the clear (R253); a store drops its core's own as it is applied
  let s := match c.but, c.write with
    | some core, none => s.dropCopy core line
    | _, _ => s
  match c.write.bind fun id => s.writes.find? fun w => w.id == id && !w.applied with
  | some w => s.applyWrite w
  | none => s.pollWaitc

/-- An acknowledgement counted for what it belongs to (R249, R251). -/
def State.countAck (s : State) (a : AckTo) : State :=
  match a with
  | .write id =>
    match s.writes.find? (·.id == id) with
    | none => s
    | some w =>
      if w.applied && decide (w.acks ≤ 1) then s.perform w
      else { s with writes := s.writes.map fun (x : Write) => if x.id == id then { x with acks := x.acks - 1 } else x }
  | .clear line id =>
    let d := s.dirOf line
    match d.clears.find? (·.id == id) with
    | none => s
    | some c =>
      if c.acks ≤ 1 then s.endClear line c
      else s.setDir { d with clears := d.clears.map fun x => if x.id == id then { x with acks := x.acks - 1 } else x }

/-! ## Messages to a core (R249 to R253, R263) -/

def State.count (s : State) (core : Nat) : CoreCount := (s.counts.find? (·.core == core)).getD { core := core, inval := 0, upd := 0 }
def State.setCount (s : State) (c : CoreCount) : State := { s with counts := c :: s.counts.filter (·.core != c.core) }

/-- A message leaves and its acknowledgement starts back. -/
def State.ackMsg (s : State) (m : Msg) : State :=
  { s.bump with msgs := s.msgs.filter (·.id != m.id), acks := s.acks ++ [{ id := s.fresh, ackTo := m.ackTo }] }
/-- A message arrives at its core: an INVAL drops the copy, an UPD gives it new words; either is counted and acknowledged (R249, R256, R263). -/
def State.takeMsg (s : State) (m : Msg) : State :=
  let n := s.count m.core
  if m.upd then
    -- words beneath a store of the core that home has applied and that is not globally performed (R256)
    let beneath (j : Nat) : Bool := s.writes.any fun w => w.core == some m.core && w.applied && !w.done && w.covers (m.line * 128 + 4 * j) 4
    let put (c : Copy) : Copy :=
      if c.core == m.core && c.line == m.line then
        { c with
          words := c.words.mapIdx fun j e => match m.words.find? (·.1 == j) with | none => e | some x => if beneath j then e else x.2
          under := m.words.filter (fun x => beneath x.1) ++ c.under.filter fun x => !m.words.any (·.1 == x.1) }
      else c
    ((({ s with copies := s.copies.map put } : State).setCount { n with upd := n.upd + 1 }).triggerCore m.core m.line).ackMsg m
  else
    let counted := !m.silent || (s.copyOf m.core m.line).isSome
    let s := if counted then s.setCount { n with inval := n.inval + 1 } else s
    ((s.dropCopy m.core m.line).triggerCore m.core m.line).ackMsg m
/-- What a slice has sent to a core arrives before what it sends now (R252). -/
def State.deliver (s : State) (core off : Nat) : State :=
  (s.msgs.filter fun m => m.core == core && homeSlice (m.line * 128) == homeSlice off).foldl (fun (s : State) m => s.takeMsg m) s
/-- What a core has sent to a slice arrives before what it sends now (R248, R252). -/
def State.takeNotices (s : State) (core off : Nat) : State :=
  (s.notices.filter fun n => n.core == core && homeSlice (n.line * 128) == homeSlice off).foldl (fun (s : State) n => s.takeNotice n) s

/-- A fetch or an upgrade of a line at a format and mode, behind what the core has sent to the slice and the slice to the core (R247, R252, R253). -/
def State.fetchLine (s : State) (core line va : Nat) (asid : BitVec 12) (f : SubFmt) (upd : Bool) : State :=
  let s := ((s.takeNotices core (line * 128)).deliver core (line * 128)).dropCopy core line
  let d := s.dirOf line
  let ptrs := d.ptrs.filter (·.core != core)
  let d' :=
    if d.bcast then d
    else if 8 ≤ ptrs.length then { d with bcast := true }
    else { d with ptrs := ptrs ++ [⟨core, f, upd⟩] }
  let c : Copy := { core := core, line := line, va := va / 128 * 128, asid := asid, fmt := f, upd := upd
                    words := (List.range 32).map fun i => subRound f (s.homeWord line i), under := [] }
  let s := (s.setDir d').bump
  ({ s with copies := c :: s.copies } : State).makeRoom core (some line) none 8

/-- What a load of n bytes by a squad must ask home for first: the format and mode of a fetch or of an upgrade (R247). A load of another size than
32 or 128 bits leaves a copy as it is (R255). -/
def State.asksFor (s : State) (k : Crew) (g : SubFmt × Bool) (off n : Nat) : Option (SubFmt × Bool) :=
  match s.copyOf k.core (off / 128) with
  | some c => if (roundsAt n || c.fmt == .exact) && decide (subRank c.fmt < subRank g.1) then some g else none
  | none => some g
def State.asks (s : State) (k : Crew) (va off n : Nat) : Option (SubFmt × Bool) := s.asksFor k (s.asked k va) off n
/-- The copy a load of n bytes uses, fetched or upgraded first (R247, R255). -/
def State.ensureFor (s : State) (k : Crew) (g : SubFmt × Bool) (va off n : Nat) : State :=
  match s.asksFor k g off n with
  | some g => s.fetchLine k.core (off / 128) va k.asid g.1 g.2
  | none => s
def State.ensureCopy (s : State) (k : Crew) (va off n : Nat) : State := s.ensureFor k (s.asked k va) va off n
/-- A load reaches home: for a copy (R247), or for the bytes themselves, past a reduced copy (R255). -/
def State.goesHome (s : State) (k : Crew) (g : SubFmt × Bool) (off n : Nat) : Bool :=
  (s.asksFor k g off n).isSome || (s.copyOf k.core (off / 128)).any fun c => c.fmt != .exact && !roundsAt n

/-! ## Locations read and written (R178, R181 to R183) -/

/-- Squad memory written, its monitors triggered and counters polled (R210, R104). -/
def State.squadWrite (s : State) (id off : Nat) (bs : List Byte) : State :=
  let s : State := { s with squads := s.squads.map fun (q : Squad) => if q.id == id then { q with mem := q.mem.writeN off bs } else q }
  (((List.range (bs.length / 128 + 2)).map fun j => off / 128 + j).filter (fun l => l * 128 < off + bs.length)).foldl
    (fun (s : State) l => s.trigger (.squad id) l) s |>.pollWaitc

/-- Bytes of a squad's memory as one thread reads them, with its own stores still on their way to the banks (R215, R227). -/
def Squad.bankRead (q : Squad) (k : Crew) (lane off n : Nat) : List Byte :=
  (q.bank.filter fun b => b.crew == k.id && b.lane == lane).foldl (fun bs b =>
    bs.mapIdx fun j x => if b.off ≤ off + j && off + j < b.off + b.bytes.length then b.bytes.getD (off + j - b.off) x else x) (q.mem.readN off n)

/-- The bytes of a checked location as a thread of a crew reads them; lane 32 is the crew as a whole (R178, R202). -/
def State.locReadAt (s : State) (f : SubFmt) (k : Crew) (lane : Nat) (l : Loc) (n : Nat) : Nat :=
  match l with
  | .deck off => s.loadDeck f k lane off n
  | .squad off => ((s.squad? k.squad).map fun q => leNat (q.bankRead k lane off n)).getD 0
  | .spill off => leNat (k.spill.readN off n)
  | .skm off => leNat (s.skm.readN off n)
def State.locRead (s : State) (k : Crew) (l : Loc) (n : Nat) : Nat := s.locReadAt .exact k 32 l n

/-- A store of a crew at a checked location, by one of its threads or (lane 32) as a whole; the crew itself is updated for its spill window. A
thread's store to squad memory goes to the banks (R181). -/
def State.locWrite (s : State) (k : Crew) (lane : Nat) (l : Loc) (bs : List Byte) (after : List Nat) (rel : Bool)
    (instr : Nat) : State :=
  match l with
  | .deck off => s.storeDeck k lane off bs after rel instr
  | .squad off =>
    if lane == 32 then s.squadWrite k.squad off bs
    else { s.bump with squads := s.squads.map fun (q : Squad) =>
      if q.id == k.squad then { q with bank := q.bank ++ [{ key := s.fresh, crew := k.id, lane := lane, instr := instr, off := off, bytes := bs, age := 0 }] } else q }
  | .spill off =>
    match s.crew? k.id with
    | none => s
    | some c => s.setCrew { c with spill := c.spill.writeN off bs }
  | .skm _ => s

/-- The lines of the deck among checked locations. -/
def deckLines (ls : List Loc) : List Nat := ls.filterMap fun l => match l with
  | .deck off => some (off / 128)
  | .squad _ => none
  | .spill _ => none
  | .skm _ => none
def State.absentLines (s : State) (ls : List Loc) : List Nat := (deckLines ls).filter fun l => !s.present l
/-- Step 7 of R196, and the loads of a replica in FAULT (R342). -/
def State.poisonAt (s : State) (k : Crew) (l : Loc) : Bool :=
  match l with
  | .deck off => s.poisoned (off / 128)
  | .skm _ => s.ring.faulted
  | .squad _ => false
  | .spill off => k.spillBad.contains (off / 128)

/-! ## Loads and squad-memory stores still to perform (R181, R213, R218) -/

/-- The registers a load of a size writes (R202). -/
def loadWords (z : MSize) (x : Nat) : List Word :=
  match z with
  | .s8 => [BitVec.ofInt 32 (sextN x 8)]
  | .n8 => [BitVec.ofNat 32 (x % 2 ^ 8)]
  | .s16 => [BitVec.ofInt 32 (sextN x 16)]
  | .n16 => [BitVec.ofNat 32 (x % 2 ^ 16)]
  | .w32 => [BitVec.ofNat 32 x]
  | .w64 => [BitVec.ofNat 32 x, BitVec.ofNat 32 (x / 2 ^ 32)]
  | .w128 => (List.range 4).map fun j => BitVec.ofNat 32 (x / 2 ^ (32 * j))

/-- Before a thread reads a location at a format: messages of the slice where the line itself is read at home (R252), and what the thread learns
(R220, R223). A reduced copy gives every store of its core (R256). -/
def State.reads (s : State) (f : SubFmt) (k : Crew) (lane : Nat) (l : Loc) (n : Nat) : State :=
  match l with
  | .deck off =>
    match (s.copyOf k.core (off / 128)).filter fun c => c.serves f n with
    | none => (s.deliver k.core off).glimpse false k lane off n
    | some c => s.glimpse (c.fmt != SubFmt.exact) k lane off n
  | .squad _ => s
  | .spill _ => s
  | .skm _ => s

/-- A pending load is performed: it reads, and its registers take the value, within what is left of its lookahead window (R40, R181, R202). -/
def State.performLoad (s : State) (id : Nat) (p : PendLoad) : State :=
  match s.crew? id with
  | none => s
  | some k =>
    let s := s.reads p.fmt k p.lane p.loc (sizeBytes p.size)
    let ws := (loadWords p.size (s.locReadAt p.fmt k p.lane p.loc (sizeBytes p.size))).zipIdx.map fun w => (p.reg + w.2, w.1)
    match s.crew? id with
    | none => s
    | some k =>
      (s.setCrew { k.mapT (fun l t => if l == p.lane then ws.foldl (fun (t : Thread) w => t.arrive l p.key w.1 w.2) t else t) with
        loads := k.loads.filter fun x => !(x.key == p.key && x.lane == p.lane) }).bump

/-- A pending load fetches or upgrades the copy it asks for, as its core's L1 now stands (R247). -/
def State.fetchFor (s : State) (k : Crew) (p : PendLoad) : State :=
  match p.loc with
  | .deck off => s.ensureFor k (p.fmt, p.upd) p.va off (sizeBytes p.size)
  | .squad _ => s
  | .spill _ => s
  | .skm _ => s
/-- A pending load waits: for its line to be present and for what its core has sent to the slice before, where it goes to home (R179, R252, R253). -/
def State.loadWaits (s : State) (k : Crew) (p : PendLoad) : Bool :=
  match p.loc with
  | .deck off => s.goesHome k (p.fmt, p.upd) off (sizeBytes p.size) && !s.lineOpen k.core k.id (off / 128)
  | .squad _ => false
  | .spill _ => false
  | .skm _ => false
/-- The loads a request to a bank serves: one, or those of its instruction that read the same word of squad memory (R181). -/
def PendLoad.sharers (p : PendLoad) (ps : List PendLoad) : List PendLoad :=
  match p.loc with
  | .squad a => ps.filter fun x => x.key == p.key && match x.loc with
    | .squad b => a / max 4 (sizeBytes p.size) == b / max 4 (sizeBytes p.size)
    | _ => false
  | _ => [p]
/-- A pending load of a crew is performed with those that share its request, each behind the fetch it needs. -/
def State.performFetch (s : State) (id : Nat) (p : PendLoad) : State :=
  match s.crew? id with
  | none => s
  | some k => (p.sharers k.loads).foldl (fun (s : State) p => (s.fetchFor k p).performLoad id p) s

/-- A store on its way to the banks is performed (R181). -/
def State.performBank (s : State) (sq : Nat) (b : BankWrite) : State :=
  (({ s with squads := s.squads.map fun (q : Squad) =>
      if q.id == sq then { q with bank := q.bank.filter (·.key != b.key) } else q } : State).tear (some b.crew) b.instr).squadWrite sq b.off b.bytes

/-- Pending loads that read a line are performed before its presence bit is cleared; those of a halted crew come after (R389). -/
def State.performLine (s : State) (line : Nat) : State :=
  (s.crews.flatMap fun k => if k.halted then [] else (k.loads.filter fun p => deckLines [p.loc] == [line]).map fun p => (k.id, p)).foldl
    (fun (s : State) p => s.performLoad p.1 p.2) s

/-- A pending load is one tick older. -/
def State.ageLoad (s : State) (id : Nat) (p : PendLoad) : State :=
  { s with crews := s.crews.map fun (k : Crew) =>
      if k.id == id then
        { k with loads := k.loads.map fun x => if x.key == p.key && x.lane == p.lane then { x with age := x.age + 1 } else x }
      else k }
/-- In a tick each pending load, and each squad-memory store that no earlier one overlaps, is performed by a free choice, at the latest after
Config.latency ticks (R181, R213). A load that goes to home goes behind the core's stores (R252). A halted crew performs nothing (R389). -/
def State.performSome (s : State) : State :=
  let s := (s.crews.flatMap fun k => if k.halted then [] else k.loads.map fun p => (k.id, p)).foldl (fun (s : State) (x : Nat × PendLoad) =>
    match s.crew? x.1 with
    | none => s
    | some k =>
      if !k.loads.any fun p => p.key == x.2.key && p.lane == x.2.lane then s
      else if !s.loadWaits k x.2 && (Config.performsNow s.fresh (32 * x.2.key + x.2.lane) || decide (Config.latency ≤ x.2.age)) then
        s.performFetch x.1 x.2
      else s.ageLoad x.1 x.2) s
  (s.squads.flatMap fun q => q.bank.map fun b => (q, b)).foldl (fun (s : State) (x : Squad × BankWrite) =>
    let first := ((((s.squad? x.1.id).map (·.bank)).getD []).takeWhile (·.key != x.2.key)).all fun e =>
      decide (e.off + e.bytes.length ≤ x.2.off) || decide (x.2.off + x.2.bytes.length ≤ e.off)
    if first && (Config.performsNow s.fresh x.2.key || decide (Config.latency ≤ x.2.age)) then s.performBank x.1.id x.2
    else { s with squads := s.squads.map fun (q : Squad) =>
        if q.id == x.1.id then { q with bank := q.bank.map fun b => if b.key == x.2.key then { b with age := b.age + 1 } else b } else q }) s

/-- A presence clear by a command or an arriving piece (R251, R254): INVAL to every sharer, under BCAST to every core of the package, and the line is
absent until its owner has settled it and every INVAL is acknowledged. A writer's clear under way has told every core but the writer. -/
def State.clearLine (s : State) (line owner : Nat) : State :=
  let s := s.performLine line
  -- a read-modify-write that home holds the line for starts over when the line is present again (R179)
  let s := match (s.dirOf line).hold with
    | some id => s.dropHold id
    | none => s
  let d := s.dirOf line
  let running := d.clears.find? (·.bcast)
  let cores := if !d.bcast then d.ptrs.map (·.core)
    else match running with
      | none => List.range Config.cores
      | some r => r.but.toList
  let own : List LineClear := if cores.isEmpty then [] else
    [{ id := s.fresh, acks := cores.length, bcast := d.bcast && running.isNone, but := none, write := none }]
  { s.setDir { d with
      absentBy := owner :: (own.map (·.id) ++ (running.map (·.id)).toList ++ d.absentBy)
      clears := d.clears ++ own, ptrs := if d.bcast then d.ptrs else [] } with
    msgs := s.msgs ++ clearMsgs line s.fresh (s.fresh + 1) cores, notes := s.notes ++ d.notes (s.fresh + 400) none, fresh := s.fresh + 500 }

/-! ## Instruction fetch (R64) -/

def State.fetchAt (s : State) (k : Crew) (va : Nat) : Except Cause Nat :=
  if 2 ^ 47 ≤ va then .error .farAccess
  else
    match s.translate k.core k.asid va with
    | none => .error .page
    | some l =>
      if !l.x then .error .prot
      else if l.p && !s.privileged k then .error .prot
      else if l.tgt != 0 then .error .farAccess
      else .ok (l.phys va)

/-- A halfword through the fetch path. -/
def State.fetch16 (s : State) (k : Crew) (va : Nat) : Except Cause Nat := do
  let a ← s.fetchAt k va
  return s.deckN a 2
def State.fetch32 (s : State) (k : Crew) (va : Nat) : Except Cause Nat := do
  let a ← s.fetch16 k va
  let b ← s.fetch16 k ((va + 2) % 2 ^ 48)
  return a + 65536 * b
/-- Bytes through the fetch path, four at a time (4-aligned). -/
def State.fetchBytes (s : State) (k : Crew) (va words : Nat) : Except Cause (List Byte) :=
  (List.range words).foldlM (fun bs j => do let w ← s.fetch32 k (va + 4 * j); return bs ++ leBytes 4 w) []

end Sys2Proof.Machine
end

