-- ==== Sys2Proof/Machine/ErgBase.lean ====
section
/-! DEFINITION. Erg slots as other instructions meet them: their transitions, pending entries and watch bits, and what a store inside a region
does (spec/13_approx.md R348, R350, R358, R360, R362). -/

namespace Sys2Proof.Machine

def Desc.none : Desc :=
  { ok := false, nin := 0, nout := 0, h1 := 0, h2 := 0, preload := false, trust := false, ins := [], outs := [], entry := 0, exit := 0
    dom := [], scale := [], errLimit := 0, errSpike := 0, rate := 0, window := 0, epochs := 0, minsamp := 0, trial := 0, cooldown := 0
    weights := 0, deps := [] }
/-- A slot never armed (R368). -/
def ErgSlot.idle (die slot : Nat) : ErgSlot :=
  { die := die, slot := slot, state := .idle, impure := false, reason := 0, tries := 0, shift := 0, det := false, fallbacks := 0, invals := 0
    asid := 0, descVa := 0, base := 0, desc := Desc.none, epoch := 0, subst := 0, trueRuns := 0, drops := 0, batches := 0, skips := 0
    lastE := 0, weights := [], window := [], winNext := 0, buffer := [], cooled := 0, compared := 0, trained := 0, watched := [] }
def State.erg (s : State) (die slot : Nat) : ErgSlot :=
  (s.ergs.find? fun e => e.die == die && e.slot == slot).getD (ErgSlot.idle die slot)
def State.setErg (s : State) (e : ErgSlot) : State :=
  { s with ergs := e :: s.ergs.filter fun x => !(x.die == e.die && x.slot == e.slot) }

/-- The VA of the descriptor a crew's grid binds to a slot (R345). -/
def State.bindVa (s : State) (k : Crew) (slot : Nat) : Option Nat :=
  (s.grid? k.grid).bind fun g =>
    let b := g.binds.getD slot 0
    if b.getLsbD 31 then some ((g.entry.toNat + b.toNat % 2 ^ 31) % 2 ^ 48) else none
/-- The slot's tag is that of the crew's context and descriptor (R349). -/
def State.ergMine (s : State) (k : Crew) (e : ErgSlot) : Bool := e.state != .idle && e.asid == k.asid && some e.descVa == s.bindVa k e.slot

/-! ## Where a thread substitutes (R356, R365) -/

/-- a <= b of two encodings that are no NaN. -/
def fle (a b : Word) : Bool := !(f32v a).isNan && !(f32v b).isNan && !(f32v b).lt (f32v a)

/-- MIX (R353). -/
def mix (x : DWord) : DWord :=
  let x := x ^^^ (x >>> 33)
  let x := x * 0xFF51AFD7ED558CCD
  let x := x ^^^ (x >>> 33)
  let x := x * 0xC4CEB9FE1A85EC53
  x ^^^ (x >>> 33)
def Desc.inBox (d : Desc) (x : List Word) : Bool := (x.zip d.dom).all fun v => fle v.2.1 v.1 && fle v.1 v.2.2
/-- A thread is sampled at an APXE (R356). -/
def sampled (slot shift lane : Nat) (cid icnt : Word) : Bool :=
  (mix (mix (cid ++ icnt) ^^^ BitVec.ofNat 64 (32 * slot + lane))).toNat % 2 ^ shift == 0
/-- The registers an APXE of a slot would substitute for a thread: the OUT registers of a FITTED slot of the crew's own tag, for inputs inside
its box that are not sampled; outside every region (R365). -/
def State.apxeOuts (s : State) (k : Crew) (slot lane : Nat) : List Nat :=
  let e := s.erg (dieOf k.core) slot
  let t := k.thread lane
  if s.ergMine k e && e.state == .fitted && t.inreg.isNone && e.desc.inBox (e.desc.ins.map (t.val lane))
      && !sampled slot e.shift.toNat lane k.cid (k.icnt.getD slot 0 + 1) then e.desc.outs else []

/-- Pending entries of a slot freed; their threads keep INREG with REC cleared (R350). -/
def Thread.dropRec (t : Thread) (slot : Nat) : Thread :=
  { t with inreg := t.inreg.map fun r => if r.slot == slot then { r with recd := false } else r }
def State.freeEntries (s : State) (die slot : Nat) : State :=
  { s with
    pending := s.pending.filter fun p => !(p.die == die && p.slot == slot)
    crews := s.crews.map fun (c : Crew) => if dieOf c.core == die then c.mapT fun _ t => t.dropRec slot else c }

/-- Watch bits of lines that no slot of the Erg covers any more go (R360). -/
def State.unwatch (s : State) (die : Nat) (lines : List Nat) : State :=
  (lines.filter fun l => !s.ergs.any fun e => e.die == die && e.watched.contains l).foldl
    (fun (s : State) l => s.setDir { s.dirOf l with watch := (s.dirOf l).watch &&& ~~~(1#4 <<< die) }) s
/-- Watch bits of a slot's lines set (R360). -/
def State.watch (s : State) (die : Nat) (lines : List Nat) : State :=
  lines.foldl (fun (s : State) l => s.setDir { s.dirOf l with watch := (s.dirOf l).watch ||| (1#4 <<< die) }) s

/-- A transition of R358: the EPOCH rises and the pending entries are freed; IDLE and RETIRED watch nothing. -/
def State.ergGo (s : State) (e : ErgSlot) (st : ErgState) : State :=
  let stop := st == .idle || st == .retired
  let e' : ErgSlot := { e with state := st, epoch := e.epoch + 1, watched := if stop then [] else e.watched }
  let s := (s.setErg e').freeEntries e.die e.slot
  if stop then s.unwatch e.die e.watched else s

/-- A store, command or stroke by a thread inside a region of its own slot retires the slot (R362); the crew as it then stands. -/
def State.impure (s : State) (k : Crew) (act : Lanes) : State × Crew :=
  let slots := ((laneList act).filterMap fun l => ((k.thread l).inreg).map (·.slot)).dedup
  slots.foldl (fun (x : State × Crew) j =>
    let e := x.1.erg (dieOf k.core) j
    if x.1.ergMine k e then (x.1.ergGo { e with impure := true, reason := 1 } .retired, x.2.mapT fun _ t => t.dropRec j) else x) (s, k)

end Sys2Proof.Machine
end

