-- ==== Sys2Proof/Machine/Tank.lean ====
section
/-! DEFINITION. Tank tiles, the issue and the effect of matrix operations (spec/10_matrix.md R265 to R282), and what a crew does
when no thread of it may issue (R62, R275) or its last thread exits (R85). -/

namespace Sys2Proof.Machine

/-! ## Tiles (R265 to R267, R289) -/

def Tile.zero (core slot : Nat) (tag : Option (BitVec 12 × BitVec 42)) : Tile :=
  { core := core, slot := slot, tag := tag, elems := List.replicate 256 0, kind := .empty, depth := 0, lost := false, ovf := 0 }
def State.tile (s : State) (core slot : Nat) : Tile :=
  (s.tiles.find? fun t => t.core == core && t.slot == slot).getD (Tile.zero core slot none)
def State.setTile (s : State) (t : Tile) : State :=
  { s with tiles := t :: s.tiles.filter fun u => !(u.core == t.core && u.slot == t.slot) }
/-- The tag a crew's context gives to its tiles (R289). -/
def State.tagOf (s : State) (k : Crew) : BitVec 12 × BitVec 42 := (k.asid, (s.ctx k.asid).key)
/-- The physical slot behind a tile of a crew. -/
def Crew.tileSlot (k : Crew) (t : BitVec 3) : Nat := k.tileSlots.getD t.toNat 0
def State.tileOf (s : State) (k : Crew) (t : BitVec 3) : Tile := s.tile k.core (k.tileSlot t)
/-- A tile whose slot carries another context's tag. -/
def State.foreign (s : State) (k : Crew) (slot : Nat) : Bool :=
  match (s.tile k.core slot).tag with
  | none => false
  | some g => g != s.tagOf k
/-- TANK_INFO of a foreign tile (R374). -/
def State.tankInfoOf (s : State) (k : Crew) (t : BitVec 3) : DWord :=
  match (s.tileOf k t).tag with
  | none => t.zeroExtend 64
  | some g => g.2 ++ g.1 ++ (0#7) ++ t
/-- Operations already issued on a slot (R276). -/
def State.tileBusy (s : State) (core slot : Nat) : Bool := s.matops.any fun o => o.core == core && o.slot == slot
/-- KIND after every operation issued on the slot has taken effect. -/
def State.kindAfter (s : State) (core slot : Nat) : TileKind :=
  (s.matops.filter fun o => o.core == core && o.slot == slot && !o.lost).foldl (fun _ o => if o.resid then .res else .f32) (s.tile core slot).kind

def Tile.countOvf (t : Tile) (n : Nat) : Tile := { t with ovf := BitVec.ofNat 16 (min (t.ovf.toNat + n) 0xFFFF) }
def Tile.elem (t : Tile) (j : Nat) : DWord := t.elems.getD j 0

/-- z of a RES element and whether its evaluation clamps (R267). -/
def resValue (e : DWord) : Int × Bool :=
  let z := (up32 e).toInt + crt (lo32 e)
  let c := clampI z (-2147483648) 2147483647
  (c, z != c)
/-- The value of an element as the epilogue takes it (R282), and 1 if its evaluation clamps. -/
def Tile.value (t : Tile) (j : Nat) : Fv × Nat :=
  match t.kind with
  | .empty => (.fin false 0 1, 0)
  | .f32 => (f32v (lo32 (t.elem j)), 0)
  | .res => let z := resValue (t.elem j); (.ofInt z.1, if z.2 then 1 else 0)
/-- EPI (R282): the element's low bits and what it adds to OVF. -/
def Tile.epi (t : Tile) (fs : DWord) (j : Nat) : Word × Nat :=
  let v := t.value j
  let r := narrowV fs v.1
  (r.1, v.2 + if r.2 then 1 else 0)

/-- A residue word from its channels (R157). -/
def resWord (a b c : Nat) : Word := BitVec.ofNat 32 (a % 255 + b % 256 * 256 + c % 257 * 65536)
/-- A residue word with an exact integer added in every channel (R281). -/
def resAdd (w : Word) (p : Int) : Word :=
  resWord (((r255 w : Int) + p) % 255).toNat (((r256 w : Int) + p) % 256).toNat (((r257 w : Int) + p) % 257).toNat

/-! ## Fragments (R268, R269) -/

/-- Element e of a fragment, as raw bits of width w. -/
def fragElem (ws : List Word) (w e : Nat) : Nat := (ws.getD (e * w / 32) 0).toNat / 2 ^ (w * (e % (32 / w))) % 2 ^ w
/-- A[i][k], or B[k][j] with the column in place of the row. -/
def opElem (side : List (List Word)) (w depth i k : Nat) : Nat := fragElem (side.getD (2 * i + k / (depth / 2)) []) w (k % (depth / 2))
/-- An integer input element with SYM (R270). -/
def symElem (fs : DWord) (w x : Nat) : Int := if slotSym fs && w == 8 && x == 0x80 then -127 else sextN x w

/-- The float product of an operation at (i, j) (R280). -/
def mmaTerms (fa fb : DWord) (as bs : List (List Word)) (i j : Nat) : List Fv :=
  let w := (slotElem fa).width
  (List.range (512 / w)).map fun k =>
    (elemValue fa (BitVec.ofNat 32 (opElem as w (512 / w) i k))).mul (elemValue fb (BitVec.ofNat 32 (opElem bs w (512 / w) j k)))
/-- The integer product at (i, j) (R281). -/
def mmrSum (fa fb : DWord) (as bs : List (List Word)) (i j : Nat) : Int :=
  let w := (slotElem fa).width
  ((List.range (512 / w)).map fun k => symElem fa w (opElem as w (512 / w) i k) * symElem fb w (opElem bs w (512 / w) j k)).sum

/-- MMA on a tile (R280). -/
def Tile.mma (t : Tile) (fa fb : DWord) (as bs : List (List Word)) (isSet : Bool) : Tile :=
  { t with
    elems := (List.range 256).map fun e =>
      let ts := mmaTerms fa fb as bs (e / 16) (e % 16)
      (f32r (.sum (if !isSet && t.kind == .f32 then ts ++ [f32v (lo32 (t.elem e))] else ts))).zeroExtend 64
    kind := .f32
    depth := if isSet then 0 else t.depth
    ovf := if isSet then 0 else t.ovf
    lost := t.lost && !isSet }

/-- The fold of a RES tile (R281). -/
def Tile.fold (t : Tile) : Tile :=
  let zs : List (Int × Bool) := t.elems.map resValue
  ({ t with elems := zs.map fun (z : Int × Bool) => pair 0 (BitVec.ofInt 32 z.1), depth := 0 }).countOvf (zs.filter fun (z : Int × Bool) => z.2).length
/-- L of R281. -/
def foldLimit (fa fb : DWord) : Nat := if slotSym fa || slotSym fb then 8 else 7
/-- MMR on a tile (R281). -/
def Tile.mmr (t : Tile) (fa fb : DWord) (as bs : List (List Word)) (isSet : Bool) : Tile :=
  let t := if isSet then Tile.zero t.core t.slot t.tag else t
  let t := if t.kind == .res && decide (foldLimit fa fb ≤ t.depth.toNat) then t.fold else t
  { t with
    elems := (List.range 256).map fun e => pair (resAdd (lo32 (t.elem e)) (mmrSum fa fb as bs (e / 16) (e % 16))) (up32 (t.elem e))
    kind := .res
    depth := t.depth + 1 }

/-- An issued operation takes effect (R276). -/
def State.matEffect (s : State) (o : MatOp) : State :=
  let t := s.tile o.core o.slot
  s.setTile <|
    if o.lost then { t with lost := true }
    else if o.resid then t.mmr o.fa o.fb (o.frags.map (·.1)) (o.frags.map (·.2)) o.isSet
    else t.mma o.fa o.fb (o.frags.map (·.1)) (o.frags.map (·.2)) o.isSet

/-! ## Convergence registers (R271 to R275) -/

def Cv.idle : Cv := { signed := 0, decl := 0, pend := false, opword := 0, sigs := [] }
def Crew.cvN (k : Crew) (n : Nat) : Cv := k.cv.getD n Cv.idle
def Crew.setCv (k : Crew) (n : Nat) (v : Cv) : Crew := { k with cv := k.cv.set n v }
/-- The fours that hold a live thread. -/
def Crew.liveFours (k : Crew) : BitVec 8 :=
  (List.range 8).foldl (fun a f => if (List.range 4).any fun j => (k.thread (4 * f + j)).live then a ||| (1#8 <<< f) else a) 0
/-- Every live thread of every declared four has signed (R273). -/
def Crew.cvComplete (k : Crew) (n : Nat) : Bool :=
  let v := k.cvN n
  v.pend && (List.range 32).all fun t => !((k.thread t).live && v.decl.getLsbD (t / 4)) || v.signed.getLsbD t

/-- Function of the pending operation from OPWORD: residue, set, fs, tile. -/
def opOf (w : Word) : Option (Bool × Bool × BitVec 3 × BitVec 3) :=
  match decode32 w.toNat with
  | some (.mma _ fs _ _ t) => some (false, false, fs, t)
  | some (.mmaSet _ fs _ _ t) => some (false, true, fs, t)
  | some (.mmr _ fs _ _ t) => some (true, false, fs, t)
  | some (.mmrSet _ fs _ _ t) => some (true, true, fs, t)
  | _ => none

/-- The pending operation of a convergence register issues (R273); on a foreign tile the last signature is withdrawn and its
thread takes TANK_OWNED, or the operation is discarded if no signer lives (R289). Where no signature completed the set, the thread is that of the newest
signature whose signer lives (DESIGN CHOICE, log 88). -/
def State.issueConv (s : State) (id n : Nat) : State :=
  match s.crew? id with
  | none => s
  | some k =>
    let v := k.cvN n
    match opOf v.opword with
    | none => s
    | some (resid, isSet, fs, t) =>
      let v0 : Cv := { v with signed := 0, pend := false, sigs := [] }
      let clear : Crew := { k.setCv n v0 with held := 0 }
      let slot := k.tileSlot t
      if s.foreign k slot then
        match v.sigs.find? fun g => (k.thread g.lane).live with
        | none => s.setCrew clear
        | some g =>
          let rest := v.sigs.filter (·.lane != g.lane)
          let v1 : Cv := { v with signed := v.signed &&& ~~~laneBit g.lane, pend := !rest.isEmpty, sigs := rest }
          let k' : Crew := { k.setCv n v1 with tankInfo := s.tankInfoOf k t }
          let k' := k'.mapT fun l x => if l == g.lane then { x with pcv := g.at_ } else x
          s.takeTrapFrom k' g.at_.toNat [⟨g.lane, .tankOwned, g.at_.toNat⟩] 0
      else
        let frags := (List.range 32).map fun l =>
          match v.sigs.find? (·.lane == l) with
          | none => ([], [])
          | some g => (g.wa, g.wb)
        let kind := s.kindAfter k.core slot
        let lost := !isSet && (if resid then kind == .f32 else kind == .res)
        let s := s.setCrew clear
        { s with matops := s.matops ++ [{ core := k.core, crew := id, slot := slot, isSet := isSet, resid := resid, lost := lost,
                                           fa := s.slot k fs, fb := s.slot k (fs + 1), frags := frags }] }

/-- Every convergence register whose set is complete issues, lowest first (R273). Of several on tiles of other contexts the first traps; the next one then
stands in its handler, and its trap ends the crew (R289 does not say; DESIGN CHOICE, log 88). -/
def State.issueComplete (s : State) (id : Nat) : State :=
  (List.range 16).foldl (fun (s : State) n => if ((s.crew? id).map (·.cvComplete n)).getD false then s.issueConv id n else s) s
/-- Every pending operation issues, lowest first, until one of them traps (R275). -/
def State.issueAllConv (s : State) (id : Nat) (inh : Bool) : State :=
  (List.range 16).foldl (fun (s : State) n =>
    if ((s.crew? id).map fun k => (k.cvN n).pend && k.inh == inh).getD false then s.issueConv id n else s) s

/-! ## When no thread may issue (R62, R82, R275) -/

/-- R62: YEX ends in every thread, or the lowest REFUSE completes. -/
def Crew.unstick (k : Crew) : Crew :=
  if (List.range 32).any fun t => (k.thread t).live && (k.thread t).yex then k.mapT fun _ t => { t with yex := false }
  else
    match (((List.range 32).filter fun t => (k.thread t).live && (k.thread t).rwait).map fun t => (k.thread t).pcv.toNat).min? with
    | none => k
    | some a => k.mapT fun _ t => if t.live && t.rwait && t.pcv.toNat == a then { t.setPc (a + 4) with rwait := false } else t

/-- What follows a change of LIVE, YEX or RWAIT or a signature: complete operations issue (R273); the last exit issues every pending
operation and ends the crew (R85, R275); without an eligible thread pending operations issue, else R62 applies. -/
def State.settle (s : State) (id : Nat) : State :=
  let s := s.issueComplete id
  match s.crew? id with
  | none => s
  | some k =>
    if k.ended then s
    else if k.liveSet == 0 then
      let s := s.issueAllConv id k.inh
      match s.crew? id with
      | none => s
      | some k => s.endCrew k none
    else if k.issueAddr.isSome then s
    else
      let s := if k.cv.any (·.pend) then s.issueAllConv id k.inh else s
      match s.crew? id with
      | none => s
      | some k => if k.issueAddr.isSome then s else s.setCrew k.unstick

/-! ## Threads held by their signatures (R274) -/

/-- The registers an instruction writes in one lane. -/
def writesIn (k : Crew) (u : Uses) (i : Instr) (lane : Nat) : List VecUse :=
  let here := match i with
    | .s2v .lane l _ _ => l.toNat == lane
    | _ => guardOf i == 7 || (k.thread lane).p.getLsbD (guardOf i).toNat
  if here then u.vec.filter (·.write) else []

/-- A vector register of a thread that a signature of its own write-locks (R274). -/
def Crew.locks (k : Crew) (lane r : Nat) : Bool :=
  (List.range 16).any fun n => ((k.cvN n).sigs.find? (·.lane == lane)).any fun g =>
    (decide (g.a ≤ r) && decide (r < g.a + 8)) || (decide (g.b ≤ r) && decide (r < g.b + 8))

/-- Whether a thread is held at an instruction by a signature of its own. -/
def holdsAt (g : List DWord) (k : Crew) (i : Instr) (lane : Nat) : Bool :=
  let u := uses g k i
  let same (n : Nat) : Bool := match i with
    | .mma c _ _ _ _ => c.toNat == n
    | .mmaSet c _ _ _ _ => c.toNat == n
    | .mmr c _ _ _ _ => c.toNat == n
    | .mmrSet c _ _ _ _ => c.toNat == n
    | _ => false
  ((writesIn k u i lane).any fun w => (List.range w.count).any fun j => k.locks lane (w.first + j))
    || (List.range 16).any fun n => ((k.cvN n).sigs.any (·.lane == lane))
      && (same n || ((opOf (k.cvN n).opword).map fun o => u.tile.contains o.2.2.2.toNat).getD false)
/-- Whether a thread is held at an APXE that would substitute into its locked registers (R274, R365). -/
def State.apxeHolds (s : State) (k : Crew) (lane : Nat) : Instr → Bool
  | .apxe sl => (s.apxeOuts k sl.toNat lane).any (k.locks lane)
  | _ => false

end Sys2Proof.Machine
end

