-- ==== Sys2Proof/Machine/Fetch.lean ====
section
/-! DEFINITION. Instruction fetch, the REP prefix at decode, and where a crew issues next (R26, R27, R41 to R45, R60 to R66, R274). -/

namespace Sys2Proof.Machine

/-- The instruction at an address through the fetch path; an illegal word is ILLEGAL (R26, R27, R64). -/
def State.fetchInstr (s : State) (k : Crew) (a : Nat) : Except Cause Instr :=
  match s.fetch16 k a with
  | .error c => .error c
  | .ok h0 =>
    if h0 % 2 == 0 then
      match decode16 h0 with
      | none => .error .illegal
      | some i => .ok i
    else
      match s.fetch16 k ((a + 2) % 2 ^ 48) with
      | .error c => .error c
      | .ok h1 =>
        match decode32 (h0 + 65536 * h1) with
        | none => .error .illegal
        | some i => .ok i

/-- What stands at an issue address: a fault, a REP prefix not yet active with its I, or an instruction to issue (under an active
prefix when ctl is given). -/
inductive Point where
  | fault (c : Cause) (addr : Nat)
  | rep (st : BitVec 2) (m : BitVec 4) (c : BitVec 6) (i : Instr)
  | instr (i : Instr) (ctl : Option RepCtl)
  deriving DecidableEq, Repr

/-- The fields of a prefix as the repeats use them (R31, R41). -/
def repCtl (st : BitVec 2) (m : BitVec 4) (c : BitVec 6) : RepCtl := { step := 2 ^ st.toNat, mask := m, count := c.toNat + 1 }

/-- The decode of an issue address. A fault of a prefix's I, and an illegal pair of prefix and I, are reported at I (R41). -/
def State.pointAt (s : State) (k : Crew) (a : Nat) : Point :=
  match s.fetchInstr k a with
  | .error c => .fault c a
  | .ok (.rep st m c) =>
    let b := (a + 4) % 2 ^ 48
    match s.fetchInstr k b with
    | .error e => .fault e b
    | .ok i =>
      if !repLegal m i then .fault .illegal b
      else if k.rep.active then .instr i (some (repCtl st m c))
      else .rep st m c i
  | .ok i => .instr i none

/-- The crew in repeat j of a prefix. -/
def Crew.inRepeat (k : Crew) (ctl : RepCtl) (j : Nat) : Crew :=
  { k with rep := { k.rep with active := true, i := BitVec.ofNat 6 j, ctl := ctl } }

/-- The threads at the issue address that their own signatures hold (R274). Before a REP those held in any of its repeats, so that ACTIVE is the same
in all of them (R44). A REP whose ACTIVE is fixed goes on with all its threads, or with none while one of them is held. -/
def Crew.heldAt (k : Crew) (g : List DWord) : Point → Lanes
  | .fault _ _ => 0
  | .rep st m c i => laneSet fun l => k.active.getLsbD l &&
      (List.range (c.toNat + 1)).any fun j => holdsAt g (k.inRepeat (repCtl st m c) j) i l
  | .instr i none => laneSet fun l => k.active.getLsbD l && holdsAt g k i l
  | .instr i (some ctl) =>
    let h : Lanes := laneSet fun l => k.active.getLsbD l &&
      (List.range ctl.count).any fun j => (k.rep.fixed.isNone || decide (k.rep.i.toNat ≤ j)) && holdsAt g (k.inRepeat ctl j) i l
    if k.rep.fixed.isSome && h != 0 then k.active else h

/-- The threads at an APXE that it would substitute into locked registers of theirs (R274). -/
def State.heldApxe (s : State) (k : Crew) : Point → Lanes
  | .instr i none => laneSet fun l => k.active.getLsbD l && s.apxeHolds k l i
  | _ => 0

/-- Where a crew issues: the lowest address with a thread that no signature holds (R60, R274). -/
def State.findIssue (s : State) (k : Crew) : Nat → Crew × Option (Nat × Point)
  | 0 => (k, none)
  | fuel + 1 =>
    match k.issueAddr with
    | none => (k, none)
    | some a =>
      let p := s.pointAt k a
      let h : Lanes := k.heldAt (s.slots k) p ||| s.heldApxe k p
      if h == 0 then (k, some (a, p)) else s.findIssue { k with held := k.held ||| h } fuel
def State.issuePoint (s : State) (k : Crew) : Crew × Option (Nat × Point) := s.findIssue { k with held := 0 } 33

/-- Ready (R66): it may issue, it has an issue address, and no operand of the instruction there is still to come. -/
def State.ready (s : State) (k : Crew) : Bool :=
  k.mayIssue && !(s.region (regionOf k.core)).stopped && k.liveSet != 0
    && match s.issuePoint k with
       | (_, none) => false
       | (_, some (_, .fault _ _)) => true
       | (h, some (_, .rep st m c i)) => !s.unready (h.inRepeat (repCtl st m c) 0) i
       | (h, some (_, .instr i ctl)) => !s.unready (match ctl with | none => h | some r => h.inRepeat r h.rep.i.toNat) i

/-- The memory instructions a pending WAITC holds back (R104) and engine commands and fences that an unaccepted command of the crew holds
back (R179). -/
def ordersMemory : Instr → Bool
  | .ld .. | .st .. | .lda .. | .stl .. | .lds .. | .sts .. | .atom .. | .cas .. | .pres .. | .mon .. | .mstConv .. | .mstRaw ..
  | .mldConv .. | .mldRawF32 .. | .mldRawRes .. => true
  | _ => false

/-- Stopped in a WAITC: a reply of it is outstanding and the next instruction needs it or is a memory instruction (R33, R97, R104). -/
def State.stoppedInWaitc (s : State) (k : Crew) : Bool :=
  !k.waitc.isEmpty &&
    match s.issuePoint k with
    | (h, some (_, .instr i _)) => s.unready h i || ordersMemory i
    | (_, some (_, .rep _ _ _ i)) => s.unready k i || ordersMemory i
    | _ => false

/-! ## The turn of a crew whose boat issues -/

/-- What a crew does in its turn: nothing more than the given state, or an instruction executed on it. -/
inductive Turn where
  | idle (s : State)
  | run (i : Instr) (s : State)
  deriving DecidableEq, Repr

/-- The end of a REP whose repeats are all done (R43), met when a restored REP.i has reached the count. -/
def Crew.endRep (k : Crew) (a len : Nat) : Crew :=
  let act := k.active
  { (k.mapT fun l t => if act.getLsbD l then t.setPc (a + 4 + len) else t).endYield with rep := Rep.idle }

/-- A read-modify-write may have lines held for it at home (R253); any other instruction gives up lines that its crew still holds. -/
def heldFor : Instr → Bool
  | .atom .. | .cas .. => true
  | _ => false
/-- The state in which a crew's instruction runs. -/
def State.unheld (s : State) (k : Crew) (i : Instr) : State := if heldFor i then s else s.dropHold k.id

/-- A crew's turn at what stands at its issue address (R43, R62, R64, R275). -/
def State.turnAt (s : State) (x : Crew × Option (Nat × Point)) : Turn :=
  match x with
  | (h, none) => .idle ((s.setCrew h).settle h.id)
  | (h, some (_, .fault c addr)) => .idle ((s.setCrew h).trapAt h c h.active addr)
  | (h, some (a, .rep st m c _)) => .run (.rep st m c) (((s.unheld h (.rep st m c)).setCrew { h with rep := Rep.idle }).learn h.core h.asid a)
  | (h, some (a, .instr i none)) => .run i (((s.unheld h i).setCrew { h with rep := Rep.idle }).learn h.core h.asid a)
  | (h, some (a, .instr i (some ctl))) =>
    if ctl.count ≤ h.rep.i.toNat then .idle (s.setCrew (h.endRep a i.length))
    else .run i (((s.unheld h i).setCrew { h with rep := { h.rep with ctl := ctl, fixed := some h.active } }).learn h.core h.asid a)

/-- The turn of the crew at the head of the issue queue. It takes the partition's issue cycle, also where its instruction stalls: the time since
its last issue counts from here (R67, log 11). -/
def State.turn (s : State) (id : Nat) : Turn :=
  let s := ({ s with issueQ := s.issueQ.tail, cur := some id } : State).settle id
  match s.crew? id with
  | none => .idle s
  | some k =>
    if k.mayIssue then
      let k : Crew := { k with lastIssue := (s.cycles k.core).toNat, passed := 0 }
      (s.setCrew k).turnAt ((s.setCrew k).issuePoint k)
    else .idle s

/-- A crew with live threads of which none may issue (R62, R275), held ones counted (R274). -/
def State.stuck (s : State) (k : Crew) : Bool := k.mayIssue && k.liveSet != 0 && (s.issuePoint k).2.isNone
/-- R62 and R275 for every such crew. -/
def State.settleAll (s : State) : State :=
  s.crews.foldl (fun (s : State) k => if s.stuck k then (s.setCrew (s.issuePoint k).1).settle k.id else s) s

end Sys2Proof.Machine
end

