-- ==== Sys2Proof/Machine/Memory.lean ====
section
/-! DEFINITION. Memory-access instructions (spec/07_memory.md R193 to R212). -/

namespace Sys2Proof.Machine

/-- EA(t) (R201). -/
def Crew.ea (k : Crew) (b : BitVec 5) (o : VCode) (l : Nat) : Nat :=
  (k.pr b.toNat + ((k.thread l).val l (k.vnum .va o)).signExtend 64).toNat
/-- off(t) of LDS and STS (R201). -/
def Crew.squadOff (k : Crew) (b : BitVec 5) (o : VCode) (l : Nat) : Int :=
  (k.pr b.toNat + ((k.thread l).val l (k.vnum .va o)).signExtend 64).toInt

/-- The functions of XCE and XGE (R303, R305). -/
def EngFn.copyOrGather : EngFn → Bool
  | .copy1 | .copy2 | .copyt | .fill | .copyr | .copyh | .gather | .scatter | .scatadd | .gatherq => true
  | .allred | .redscat | .allgath | .barrier | .ease | .wake => false
/-- The functions that clear destination lines at the command's place in program order: those of XCE and XGE, and the collectives that write
(R179, R228). -/
def EngFn.clears (fn : EngFn) : Bool := fn.copyOrGather || fn == .allred || fn == .redscat || fn == .allgath

/-- Such a command of the crew is not yet accepted: it holds back later memory instructions, fences, barriers, strokes, requests and commands (R179,
R228). -/
def State.cmdHeld (s : State) (k : Crew) : Bool := s.cmds.any fun m => m.crew == k.id && m.number == 0 && m.fn.clears
/-- What holds a crew's next memory instruction back: a pending WAITC (R104) or an engine command not yet accepted (R179). -/
def State.memHeld (s : State) (k : Crew) : Bool := !k.waitc.isEmpty || s.cmdHeld k

/-- The instruction completes for its crew as the state now holds it. -/
def State.finish (s : State) (i : Instr) (id : Nat) (act : Lanes) (f : Crew → Crew) : State :=
  match s.crew? id with
  | none => s
  | some k => s.done i (f k) act

/-- Translations used by an instruction enter the caches (R190). -/
def State.learnAll (s : State) (k : Crew) (vas : List Nat) : State :=
  ((vas.filter (· < 2 ^ 47)).map (· / 2 ^ 14)).dedup.foldl (fun (s : State) p => s.learn k.core k.asid (p * 2 ^ 14)) s

/-- A pending load of a thread reads some of the bytes of an access of the same thread (R215). -/
def Crew.collides (k : Crew) (n : Nat) (x : Nat × Loc) : Bool :=
  k.loads.any fun p => p.lane == x.1 && match p.loc, x.2 with
    | .deck a, .deck b => decide (a < b + n) && decide (b < a + sizeBytes p.size)
    | .squad a, .squad b => decide (a < b + n) && decide (b < a + sizeBytes p.size)
    | .skm a, .skm b => decide (a < b + n) && decide (b < a + sizeBytes p.size)
    | _, _ => false

/-- An access parks on lines of the deck (R179). One that stores has issued: it retires the slot of a region it lies in (R362). -/
def State.parks (s : State) (k : Crew) (act : Lanes) (stores : Bool) (lines : List Nat) : State :=
  let x := if stores then s.impure k act else (s, k)
  x.1.waits x.2 (.park lines) act

/-- The order of R196 for every thread: causes of steps 1 to 6, and POISON in threads that have none of them and whose line is present; where there
is no cause of steps 1 to 6, parking comes before POISON (R179); then the instruction's effect on n bytes for each thread, once no pending load of the
same thread reads them. -/
def State.memOp (s : State) (k : Crew) (act : Lanes) (stores : Bool) (n : Nat) (ea : Nat → Nat) (chk : Nat → Except Cause Loc)
    (body : State → List (Nat × Loc) → State) : State :=
  if s.memHeld k then s
  else
    let ls := laneList act
    let locs : List (Nat × Loc) := ls.filterMap fun l => match chk l with | .ok x => some (l, x) | .error _ => none
    let absent := s.absentLines (locs.map (·.2))
    let poison (x : Loc) : Bool := s.poisonAt k x && (s.absentLines [x]).isEmpty
    let marks : List Mark := ls.filterMap fun l => match chk l with
      | .ok x => if poison x then some ⟨l, .poison, ea l⟩ else none
      | .error c => some ⟨l, c, ea l⟩
    if marks.any (·.cause != .poison) then s.takeTrap k marks 0
    else if !absent.isEmpty then s.parks k act stores absent.dedup
    else if !marks.isEmpty then s.takeTrap k marks 0
    else if locs.any (k.collides n) then s
    else body (s.learnAll k (ls.map ea)) locs

/-- ACCESS_UNPARK: every line a parked access waits for is present, and home may handle what the crew asks of it, so its crew issues it again
(R179, R252, R253). -/
def execAccessUnpark (crew : Nat) (s : State) : Out State :=
  .next <|
    match s.crew? crew with
    | none => s
    | some c =>
      match c.wait with
      | some (.park lines) => if lines.all (s.lineOpen c.core c.id) then s.setCrew { c with wait := none, waitLanes := 0 } else s
      | _ => s

/-! ## Loads (R202) -/

/-- What the loads of an instruction ask of home, and the spill and SKM lines they fill (R178, R247). -/
def State.ensureAll (s : State) (k : Crew) (ea : Nat → Nat) (locs : List (Nat × Loc)) (n : Nat) : State :=
  locs.foldl (fun (s : State) (x : Nat × Loc) => match x.2 with
    | .deck off => s.ensureCopy k (ea x.1) off n
    | .squad _ => s
    | .spill off => s.fillPlain k.core (some k.id) (off / 128)
    | .skm off => s.fillPlain k.core none (off / 128)) s
/-- Lines a load must fetch, upgrade or read at home while home can not yet handle that (R252, R253, R255). -/
def State.shutLines (s : State) (k : Crew) (ea : Nat → Nat) (locs : List (Nat × Loc)) (n : Nat) : List Nat :=
  (locs.filterMap fun x => match x.2 with
    | .deck off => if s.goesHome k (s.asked k (ea x.1)) off n && !s.lineOpen k.core k.id (off / 128) then some (off / 128) else none
    | .squad _ => none
    | .spill _ => none
    | .skm _ => none).dedup

/-- The value a thread's load returns at once, at the format it asks for (R247). -/
def State.loadAt (s : State) (k : Crew) (ea : Nat → Nat) (locs : List (Nat × Loc)) (n l : Nat) : Nat :=
  match locs.find? (·.1 == l) with
  | none => 0
  | some x => s.locReadAt (s.asked k (ea l)).1 k l x.2 n

/-- A load that is performed at its issue (R202; an acquire, the load of a MON, a load of the spill window): vt of each thread of ACTIVE. -/
def State.loadNow (s : State) (i : Instr) (k : Crew) (act : Lanes) (la : Nat) (z : MSize) (t : VCode) (ea : Nat → Nat)
    (locs : List (Nat × Loc)) : State :=
  let s := locs.foldl (fun (s : State) x => s.reads (s.asked k (ea x.1)).1 k x.1 x.2 (sizeBytes z)) s
  s.finish i k.id act fun c => c.writeV s.fresh la act fun l _ =>
    (loadWords z (s.loadAt k ea locs (sizeBytes z) l)).zipIdx.map fun w => (k.vnum .vd t + w.2, w.1)

/-- A load is issued: its results are still to come (R181, R218), and its lookahead window, if any, opens (R39). -/
def State.loadLater (s : State) (i : Instr) (k : Crew) (act : Lanes) (la : Nat) (z : MSize) (t : VCode) (ea : Nat → Nat)
    (locs : List (Nat × Loc)) : State :=
  let key := s.fresh
  let ps : List PendLoad := locs.map fun x =>
    { key := key, lane := x.1, reg := k.vnum .vd t, size := z, loc := x.2, va := ea x.1, fmt := (s.asked k (ea x.1)).1, upd := (s.asked k (ea x.1)).2
      left := if la == 0 then 0 else la + 1, age := 0 }
  let rs := (List.range (sizeRegs z)).map (k.vnum .vd t + ·)
  s.bump.finish i k.id act fun c =>
    { c.mapT (fun l x => if locs.any (·.1 == l) then x.expects key la rs else x) with loads := c.loads ++ ps }

/-- Whether the loads of an instruction are performed at its issue. -/
def atOnce (order : Bool) (locs : List (Nat × Loc)) : Bool := order || locs.any fun x => match x.2 with
  | .spill _ => true
  | .deck _ => false
  | .squad _ => false
  | .skm _ => false

/-- A load instruction's effect (R202, R247): while home can not handle what it asks, it is issued again later. -/
def State.loadEffect (s : State) (i : Instr) (k : Crew) (act : Lanes) (order : Bool) (la : Nat) (z : MSize) (t : VCode) (ea : Nat → Nat)
    (locs : List (Nat × Loc)) : State :=
  let shut := s.shutLines k ea locs (sizeBytes z)
  if !shut.isEmpty then s.waits k (.park shut) act
  else
    let s := s.ensureAll k ea locs (sizeBytes z)
    if atOnce order locs then s.loadNow i k act la z t ea locs else s.loadLater i k act la z t ea locs

/-- LD (R202). -/
def execLd (l : BitVec 4) (z : MSize) (b : BitVec 5) (o t : VCode) (s : State) : Out State :=
  issue (.ld l z b o t) s fun s k act =>
    s.memOp k act false (sizeBytes z) (k.ea b o) (fun x => s.check k .load (sizeBytes z) (sizeBytes z) (k.ea b o x)) fun s locs =>
      s.loadEffect (.ld l z b o t) k act false l.toNat z t (k.ea b o) locs

/-- LDA (R202): an acquire: it is performed at its issue, so nothing after it performs earlier, and what it may have acquired is covered by the
crew's releases (R218 to R220). -/
def execLda (c : Scope) (z : MSize) (b : BitVec 5) (o t : VCode) (s : State) : Out State :=
  issue (.lda c z b o t) s fun s k act =>
    s.memOp k act false (sizeBytes z) (k.ea b o) (fun x => s.check k .load (sizeBytes z) (sizeBytes z) (k.ea b o x)) fun s locs =>
      (s.loadEffect (.lda c z b o t) k act true 0 z t (k.ea b o) locs).acquires k

/-- The address LDS and STS report (R201). -/
def Crew.squadEa (k : Crew) (b : BitVec 5) (o : VCode) (l : Nat) : Nat := (((Config.squadBase : Int) + k.squadOff b o l) % 2 ^ 64).toNat

/-- LDS (R201, R202). -/
def execLds (l : BitVec 4) (z : MSize) (b : BitVec 5) (o t : VCode) (s : State) : Out State :=
  issue (.lds l z b o t) s fun s k act =>
    s.memOp k act false (sizeBytes z) (k.squadEa b o) (fun x => s.checkSquad k (sizeBytes z) (k.squadOff b o x)) fun s locs =>
      s.loadEffect (.lds l z b o t) k act false l.toNat z t (k.squadEa b o) locs

/-! ## Stores (R203) -/

/-- The bytes a store of a size writes from vt upward (R203). -/
def Crew.storeBytes (k : Crew) (z : MSize) (r l : Nat) : List Byte :=
  ((List.range (sizeRegs z)).flatMap fun j => leBytes 4 ((k.thread l).val l (r + j)).toNat).take (sizeBytes z)

/-- A store instruction's effect (R195, R203): the threads' bytes in lane order. A release covers what the crew has issued, read and acquired: the
threads of its core (at CREW scope those of the crew) meet all of that from here, and home applies it at PKG and POD scope only when that is globally
performed (R217, R219, R220). -/
def State.storeEffect (s : State) (i : Instr) (k : Crew) (act : Lanes) (z : MSize) (t : VCode) (rel : Option Scope) (locs : List (Nat × Loc)) : State :=
  let key := s.fresh
  let after := if rel == some .pkg || rel == some .pod then s.orderedIds k.id else []
  let s := match rel with
    | none => s
    | some c => s.releases k (c == Scope.crew)
  let x := s.bump.impure k act
  let s := x.1.done i x.2 act
  locs.foldl (fun (s : State) (x : Nat × Loc) => s.locWrite k x.1 x.2 (k.storeBytes z (k.vnum .vd t) x.1) after rel.isSome key) s

/-- ST (R203). -/
def execSt (z : MSize) (b : BitVec 5) (o t : VCode) (s : State) : Out State :=
  issue (.st z b o t) s fun s k act =>
    s.memOp k act true (sizeBytes z) (k.ea b o) (fun x => s.check k .store (sizeBytes z) (sizeBytes z) (k.ea b o x)) fun s locs =>
      s.storeEffect (.st z b o t) k act z t none locs

/-- STL (R203): a release at its scope (R219). -/
def execStl (c : Scope) (z : MSize) (b : BitVec 5) (o t : VCode) (s : State) : Out State :=
  issue (.stl c z b o t) s fun s k act =>
    s.memOp k act true (sizeBytes z) (k.ea b o) (fun x => s.check k .store (sizeBytes z) (sizeBytes z) (k.ea b o x)) fun s locs =>
      s.storeEffect (.stl c z b o t) k act z t (some c) locs

/-- STS (R201, R203). -/
def execSts (z : MSize) (b : BitVec 5) (o t : VCode) (s : State) : Out State :=
  issue (.sts z b o t) s fun s k act =>
    s.memOp k act true (sizeBytes z) (k.squadEa b o) (fun x => s.checkSquad k (sizeBytes z) (k.squadOff b o x)) fun s locs =>
      s.storeEffect (.sts z b o t) k act z t none locs

/-! ## ATOM and CAS (R204 to R207) -/

/-- A read-modify-write waits for what its core has sent to the slice before it and for its crew's stores on their way to the banks (R252), and as a
release for the writes the crew's releases cover. -/
def State.rmwWaits (s : State) (k : Crew) (rel : Bool) (locs : List (Nat × Loc)) : Bool :=
  let lines := deckLines (locs.map (·.2))
  (lines.any fun l => (s.dirOf l).hold != some k.id && ((s.dirOf l).busy || s.sliceWaits k.core (l * 128)))
    || (rel && !s.coveredDone k.id) || ((s.squad? k.squad).map fun q => q.bank.any (·.crew == k.id)).getD false
/-- Lines that a read-modify-write writes while they are under BCAST are cleared first, and home keeps all its lines for it (R253). -/
def State.rmwClear (s : State) (k : Crew) (lines bcast : List Nat) : State :=
  let s := lines.foldl (fun (s : State) l => s.setDir { s.dirOf l with hold := some k.id }) s
  bcast.foldl (fun (s : State) l => s.bcastClear l (some k.core) none) s

/-- The bytes of a location at the place of its atomics: home, the bank or the spill bytes. -/
def State.atomRead (s : State) (k : Crew) (x : Loc) (n : Nat) : Nat :=
  match x with
  | .deck off => leNat (s.deck.readN off n)
  | .squad off => ((s.squad? k.squad).map fun q => leNat (q.mem.readN off n)).getD 0
  | .spill off => ((s.crew? k.id).map fun c => leNat (c.spill.readN off n)).getD 0
  | .skm off => leNat (s.skm.readN off n)
/-- The write of an atomic: at home the core's own copy goes with its pointer, at EXACT too (R255 does not say; DESIGN CHOICE, log 86), the sharers are
told (R249). -/
def State.atomWrite (s : State) (k : Crew) (lane : Nat) (x : Loc) (bs : List Byte) : State :=
  match x with
  | .deck off =>
    let s := (s.dropCopy k.core (off / 128)).dropPtr k.core (off / 128)
    s.bump.applyWrite { id := s.fresh, core := some k.core, crew := some k.id, lane := lane, instr := s.fresh, off := off, bytes := bs, plus := false
                        after := [], before := s.beforeOf k false off bs.length s.fresh, known := [k.id], ordered := [], shown := false, seen := []
                        bcast := false, applied := false, acks := 0, done := false, turn := 0, old := [] }
  | .squad off => s.squadWrite k.squad off bs
  | .spill off => s.locWrite k lane (.spill off) bs [] false 0
  | .skm _ => s

/-- A failing CAS drops a copy held at a format other than EXACT (R255). -/
def State.failDrop (s : State) (k : Crew) (x : Loc) : State :=
  match x with
  | .deck off =>
    match s.copyOf k.core (off / 128) with
    | some c => if c.fmt == .exact then s else (s.dropCopy k.core (off / 128)).dropPtr k.core (off / 128)
    | none => s
  | .squad _ => s
  | .spill _ => s
  | .skm _ => s

/-- Before an atomic reads the deck at home (R252, R220). -/
def State.readsHome (s : State) (k : Crew) (lane : Nat) (x : Loc) (n : Nat) : State :=
  match x with
  | .deck off => (s.deliver k.core off).glimpse false k lane off n
  | .squad _ => s
  | .spill _ => s
  | .skm _ => s

/-- Threads one after another in a free order (R195); each gets the value before its own operation. -/
def State.rmwAll (s : State) (k : Crew) (n : Nat) (locs : List (Nat × Loc)) (f : Nat → Nat → Option Nat) : State × List (Nat × Nat) :=
  let key := s.fresh
  let xs := (List.range 32).filterMap fun j => locs.find? fun x => x.1 == j
  let order (x : Nat × Loc) : Nat := Config.orderKey key x.1
  let sorted := xs.foldl (fun acc x => (acc.takeWhile fun y => decide (order y ≤ order x)) ++ x :: (acc.dropWhile fun y => decide (order y ≤ order x))) []
  sorted.foldl (fun (p : State × List (Nat × Nat)) (x : Nat × Loc) =>
    let s := p.1.readsHome k x.1 x.2 n
    let old := s.atomRead k x.2 n
    match f x.1 old with
    | none => (s.failDrop k x.2, (x.1, old) :: p.2)
    | some v => (s.atomWrite k x.1 x.2 (leBytes n v), (x.1, old) :: p.2)) (s, [])
/-- The lines under BCAST that the threads would write (a failing CAS writes nothing, R207). -/
def State.rmwDirty (s : State) (locs : List (Nat × Loc)) (f : Nat → Nat → Option Nat) (olds : List (Nat × Nat)) : List Nat :=
  ((locs.filter fun x => olds.any fun o => o.1 == x.1 && (f o.1 o.2).isSome) |> fun ys => deckLines (ys.map (·.2))).dedup.filter fun l => (s.dirOf l).bcast

/-- The effect of a read-modify-write of n bytes whose old value goes to the registers from vt upward. -/
def State.rmwEffect (s : State) (i : Instr) (k : Crew) (act : Lanes) (acq rel : Bool) (n : Nat) (t : VCode) (locs : List (Nat × Loc))
    (f : Nat → Nat → Option Nat) : State :=
  let lines := (deckLines (locs.map (·.2))).dedup
  let bcast := if lines.all fun l => !(s.dirOf l).bcast then [] else s.rmwDirty locs f (s.rmwAll k n locs f).2
  if s.rmwWaits k rel locs then (let x := s.impure k act; x.1.setCrew x.2)
  else if !bcast.isEmpty then (s.rmwClear k lines bcast).parks k act true lines
  else
    let s := if rel then (s.dropHold k.id).releases k false else s.dropHold k.id
    let x := s.impure k act
    let r := (x.1.setCrew x.2).rmwAll x.2 n locs f
    let t := r.1.finish i k.id act fun c => c.writeV s.fresh 0 act fun l _ =>
      let old := ((r.2.find? (·.1 == l)).map (·.2)).getD 0
      (List.range (n / 4)).map fun j => (k.vnum .vd t + j, BitVec.ofNat 32 (old / 2 ^ (32 * j)))
    if acq then t.acquires k else t

def relOrder : Order → Bool | .relaxed => false | .acquire => false | .release => true | .acqrel => true
def acqOrder : Order → Bool | .relaxed => false | .acquire => true | .release => false | .acqrel => true

/-- The value of n bytes in a thread's registers from r upward. -/
def Crew.regNat (k : Crew) (l r n : Nat) : Nat := leNat ((List.range (n / 4)).flatMap fun j => leBytes 4 ((k.thread l).val l (r + j)).toNat)

/-- ATOM (R204 to R206). -/
def execAtom (w : BitVec 1) (r : Order) (p : Aop) (b : BitVec 5) (o t : VCode) (s : State) : Out State :=
  issue (.atom w r p b o t) s fun s k act =>
    let n := 4 * (w.toNat + 1)
    s.memOp k act true n (k.ea b o) (fun x => s.check k .rmw n n (k.ea b o x)) fun s locs =>
      s.rmwEffect (.atom w r p b o t) k act (acqOrder r) (relOrder r) n t locs fun l old => some (atomOp p (8 * n) old (k.regNat l (k.vnum .vd t) n))

/-- CAS (R207): a failing one writes nothing. -/
def execCas (r : Order) (p : CasSize) (b : BitVec 5) (o t : VCode) (s : State) : Out State :=
  issue (.cas r p b o t) s fun s k act =>
    let n := 4 * casRegs p
    s.memOp k act true n (k.ea b o) (fun x => s.check k .rmw n n (k.ea b o x)) fun s locs =>
      s.rmwEffect (.cas r p b o t) k act (acqOrder r) (relOrder r) n t locs fun l old =>
        if old == k.regNat l (k.vnum .vd t) n then some (k.regNat l (k.vnum .vd t + casRegs p) n) else none

/-! ## PRES, MON, MWAIT (R208 to R212) -/

/-- PRES (R208): it never parks and raises no POISON. -/
def execPres (l : BitVec 4) (b : BitVec 5) (o t : VCode) (s : State) : Out State :=
  issue (.pres l b o t) s fun s k act =>
    let chk (x : Nat) := s.check k .pres 1 1 (k.ea b o x)
    let bad : List Mark := (laneList act).filterMap fun x => match chk x with | .ok _ => none | .error c => some ⟨x, c, k.ea b o x⟩
    if s.memHeld k then s
    else if !bad.isEmpty then s.takeTrap k bad 0
    else
      let s := s.learnAll k ((laneList act).map (k.ea b o))
      s.finish (.pres l b o t) k.id act fun c => c.writeV s.fresh l.toNat act fun x _ =>
        [(k.vnum .vd t, match chk x with
          | .ok (.deck off) => (if s.present (off / 128) then 1 else 0) + (if s.poisoned (off / 128) then 2 else 0)
          | .ok _ => 1
          | .error _ => 0)]

/-- The line a MON arms, with the virtual address of the line (R209). -/
def monLine (k : Crew) (va : Nat) : Loc → Option MonEntry
  | .deck off => some { space := .deck, line := off / 128, va := va / 128 * 128, triggered := false }
  | .squad off => some { space := .squad k.squad, line := off / 128, va := va / 128 * 128, triggered := false }
  | .skm off => some { space := .skm, line := off / 128, va := va / 128 * 128, triggered := false }
  | .spill _ => none
/-- One line armed (R209). -/
def Crew.arm (k : Crew) (m : MonEntry) : Crew :=
  if k.mon.any fun e => e.space == m.space && e.line == m.line then k
  else if k.mon.length < 4 then { k with mon := k.mon ++ [m] }
  else { k with monOvf := true }

/-- MON (R209): the lines are armed before the word is read. -/
def execMon (l : BitVec 4) (b : BitVec 5) (o t : VCode) (s : State) : Out State :=
  issue (.mon l b o t) s fun s k act =>
    s.memOp k act false 4 (k.ea b o) (fun x => s.check k .mon 4 4 (k.ea b o x)) fun s locs =>
      let k' := (locs.filterMap fun x => monLine k (k.ea b o x.1) x.2).foldl (fun (c : Crew) m => c.arm m) k
      (if (s.shutLines k (k.ea b o) locs 4).isEmpty then s.setCrew k' else s).loadEffect (.mon l b o t) k act true l.toNat .w32 t (k.ea b o) locs

/-- The end of an MWAIT (R211): the reason code and an empty table. -/
def Crew.endMon (k : Crew) (d : Nat) (code : Word) : Crew := { k.setS d code with mon := [], monOvf := false }

/-- MWAIT (R211), a memory instruction for R104 and R179. -/
def execMwait (imm : BitVec 15) (d : SCode) (s : State) : Out State :=
  issue (.mwait imm d) s fun s k act =>
    let fin (code : Word) : State := s.done (.mwait imm d) (k.endMon d.toNat code) act
    if s.memHeld k then s
    else if k.mon.isEmpty then fin 2
    else if k.monOvf then fin 3
    else if k.mon.any (·.triggered) then fin 0
    else s.waits k (.mwait d.toNat (if imm == 0 then none else some ((s.cycles k.core).toNat + 16 * imm.toNat))) act

/-- MWAIT_WAKE: an entry has triggered (R211); it is no acquire. -/
def execMwaitWake (crew : Nat) (s : State) : Out State :=
  .next <|
    match s.crew? crew with
    | none => s
    | some c =>
      match c.wait with
      | some (.mwait d _) => if c.mon.any (·.triggered) then s.setCrew (c.endMon d 0).wake else s
      | _ => s

/-- MWAIT_TIMEOUT: 16 x imm cycles have passed (R211). -/
def execMwaitTimeout (crew : Nat) (s : State) : Out State :=
  .next <|
    match s.crew? crew with
    | none => s
    | some c =>
      match c.wait with
      | some (.mwait d (some t)) =>
        if decide (t ≤ (s.cycles c.core).toNat) && !c.mon.any (·.triggered) then s.setCrew (c.endMon d 1).wake else s
      | _ => s

end Sys2Proof.Machine
end

