-- ==== Sys2Proof/Machine/Matrix.lean ====
section
/-! DEFINITION. Matrix instructions (spec/10_matrix.md R270 to R289). -/

namespace Sys2Proof.Machine

/-- TANK_OWNED for every thread of ACTIVE, with TANK_INFO (R289, R374). -/
def State.trapTank (s : State) (k : Crew) (t : BitVec 3) (act : Lanes) : State := s.trapAll { k with tankInfo := s.tankInfoOf k t } .tankOwned act

/-- A tank instruction on a tile: TANK_OWNED on a foreign slot; it waits for the operations issued on it (R276, R289). -/
def State.tankOp (s : State) (k : Crew) (t : BitVec 3) (act : Lanes) (body : Tile → State) : State :=
  if s.foreign k (k.tileSlot t) then s.trapTank k t act
  else if s.tileBusy k.core (k.tileSlot t) then s
  else body { s.tileOf k t with tag := some (s.tagOf k) }

/-! ## CVSET and the signatures (R272 to R280) -/

/-- CVSET with a mask (R279): a pending operation issues first; if that traps, CVSET has no effect. -/
def State.cvset (s : State) (i : Instr) (k : Crew) (act : Lanes) (n : Nat) (mask : BitVec 8) : State :=
  let s := if (k.cvN n).pend then s.issueConv k.id n else s
  match s.crew? k.id with
  | none => s
  | some c =>
    if c.ended || c.inh != k.inh then s
    else (s.done i (c.setCv n { c.cvN n with decl := mask, signed := 0 }) act).settle k.id

def execCvset (a : SCode) (c : BitVec 4) (s : State) : Out State :=
  issue (.cvset a c) s fun s k act => s.cvset (.cvset a c) k act c.toNat ((k.sc a.toNat).extractLsb' 0 8)
def execCvsetLive (c : BitVec 4) (s : State) : Out State :=
  issue (.cvsetLive c) s fun s k act => s.cvset (.cvsetLive c) k act c.toNat k.liveFours
def execCvsetImm (m : BitVec 8) (c : BitVec 4) (s : State) : Out State :=
  issue (.cvsetImm m c) s fun s k act => s.cvset (.cvsetImm m c) k act c.toNat m

/-- The element pairs MMA and MMR admit (R270). -/
def pairLegal (resid : Bool) (a b : DWord) : Bool :=
  match slotElem a, slotElem b with
  | .flt f, .flt g => !resid && ((f.width == 16 && g.width == 16) || (f.width == 8 && g.width == 8))
  | .int v, .int w => resid && v == w && (v == 8 || v == 4)
  | _, _ => false

/-- OPWORD of an instruction: [16:11] and [27:24] cleared (R271). -/
def opWord (i : Instr) : Word := BitVec.ofNat 32 (encodeNat i) &&& 0xF0FE07FF#32

/-- The threads of a set that sign a convergence register (R272). -/
def Crew.signers (k : Crew) (c : BitVec 4) (act : Lanes) : Lanes :=
  let v := k.cvN c.toNat
  let decl := if v.decl == 0 then k.liveFours else v.decl
  laneSet fun l => act.getLsbD l && !v.signed.getLsbD l && decl.getLsbD (l / 4)

/-- A tile of the allotment that holds, or will hold, the given kind (R267); the kind of another context's tile is not looked at (R289). -/
def State.holds (s : State) (k : Crew) (t : BitVec 3) (kind : TileKind) : Bool :=
  decide (t.toNat < k.tileSlots.length) && !s.foreign k (k.tileSlot t) && s.kindAfter k.core (k.tileSlot t) == kind

/-- The checks of R270, R272 and R281 that raise ILLEGAL at a signature. -/
def State.signIllegal (s : State) (i : Instr) (k : Crew) (resid isSet : Bool) (c : BitVec 4) (fs t : BitVec 3) : Bool :=
  let v := k.cvN c.toNat
  k.signers c k.active != 0 &&
    (!pairLegal resid (s.slot k fs) (s.slot k (fs + 1)) || (v.pend && opWord i != v.opword) || (!isSet && s.holds k t (if resid then .f32 else .res)))

/-- A signature of MMA or MMR (R270 to R274, R289). -/
def State.sign (s : State) (i : Instr) (k : Crew) (act : Lanes) (c : BitVec 4) (b a t : BitVec 3) : State :=
  let v := k.cvN c.toNat
  let decl := if v.decl == 0 then k.liveFours else v.decl
  let waits := laneSet fun l => act.getLsbD l && v.signed.getLsbD l
  let on := k.signers c act
  let go := laneSet fun l => act.getLsbD l && !v.signed.getLsbD l
  if on == 0 then s.done i (if waits == act then k else k.setCv c.toNat { v with decl := decl }) go
  else if s.foreign k (k.tileSlot t) then s.trapTank k t act
  else
    let regs (base l : Nat) : List Word := (List.range 8).map fun j => (k.thread l).val l (base + j)
    let sg (l : Nat) : Signature :=
      { lane := l, at_ := (k.thread l).pcv, a := 8 * a.toNat, b := 8 * b.toNat, wa := regs (8 * a.toNat) l, wb := regs (8 * b.toNat) l }
    let sigs := (laneList on).foldl (fun (acc : List Signature) l => sg l :: acc) v.sigs
    let v' : Cv := { signed := v.signed ||| on, decl := decl, pend := true, opword := opWord i, sigs := sigs }
    (s.done i (k.setCv c.toNat v') go).settle k.id

def execMma (c : BitVec 4) (fs b a t : BitVec 3) (s : State) : Out State :=
  issueLegal (fun s k => s.signIllegal (.mma c fs b a t) k false false c fs t) (.mma c fs b a t) s fun s k act =>
    s.sign (.mma c fs b a t) k act c b a t
def execMmaSet (c : BitVec 4) (fs b a t : BitVec 3) (s : State) : Out State :=
  issueLegal (fun s k => s.signIllegal (.mmaSet c fs b a t) k false true c fs t) (.mmaSet c fs b a t) s fun s k act =>
    s.sign (.mmaSet c fs b a t) k act c b a t
def execMmr (c : BitVec 4) (fs b a t : BitVec 3) (s : State) : Out State :=
  issueLegal (fun s k => s.signIllegal (.mmr c fs b a t) k true false c fs t) (.mmr c fs b a t) s fun s k act =>
    s.sign (.mmr c fs b a t) k act c b a t
def execMmrSet (c : BitVec 4) (fs b a t : BitVec 3) (s : State) : Out State :=
  issueLegal (fun s k => s.signIllegal (.mmrSet c fs b a t) k true true c fs t) (.mmrSet c fs b a t) s fun s k act =>
    s.sign (.mmrSet c fs b a t) k act c b a t

/-- MATRIX_OPERATION_COMPLETE: the oldest operation issued on a core takes effect (R276, R280, R281). -/
def execMatrixOperationComplete (core : Nat) (s : State) : Out State :=
  .next <|
    match s.matops.find? (·.core == core) with
    | none => s
    | some o => ({ s with matops := s.matops.erase o } : State).matEffect o

/-! ## MZERO, MEPI, MOVF (R283, R284, R288) -/

/-- MZERO (R283). -/
def execMzero (t : BitVec 3) (s : State) : Out State :=
  issue (.mzero t) s fun s k act =>
    s.tankOp k t act fun x => (s.setTile (Tile.zero x.core x.slot x.tag)).done (.mzero t) k act

/-- The elements of a thread: C[t/2][8 (t mod 2) + c] (R284). -/
def laneElem (l c : Nat) : Nat := 16 * (l / 2) + 8 * (l % 2) + c

/-- Elements of width w packed into 32-bit words, low first (R268). -/
def packElems (w : Nat) (es : List Word) : List Word :=
  let n := es.foldr (fun (e : Word) acc => acc * 2 ^ w + e.toNat % 2 ^ w) 0
  (List.range (es.length * w / 32)).map fun j => BitVec.ofNat 32 (n / 2 ^ (32 * j))

/-- MEPI (R284). -/
def execMepi (l : BitVec 4) (fs d t : BitVec 3) (s : State) : Out State :=
  issue (.mepi l fs d t) s fun s k act =>
    s.tankOp k t act fun x =>
      let g := s.slot k fs
      let epi (n : Nat) := (List.range 8).map fun c => x.epi g (laneElem n c)
      let x' := x.countOvf ((laneList act).map fun n => ((epi n).map (·.2)).sum).sum
      (s.setTile x').done (.mepi l fs d t) (k.writeV s.fresh l.toNat act fun n _ =>
        (packElems (slotElem g).width ((epi n).map (·.1))).zipIdx.map fun w => (8 * d.toNat + w.2, w.1)) act

/-- The 32-bit value movf.get gives for an element, and whether it counts in OVF (R288). -/
def Tile.movf (x : Tile) (j : Nat) : Word × Nat :=
  match x.kind with
  | .empty => (0, 0)
  | .f32 => (lo32 (x.elem j), 0)
  | .res => let z := resValue (x.elem j); (BitVec.ofInt 32 z.1, if z.2 then 1 else 0)

/-- MOVF.get (R288). -/
def execMovfGet (l : BitVec 4) (t : BitVec 3) (d : VCode) (s : State) : Out State :=
  issue (.movfGet l t d) s fun s k act =>
    s.tankOp k t act fun x =>
      let x' := x.countOvf ((laneList act).map fun n => ((List.range 8).map fun c => (x.movf (laneElem n c)).2).sum).sum
      (s.setTile x').done (.movfGet l t d) (k.writeV s.fresh l.toNat act fun n _ =>
        (List.range 8).map fun c => (k.vnum .vd d + c, (x.movf (laneElem n c)).1)) act

/-- The elements of ACTIVE threads replaced from their registers (R288). -/
def Tile.put (x : Tile) (k : Crew) (act : Lanes) (r : Nat) (kind : TileKind) (f : Word → DWord) : Tile :=
  { x with
    elems := x.elems.mapIdx fun j e =>
      let l := 2 * (j / 16) + j % 16 / 8
      if act.getLsbD l then f ((k.thread l).val l (r + j % 8)) else e
    kind := kind }

/-- MOVF.put.f32 (R267, R288). -/
def execMovfPutF32 (l : BitVec 4) (t : BitVec 3) (a : VCode) (s : State) : Out State :=
  issueLegal (fun s k => s.holds k t .res) (.movfPutF32 l t a) s fun s k act =>
    s.tankOp k t act fun x =>
      (s.setTile (x.put k act (k.vnum .va a) .f32 fun w => w.zeroExtend 64)).done (.movfPutF32 l t a) k act

/-- MOVF.put.i32 (R267, R288). -/
def execMovfPutI32 (l : BitVec 4) (t : BitVec 3) (a : VCode) (s : State) : Out State :=
  issueLegal (fun s k => s.holds k t .f32) (.movfPutI32 l t a) s fun s k act =>
    s.tankOp k t act fun x =>
      (s.setTile (x.put k act (k.vnum .va a) .res fun w => pair 0 w)).done (.movfPutI32 l t a) k act

/-! ## MST and MLD (R285 to R287) -/

/-- Row i of a tile access: EA_i, and the trailer at 16 (R285). -/
def Crew.rowEa (k : Crew) (b : BitVec 5) (sp : BitVec 6) (i : Nat) : Nat := (k.pr b.toNat + BitVec.ofNat 64 i * k.pr sp.toNat).toNat
/-- The aligned pieces of an access in order: address and bytes; rows of r bytes in pieces of min(16, r), and the trailer. -/
def Crew.pieces (k : Crew) (b : BitVec 5) (sp : BitVec 6) (r : Nat) (trailer : Bool) : List (Nat × Nat) :=
  ((List.range 16).flatMap fun i => (List.range (r / min 16 r)).map fun j => ((k.rowEa b sp i + j * min 16 r) % 2 ^ 64, min 16 r))
    ++ (if trailer then [(k.rowEa b sp 16, 4)] else [])

/-- The first byte of an access that a check refuses, with its cause (R286). -/
def State.firstBad (s : State) (k : Crew) (a : Acc) (ps : List (Nat × Nat)) : Option (Cause × Nat) :=
  match ps.find? fun p => match s.check k a 1 p.2 p.1 with | .ok _ => false | .error _ => true with
  | none => none
  | some p =>
    match ((List.range p.2).map fun j => p.1 + j).find? fun e => match s.check k a 1 1 e with | .ok _ => false | .error _ => true with
    | none => none
    | some e => match s.check k a 1 1 e with | .ok _ => none | .error c => some (c, e)

/-- Lines that a load of a crew must read at home while home can not yet handle that: all but those held at EXACT (R247, R252, R253). -/
def State.shutAt (s : State) (k : Crew) (a : Acc) (locs : List (Loc × Nat)) : List Nat :=
  if a.writes then []
  else ((deckLines (locs.map (·.1))).filter fun l => !((s.copyOf k.core l).any (·.fmt == .exact)) && !s.lineOpen k.core k.id l).dedup
/-- What a crew learns as it loads checked locations as a whole (R220, R252). -/
def State.readsAll (s : State) (k : Crew) (locs : List (Loc × Nat)) : State := locs.foldl (fun (s : State) y => s.reads .exact k 32 y.1 y.2) s

/-- An MLD is a load of every line it reads: the core fetches or upgrades its copy at the asked format (R247). The bytes are read exactly, as R255 gives
for loads of other sizes than 32 and 128 bits (DESIGN CHOICE, log 80). -/
def State.fetchTile (s : State) (k : Crew) (xs : List ((Nat × Nat) × (Loc × Nat))) : State :=
  xs.foldl (fun (s : State) x => match x.2.1 with
    | .deck off => s.ensureFor k (s.asked k x.1.1) x.1.1 off 4
    | .squad _ => s
    | .spill _ => s
    | .skm _ => s) s

/-- The checks, parking and POISON of a tile's memory access, then its effect on the checked locations (R196, R286, R287). A load of a line that
the core does not hold waits while home can not handle it (R252, R253). -/
def State.tileAccess (s : State) (k : Crew) (act : Lanes) (a : Acc) (b : BitVec 5) (sp : BitVec 6) (r : Nat) (trailer : Bool)
    (body : State → List (Loc × Nat) → State) : State :=
  let al := min 16 r
  let ps := k.pieces b sp r trailer
  if s.memHeld k then s
  else if (k.pr b.toNat).toNat % al != 0 then s.trapAt k .misalign act (k.rowEa b sp 0)
  else if (k.pr sp.toNat).toNat % al != 0 then s.trapAt k .misalign act (k.rowEa b sp 1)
  else
    match s.firstBad k a ps with
    | some (c, e) => s.trapAt k c act e
    | none =>
      let locs : List (Loc × Nat) := ps.filterMap fun p => match s.check k a 1 p.2 p.1 with | .ok x => some (x, p.2) | .error _ => none
      let absent := s.absentLines (locs.map (·.1))
      if !absent.isEmpty then s.parks k act a.writes absent.dedup
      else
        match (ps.zip locs).find? fun x => s.poisonAt k x.2.1 with
        | some x => s.trapAt k .poison act x.1.1
        | none =>
          let shut := s.shutAt k a locs
          if !shut.isEmpty then s.parks k act false shut
          else
            let s := s.learnAll k (ps.map (·.1))
            body (if a.writes then s else s.fetchTile k (ps.zip locs)) locs

/-- The trailer's flags above the count (R285). -/
def mstFlags (x : Tile) (raw : Bool) (slot : Nat) : Nat :=
  (if x.kind == .res then 2 ^ 16 else 0) + (if raw then 2 ^ 17 else 0) + (if x.ovf == 0xFFFF then 2 ^ 18 else 0)
    + (if x.kind == .empty then 2 ^ 19 else 0) + (if x.lost then 2 ^ 20 else 0) + slot * 2 ^ 24

/-- Rows of elements of width w, then the trailer, written at checked locations; the tile keeps its OVF (R285, R286). -/
def State.mst (s : State) (i : Instr) (k : Crew) (act : Lanes) (b : BitVec 5) (sp : BitVec 6) (x : Tile) (w : Nat) (raw : Bool)
    (slot : Nat) (es : List Nat) : State :=
  s.tileAccess k act .store b sp (2 * w) true fun s locs =>
    let rows := (List.range 16).flatMap fun n =>
      leBytes (2 * w) (((es.drop (16 * n)).take 16).foldr (fun (e : Nat) acc => acc * 2 ^ w + e % 2 ^ w) 0)
    let bs := rows ++ leBytes 4 (x.ovf.toNat + mstFlags x raw slot)
    let key := s.fresh
    let x := (s.setTile x).impure k act
    let s := x.1.done i x.2 act
    (locs.foldl (fun (p : State × List Byte) (y : Loc × Nat) => (p.1.locWrite k 32 y.1 (p.2.take y.2) [] false key, p.2.drop y.2)) (s, bs)).1

/-- MST.conv (R285). -/
def execMstConv (b : BitVec 5) (sp : BitVec 6) (f t : BitVec 3) (s : State) : Out State :=
  issue (.mstConv b sp f t) s fun s k act =>
    s.tankOp k t act fun x =>
      let es := (List.range 256).map fun j => x.epi (s.slot k f) j
      s.mst (.mstConv b sp f t) k act b sp (x.countOvf (es.map (·.2)).sum) (slotElem (s.slot k f)).width false f.toNat (es.map (·.1.toNat))

/-- MST.raw (R285). -/
def execMstRaw (b : BitVec 5) (sp : BitVec 6) (t : BitVec 3) (s : State) : Out State :=
  issue (.mstRaw b sp t) s fun s k act =>
    s.tankOp k t act fun x => s.mst (.mstRaw b sp t) k act b sp x (if x.kind == .res then 64 else 32) true 0xFF (x.elems.map (·.toNat))

/-- The elements of width w of sixteen rows read, and the tile they make (R287). -/
def State.mld (s : State) (i : Instr) (k : Crew) (act : Lanes) (b : BitVec 5) (sp : BitVec 6) (w : Nat) (make : List Nat → Tile) : State :=
  s.tileAccess k act .load b sp (2 * w) false fun s locs =>
    let s := s.readsAll k locs
    let byte (y : Loc) (j : Nat) : Byte := match y with
      | .deck off => BitVec.ofNat 8 (s.locRead k (.deck (off + j)) 1)
      | .squad off => BitVec.ofNat 8 (s.locRead k (.squad (off + j)) 1)
      | .spill off => BitVec.ofNat 8 (s.locRead k (.spill (off + j)) 1)
      | .skm off => BitVec.ofNat 8 (s.locRead k (.skm (off + j)) 1)
    let bs := locs.flatMap fun y => (List.range y.2).map (byte y.1)
    let es := (List.range 16).flatMap fun n =>
      let row := leNat ((bs.drop (2 * w * n)).take (2 * w))
      (List.range 16).map fun j => row / 2 ^ (w * j) % 2 ^ w
    (s.setTile (make es)).finish i k.id act id

/-- A tile just loaded: OVF and LOST are 0 (R287). -/
def Tile.loaded (x : Tile) (kind : TileKind) (depth : BitVec 4) (es : List DWord) : Tile :=
  { x with elems := es, kind := kind, depth := depth, ovf := 0, lost := false }

/-- MLD.conv (R287). -/
def execMldConv (b : BitVec 5) (sp : BitVec 6) (f t : BitVec 3) (s : State) : Out State :=
  issue (.mldConv b sp f t) s fun s k act =>
    s.tankOp k t act fun x => s.mld (.mldConv b sp f t) k act b sp (slotElem (s.slot k f)).width fun es =>
      x.loaded .f32 0 (es.map fun e => (widen (s.slot k f) (BitVec.ofNat 32 e)).zeroExtend 64)

/-- MLD.raw.f32 (R287). -/
def execMldRawF32 (b : BitVec 5) (sp : BitVec 6) (t : BitVec 3) (s : State) : Out State :=
  issue (.mldRawF32 b sp t) s fun s k act =>
    s.tankOp k t act fun x => s.mld (.mldRawF32 b sp t) k act b sp 32 fun es => x.loaded .f32 0 (es.map (BitVec.ofNat 64))

/-- MLD.raw.res (R157, R287). -/
def execMldRawRes (b : BitVec 5) (sp : BitVec 6) (t : BitVec 3) (s : State) : Out State :=
  issue (.mldRawRes b sp t) s fun s k act =>
    s.tankOp k t act fun x => s.mld (.mldRawRes b sp t) k act b sp 64 fun es =>
      x.loaded .res 8 (es.map fun e =>
        let w := BitVec.ofNat 32 e
        pair (resWord (r255 w) (r256 w) (r257 w)) (BitVec.ofNat 32 (e / 2 ^ 32)))

end Sys2Proof.Machine
end

