-- ==== Sys2Proof/Machine/Subscribe.lean ====
section
/-! DEFINITION. Subscriptions and what passes between cores and home slices (spec/09_subscribe.md R240 to R263). -/

namespace Sys2Proof.Machine

/-- A refused instruction's reply (R259). -/
def refuse64 (code : Nat) : DWord := BitVec.ofNat 64 (2 ^ 63 + code)

/-- Held lines of a core whose virtual line lies in a range of lines (R260, R261). -/
def State.heldIn (s : State) (core : Nat) (asid : BitVec 12) (first last : Nat) : List Copy :=
  s.copies.filter fun c => c.core == core && c.asid == asid && decide (first ≤ c.va / 128) && decide (c.va / 128 ≤ last)
def State.dropHeld (s : State) (cs : List Copy) : State := cs.foldl (fun (s : State) c => s.evict c.core c.line) s

/-- Occupied entries of a core's table (R242). -/
def State.subEntries (s : State) (core : Nat) : Nat :=
  ((s.squads.filter fun q => q.core == core && q.swapped.isEmpty && q.out.isNone && !q.ended).map fun q => (q.subs.filter (·.valid)).length).sum

/-- A reply written at the instruction's completion (R259). -/
def State.doneReply (s : State) (i : Instr) (k : Crew) (act : Lanes) (r : Reply) (d : DWord) : State := s.done i (k.reply r d) act

/-- A squad with one slot changed. -/
def Squad.setSub (q : Squad) (j : Nat) (b : SubSlot) : Squad := { q with subs := q.subs.set j b }

/-- SUBS (R260). -/
def execSubs (r : Reply) (b a : BitVec 6) (m : BitVec 1) (f : SubFmt) (s : State) : Out State :=
  issue (.subs r b a m f) s fun s k act =>
    let va := (k.pr a.toNat).toNat
    let len := (k.pr b.toNat).toNat
    match s.check k .load 1 1 va with
    | .error c => s.trapAt k c act va
    | .ok _ =>
      let first := va / 128
      let last := (va + len - 1) / 128
      match s.squad? k.squad with
      | none => s
      | some q =>
        if len == 0 || decide (65536 < last - first + 1) || decide (2 ^ 47 < va + len) then
          s.doneReply (.subs r b a m f) k act r (refuse64 2)
        else
          match (List.range 16).find? fun j => !((q.subs.getD j SubSlot.empty).valid) with
          | none => s.doneReply (.subs r b a m f) k act r (refuse64 1)
          | some j =>
            if Config.subEntries ≤ s.subEntries k.core then s.doneReply (.subs r b a m f) k act r (refuse64 1)
            else
              let seq := (q.subs.getD j SubSlot.empty).seq + 1
              let slot : SubSlot := { valid := true, fmt := f, upd := m == 1, count := last - first, base := first, seq := seq }
              ((s.setSquad (q.setSub j slot)).dropHeld (s.heldIn k.core k.asid first last)).doneReply (.subs r b a m f) k act r
                (BitVec.ofNat 64 (j + 16 * seq.toNat))

/-- The slot a handle names when it is current (R258). A register value with a bit of [63:20] set is no current handle; SUBQ.slot takes its slot
number from the low bits alone (DESIGN CHOICE, log 73). -/
def Squad.current (q : Squad) (h : DWord) : Option (Nat × SubSlot) :=
  let j := h.toNat % 16
  let b := q.subs.getD j SubSlot.empty
  if b.valid && b.seq.toNat == h.toNat / 16 % 65536 && h.toNat < 2 ^ 20 then some (j, b) else none

/-- UNSUB (R261). -/
def execUnsub (r : Reply) (a : BitVec 6) (s : State) : Out State :=
  issue (.unsub r a) s fun s k act =>
    match s.squad? k.squad with
    | none => s
    | some q =>
      match q.current (k.pr a.toNat) with
      | none => s.doneReply (.unsub r a) k act r (refuse64 3)
      | some (j, b) =>
        let held := s.heldIn k.core k.asid b.base (b.base + b.count)
        ((s.setSquad (q.setSub j { SubSlot.empty with seq := b.seq })).dropHeld held).doneReply (.unsub r a) k act r
          (BitVec.ofNat 64 held.length)

/-- SUBUP (R262); while home can not handle an upgrade it is issued again (R252, R253). -/
def execSubup (r : Reply) (a : BitVec 6) (f : SubFmt) (s : State) : Out State :=
  issue (.subup r a f) s fun s k act =>
    match s.squad? k.squad with
    | none => s
    | some q =>
      match q.current (k.pr a.toNat) with
      | none => s.doneReply (.subup r a f) k act r (refuse64 3)
      | some (j, b) =>
        if subRank f ≤ subRank b.fmt then s.doneReply (.subup r a f) k act r (refuse64 4)
        else
          let low := (s.heldIn k.core k.asid b.base (b.base + b.count)).filter fun c => decide (subRank c.fmt < subRank f)
          if low.any fun c => !s.lineOpen k.core k.id c.line then s
          else
          let s := s.setSquad (q.setSub j { b with fmt := f })
          (low.foldl (fun (s : State) c => s.fetchLine c.core c.line c.va c.asid f (s.asked k c.va).2) s).finish (.subup r a f) k.id act fun c =>
            c.reply r (BitVec.ofNat 64 low.length)

def fmtCode : SubFmt → Nat | .exact => 0 | .bf16 => 1 | .f16 => 2 | .e4m3 => 3 | .e5m2 => 4
def bit (b : Bool) (n : Nat) : Nat := if b then 2 ^ n else 0

/-- The word SUBQ.line gives for a deck line (R263). -/
def State.lineWord (s : State) (k : Crew) (va off : Nat) : DWord :=
  let d := s.dirOf (off / 128)
  let g := s.asked k va
  let cov := ((s.squad? k.squad).map fun q => q.subs.any (·.covers va)).getD false
  let h := match s.copyOf k.core (off / 128) with
    | none => 0
    | some c => fmtCode c.fmt + 8 + bit c.upd 8
  BitVec.ofNat 64 (h + fmtCode g.1 * 16 + bit cov 7 + bit d.bcast 9 + d.ptrs.length * 2 ^ 10 + d.watch.toNat * 2 ^ 14
    + bit d.absentBy.isEmpty 18 + bit d.poison 19)

/-- SUBQ.line (R263): home answers behind what the core has sent to the slice, and the core hears it behind what the slice has sent (R252). -/
def execSubqLine (r : Reply) (a : BitVec 6) (s : State) : Out State :=
  issue (.subqLine r a) s fun s k act =>
    let va := (k.pr a.toNat).toNat
    match s.check k .pres 1 1 va with
    | .error c => s.trapAt k c act va
    | .ok (.deck off) =>
      if s.sliceWaits k.core off then s
      else
        let s := (s.takeNotices k.core off).deliver k.core off
        s.finish (.subqLine r a) k.id act fun c => c.reply r (s.lineWord k va off)
    | .ok _ => s.doneReply (.subqLine r a) k act r 0x40000

/-- SUBQ.slot (R263). -/
def execSubqSlot (r : Reply) (a : BitVec 6) (s : State) : Out State :=
  issue (.subqSlot r a) s fun s k act =>
    let h := k.pr a.toNat
    match s.squad? k.squad with
    | none => s
    | some q =>
      let b := q.subs.getD (h.toNat % 16) SubSlot.empty
      s.doneReply (.subqSlot r a) k act r
        (if b.valid then BitVec.ofNat 64 (1 + fmtCode b.fmt * 2 + bit b.upd 4 + b.count * 2 ^ 6 + b.base * 2 ^ 22) else 0)

/-- SUBQ.cnt (R263). -/
def execSubqCnt (r : Reply) (s : State) : Out State :=
  issue (.subqCnt r) s fun s k act => s.doneReply (.subqCnt r) k act r ((s.count k.core).upd ++ (s.count k.core).inval)

/-! ## Messages (R247 to R253) -/

/-- Where a core has a deck line mapped, by its TLB. -/
def State.mappedAt (s : State) (core line : Nat) : Option (Nat × BitVec 12) :=
  (s.tlb.find? fun e => e.place == .core core && e.leaf.tgt == 0 && decide (e.leaf.frame ≤ line * 128)
    && decide (line * 128 < e.leaf.frame + 2 ^ e.leaf.bits)).map fun e => (e.page * 2 ^ e.leaf.bits + (line * 128 - e.leaf.frame), e.asid)

/-- LINE_FETCH: the home slice handles a fetch or an upgrade of a core for a line it has mapped (R247). -/
def execLineFetch (core line : Nat) (fmt : SubFmt) (upd : Bool) (s : State) : Out State :=
  .next <|
    if !s.present line || s.poisoned line || (s.dirOf line).busy || s.sliceWaits core (line * 128) then s
    else
      match s.copyOf core line with
      | some c => if subRank c.fmt < subRank fmt then s.fetchLine core line c.va c.asid fmt upd else s
      | none =>
        match s.mappedAt core line with
        | none => s
        | some (va, asid) => s.fetchLine core line va asid fmt upd

/-- Whether home may apply a write next (R195, R252): it handles nothing else for the line; no earlier write of its core waits for the same slice but
lanes of the same instruction that touch other bytes; and every write it is a release of is globally performed (R219, R220). -/
def State.mayApply (s : State) (w : Write) : Bool :=
  let earlier := s.writes.takeWhile (·.id != w.id)
  !(s.dirOf (w.off / 128)).busy && !(earlier.any fun e => e.core == w.core && !e.applied && homeSlice e.off == homeSlice w.off
      && !(e.instr == w.instr && (decide (e.off + e.bytes.length ≤ w.off) || decide (w.off + w.bytes.length ≤ e.off))))
    && s.orderedDone w.after

/-- HOME_WRITE_APPLY (R249, R253). -/
def execHomeWriteApply (k : Nat) (s : State) : Out State :=
  .next <|
    match s.writes.find? fun w => w.id == k && !w.applied with
    | none => s
    | some w =>
      if !s.mayApply w then s
      else if (s.dirOf (w.off / 128)).bcast then
        ({ s with writes := s.writes.map fun (x : Write) => if x.id == k then { x with bcast := true } else x } : State).bcastClear
          (w.off / 128) w.core (some k)
      else s.applyWrite w

/-- The first message on its way from a line's slice to a core (R252). -/
def State.firstMsg (s : State) (m : Msg) : Bool :=
  match s.msgs.find? fun x => x.core == m.core && homeSlice (x.line * 128) == homeSlice (m.line * 128) with
  | none => false
  | some x => x.id == m.id

/-- INVAL: the core drops its copy and acknowledges (R249, R251, R253, R263). -/
def execInval (k : Nat) (s : State) : Out State :=
  .next <|
    match s.msgs.find? fun m => m.id == k && !m.upd with
    | none => s
    | some m => if s.firstMsg m then s.takeMsg m else s

/-- UPD: the core's copy takes the new words and acknowledges (R249, R256, R263). -/
def execUpd (k : Nat) (s : State) : Out State :=
  .next <|
    match s.msgs.find? fun m => m.id == k && m.upd with
    | none => s
    | some m => if s.firstMsg m then s.takeMsg m else s

/-- SHARER_ACKNOWLEDGEMENT (R249). -/
def execSharerAcknowledgement (k : Nat) (s : State) : Out State :=
  .next <|
    match s.acks.find? (·.id == k) with
    | none => s
    | some a => ({ s with acks := s.acks.filter (·.id != k) } : State).countAck a.ackTo

/-- EVICTION_NOTICE: the notice of a copy that a core has dropped reaches home, behind what the core has sent to the slice before (R248, R252). -/
def execEvictionNotice (core line : Nat) (s : State) : Out State :=
  .next <|
    match s.notices.find? fun n => n.core == core && n.line == line with
    | none => s
    | some n => if s.sliceWaits core (line * 128) then s else s.takeNotice n

end Sys2Proof.Machine
end

