-- ==== Sys2Proof/Machine/Control.lean ====
section
/-! DEFINITION. Control flow (spec/03_control.md R73 to R85). -/

namespace Sys2Proof.Machine

/-- A + 2 x a signed displacement, modulo 2^48 (R64, R74). -/
def relPc (a : Nat) (d : Int) : Nat := (((a : Int) + 2 * d) % 2 ^ 48).toNat

/-- The end of a control instruction (R73): unmarked threads of the set stand at their targets; marked ones trap at A. The crew c carries
the return stacks as the instruction leaves them. -/
def State.control (s : State) (i : Instr) (k c : Crew) (act : Lanes) (tgt : Nat → Nat) (ms : List Mark) : State :=
  let move (d : Crew) : Crew := d.mapT fun l t =>
    if act.getLsbD l && !ms.any (·.lane == l) then t.setPc (tgt l) else t
  if ms.isEmpty then s.setCrew (move (c.advance i act (s.cycles k.core).toNat)) else s.takeTrapFrom (move c) k.pc ms 0

/-- BRA (R74). -/
def execBra (d : BitVec 24) (s : State) : Out State :=
  issue (.bra d) s fun s k act => s.control (.bra d) k k act (fun _ => relPc k.pc d.toInt) []

/-- BRP: the threads whose predicate, negated on n, is 1 (R74). -/
def execBrp (d : BitVec 17) (n : BitVec 1) (p : BitVec 6) (s : State) : Out State :=
  issue (.brp d n p) s fun s k act =>
    s.control (.brp d n p) k k act
      (fun l => if (k.thread l).p.getLsbD p.toNat != (n == 1) then relPc k.pc d.toInt else k.pc + 4) []

/-- BRS: the scalar is read once for the crew (R74). -/
def execBrs (d : BitVec 17) (n : BitVec 1) (sn : BitVec 6) (s : State) : Out State :=
  issue (.brs d n sn) s fun s k act =>
    s.control (.brs d n sn) k k act (fun _ => if (k.sc sn.toNat != 0) != (n == 1) then relPc k.pc d.toInt else k.pc + 4) []

/-- The 48-bit target of a thread in a vector pair (R75). -/
def Crew.target (k : Crew) (a l : Nat) : Nat :=
  (((k.thread l).val l (a + 1)).extractLsb' 0 16 ++ (k.thread l).val l a).toNat
/-- The threads of a set whose target is odd (R75). -/
def Crew.oddTargets (k : Crew) (a : Nat) (on : Lanes) : List Mark :=
  ((laneList on).filter fun l => k.target a l % 2 == 1).map fun l => ⟨l, .misalign, k.pc⟩

/-- JMPV (R75). -/
def execJmpv (g : Guard) (a : VCode) (s : State) : Out State :=
  issue (.jmpv g a) s fun s k act =>
    let on := k.guarded act g
    s.control (.jmpv g a) k k act (fun l => if on.getLsbD l then k.target (k.vnum .va a) l else k.pc + 4) (k.oddTargets (k.vnum .va a) on)

/-! ## The return stack (R76 to R79) -/

/-- S of R76. -/
def Crew.stackBytes (k : Crew) : Nat := k.spillLen / 256 * 256
/-- Where level j of a lane's spilled entries lies in the crew's spill bytes, and as an address (R76). -/
def Crew.levelOff (k : Crew) (j lane : Nat) : Nat := k.stackBytes + 8 * lane - 256 * j
def Crew.levelAddr (k : Crew) (j lane : Nat) : Nat := Config.spillBase + k.stackBytes + 8 * lane - 256 * j

/-- Whether a lane's spilled entry at level j lies on a poisoned line of the crew's spill storage (R79). -/
def Crew.levelBad (k : Crew) (j lane : Nat) : Bool := k.spillBad.contains (k.levelOff j lane / 128)

/-- PUSH (R75, R77, R79): the crew after it, or the mark of a spill write beyond the window or on a poisoned line. -/
def Crew.push (k : Crew) (l a : Nat) : Except Mark Crew :=
  let t := k.thread l
  let j := t.rsd.toNat - 15
  if 16 ≤ t.rsd.toNat && decide (k.stackBytes < 256 * j) then .error ⟨l, .prot, k.levelAddr j l⟩
  else if 16 ≤ t.rsd.toNat && k.levelBad j l then .error ⟨l, .poison, k.levelAddr j l⟩
  else
    let spill := if 16 ≤ t.rsd.toNat then k.spill.writeN (k.levelOff j l) (leBytes 8 (t.rs.getD 15 0).toNat) else k.spill
    .ok { k.mapT (fun n x => if n == l then { x with rs := (mkPc a :: x.rs).take 16, rsd := x.rsd + 1 } else x) with spill := spill }

/-- PUSH of the return address in every thread of a set, with the marks of those it fails for (R77, R79). -/
def Crew.pushAll (k : Crew) (on : Lanes) (a : Nat) : Crew × List Mark :=
  (laneList on).foldl (fun (x : Crew × List Mark) l =>
    match x.1.push l a with
    | .ok c => (c, x.2)
    | .error m => (x.1, x.2 ++ [m])) (k, [])

/-- CALL (R77). -/
def execCall (d : BitVec 24) (s : State) : Out State :=
  issue (.call d) s fun s k act =>
    let r := k.pushAll act (k.pc + 4)
    s.control (.call d) k r.1 act (fun _ => relPc k.pc d.toInt) r.2

/-- CALLV (R75, R77). -/
def execCallv (g : Guard) (a : VCode) (s : State) : Out State :=
  issue (.callv g a) s fun s k act =>
    let on := k.guarded act g
    let odd := k.oddTargets (k.vnum .va a) on
    let r := k.pushAll (laneSet fun l => on.getLsbD l && !odd.any (·.lane == l)) (k.pc + 4)
    s.control (.callv g a) k r.1 act (fun l => if on.getLsbD l then k.target (k.vnum .va a) l else k.pc + 4) (odd ++ r.2)

/-- RET of one thread (R78): the crew after it, or its mark. A refill beyond the window is PROT, one from a poisoned line POISON (R79). -/
def Crew.pop (k : Crew) (l : Nat) : Except Mark Crew :=
  let t := k.thread l
  let j := t.rsd.toNat - 16
  if t.rsd == 0 then .error ⟨l, .rstackEmpty, k.pc⟩
  else if 16 < t.rsd.toNat && decide (k.stackBytes < 256 * j) then .error ⟨l, .prot, k.levelAddr j l⟩
  else if 16 < t.rsd.toNat && k.levelBad j l then .error ⟨l, .poison, k.levelAddr j l⟩
  else
    let fill : List Pc := if 16 < t.rsd.toNat then [BitVec.ofNat 48 (leNat (k.spill.readN (k.levelOff j l) 8))] else []
    .ok (k.mapT fun n x => if n == l then { x with rs := x.rs.drop 1 ++ fill, rsd := x.rsd - 1 } else x)

/-- RET (R78): every thread of ACTIVE goes where its newest entry says. -/
def execRet (g : Guard) (s : State) : Out State :=
  issue (.ret g) s fun s k act =>
    let on := k.guarded act g
    let r := (laneList on).foldl (fun (x : Crew × List Mark) l =>
      match x.1.pop l with
      | .ok c => (c, x.2)
      | .error m => (x.1, x.2 ++ [m])) (k, [])
    s.control (.ret g) k r.1 act (fun l => if on.getLsbD l then ((k.thread l).rs.getD 0 0).toNat else k.pc + 4) r.2

/-- SWITCH (R81). -/
def execSwitch (d : BitVec 17) (v : VCode) (s : State) : Out State :=
  issue (.switch d v) s fun s k act =>
    let t := relPc k.pc d.toInt
    if t % 4 != 0 then s.trapAll k .misalign act
    else
      match s.fetch32 k t with
      | .error c => s.trapAll k c act
      | .ok h =>
        if 65536 ≤ h then s.trapAll k .illegal act
        else
          let entry (l : Nat) : Except Cause Nat :=
            let i := ((k.thread l).val l (k.vnum .vd v)).toNat
            if i < h then (s.fetch32 k ((t + 4 + 4 * i) % 2 ^ 48)).map fun e => relPc t (BitVec.ofNat 32 e).toInt else .ok (k.pc + 4)
          let ms := (laneList act).filterMap fun l => match entry l with | .ok _ => none | .error c => some ⟨l, c, k.pc⟩
          (s.learn k.core k.asid t).control (.switch d v) k k act (fun l => match entry l with | .ok a => a | .error _ => 0) ms

/-! ## REFUSE, EXIT, YIELD -/

/-- REFUSE: the threads wait at its address; it completes when every live thread waits there (R82). -/
def execRefuse (s : State) : Out State :=
  issue .refuse s fun s k act =>
    let c := (k.advance .refuse 0 (s.cycles k.core).toNat).mapT fun l t => if act.getLsbD l then { t with rwait := true } else t
    (s.setCrew c).settle k.id

/-- LIVE := 0 in the threads of a set; the others of ACTIVE advance (R84, R115). Their pending-table entries are freed (R350). -/
def State.exits (s : State) (i : Instr) (k : Crew) (act on : Lanes) : State :=
  let c := (k.advance i act (s.cycles k.core).toNat).mapT fun l t =>
    if on.getLsbD l then { t with live := false, rs := [], rsd := 0, inreg := none } else t
  let s := s.setCrew c
  let s : State := { s with pending := s.pending.filter fun p => !(p.crew == k.id && on.getLsbD p.lane) }
  s.settle k.id

/-- EXIT (R84). -/
def execExit (g : Guard) (s : State) : Out State :=
  issue (.exit g) s fun s k act => s.exits (.exit g) k act (k.guarded act g)

/-- YIELD (R83). -/
def execYield (g : Guard) (s : State) : Out State :=
  issue (.yield g) s fun s k act =>
    let on := k.guarded act g
    let c := (k.advance (.yield g) act (s.cycles k.core).toNat).mapT fun l t => if on.getLsbD l then { t with yex := true } else t
    (s.setCrew c).settle k.id

end Sys2Proof.Machine
end

