-- ==== Sys2Proof/Machine/Sched.lean ====
section
/-! DEFINITION. Shared operations of work creation and the scheduler (spec/04_work.md): placing and starting crews, checking and
accepting launches, halting and swapping, replies to crews wherever they are, the hub's counter adds. -/

namespace Sys2Proof.Machine

/-! ## Crews wherever they are -/

/-- A crew that is resident, swapped out or saved (R108, R392). -/
def State.anyCrew? (s : State) (id : Nat) : Option Crew :=
  match s.crew? id with
  | some c => some c
  | none => ((s.squads.flatMap (·.swapped)) ++ s.saved.map (·.crew)).find? (·.id == id)

/-- Bytes written into a save area; they lie in one 256-byte block of it. -/
def State.saveWrite (s : State) (x : SavedCrew) (o : Nat) (bs : List Byte) : State := s.agentWriteN (x.blocks.getD (o / 256) 0 + o % 256) bs

/-- A reply to a crew wherever it is; of a saved crew the pair in its area is written (R33, R294, R333). -/
def State.replyTo (s : State) (id : Nat) (r : Reply) (d : DWord) : State :=
  let up (c : Crew) : Crew := if c.id == id then c.reply r d else c
  let s1 : State := { s with
    crews := s.crews.map up
    squads := s.squads.map fun (q : Squad) => { q with swapped := q.swapped.map up }
    saved := s.saved.map fun (x : SavedCrew) => { x with crew := up x.crew } }
  match s.saved.find? (·.crew.id == id) with
  | none => s1
  | some x => if r == 31 then s1 else s1.saveWrite x (0x1A00 + 8 * r.toNat) (leBytes 8 d.toNat)

/-! ## Room (R22, R23, R88, R95, R265) -/

def State.onCore (s : State) (core : Nat) : List Crew := s.crews.filter (·.core == core)
/-- Crews of n vector registers that a partition can still take (R23). -/
def State.partRoom (s : State) (core part n : Nat) (extra : List (Nat × Nat)) : Nat :=
  let cs := (s.onCore core).filter fun c => c.part == part
  let more := (extra.filter (·.1 == part)).length
  min (16 - ((cs.filter fun c => c.slot < 64).length + more)) ((1024 - ((cs.map (·.n)).sum + n * more)) / n)
/-- The free crew slots of a core under an allotment. -/
def State.coreRoom (s : State) (core n : Nat) : Nat := ((List.range 4).map fun p => s.partRoom core p n []).sum
/-- Partition and slot for each of count crews, spread over the partitions (R88, log 16). -/
def State.placement (s : State) (core n : Nat) : Nat → List (Nat × Nat) → Option (List (Nat × Nat))
  | 0, acc => some acc
  | k + 1, acc =>
    let best := (List.range 4).foldl (fun b p => if s.partRoom core b n acc < s.partRoom core p n acc then p else b) 0
    if s.partRoom core best n acc == 0 then none
    else
      match ((List.range 16).map (· + 16 * best)).find? fun sl => !(s.onCore core).any (·.slot == sl) && !acc.any (·.2 == sl) with
      | none => none
      | some sl => s.placement core n k (acc ++ [(best, sl)])
/-- A squad has engine commands in flight. -/
def State.commanded (s : State) (sq : Nat) : Bool := s.cmds.any (·.squad == sq)
/-- Squad-memory bytes free on a core (R95); the region of an ended squad is kept for its commands (R301). -/
def State.memFree (s : State) (core : Nat) : Nat :=
  Config.squadMemBytes - ((s.squads.filter fun q =>
    q.core == core && (!q.ended || s.commanded q.id) && q.swapped.isEmpty && q.out.isNone).map (·.memLen)).sum
/-- Tile slots of a core that no resident crew holds (R265): untagged first, then the context's own, then others (log 12). -/
def State.freeTiles (s : State) (core : Nat) (tag : BitVec 12 × BitVec 42) : List Nat :=
  let free := (List.range Config.tankSlots).filter fun t => !(s.onCore core).any (·.tileSlots.contains t)
  let of (f : Option (BitVec 12 × BitVec 42) → Bool) := free.filter fun t => f (s.tile core t).tag
  of (· == none) ++ of (· == some tag) ++ of fun g => g != none && g != some tag
/-- The places a squad of a grid gets on a core, none when it does not fit (R95); a privileged context's single crew may take the
context of R373. -/
def State.fits (s : State) (g : Grid) (core count : Nat) : Option (List (Nat × Nat)) :=
  let tag := (g.asid, (s.ctx g.asid).key)
  if s.memFree core < g.squadMem || (s.freeTiles core tag).length < count * g.tiles then none
  else
    match s.placement core g.n count [] with
    | some ps => some ps
    | none =>
      if (s.ctx g.asid).priv && count == 1 && !(s.onCore core).any (·.slot == 80) then some [(0, 80)] else none

/-! ## Starting crews (R24, R25) -/

/-- The argument words of R24: the first 32 bytes of the block, or zeros. -/
def launchScalars (g : Grid) (x y z idx : Nat) : List Word :=
  [lo32 g.arg, up32 g.arg, BitVec.ofNat 32 x, BitVec.ofNat 32 y, BitVec.ofNat 32 z, BitVec.ofNat 32 idx, BitVec.ofNat 32 g.crewsPer
   , BitVec.ofNat 32 g.depth] ++ (List.range 8).map fun j => g.args.getD j 0

/-- A crew as it starts (R24). -/
def newCrew (g : Grid) (id core part slot sq idx : Nat) (tiles : List Nat) (entry : Pc) (scal : List Word) (cls : RoleClass) : Crew :=
  let th (l : Nat) : Thread :=
    { Thread.none with
      v := (List.range g.n).map fun r => if r == 0 then BitVec.ofNat 32 l else if r == 1 then BitVec.ofNat 32 (32 * idx + l) else 0
      pcv := entry
      live := true }
  { id := id, core := core, part := part, slot := slot, asid := g.asid, squad := sq, grid := g.handle, n := g.n, m := g.m
    tileSlots := tiles, threads := (List.range 32).map th, s := (List.range g.m).map fun j => scal.getD j 0
    x := List.replicate 4 0, cv := List.replicate 16 Cv.idle, q := List.replicate 6 [], rep := Rep.idle, mon := [], monOvf := false
    icnt := List.replicate 16 0, cid := 0, role := cls, raised := 0, age := 0, lastIssue := 0, passed := 0, cause := 0
    privSave := false, inh := false, trapMask := 0, trapInfo := 0, repSave := 0, repFixed := none, scr := List.replicate 4 0, tankInfo := 0
    spill := { seed := id, cells := [] }, spillLen := g.spill, spillBad := [], sb := [], wait := none, waitLanes := 0, waitc := [], held := 0
    haltReq := false, halted := false, loads := [], replay := [], bankOut := [], torn := [], haltCode := none, s5Start := scal.getD 5 0, pool := decide (64 ≤ slot && slot < 80), task := none
    task_idem := false, ended := false, tilesOut := [] }

/-- The CID of a crew (R356) from its squad's linear index, or a task's tile x, and s5 at crew start. -/
def crewId (sqIdx s5 : Nat) : Word := BitVec.ofNat 32 (sqIdx % 2 ^ 24 * 256 + s5 % 256)

/-- One crew placed and started; its tile slots are zeroed and tagged unless another context's tag stands on them (R24, R289). -/
def State.startCrew (s : State) (g : Grid) (core part slot sq idx : Nat) (entry : Pc) (scal : List Word) (cls : RoleClass)
    (cidBase : Nat) (task : Option (Nat × Nat)) (idem : Bool) : State :=
  let tag := (g.asid, (s.ctx g.asid).key)
  let tiles := (s.freeTiles core tag).take g.tiles
  let c : Crew := { newCrew g s.fresh core part slot sq idx tiles entry scal cls with
    cid := crewId cidBase (scal.getD 5 0).toNat, task := task, task_idem := idem, lastIssue := (s.cycles core).toNat }
  let s : State := tiles.foldl (fun (s : State) t =>
    if s.foreign c t then s else s.setTile (Tile.zero core t (some tag))) s
  { s.bump with crews := s.crews ++ [c] }

def Bar.idle : Bar := { isOpen := false, need := 0, arrived := 0, all := false }
def Timeline.reset : Timeline := { issued := 0, done := 0, fails := 0, window := [] }
/-- A squad as it starts (R89, R182, R235, R242, R296). -/
def newSquad (g : Grid) (id core idx : Nat) (task early : Bool) : Squad :=
  { id := id, core := core, grid := g.handle, asid := g.asid, index := idx, memLen := g.squadMem, mem := { seed := id, cells := [] }, bank := []
    bars := List.replicate 16 Bar.idle, tls := List.replicate 8 Timeline.reset, subs := List.replicate 16 SubSlot.empty, task := task
    ended := false, early := early, out := none, slotNo := none, swapped := [] }

/-- A squad of a grid starts on a core at given places (R24, R95). -/
def State.startSquad (s : State) (g : Grid) (core : Nat) (early : Bool) (places : List (Nat × Nat)) : State :=
  let q := newSquad g s.fresh core g.next false early
  let x := g.next % g.dimX
  let y := g.next / g.dimX % g.dimY
  let z := g.next / (g.dimX * g.dimY)
  let s : State := { s.bump with squads := s.squads ++ [q] }
  let s := (places.zipIdx).foldl (fun (s : State) (p : (Nat × Nat) × Nat) =>
    s.startCrew g core p.1.1 p.1.2 q.id p.2 g.entry (launchScalars g x y z p.2) g.cls g.next none false) s
  s.setGrid { g with next := g.next + 1 }

/-! ## Launch records (R91 to R94) -/

def recN (r : List Byte) (o n : Nat) : Nat := leNat ((r.drop o).take n)

/-- The deck offset of a byte in a translated deck page with R (R92). -/
def State.deckByte (s : State) (core : Nat) (asid : BitVec 12) (va : Nat) : Option Nat :=
  if 2 ^ 47 ≤ va then none
  else (s.translate core asid va).bind fun l => if l.r && l.tgt == 0 then some (l.phys va) else none
/-- The deck offsets of n bytes, none unless all lie in translated deck pages with R. -/
def State.deckSpan (s : State) (core : Nat) (asid : BitVec 12) (va n : Nat) : Option (List Nat) :=
  (List.range n).mapM fun j => s.deckByte core asid (va + j)

def slotBad (x : Nat) : Bool := decide (10 ≤ x % 16) || x / 256 % 2 ^ 24 != 0

/-- The lowest refusal code that applies (R92); poisoned: the record touches a poisoned line. -/
def State.refusal (s : State) (core : Nat) (asid : BitVec 12) (r : List Byte) (poisoned : Bool) : Option Nat :=
  let n := recN r 0x18 2
  let m := recN r 0x1A 2
  let crews := recN r 0x14 4
  let tiles := recN r 0x24 1
  let flags := recN r 0x26 1
  let entry := recN r 0x00 8
  let arg := recN r 0x28 8
  if poisoned then some 8
  else if n % 8 != 0 || n < 8 || 256 < n || m % 16 != 0 || m < 16 || 384 < m || 8 < tiles then some 1
  else if recN r 0x08 4 == 0 || recN r 0x0C 4 == 0 || recN r 0x10 4 == 0 || crews < 1 || 32 < crews then some 2
  else if 4 * min 16 (1024 / n) < crews || 262144 < recN r 0x1C 4 || 128 < crews * tiles then some 3
  else if 2 < recN r 0x25 1 || flags / 8 != 0 || 100 < recN r 0xC0 1 || recN r 0x20 4 % 8 != 0 || 1048576 < recN r 0x20 4
      || entry % 2 != 0 || 2 ^ 48 ≤ entry then some 4
  else if (List.range 8).any fun j => slotBad (recN r (0x40 + 8 * j) 8) then some 5
  else if flags / 4 % 2 == 1 && !(s.ctx asid).swap then some 6
  else if arg != 0 && (arg % 8 != 0 || (match s.deckSpan core asid arg 32 with
      | none => true
      | some os => os.any fun o => s.poisoned (o / 128))) then some 7
  else none

def classOf : Nat → RoleClass | 0 => .loader | 1 => .storer | _ => .computer
def classNat : RoleClass → Nat | .loader => 0 | .storer => 1 | .computer => 2

/-- The grid a record describes, not yet accepted. An argument block on an absent deck line is read as its bytes stand (DESIGN CHOICE, log 70). -/
def State.mkGrid (s : State) (core : Nat) (asid : BitVec 12) (r : List Byte) (recOff depth : Nat) (parent : DWord) (ps : Option Nat) : Grid :=
  let arg := recN r 0x28 8
  let flags := recN r 0x26 1
  { handle := 0, asid := asid, entry := BitVec.ofNat 48 (recN r 0 8), dimX := recN r 0x08 4, dimY := recN r 0x0C 4, dimZ := recN r 0x10 4
    crewsPer := recN r 0x14 4, n := recN r 0x18 2, m := recN r 0x1A 2, squadMem := recN r 0x1C 4, spill := recN r 0x20 4
    tiles := recN r 0x24 1, cls := classOf (recN r 0x25 1), early := flags % 2 == 1, idempotent := flags / 2 % 2 == 1
    e7 := flags / 4 % 2 == 1, arg := BitVec.ofNat 64 arg, waitOn := BitVec.ofNat 64 (recN r 0x30 8)
    counter := BitVec.ofNat 64 (recN r 0x38 8), slots := (List.range 8).map fun j => BitVec.ofNat 64 (recN r (0x40 + 8 * j) 8)
    binds := (List.range 16).map fun j => BitVec.ofNat 32 (recN r (0x80 + 4 * j) 4)
    cap := if recN r 0xC0 1 == 0 then 50 else recN r 0xC0 1, depth := depth, parent := parent, parentSquad := ps
    args := if arg == 0 then [] else
      match s.deckSpan core asid arg 32 with
      | none => []
      | some os => (List.range 8).map fun j => BitVec.ofNat 32 (leNat (((os.drop (4 * j)).take 4).map s.deck.read))
    next := 0, endCode := none, recOff := recOff, since := 0, add := none }

/-- The first free index of the grid table (R93). -/
def State.gridIndex (s : State) : Nat :=
  ((List.range Config.gridTable).find? fun j => !s.grids.any fun (g : Grid) => g.handle.toNat % 4096 == j).getD 0

/-- Acceptance (R91, R93): the next sequence number, the hardware fields, the entry of the grid table. LQ_STAT counts every launch accepted
(R374; DEDUCED, log 75). -/
def State.acceptGrid (s : State) (g : Grid) : State × DWord :=
  let h : DWord := BitVec.ofNat 64 (s.gridIndex + 4096 * ((s.gridSeq + 1) % 2 ^ 51))
  let s := (s.agentWriteN (g.recOff + 0xC1) (leBytes 1 g.depth)).agentWriteN (g.recOff + 0xC8) (leBytes 8 g.parent.toNat)
  ({ s with gridSeq := s.gridSeq + 1, lqCount := s.lqCount + 1, grids := s.grids ++ [{ g with handle := h, since := s.time.toNat }] }, h)

/-- The handle of an accepted launch goes to its crew: the reply of a LAUNCH; a FORK keeps it for its resumption (R103, R109). -/
def State.handOver (s : State) (crew : Option Nat) (reply : Reply) (fork : Bool) (h : DWord) : State :=
  match crew with
  | none => s
  | some id =>
    if fork then
      let up (c : Crew) : Crew :=
        match c.wait with
        | some (.join r n _) => if c.id == id then { c with wait := some (.join r n (some h)) } else c
        | _ => c
      { s with
        crews := s.crews.map up
        squads := s.squads.map fun (q : Squad) => { q with swapped := q.swapped.map up }
        saved := s.saved.map fun (x : SavedCrew) => { x with crew := up x.crew } }
    else s.replyTo id reply h

/-- A launch that has passed its checks: accepted, or held while the grid table is full (R94). Its record and its argument block have been read at
the checks, also where it is held, and it may take an entry that frees before one that has been held longer (DESIGN CHOICE, log 70). -/
def State.launchGrid (s : State) (g : Grid) (crew : Option Nat) (reply : Reply) (fork : Bool) : State :=
  if s.grids.length < Config.gridTable then
    let a := s.acceptGrid g
    a.1.handOver crew reply fork a.2
  else { s with held := s.held ++ [{ grid := g, crew := crew, reply := reply, fork := fork }] }

/-- A host or stroke launch at its arrival (R98, R402). None while a line of its record is absent. -/
def State.hostLaunch (s : State) (asid : BitVec 12) (va : Nat) : Option State :=
  let refuse (code : Nat) : Option State := some (s.event 0x02 4 0 0xFFFF [(va, 8), (code, 1)])
  match (if va % 256 == 0 then s.deckByte 0 asid va else none) with
  | none => refuse 8
  | some off =>
    if !(s.present (off / 128) && s.present (off / 128 + 1)) then none
    else
      let r := s.deck.readN off 256
      match s.refusal 0 asid r (s.poisoned (off / 128) || s.poisoned (off / 128 + 1)) with
      | some code => refuse code
      | none => some (s.launchGrid (s.mkGrid 0 asid r off 0 0 none) none 31 false)

/-! ## The host line cache (R314) -/

/-- The HLC state of a host or pool line of 64 bytes (R314). -/
def State.hlcState (s : State) (line : Nat) (pool : Bool) : HlcState :=
  match s.hlc.find? fun h => h.line == line && h.pool == pool with
  | none => .i
  | some h => h.st
/-- Requests of the package on its CXL ports, each once. -/
def State.request (s : State) (rs : List CxlReq) : State := { s with cxlOut := s.cxlOut ++ rs.filter fun r => !s.cxlOut.contains r }
/-- Host or pool lines that bytes are written to turn M (R314); a line written whole is poisoned no more (R315; DESIGN CHOICE, log 81). -/
def State.hlcWritten (s : State) (pool : Bool) (off n : Nat) : State :=
  { s with hlc := s.hlc.map fun (h : HlcLine) =>
      if h.pool == pool && decide (off / 64 ≤ h.line) && decide (h.line * 64 < off + n) then
        { h with st := .m, by_ := 0, pois := h.pois && !(decide (off ≤ h.line * 64) && decide (h.line * 64 + 64 ≤ off + n)) }
      else h }

/-! ## Counter adds of the hub (R454) -/

/-- Where an 8-byte add of a context lands: a target and its physical address, or the cause that skips it. -/
def State.counterSpot (s : State) (asid : BitVec 12) (va : Nat) : Except Cause (BitVec 4 × Nat) :=
  if va % 8 != 0 then .error .misalign
  else if Config.skmBase ≤ va ∧ va < 2 ^ 48 then .error .prot
  else if 2 ^ 47 ≤ va then .error .farAccess
  else
    match s.walk 0 asid va with
    | none => .error .page
    | some l =>
      if (l.p && !(s.ctx asid).priv) || !l.w then .error .prot
      else if l.tgt == 0 then (if s.poisoned (l.phys va / 128) then .error .poison else .ok (0, l.phys va))
      else if l.tgt == 1 then
        (if (List.range 8).any fun j => s.hbmPoison.contains (l.phys va + j) then .error .poison else .ok (1, l.phys va))
      else if l.tgt == 3 then .ok (3, l.phys va)
      else .error .farAccess

/-- A write that home has still to apply. -/
def State.underWay (s : State) (id : Nat) : Bool := s.writes.any fun w => w.id == id && !w.applied
/-- The add of 1 (R454): the state, whether the add has been made or skipped, and the write that makes it while home has not applied it. It waits
while its deck line is absent, and in host memory until the HLC owns the line, which it asks for (R314). -/
def State.counterAdd (s : State) (asid : BitVec 12) (va : Nat) (sent : Option Nat) : State × Bool × Option Nat :=
  match sent with
  | some id => (s, !s.underWay id, some id)
  | none =>
    if va == 0 then (s, true, none)
    else
      match s.counterSpot asid va with
      | .error c => (s.event 0x03 4 0 0xFFFF [(va, 8), (c.code, 1)], true, none)
      | .ok (tgt, a) =>
        if tgt == 0 then
          if s.present (a / 128) then
            let t := s.agentPut a (leBytes 8 0) true
            (t, !t.underWay s.fresh, some s.fresh)
          else (s, false, none)
        else if tgt == 1 then ({ s with hbm := s.hbm.writeN a (leBytes 8 (leNat (s.hbm.readN a 8) + 1)) }, true, none)
        else
          match s.hlcState (a / 64) false with
          | .i | .s => (s.request [⟨.rdOwn, a / 64, false, false⟩], false, none)
          | .m | .e | .o =>
            (({ s with host := s.host.writeN a (leBytes 8 (leNat (s.host.readN a 8) + 1)) } : State).hlcWritten false a 8, true, none)

/-! ## Halting, swapping out and in (R108, R389) -/

/-- A crew at its halt (R389): waits are abandoned but BAR's and JOIN's; its entries of the Erg's table go with it (R350). -/
def Crew.halt (c : Crew) : Crew :=
  let keep : Bool := match c.wait with
    | some (.bar _ _) => true
    | some (.join _ _ _) => true
    | _ => false
  { c.mapT (fun _ t => { t with inreg := t.inreg.map fun r => { r with recd := false } }) with
    haltReq := false, halted := true, wait := if keep then c.wait else none, waitLanes := if keep then c.waitLanes else 0 }

/-- Whether a write is one that another thread may have seen, or that a release depends on. -/
def State.exposed (s : State) (w : Write) : Bool :=
  w.applied || w.shown || w.bcast || w.seen.any (fun x => some x.1 != w.crew) || w.known.length != 1 || s.cmds.any (·.after.contains w.id)
def spans (a n b m : Nat) : Bool := decide (a < b + m) && decide (b < a + n)
/-- The deck writes that a halt of a crew leaves on their way (R389): those of others, its own that are visible or belong to an instruction of which
a store is, and what those come after: a write ordered before one of them, or its own to the same bytes. -/
def State.writesKept (s : State) (id : Nat) (whole : List Nat) : List Write :=
  s.writes.reverse.foldl (fun kept (w : Write) =>
    if w.crew != some id || w.applied || whole.contains w.instr
        || kept.any (fun x => x.after.contains w.id || x.before.contains w.id
            || (x.crew == some id && spans w.off w.bytes.length x.off x.bytes.length)) then w :: kept
    else kept) []
/-- The same of its stores to squad memory. -/
def Squad.bankKept (q : Squad) (id : Nat) (whole : List Nat) : List BankWrite :=
  q.bank.reverse.foldl (fun kept (b : BankWrite) =>
    if b.crew != id || whole.contains b.instr
        || kept.any (fun x => x.crew == id && spans b.off b.bytes.length x.off x.bytes.length) then b :: kept
    else kept) []
/-- The accesses of a crew at its halt (R198, R226, R389, log 77): what is not yet performed is dropped, to be performed when the crew goes on,
unless it belongs to an instruction of which a store is already visible: that instruction completes in the background. Its loads wait for it with
their registers. Lines held for a read-modify-write are free. -/
def State.haltAccesses (s : State) (id : Nat) : State :=
  let s := s.dropHold id
  match s.crew? id with
  | none => s
  | some c =>
    let whole := ((s.writes.filter fun w => w.crew == some id && s.exposed w).map (·.instr)) ++ c.torn
    let kept := s.writesKept id whole
    let bank (q : Squad) : List BankWrite := q.bankKept id whole
    { s.setCrew { c with
        loads := c.loads.map fun (p : PendLoad) => { p with age := 0 }
        replay := c.replay ++ s.writes.filter fun w => !kept.contains w
        bankOut := c.bankOut ++ s.squads.flatMap fun q => q.bank.filter fun b => !(bank q).contains b } with
      writes := kept, squads := s.squads.map fun (q : Squad) => { q with bank := bank q } }
/-- Stores a halt has dropped set out again (R226, R389); one of less than a word drops its core's reduced copy (R255). -/
def State.resend (s : State) (c : Crew) : State :=
  let out := c.replay.map fun (w : Write) => { w with core := some c.core }
  let s : State := { s.setCrew { c with replay := [], bankOut := [] } with
    writes := s.writes ++ out
    squads := s.squads.map fun (q : Squad) => if q.id == c.squad then { q with bank := q.bank ++ c.bankOut } else q }
  out.foldl (fun (s : State) w => s.dropShort c.core w.off w.bytes.length) s

/-- Operations issued on a slot complete in order (R276, R389). -/
def State.drainTile (s : State) (core slot : Nat) : State :=
  let ops := s.matops.filter fun o => o.core == core && o.slot == slot
  let s := ops.foldl (fun (s : State) o => s.matEffect o) s
  { s with matops := s.matops.filter fun o => !(o.core == core && o.slot == slot) }

/-- The scheduler's and the Erg's marks of a crew that leaves its slot. It leaves its boat at once, and the next member is the boat's first (R68 does not
say; DESIGN CHOICE, log 85). -/
def State.forgetCrew (s : State) (id : Nat) : State :=
  { s with
    pending := s.pending.filter (·.crew != id)
    plain := s.plain.filter (·.crew != some id)
    issueQ := s.issueQ.filter (· != id)
    boats := s.boats.map fun (b : Boat) => { b with members := b.members.filter (· != id) } }

/-- A crew leaves for the swap area with its tiles; its slots lose their tags (R108). -/
def State.swapCrew (s : State) (c : Crew) : State :=
  let s := s.haltAccesses c.id
  let c := (s.crew? c.id).getD c
  let s := c.tileSlots.foldl (fun (s : State) t => s.drainTile c.core t) s
  let tag := s.tagOf c
  let own (t : Nat) : Tile := if s.foreign c t then Tile.zero c.core t (some tag) else s.tile c.core t
  let c' : Crew := { c.halt with halted := c.halted, tilesOut := c.tileSlots.map own, mon := c.mon.map fun m => { m with triggered := true } }
  let s := c.tileSlots.foldl (fun (s : State) t => if s.foreign c t then s else s.setTile (Tile.zero c.core t none)) s
  let s : State := { s with
    crews := s.crews.filter (·.id != c.id)
    squads := s.squads.map fun (q : Squad) => if q.id == c.squad then { q with swapped := q.swapped ++ [c'] } else q }
  s.forgetCrew c.id
/-- The lines held only for a squad's subscriptions leave its core's L1 (R243). -/
def State.dropSquadLines (s : State) (q : Squad) : State :=
  let others := s.squads.filter fun o => o.id != q.id && o.core == q.core && o.asid == q.asid && o.swapped.isEmpty && o.out.isNone && !o.ended
  (s.copies.filter fun c => c.core == q.core && c.asid == q.asid && q.subs.any (·.covers c.va)
    && !(others.any fun o => o.subs.any (·.covers c.va))).foldl (fun (s : State) c => s.evict c.core c.line) s
/-- Every crew of a squad is swapped out (R108). -/
def State.swapOut (s : State) (sq : Nat) : State :=
  let s := (s.squads.filter (·.id == sq)).foldl (fun (s : State) q => s.dropSquadLines q) s
  (s.crews.filter fun c => c.squad == sq && !c.ended).foldl (fun (s : State) c => s.swapCrew c) s

/-- Children of a squad still in flight or held for the grid table (R108). -/
def State.childrenOf (s : State) (sq : Nat) : Nat :=
  (s.grids.filter fun g => g.parentSquad == some sq).length + (s.held.filter fun h => h.grid.parentSquad == some sq).length

/-- Whether the table of a core has an entry for every occupied slot of a squad (R244). -/
def State.subsFit (s : State) (core : Nat) (q : Squad) : Bool :=
  decide (((s.squads.filter fun o => o.core == core && o.swapped.isEmpty && o.out.isNone && !o.ended).map fun o => (o.subs.filter (·.valid)).length).sum
    + (q.subs.filter (·.valid)).length ≤ Config.subEntries)

/-- A swapped-out crew back at a place of a core (R108). Its tiles take slots free for its context; what another context left there is overwritten without a
spill (DESIGN CHOICE, log 87). -/
def State.swapCrewIn (s : State) (c : Crew) (core part slot : Nat) : State :=
  let tag := s.tagOf c
  let tiles := (s.freeTiles core tag).take c.tileSlots.length
  let s := (tiles.zip c.tilesOut).foldl (fun (s : State) (p : Nat × Tile) =>
    s.setTile { p.2 with core := core, slot := p.1, tag := some tag }) s
  let c' : Crew := { c with core := core, part := part, slot := slot, tileSlots := tiles, tilesOut := [] }.issued (s.cycles core).toNat
  let c'' : Crew := match c'.wait with
    | some (.join r n h) => (c'.reply r (h.getD (BitVec.ofNat 64 n))).wake
    | _ => c'
  ({ s with crews := s.crews ++ [c''] } : State).resend c''

/-- Crews of a number of tiles each for which a core has free tile slots (R265). -/
def State.tileCrews (s : State) (core tiles : Nat) (tag : BitVec 12 × BitVec 42) : Nat :=
  if tiles == 0 then 128 else (s.freeTiles core tag).length / tiles
/-- Free contexts of the SPAWN pool on a core whose partition has room for n registers (R106), at most want; what limits the crews with tiles is in
the want. -/
def State.poolFree (s : State) (core n want : Nat) : List Nat :=
  ((List.range 16).foldl (fun (acc : List Nat) pc =>
    let used := (((s.onCore core).filter fun c => c.part == pc % 4).map (·.n)).sum + n * (acc.filter fun a => a % 4 == pc % 4).length
    if !(s.onCore core).any (·.slot == 64 + pc) && decide (used + n ≤ 1024) && acc.length < want then acc ++ [pc] else acc) [])

/-- Whether every crew a squad started has ended (R89). -/
def State.squadDone (s : State) (q : Squad) : Bool :=
  !(s.crews.any fun c => c.squad == q.id && !c.ended) && q.swapped.isEmpty && !(s.saved.any fun x => x.crew.squad == q.id)

end Sys2Proof.Machine
end

