-- ==== Sys2Proof/Machine/Work.lean ====
section
/-! DEFINITION. Work creation and the scheduler (spec/04_work.md R88 to R117, spec/03_control.md R67 to R69, spec/14_system.md R402). -/

namespace Sys2Proof.Machine

/-! ## LAUNCH, FORK, JOIN (R103, R107 to R109) -/

/-- A FORK or LAUNCH that is refused: its reply, at which a FORK goes on (R103, R109). -/
def State.refuseLaunch (s : State) (p : PendingLaunch) (code : Nat) : State :=
  let v : DWord := BitVec.ofNat 64 (2 ^ 63 + code)
  match s.crew? p.crew with
  | some c => if p.fork then s.wakes (c.reply p.reply v) else s.replyTo p.crew p.reply v
  | none => s.replyTo p.crew p.reply v

/-- The record of a launch read and checked once its lines are present and every write the launch releases is globally performed (R103; log 24). -/
def State.resolveLaunch (s : State) (p : PendingLaunch) : State :=
  if !(s.present (p.off / 128) && s.present (p.off / 128 + 1)) || !s.orderedDone p.after then s
  else
    let rec_ := s.deck.readN p.off 256
    let s : State := { s with launches := s.launches.erase p }
    match s.refusal p.core p.asid rec_ (s.poisoned (p.off / 128) || s.poisoned (p.off / 128 + 1)) with
    | some code => s.refuseLaunch p code
    | none => s.launchGrid (s.mkGrid p.core p.asid rec_ p.off p.depth p.parent (some p.squad)) (some p.crew) p.reply p.fork
/-- Every launch that can be resolved now. -/
def State.resolveLaunches (s : State) : State := s.launches.foldl (fun (s : State) p => s.resolveLaunch p) s

/-- The checks that LAUNCH and FORK share; after them the record is read asynchronously (R103, R109), and a FORK waits. -/
def State.launchCrew (s : State) (i : Instr) (k : Crew) (act : Lanes) (r : Reply) (a : BitVec 6) (fork : Bool) : State :=
  let va := (k.pr a.toNat).toNat
  if k.sc 7 == 10 then s.trapAll k .depthLimit act
  else if va % 256 != 0 then s.trapAt k .misalign act va
  else if 2 ^ 47 ≤ va then s.trapAt k .farAccess act va
  else
    match s.checkPage k .load va with
    | .error c => s.trapAt k c act va
    | .ok (.deck off) =>
      let p : PendingLaunch :=
        { crew := k.id, squad := k.squad, core := k.core, asid := k.asid, off := off, depth := (k.sc 7 + 1).toNat % 256, parent := k.grid, reply := r
          fork := fork, after := s.orderedIds k.id }
      let s := s.releases k false
      let s := if fork then s.waits (k.await r) (.join r 0 none) act else s.done i (k.await r) act
      ({ s with launches := s.launches ++ [p] } : State).resolveLaunch p
    | .ok _ => s.trapAt k .farAccess act va

/-- LAUNCH (R103). -/
def execLaunch (r : Reply) (a : BitVec 6) (s : State) : Out State :=
  issue (.launch r a) s fun s k act => s.launchCrew (.launch r a) k act r a false

/-- Whether the crew's grid was launched with E7COMPAT (R107). -/
def State.e7 (s : State) (k : Crew) : Bool := ((s.grid? k.grid).map (·.e7)).getD false

/-- FORK (R109): ILLEGAL outside an E7COMPAT grid. -/
def execFork (r : Reply) (a : BitVec 6) (s : State) : Out State :=
  issueLegal (fun s k => !s.e7 k) (.fork r a) s fun s k act => s.launchCrew (.fork r a) k act r a true

/-- JOIN (R108): at once without children, else the crew waits and its squad is suspended (State.suspend). -/
def execJoin (r : Reply) (s : State) : Out State :=
  issueLegal (fun s k => !s.e7 k) (.join r) s fun s k act =>
    if s.childrenOf k.squad == 0 && !s.launches.any (·.squad == k.squad) then (s.done (.join r) k act).replyTo k.id r 0
    else s.waits (k.await r) (.join r 0 none) act

def Crew.inJoin (c : Crew) : Bool := match c.wait with | some (.join _ _ _) => true | _ => false
/-- A crew whose instruction has begun and ends before a halt or a swap: a DUMPW (R369). -/
def Crew.performing (c : Crew) : Bool := match c.wait with | some (.perform _ _) => true | _ => false
/-- The number of children every joining crew of a squad waits for. -/
def Crew.joins (c : Crew) (n : Nat) : Crew := match c.wait with | some (.join r _ h) => { c with wait := some (.join r n h) } | _ => c
/-- A joining crew without children goes on. -/
def State.endJoin (s : State) (c : Crew) : State :=
  match c.wait with
  | some (.join r _ h) => s.wakes (c.reply r (h.getD 0))
  | _ => s

/-- A squad with a crew in FORK or JOIN, once every boat of the cycle has issued and its launches are resolved: it is swapped out until its children
retire, one suspension for all crews that wait so, of whatever partition; without children they go on (R108, R109). -/
def State.suspendSquad (s : State) (q : Squad) : State :=
  let cs := s.crews.filter fun c => c.squad == q.id && !c.ended
  if !cs.any Crew.inJoin || s.launches.any (·.squad == q.id) || cs.any (fun c => c.performing || s.issueQ.contains c.id) then s
  else
    let n := s.childrenOf q.id
    if n == 0 then cs.foldl (fun (s : State) c => s.endJoin c) s
    else ({ s with crews := s.crews.map fun (c : Crew) => if c.squad == q.id then c.joins n else c } : State).swapOut q.id
def State.suspend (s : State) : State := s.squads.foldl (fun (s : State) q => s.suspendSquad q) s

/-- JOIN_RESUME: a swapped-out squad without children in flight comes back on a core with room (R108), once what it had left on its way is globally
performed, so that its threads go on reading their own stores (R215; DEDUCED, log 77). -/
def execJoinResume (squad core : Nat) (s : State) : Out State :=
  .next <|
    match s.squad? squad with
    | none => s
    | some q =>
      let tag := (q.asid, (s.ctx q.asid).key)
      let normal := q.swapped.filter (!·.pool)
      let pool := q.swapped.filter (·.pool)
      let n := (q.swapped.map (·.n)).getD 0 8
      if q.swapped.isEmpty || s.childrenOf squad != 0 || !s.coresUp.contains core || s.memFree core < q.memLen
          || q.swapped.any (fun c => s.writes.any fun w => w.crew == some c.id && !w.done)
          || (s.freeTiles core tag).length < (q.swapped.map (·.tileSlots.length)).sum || !s.subsFit core q then s
      else
        match s.placement core n normal.length [] with
        | none => s
        | some ps =>
          let pcs := s.poolFree core n pool.length
          if pcs.length < pool.length then s
          else
            let s : State := s.setSquad { q with swapped := [], core := core }
            let s := (normal.zip ps).foldl (fun (s : State) (x : Crew × (Nat × Nat)) => s.swapCrewIn x.1 core x.2.1 x.2.2) s
            let s := (pool.zip pcs).foldl (fun (s : State) (x : Crew × Nat) => s.swapCrewIn x.1 core (x.2 % 4) (64 + x.2)) s
            s.pollWaitc

/-- A launch has waited 10 µs for admission (R97). -/
def State.waitsLong (s : State) (g : Grid) : Bool :=
  decide (g.next < g.dimX * g.dimY * g.dimZ) && decide (g.since + 10000 ≤ s.time.toNat)
/-- SWAP_OUT_FOR_ROOM: a squad whose crews are all stopped in WAITC or JOIN goes out to the swap area of its context while a launch has waited 10 µs
for admission (R97, R108). -/
def execSwapOutForRoom (squad : Nat) (s : State) : Out State :=
  .next <|
    let cs := s.crews.filter fun c => c.squad == squad && !c.ended
    if !cs.isEmpty && cs.all (fun c => (s.ctx c.asid).swap && s.stoppedInWaitc c) && s.grids.any s.waitsLong then s.swapOut squad else s

/-! ## WAITC (R104) -/

/-- Where a WAITC counter lies: R104 gives FAR_ACCESS for every address outside squad memory, the deck and SKM, the spill window too. -/
def State.waitcAt (s : State) (k : Crew) (va : Nat) : Except Cause Loc :=
  if va % 8 == 0 && decide (Config.spillBase ≤ va) && decide (va < Config.skmBase) then .error .farAccess else s.check k .load 8 8 va

/-- WAITC, counter form. A counter on a poisoned line, or in a replica in FAULT, is read as it stands: R104 names no check (DESIGN CHOICE, log 71). -/
def execWaitcCounter (r : Reply) (b a : BitVec 6) (s : State) : Out State :=
  issue (.waitcCounter r b a) s fun s k act =>
    let va := (k.pr a.toNat).toNat
    let target := (k.pr b.toNat).toNat
    let start (on : WaitcOn) : State :=
      (s.done (.waitcCounter r b a) { k.await r with waitc := k.waitc ++ [⟨on, r⟩] } act).pollWaitc
    match s.waitcAt k va with
    | .error c => s.trapAt k c act va
    | .ok (.deck off) => start (.deck off target)
    | .ok (.squad off) => start (.squad off target)
    | .ok (.skm off) => start (.skm off target)
    | .ok (.spill _) => s.trapAt k .farAccess act va

/-- WAITC, handle form. -/
def execWaitcHandle (r : Reply) (a : BitVec 6) (s : State) : Out State :=
  issue (.waitcHandle r a) s fun s k act =>
    (s.done (.waitcHandle r a) { k.await r with waitc := k.waitc ++ [⟨.handle (k.pr a.toNat), r⟩] } act).pollWaitc

/-! ## SPAWN (R105, R106) -/

/-- The entry k of the table before the launch entry (R105): its address, none beyond the count. -/
def State.spawnEntry (s : State) (k : Crew) (entry e : Nat) : Except Cause (Option Nat) :=
  let at_ (d : Nat) : Nat := (entry + 2 ^ 48 - d) % 2 ^ 48
  match s.fetch32 k (at_ 4) with
  | .error c => .error c
  | .ok n =>
    if n < e then .ok none
    else
      match s.fetch32 k (at_ (4 + 4 * e)) with
      | .error c => .error c
      | .ok w => .ok (some (((entry : Int) + (BitVec.ofNat 32 w).toInt) % 2 ^ 48).toNat)

/-- The entry table holds fewer entries than SPAWN names (R105). -/
def State.spawnIllegal (s : State) (k : Crew) (e : BitVec 7) : Bool :=
  match s.grid? k.grid with
  | none => false
  | some g => match s.spawnEntry k g.entry.toNat e.toNat with | .ok none => true | _ => false

/-- SPAWN: crews of the issuer's squad in free contexts of the core's pool (R106), no more than the core has tile slots for (R265; DEDUCED, log 72). -/
def execSpawn (r : Reply) (b a : BitVec 6) (e : BitVec 7) (s : State) : Out State :=
  issueLegal (fun s k => s.spawnIllegal k e) (.spawn r b a e) s fun s k act =>
    match s.grid? k.grid with
    | none => s
    | some g =>
      match s.spawnEntry k g.entry.toNat e.toNat with
      | .error c => s.trapAll k c act
      | .ok none => s
      | .ok (some entry) =>
        let want := min (k.sc (2 * b.toNat)).toNat 16
        let pcs := s.poolFree k.core g.n (min want (s.tileCrews k.core g.tiles (s.tagOf k)))
        let scal (i pc : Nat) : List Word :=
          [k.sc (2 * a.toNat), k.sc (2 * a.toNat + 1), k.sc 2, k.sc 3, k.sc 4, BitVec.ofNat 32 (32 + pc), k.sc 6, k.sc 7
           , BitVec.ofNat 32 i, BitVec.ofNat 32 pcs.length] ++ (List.range 6).map fun j => g.args.getD (2 + j) 0
        let idx := ((s.squad? k.squad).map (·.index)).getD 0
        let s := pcs.zipIdx.foldl (fun (s : State) (p : Nat × Nat) =>
          s.startCrew g k.core (p.1 % 4) (64 + p.1) k.squad (32 + p.1) (mkPc entry) (scal p.2 p.1) g.cls idx none false) (s.releases k false)
        let s := (s.crews.filter fun c => c.squad == k.squad && c.pool).foldl (fun (s : State) c => s.acquires c) s
        (s.done (.spawn r b a e) k act).replyTo k.id r (BitVec.ofNat 64 pcs.length)

/-! ## Tasks (R110 to R115) -/

/-- Half-open ranges that overlap; a length of 0 overlaps nothing (R112). -/
def overlaps (b l c m : Nat) : Bool := l != 0 && m != 0 && decide (b < c + m) && decide (c < b + l)
/-- The entries a new task conflicts with (R112). -/
def State.conflictsOf (s : State) (die : Nat) (asid : BitVec 12) (rb rl wb wl : Nat) : List Nat :=
  (s.tasks.filter fun e => e.die == die && e.asid == asid
    && (overlaps rb rl e.wBase e.wLen || overlaps wb wl e.rBase e.rLen || overlaps wb wl e.wBase e.wLen)).map (·.entry)

/-- TASKQ (R111): while the range table of its die is full the crew is not ready, and issues it again when an entry frees; the release waits for
the crew's earlier writes (log 24). An entry address is stored as a pcv is, bit 0 and bits [63:48] dropped, and a record on a poisoned line is read
as it stands: R110 and R111 name no check of either (DESIGN CHOICE, log 69). -/
def execTaskq (r : Reply) (a : BitVec 6) (s : State) : Out State :=
  issue (.taskq r a) s fun s k act =>
    let va := (k.pr a.toNat).toNat
    if va % 64 != 0 then s.trapAt k .misalign act va
    else if 2 ^ 47 ≤ va then s.trapAt k .farAccess act va
    else
      match s.checkPage k .load va with
      | .error c => s.trapAt k c act va
      | .ok (.deck off) =>
        let die := dieOf k.core
        let used := s.tasks.filter (·.die == die)
        if !s.present (off / 128) || !s.coveredDone k.id then s
        else
          let t := s.deck.readN off 64
          let fl := recN t 0x38 4
          if fl % 4 == 3 || fl / 512 != 0 || fl / 4 % 64 != 0 then
            (s.done (.taskq r a) k act).replyTo k.id r (BitVec.ofNat 64 (2 ^ 63 + 4))
          else if Config.rangeTable ≤ used.length then s.waits k (.room (.rangeTable die)) act
          else
            let e := ((List.range Config.rangeTable).find? fun j => !used.any (·.entry == j)).getD 0
            let cs := s.conflictsOf die k.asid (recN t 0x20 8) (recN t 0x28 4) (recN t 0x2C 8) (recN t 0x34 4)
            let id : DWord := BitVec.ofNat 64 (e + 256 * die + 1024 * ((s.taskSeq + 1) % 2 ^ 54))
            let task : Task :=
              { die := die, entry := e, id := id, asid := k.asid, grid := k.grid, state := if cs.isEmpty then .ready else .held
                conflicts := cs, code := mkPc (recN t 0 8), arg := BitVec.ofNat 64 (recN t 0x08 8), tile := BitVec.ofNat 64 (recN t 0x10 8)
                counter := BitVec.ofNat 64 (recN t 0x18 8), rBase := recN t 0x20 8, rLen := recN t 0x28 4, wBase := recN t 0x2C 8
                wLen := recN t 0x34 4, flags := BitVec.ofNat 32 fl, recVa := BitVec.ofNat 64 va, crew := 0, normal := false, add := none }
            let s : State := { s with tasks := s.tasks ++ [task], taskSeq := s.taskSeq + 1 }
            (s.done (.taskq r a) k act).replyTo k.id r id
      | .ok _ => s.trapAt k .farAccess act va

/-- TASKEND (R115). -/
def execTaskend (s : State) : Out State :=
  issueLegal (fun _ k => k.task.isNone) .taskend s fun s k act => s.exits .taskend k act act

/-- The scalars of a task crew (R114). -/
def taskScalars (g : Grid) (t : Task) : List Word :=
  [lo32 t.arg, up32 t.arg] ++ ((List.range 3).map fun j => BitVec.ofNat 32 (t.tile.toNat / 2 ^ (16 * j) % 2 ^ 16))
    ++ [0xFFFFFFFF, 1, BitVec.ofNat 32 g.depth, lo32 t.recVa, up32 t.recVa, t.flags]

/-- TASK_START: a READY task's crew starts when a core of its die has room for it (R113, R114). -/
def execTaskStart (die entry core : Nat) (s : State) : Out State :=
  .next <|
    match s.tasks.find? fun (e : Task) => e.die == die && e.entry == entry && e.state == .ready with
    | none => s
    | some t =>
      match s.grid? t.grid with
      | none => s
      | some g =>
        if dieOf core != die || !s.coresUp.contains core then s
        else
          match s.fits g core 1 with
          | some [(part, slot)] =>
            let q := newSquad g s.fresh core 0 true false
            let s : State := { s.bump with squads := s.squads ++ [q] }
            let id := s.fresh
            let s := s.startCrew g core part slot q.id 0 t.code (taskScalars g t) (classOf (t.flags.toNat % 4)) (t.tile.toNat % 2 ^ 16)
              (some (die, entry)) (g.idempotent || t.flags.getLsbD 8)
            { s with tasks := s.tasks.map fun (e : Task) =>
                if e.die == die && e.entry == entry then { e with state := .running, crew := id, normal := true } else e }
          | _ => s

/-- TASK_DRAINED: the accesses of an ended task's crew are globally performed and, after a normal end, its counter has been raised; only then does
its entry become FREE and release the entries it held back (R113). -/
def execTaskDrained (die entry : Nat) (s : State) : Out State :=
  .next <|
    match s.tasks.find? fun (e : Task) => e.die == die && e.entry == entry && e.state == .draining with
    | none => s
    | some t =>
      if !s.crewWritesDone t.crew || !s.coveredDone t.crew || (s.crew? t.crew).any s.owesAccess then s
      else
        match (if t.normal then s.counterAdd t.asid t.counter.toNat t.add else (s, true, none)) with
        | (s, false, sent) =>
          { s with tasks := s.tasks.map fun (e : Task) => if e.die == die && e.entry == entry then { e with add := sent } else e }
        | (s, true, _) =>
          let s := s.freeRoom (· == .rangeTable die)
          { s with tasks := (s.tasks.filter fun (e : Task) => !(e.die == die && e.entry == entry)).map fun (e : Task) =>
              if e.die == die then
                let cs := e.conflicts.filter (· != entry)
                { e with conflicts := cs, state := if e.state == .held && cs.isEmpty then .ready else e.state }
              else e }

/-- A write of TASK_READY (R374, R386): an entry in PAGEWAIT with that id becomes READY. -/
def State.readyTask (s : State) (id : DWord) : State :=
  { s with tasks := s.tasks.map fun (e : Task) => if e.id == id && e.state == .pageWait then { e with state := .ready } else e }
/-- TASK_READY. -/
def execTaskReady (task : BitVec 64) (s : State) : Out State := .next (s.readyTask task)

/-- ROLE (R116). -/
def execRole (imm : RoleClass) (s : State) : Out State :=
  issue (.role imm) s fun s k act => s.done (.role imm) { k with role := imm } act

/-! ## Launch arrival and admission -/

/-- LQ_PUSH: an entry of the launch queue; the write waits while it is full (R402). -/
def State.lqPush (s : State) (va : Pc) (asid : BitVec 12) : State :=
  if s.lq.length < Config.launchQueue then { s with lq := s.lq ++ [(va, asid)] } else { s with lqWait := s.lqWait ++ [(va, asid)] }
def execLqPush (va : Pc) (asid : BitVec 12) (s : State) : Out State := .next (if s.dead then s else s.lqPush va asid)
/-- An entry of the launch queue has freed: the oldest push that waits takes it, and crews whose push waits issue it again (R402). -/
def State.lqFreed (s : State) (rest : List (Pc × BitVec 12)) : State :=
  ({ s with lq := rest ++ s.lqWait.take 1, lqWait := s.lqWait.drop 1 } : State).freeRoom (· == .lq)

/-- HOST_LAUNCH_ARRIVAL: the hub takes the next entry of the launch queue (R98, R402). -/
def execHostLaunchArrival (s : State) : Out State :=
  .next <|
    match s.lq with
    | [] => s
    | (va, asid) :: rest =>
      match s.hostLaunch asid va.toNat with
      | none => s
      | some t => t.lqFreed rest

/-- GRID_TABLE_WAIT_END: the first held launch is accepted when an entry is free (R94). -/
def execGridTableWaitEnd (s : State) : Out State :=
  .next <|
    match s.held with
    | [] => s
    | h :: rest =>
      if Config.gridTable ≤ s.grids.length then s
      else
        let a := ({ s with held := rest } : State).acceptGrid h.grid
        a.1.handOver h.crew h.reply h.fork a.2

/-- Producer squads the free slots of the package could hold at once, core by core under the producer's allotments (R96). -/
def State.roomFor (s : State) (p : Grid) : Nat :=
  (s.coresUp.map fun c => min (s.coreRoom c p.n) (s.tileCrews c p.tiles (p.asid, (s.ctx p.asid).key)) / p.crewsPer).sum

/-- The state after the next squad of a grid is admitted onto a core, when R95 and R96 allow it. -/
def State.admitSquad (s : State) (g : Grid) (core : Nat) : Option State :=
  if g.dimX * g.dimY * g.dimZ ≤ g.next || !s.coresUp.contains core then none
  else
    match s.fits g core g.crewsPer with
    | none => none
    | some ps =>
      match s.grids.find? fun p => p.handle == g.waitOn && p.asid == g.asid && g.waitOn != 0 with
      | none => some (s.startSquad g core false ps)
      | some p =>
        if !g.early then none
        else if p.dimX * p.dimY * p.dimZ ≤ p.next then some (s.startSquad g core false ps)
        else
          let after := s.startSquad g core true ps
          let early := ((after.onCore core).filter fun c => ((after.squad? c.squad).map (·.early)).getD false).length
          let left := p.dimX * p.dimY * p.dimZ - p.next
          if early ≤ 64 * g.cap / 100 && min left (s.roomFor p) ≤ after.roomFor p then some after else none

/-- SQUAD_ADMISSION: the next squad of a grid onto a core (R95, R96). -/
def execSquadAdmission (grid core : Nat) (s : State) : Out State :=
  .next <|
    match s.grid? (BitVec.ofNat 64 grid) with
    | none => s
    | some g => (s.admitSquad g core).getD s

/-! ## Ends -/

/-- CREW_RESOURCES_FREED: the slot, scalars and tiles of an ended crew are freed when its accesses are performed, its replies written and its
commands accepted (R85); with the last crew its squad ends, and keeps its memory for commands in flight (R89, R301). -/
def execCrewResourcesFreed (crew : Nat) (s : State) : Out State :=
  .next <|
    match s.crew? crew with
    | none => s
    | some c =>
      if !c.ended || !s.crewWritesDone crew || s.owesAccess c || !c.sb.isEmpty || s.cmds.any (fun m => m.crew == crew && m.number == 0)
          || s.matops.any (·.crew == crew) then s
      else
        let s := ({ s with crews := s.crews.filter (·.id != crew) } : State).forgetCrew crew
        { s with squads := s.squads.map fun (q : Squad) =>
            if q.id == c.squad && s.squadDone q && !s.crews.any (·.squad == q.id) then
              { q with ended := true, mem := if s.commanded q.id then q.mem else { seed := q.id, cells := [] }, subs := List.replicate 16 SubSlot.empty }
            else q }

/-- Whether a grid may retire (R90). -/
def State.canRetire (s : State) (g : Grid) : Bool :=
  decide (g.dimX * g.dimY * g.dimZ ≤ g.next) && !(s.squads.any fun q => q.grid == g.handle && !q.ended)
    && !(s.tasks.any (·.grid == g.handle)) && !(s.grids.any (·.parent == g.handle)) && !(s.held.any (·.grid.parent == g.handle)) && !(s.launches.any (·.parent == g.handle))
    && !(s.cmds.any (·.grid == g.handle))

/-- A retired grid's waiters get 0 or the end code, wherever they are (R104). -/
def State.releaseWaiters (s : State) (g : Grid) : State :=
  let v : DWord := match g.endCode with
    | none => 0
    | some e => BitVec.ofNat 64 (2 ^ 63 + e.toNat)
  let on (c : Crew) : List (Nat × Reply) :=
    if c.asid != g.asid then [] else (c.waitc.filter fun w => w.on == .handle g.handle).map fun w => (c.id, w.reply)
  let all := s.crews ++ s.squads.flatMap (·.swapped) ++ s.saved.map (·.crew)
  let s := (all.flatMap on).foldl (fun (s : State) (x : Nat × Reply) => s.replyTo x.1 x.2 v) s
  let off (c : Crew) : Crew := if c.asid == g.asid then { c with waitc := c.waitc.filter fun w => w.on != .handle g.handle } else c
  { s with
    crews := s.crews.map off
    squads := s.squads.map fun (q : Squad) => { q with swapped := q.swapped.map off }
    saved := s.saved.map fun (x : SavedCrew) => { x with crew := off x.crew } }

/-- GRID_RETIREMENT (R90): the counter add, and once it has been made the waiters, the entry; launches that wait on the grid find it gone. -/
def execGridRetirement (grid : Nat) (s : State) : Out State :=
  .next <|
    match s.grid? (BitVec.ofNat 64 grid) with
    | none => s
    | some g =>
      if !s.canRetire g then s
      else
        match s.counterAdd g.asid g.counter.toNat g.add with
        | (s, false, sent) => s.setGrid { g with add := sent }
        | (s, true, _) =>
          let s := s.releaseWaiters g
          { s with grids := s.grids.filter (·.handle != g.handle), squads := s.squads.filter (·.grid != g.handle) }

/-! ## Boats (R67 to R70) and ageing (R117) -/

/-- The class a crew is issued under (R117). -/
def Crew.classNow (c : Crew) : Nat := classNat c.role - c.raised
/-- The slices a crew occupies at its issue address (R66). -/
def State.slices (s : State) (k : Crew) : List Nat :=
  let h := (s.issuePoint k).1
  (List.range 8).filter fun f => (List.range 4).any fun j => h.active.getLsbD (4 * f + j)

/-- Whether a crew may join a boat (R67). -/
def State.mayJoin (s : State) (k : Crew) (b : Boat) : Bool :=
  b.members.all fun id =>
    match s.crew? id with
    | none => false
    | some o => o.asid == k.asid && (s.issuePoint o).1.issueAddr == (s.issuePoint k).1.issueAddr && o.rep.active == k.rep.active
        && o.rep.i == k.rep.i && !((s.slices o).any fun f => (s.slices k).contains f)

/-- A crew joins the first boat that takes it, or opens one (R67). -/
def State.joinBoat (s : State) (k : Crew) : List Boat → List Boat
  | [] => [{ core := k.core, part := k.part, members := [k.id], cls := k.classNow, ran := false, issued := 0 }]
  | b :: r => if s.mayJoin k b then { b with members := b.members ++ [k.id] } :: r else b :: s.joinBoat k r

/-- BOAT_FORMATION: the partition's ready crews by class and by the time since they last issued (R67). A crew that has not issued counts from its
start, and crews of equal time stand in the order of their starts (DESIGN CHOICE, log 11). -/
def execBoatFormation (core part : Nat) (s : State) : Out State :=
  .next <|
    if (s.cycles core).toNat % 4 != 0 then s
    else
      let cs := (s.onCore core).filter fun c => c.part == part && s.ready c
      let boats := (sortBy (·.classNow) (sortBy (·.lastIssue) cs)).foldl (fun (bs : List Boat) k => s.joinBoat k bs) []
      { s with boats := boats ++ s.boats.filter fun (b : Boat) => !(b.core == core && b.part == part) }

def State.readyId (s : State) (id : Nat) : Bool := ((s.crew? id).map s.ready).getD false
/-- A boat after it has issued: its address becomes that of its first member, and members that are not ready or stand elsewhere leave it (R68).
A first member that ended or halted in the issue has left the boat: the next one is the first (DESIGN CHOICE, log 85). -/
def State.prune (s : State) (b : Boat) : Boat :=
  let addr (id : Nat) : Option Nat := (s.crew? id).bind fun c => (s.issuePoint c).1.issueAddr
  { b with ran := false, members := b.members.filter fun id => s.readyId id && addr id == addr (b.members.headD 0) }
/-- What follows a boat's issue, once its last member has issued (R68). -/
def State.boatDone (s : State) : State :=
  { s with
    boatOut := [], boats := (s.boats.map fun (b : Boat) => if b.ran then s.prune b else b).filter fun b => !b.members.isEmpty }

/-- The longest run of issue cycles a ready member of a boat has been passed over (R69). -/
def State.passes (s : State) (b : Boat) : Nat := (b.members.map fun id => ((s.crew? id).map (·.passed)).getD 0).foldl max 0

/-- BOAT_ISSUE: the highest-class boat whose crews are all ready (R68). Within a class a boat that has been passed over 16 times comes first
(R69), then the one that issued least recently; boats that have not issued since they were formed stand in the order of formation (DESIGN CHOICE, log 11).
Its members issue one after another in a free order (R70, log 11); the other ready boats of its class are passed over. -/
def execBoatIssue (core part : Nat) (s : State) : Out State :=
  .next <|
    let mine := s.boats.filter fun (b : Boat) => b.core == core && b.part == part
    let rest := s.boats.filter fun (b : Boat) => !(b.core == core && b.part == part)
    let can := mine.filter fun b => !b.members.isEmpty && b.members.all s.readyId
    match sortBy (·.cls) (sortBy (fun b => if 16 ≤ s.passes b then 0 else 1) (sortBy (·.issued) can)) with
    | [] => s
    | b :: _ =>
      let others := (can.filter fun x => x.cls == b.cls && x != b).flatMap (·.members)
      { s.bump with
        crews := s.crews.map fun (c : Crew) => if others.contains c.id then { c with passed := c.passed + 1 } else c
        boats := mine.map (fun (x : Boat) => if x == b then { b with ran := true, issued := (s.cycles core).toNat + 1 } else x) ++ rest
        boatOut := s.boatOut ++ [(core, part)]
        issueQ := s.issueQ ++ sortBy (fun id => Config.orderKey s.fresh id) b.members }

/-- The cycle's count of R117: a crew that is ready and has not issued is one cycle older, any other starts again. -/
def State.ages (s : State) : State :=
  { s with crews := s.crews.map fun (c : Crew) =>
      if (s.region (regionOf c.core)).stopped then c else { c with age := if s.ready c then c.age + 1 else 0 } }

/-- AGE_PROMOTION: a ready crew that has not issued for AGE_LIMIT consecutive cycles rises one class and its count restarts (R117). -/
def execAgePromotion (crew : Nat) (s : State) : Out State :=
  .next <|
    match s.crew? crew with
    | none => s
    | some c =>
      if s.ready c && decide (s.schedAge ≤ c.age) && decide (c.raised < classNat c.role) then
        s.setCrew { c with raised := c.raised + 1, age := 0 }
      else s

end Sys2Proof.Machine
end

