-- ==== Sys2Proof/Machine/Copy.lean ====
section
/-! DEFINITION. What engines do with bytes (spec/11_engines.md R300 to R306, R311 to R317): where a command's addresses lie, when a byte may
be read or written, the stream of bytes of a command, a chunk of it, and the end of a command. -/

namespace Sys2Proof.Machine

/-! ## Places -/

/-- A byte an engine touches: its target (0 deck, 1 HBM, 2 remote, 3 host, 4 pool as in R187; 5 squad memory) and its address. -/
def place (tgt off : Nat) : Nat := tgt * 2 ^ 56 + off
def placeTgt (p : Nat) : Nat := p / 2 ^ 56
def placeOff (p : Nat) : Nat := p % 2 ^ 56

/-- What keeps an engine from a byte: a status, or a wait with the requests it makes first. -/
inductive Stop where
  | fail (code detail : Nat)
  | wait (req : List CxlReq)
  deriving DecidableEq, Repr

/-- A translation as the engines of a die make it (R300). -/
def State.engTranslate (s : State) (die : Nat) (asid : BitVec 12) (va : Nat) : Option Leaf :=
  match s.tlb.find? (fun e => e.place == .die die && e.asid == asid && e.gen == (s.ctx asid).gen && e.page == va / 2 ^ e.leaf.bits) with
  | some e => if Config.tlbHeld s.fresh 3 then some e.leaf else s.walk die asid va
  | none => s.walk die asid va

def State.poolLost (s : State) (a : Nat) : Bool := s.lostPools.any fun r => decide (r.1 ≤ a) && decide (a < r.1 + r.2)

/-- The place of an engine address (R297, R300), for the targets a function allows. Where several failures apply, the permission comes before the target,
and both before a failed pool (R300 gives no order; DESIGN CHOICE, log 89). -/
def State.engPlace (s : State) (c : Cmd) (va : Nat) (write : Bool) (allow : Nat → Bool) : Except Stop Nat :=
  if 2 ^ 48 ≤ va then .error (.fail 1 3)
  else if va < 2 ^ 47 then
    match s.engTranslate (dieOf c.core) c.asid va with
    | none => .error (.fail 1 1)
    | some l =>
      if (l.p && !c.priv) || (if write then !l.w else !l.r) then .error (.fail 1 2)
      else if !allow l.tgt.toNat then .error (.fail 1 3)
      else if l.tgt == 4 && s.poolLost (l.phys va) then .error (.fail 3 0)
      else .ok (place l.tgt.toNat (l.phys va))
  else if va < Config.squadBase || Config.spillBase ≤ va || !allow 5 then .error (.fail 1 3)
  else if va - Config.squadBase < ((s.squad? c.squad).map (·.memLen)).getD 0 then .ok (place 5 (va - Config.squadBase))
  else .error (.fail 1 4)

def local_ (t : Nat) : Bool := t == 0 || t == 1 || t == 5

/-! ## When a byte may be read or written -/

def State.hlcPoison (s : State) (line : Nat) (pool : Bool) : Bool := s.hlc.any fun h => h.line == line && h.pool == pool && h.pois

/-- An access to HBM waits until the page's stack is trained (R401), and on a host-bias page for the host's answer for its line (R312). -/
def State.biasStop (s : State) (off : Nat) (write : Bool) : Option Stop :=
  if !s.hbmUp.getLsbD (Config.hbmStack (off / 16384)).val then some (.wait [])
  else if !s.biasHost.contains (off / 16384) then none
  else if s.granted.contains (off / 64, if write then .owned else .shared) then none
  else some (.wait [⟨if write then .biSnpInv else .biSnpData, off / 64, false, false⟩])

/-- The request for a host or pool line the HLC does not hold (R311, R314): RdShared and RdOwn on H0; on H1 MemRdData and MemRd (PRESUMED: the table
of R311 does not say which of its requests stands for which, log 76). -/
def lineRequest (own pool : Bool) (line : Nat) : CxlReq :=
  ⟨match own, pool with | false, false => .rdShared | true, false => .rdOwn | false, true => .memRdData | true, true => .memRd, line, pool, false⟩

/-- Why an engine may not read a byte now (R304, R312, R314, R315). -/
def State.readStop (s : State) (c : Cmd) (p : Nat) : Option Stop :=
  let off := placeOff p
  match placeTgt p with
  | 0 =>
    if c.waitLines.contains (off / 128) then some (.wait [])
    else if s.present (off / 128) && s.poisoned (off / 128) then some (.fail 2 0) else none
  | 1 =>
    match s.biasStop off false with
    | some x => some x
    | none => if s.hbmPoison.contains off then some (.fail 2 0) else none
  | 3 =>
    if s.hlcState (off / 64) false == .i then some (.wait [lineRequest false false (off / 64)])
    else if s.hlcPoison (off / 64) false then some (.fail 2 0) else none
  | 4 =>
    if s.hlcState (off / 64) true == .i then some (.wait [lineRequest false true (off / 64)])
    else if s.hlcPoison (off / 64) true then some (.fail 2 0) else none
  | _ => none

/-- Why an engine may not write a byte now: home has not ended the clear of its line (R251), or R312, R314. -/
def State.writeStop (s : State) (p : Nat) : Option Stop :=
  let off := placeOff p
  let own (pool : Bool) : Option Stop :=
    match s.hlcState (off / 64) pool with
    | .i | .s => some (.wait [lineRequest true pool (off / 64)])
    | .m | .e | .o => none
  match placeTgt p with
  | 0 => if (s.dirOf (off / 128)).busy then some (.wait []) else none
  | 1 => s.biasStop off true
  | 3 => own false
  | 4 => own true
  | _ => none

/-- Why an engine may not write a byte of a command now; SCATADD reads it first (R305, R315). -/
def State.dstStop (s : State) (c : Cmd) (p : Nat) : Option Stop :=
  match c.fn == .scatadd && placeTgt p != 0, s.readStop c p with
  | true, some x => some x
  | _, _ => s.writeStop p

/-- The byte at a place. -/
def State.byteAt (s : State) (sq p : Nat) : Byte :=
  let off := placeOff p
  match placeTgt p with
  | 0 => s.deck.read off
  | 1 => s.hbm.read off
  | 3 => s.host.read off
  | 4 => s.pool.read off
  | _ => ((s.squad? sq).map fun q => q.mem.read off).getD 0

/-- An HLC line after an engine read: an M line read by a second command turns O (R314). -/
def HlcLine.readBy (h : HlcLine) (cmd : Nat) : HlcLine :=
  { h with st := if h.st == .m && h.by_ != 0 && h.by_ != cmd then .o else h.st, by_ := cmd }
def State.hlcRead (s : State) (p cmd : Nat) : State :=
  if placeTgt p == 3 || placeTgt p == 4 then
    { s with hlc := s.hlc.map fun (h : HlcLine) => if h.line == placeOff p / 64 && h.pool == (placeTgt p == 4) then h.readBy cmd else h }
  else s

/-- Bytes written at a place by an engine (R304, R314, R315). -/
def State.putBytes (s : State) (sq p : Nat) (bs : List Byte) : State :=
  let off := placeOff p
  match placeTgt p with
  | 0 => s.agentWriteN off bs
  | 1 => { s with hbm := s.hbm.writeN off bs, hbmPoison := s.hbmPoison.filter fun a => decide (a < off) || decide (off + bs.length ≤ a) }
  | 3 => ({ s with host := s.host.writeN off bs } : State).hlcWritten false off bs.length
  | 4 => ({ s with pool := s.pool.writeN off bs } : State).hlcWritten true off bs.length
  | _ => s.squadWrite sq off bs

/-- Consecutive places joined into runs. -/
def runsOf : List (Nat × Byte) → List (Nat × List Byte)
  | [] => []
  | (p, b) :: r =>
    match runsOf r with
    | [] => [(p, [b])]
    | (q, bs) :: t => if q == p + 1 then (p, b :: bs) :: t else (p, [b]) :: (q, bs) :: t

/-! ## Arguments (R302, R303, R305, R306, R308) -/

def Cmd.arg (c : Cmd) (k : Nat) : Nat := (c.args.getD k 0).toNat
/-- CONTROL is bad when a reserved bit is set, or BB names a record that is misaligned or beyond the squad-memory bytes (R302). -/
def State.controlBad (s : State) (c : Cmd) : Bool :=
  decide (2 ^ 19 ≤ c.arg 0) || (bits (c.arg 0) 18 18 == 1 && (bits (c.arg 0) 17 0 % 16 != 0
    || decide (((s.squad? c.squad).map (·.memLen)).getD 0 < bits (c.arg 0) 17 0 + 16)))

def sx32 (x : Nat) : Int := (BitVec.ofNat 32 x).toInt
/-- Element size of XGE (R305), and of XCL (R308). -/
def gElem (e : Nat) : Nat := match bits e 35 32 with | 0 => 4 | 1 => 8 | 2 => 16 | 3 => 64 | 4 => 128 | _ => 0
def cElem (e : Nat) : Nat := match bits e 35 32 with | 0 => 4 | 1 => 4 | 2 => 2 | 3 => 8 | _ => 0

/-- Bytes of a command (R303, R305). A COPYR and a collective count theirs in the same way; EASE, WAKE and BARRIER have none. -/
def Cmd.total (c : Cmd) : Nat :=
  match c.fn with
  | .copy1 | .fill | .copyr | .copyh => bits (c.arg 1) 31 0
  | .copy2 => bits (c.arg 1) 31 0 * bits (c.arg 1) 63 32
  | .copyt => bits (c.arg 1) 31 0 * bits (c.arg 1) 47 32 * bits (c.arg 1) 63 48
  | .gather | .scatter | .scatadd | .gatherq => bits (c.arg 1) 31 0 * gElem (c.arg 1)
  | .allred => bits (c.arg 1) 31 0 * cElem (c.arg 1)
  | .redscat => bits (c.arg 1) 31 0 * cElem (c.arg 1) / c.ranks
  | .allgath => bits (c.arg 1) 31 0 * cElem (c.arg 1) * c.ranks
  | .barrier | .ease | .wake => 0

/-- Arguments that make a command complete with ABORTED, detail 1 (R302, R303, R306, R308); EASE and WAKE check theirs in R421. A group descriptor that is not
16-aligned (R307) is one of them (DESIGN CHOICE, log 92). -/
def State.argsBad (s : State) (c : Cmd) : Bool :=
  let e := c.arg 1
  let count := bits e 31 0
  match c.fn with
  | .ease | .wake => false
  | .copy1 | .copyh => s.controlBad c || decide (2 ^ 32 ≤ e) || e == 0
  | .fill => s.controlBad c || decide (2 ^ 32 ≤ e) || e == 0
  | .copy2 | .copyt => s.controlBad c || c.total == 0
  | .copyr => s.controlBad c || decide (2 ^ 32 ≤ e) || e == 0 || decide (3 ≤ c.arg 2)
  | .gather | .scatter => s.controlBad c || decide (2 ^ 36 ≤ e) || count == 0 || decide (2 ^ 24 < count) || gElem e == 0 || c.arg 2 % 4 != 0
  | .gatherq => s.controlBad c || e != 2 ^ 32 + count || count == 0 || decide (16 < count) || c.arg 2 % 4 != 0
  | .scatadd => s.controlBad c || decide (2 ^ 40 ≤ e) || count == 0 || decide (2 ^ 24 < count) || c.arg 2 % 4 != 0
      || decide (2 < bits e 39 36) || gElem e != (if bits e 39 36 == 2 then 8 else 4)
  | .barrier => s.controlBad c || c.opA.toNat % 16 != 0
  | .allred | .redscat | .allgath => s.controlBad c || decide (2 ^ 40 ≤ e) || count == 0 || decide (2 ^ 28 < count) || cElem e == 0
      || decide (2 < bits e 39 36) || c.opA.toNat % 16 != 0

/-! ## The stream of a command -/

/-- A byte that a command reads: one it has overwritten is the original or what it has written, as a free choice says (R304, R306, log 13). -/
def Cmd.overlapped (c : Cmd) (p choice : Nat) (now : Byte) : Byte :=
  match c.before.find? (·.1 == p) with
  | some e => if Config.overlapOld c.id choice then e.2 else now
  | none => now

/-- An index X[i] of XGE (R305, R306). One that the command has overwritten is the original or what it has written, as the free choice of its bytes says, which
is numbered after those of the stream (DESIGN CHOICE, log 13). -/
def State.indexAt (s : State) (c : Cmd) (i : Nat) : Except Stop Nat := do
  let ps ← (List.range 4).mapM fun j => s.engPlace c (c.arg 2 + 4 * i + j) false fun t => t == 0 || t == 5
  match ps.findSome? fun p => s.readStop c p with
  | some x => .error x
  | none => .ok (leNat (ps.zipIdx.map fun x => c.overlapped x.1 (2 ^ 32 + 4 * i + x.2) (s.byteAt c.squad x.1)))

/-- The processing order of a command's elements: ascending; of SCATTER and SCATADD free (R305, log 15). -/
def Cmd.order (c : Cmd) : List Nat :=
  let n := bits (c.arg 1) 31 0
  if c.fn == .scatter || c.fn == .scatadd then
    sortBy (fun a => Config.orderKey c.id a) (List.range n)
  else List.range n

/-- The destination address of byte k (R303, R305). -/
def State.dstVa (s : State) (c : Cmd) (order : List Nat) (k : Nat) : Except Stop Nat :=
  let a := c.opA.toNat
  let z := gElem (c.arg 1)
  let i := order.getD (k / z) 0
  match c.fn with
  | .copy2 => .ok (((a : Int) + (k / bits (c.arg 1) 31 0) * sx32 (c.arg 2) + (k % bits (c.arg 1) 31 0 : Nat)) % 2 ^ 64).toNat
  | .copyt =>
    let x := bits (c.arg 1) 31 0
    let y := bits (c.arg 1) 47 32
    .ok (((a : Int) + (k / x % y : Nat) * sx32 (c.arg 2) + (k / (x * y) : Nat) * sx32 (c.arg 2 / 2 ^ 32) + (k % x : Nat)) % 2 ^ 64).toNat
  | .scatter | .scatadd => (s.indexAt c i).map fun j => (a + j * z + k % z) % 2 ^ 64
  | .allred | .redscat | .allgath => .ok ((c.arg 2 + k) % 2 ^ 64)
  | _ => .ok ((a + k) % 2 ^ 64)

/-- The source address of byte k (R303, R305). -/
def State.srcVa (s : State) (c : Cmd) (order : List Nat) (k : Nat) : Except Stop Nat :=
  let b := c.opB.toNat
  let z := gElem (c.arg 1)
  let i := order.getD (k / z) 0
  match c.fn with
  | .copy2 => .ok (((b : Int) + (k / bits (c.arg 1) 31 0) * sx32 (c.arg 2 / 2 ^ 32) + (k % bits (c.arg 1) 31 0 : Nat)) % 2 ^ 64).toNat
  | .copyt =>
    let x := bits (c.arg 1) 31 0
    let y := bits (c.arg 1) 47 32
    .ok (((b : Int) + (k / x % y : Nat) * sx32 (c.arg 3) + (k / (x * y) : Nat) * sx32 (c.arg 3 / 2 ^ 32) + (k % x : Nat)) % 2 ^ 64).toNat
  | .gather | .gatherq => (s.indexAt c i).map fun j => (b + j * z + k % z) % 2 ^ 64
  | .scatter | .scatadd => .ok ((b + i * z + k % z) % 2 ^ 64)
  | _ => .ok ((b + k) % 2 ^ 64)

/-- Targets a function may write (R303, R305, R308). -/
def Cmd.dstOk (c : Cmd) (t : Nat) : Bool :=
  match c.fn with
  | .copyr => if c.out then t == 2 else local_ t
  | .copyh => if c.out then t == 3 || t == 4 else local_ t
  | .gather | .scatter | .scatadd => local_ t || t == 3 || t == 4
  | .allred | .redscat | .allgath => t == 0 || t == 1
  | _ => local_ t
/-- Targets a function may read. -/
def Cmd.srcOk (c : Cmd) (t : Nat) : Bool :=
  match c.fn with
  | .copyr => if c.out then local_ t else t == 2
  | .copyh => if c.out then local_ t else t == 3 || t == 4
  | .gather | .scatter | .scatadd => local_ t || t == 3 || t == 4
  | .allred | .redscat | .allgath => t == 0 || t == 1
  | _ => local_ t

/-- The place of byte k of the destination; SCATADD reads there as well as it writes (R300, R305). -/
def State.dstPlace (s : State) (c : Cmd) (order : List Nat) (k : Nat) : Except Stop Nat :=
  (s.dstVa c order k).bind fun va =>
    if c.fn == .scatadd then (s.engPlace c va false c.dstOk).bind fun _ => s.engPlace c va true c.dstOk else s.engPlace c va true c.dstOk
def State.srcPlace (s : State) (c : Cmd) (order : List Nat) (k : Nat) : Except Stop Nat :=
  (s.srcVa c order k).bind fun va => s.engPlace c va false c.srcOk

/-- The aligned 16-byte piece of the destination that byte k of a COPY2 or COPYT lies in. -/
def State.pieceNo (s : State) (c : Cmd) (k : Nat) : Option Nat :=
  match s.dstVa c [] k with
  | .ok va => some (va / 16)
  | .error _ => none
/-- Bytes [k, e) extended until no aligned piece is split between them and the bytes after them (R304). -/
def State.wholePieces (s : State) (c : Cmd) (k : Nat) : Nat → Nat → Nat
  | 0, e => e
  | fuel + 1, e =>
    let here := (List.range (e - k)).map fun j => s.pieceNo c (k + j)
    match ((List.range (c.total - e)).filter fun j => here.contains (s.pieceNo c (e + j))).getLast? with
    | none => e
    | some j => s.wholePieces c k fuel (e + j + 1)
/-- Where the unit of byte k ends: bytes up to it are written together (R304, R306). -/
def State.unitEnd (s : State) (c : Cmd) (k dva : Nat) : Nat :=
  let piece := 16 - dva % 16
  match c.fn with
  | .copy2 | .copyt => s.wholePieces c k c.total (k + 1)
  | .gather | .scatter | .scatadd | .gatherq =>
    let z := gElem (c.arg 1)
    k + if z ≤ 8 then z - k % z else min piece (z - k % z)
  | _ => k + piece

/-! ## Reading and writing one unit -/

/-- A chunk under way: bytes written so far, newest first; bytes overwritten by the command with their values before; the places
it has read. -/
structure Chunk where
  s    : State
  c    : Cmd
  pend : List (Nat × Byte)
  stop : Option Stop
  reads : List Nat := []

/-- The value at a place as a chunk sees it now. -/
def Chunk.now (x : Chunk) (p : Nat) : Byte :=
  match x.pend.find? (·.1 == p) with
  | some e => e.2
  | none => x.s.byteAt x.c.squad p
/-- A source byte (R304, R306). -/
def Chunk.source (x : Chunk) (p k : Nat) : Byte := x.c.overlapped p k (x.now p)

/-- One source byte of the stream, with its place when it is a memory byte. -/
def Chunk.srcByte (x : Chunk) (order : List Nat) (k : Nat) : Except Stop (Option Nat × Byte) :=
  match x.c.fn with
  | .fill => .ok (none, BitVec.ofNat 8 (x.c.arg 2 / 256 ^ (k % 8)))
  | _ =>
    if x.c.fn == .copyr && !x.c.out then
      match x.c.inbuf[k - x.c.delivered]? with
      | some b => .ok (none, b)
      | none => .error (.wait [])
    else
      match x.s.srcPlace x.c order k with
      | .error e => .error e
      | .ok p =>
        match x.s.readStop x.c p with
        | some e => .error e
        | none => .ok (some p, x.source p k)

/-- OP of SCATADD (R305). -/
def scatOp (e old b : Nat) : Nat :=
  match bits e 39 36 with
  | 1 => atomOp .addF 32 old b
  | 2 => atomOp .add 64 old b
  | _ => atomOp .add 32 old b

/-- One unit of a stream moved; the chunk stops before a unit that cannot move whole. A failure of its source comes before one of its destination (DESIGN
CHOICE, log 89). -/
def Chunk.unit (order : List Nat) (x : Chunk) : Chunk :=
  let k := x.c.delivered
  match x.s.dstVa x.c order k with
  | .error e => { x with stop := some e }
  | .ok dva =>
    let ks := (List.range (min (x.s.unitEnd x.c k dva) x.c.total - k)).map (k + ·)
    let srcs := ks.mapM (x.srcByte order)
    let dsts := ks.mapM fun j => do
      let p ← x.s.dstPlace x.c order j
      match x.s.dstStop x.c p with
      | some e => .error e
      | none => .ok p
    match srcs, dsts with
    | .error e, .error (.fail a b) => { x with stop := some (match e with | .fail c d => .fail c d | .wait _ => .fail a b) }
    | .error e, _ => { x with stop := some e }
    | _, .error e => { x with stop := some e }
    | .ok ss, .ok ps =>
      let new := ss.map (·.2)
      let new := if x.c.fn == .scatadd then
          leBytes ps.length (scatOp (x.c.arg 1) (leNat (ps.map x.now)) (leNat new)) else new
      let s := (ss.filterMap (·.1)).foldl (fun (s : State) p => s.hlcRead p x.c.id) x.s
      { x with
        s := s
        c := { x.c with
          before := (ps.filter fun p => !x.c.before.any (·.1 == p)).map (fun p => (p, x.now p)) ++ x.c.before
          inbuf := if x.c.fn == .copyr then x.c.inbuf.drop ps.length else []
          delivered := k + ps.length }
        pend := (ps.zip new).reverse ++ x.pend
        reads := ss.filterMap (·.1) ++ (if x.c.fn == .scatadd then ps else []) ++ x.reads }

/-- Units until a byte count is reached or one cannot move. -/
def Chunk.units (order : List Nat) (goal : Nat) : Nat → Chunk → Chunk
  | 0, x => x
  | fuel + 1, x => if x.stop.isSome || goal ≤ x.c.delivered then x else Chunk.units order goal fuel (x.unit order)

/-! ## What follows a chunk -/

/-- The bytes a chunk wrote, in memory. -/
def Chunk.write (x : Chunk) : State := (runsOf x.pend.reverse).foldl (fun (s : State) r => s.putBytes x.c.squad r.1 r.2) x.s

/-- The host's answers for HBM lines that an engine has read or written are spent (R312). -/
def State.spend (s : State) (reads writes : List Nat) : State :=
  let hit (ps : List Nat) (line : Nat) : Bool := ps.any fun p => placeTgt p == 1 && placeOff p / 64 == line
  { s with granted := s.granted.filter fun (g : Nat × CxlGrant) => !(g.2 == .owned && hit writes g.1) && !(g.2 == .shared && hit reads g.1) }

/-- Bytes added to the LANDED count of the record a command names (R237, R302). -/
def State.land (s : State) (c : Cmd) (n : Nat) : State :=
  if bits (c.arg 0) 18 18 == 1 && n != 0 && !s.controlBad c then
    let off := bits (c.arg 0) 17 0 + 8
    let v := ((s.squad? c.squad).map fun q => leNat (q.mem.readN off 8)).getD 0
    s.squadWrite c.squad off (leBytes 8 (v + n))
  else s
/-- The bytes of a command up to delivered counted for its record, none twice (R302, R313). -/
def State.landTo (s : State) (c : Cmd) : State :=
  (s.setCmd { c with landed := max c.landed c.delivered }).land c (c.delivered - c.landed)

/-- The deck lines among the destinations of the bytes [from, to) of a command, each found at its first byte or at an edge of the stream. -/
def State.dstLines (s : State) (c : Cmd) (order : List Nat) (from_ to_ : Nat) : List Nat :=
  ((List.range (to_ - from_)).filterMap fun j =>
    match s.dstPlace c order (from_ + j) with
    | .ok p => if placeTgt p == 0 then some (placeOff p / 128) else none
    | .error _ => none).dedup
/-- Whether a command writes every byte of a deck line (R180). -/
def State.writesWhole (s : State) (c : Cmd) (order : List Nat) (line : Nat) : Bool :=
  let offs := (List.range c.total).filterMap fun k =>
    match s.dstPlace c order k with
    | .ok p => if placeTgt p == 0 && placeOff p / 128 == line then some (placeOff p % 128) else none
    | .error _ => none
  offs.dedup.length == 128

/-- The lines whose last byte of the command has arrived are present again (R179, R304). -/
def State.settleArrived (s : State) (id : Nat) (order : List Nat) : State :=
  match s.cmd? id with
  | none => s
  | some c =>
    let left := s.dstLines c order c.delivered c.total
    let done := c.cleared.filter fun l => !left.contains l
    let s := done.foldl (fun (s : State) l => s.settleLine l id false (s.writesWhole c order l)) s
    s.setCmd { c with cleared := c.cleared.filter left.contains }

/-- The HBM page of the next source byte of a command, when it is read under device bias (R312, R313). -/
def State.srcPage (s : State) (c : Cmd) (order : List Nat) (k : Nat) : Option Nat :=
  if c.total ≤ k || c.fn == .fill then none
  else
    match s.srcPlace c order k with
    | .ok p => if placeTgt p == 1 then some (placeOff p / 16384) else none
    | .error _ => none
def State.dstPage (s : State) (c : Cmd) (order : List Nat) (k : Nat) : Option Nat :=
  match s.dstPlace c order k with
  | .ok p => if placeTgt p == 1 then some (placeOff p / 16384) else none
  | .error _ => none

/-- A command that has written a part of an HBM page and has more to write there (R313). -/
def State.midWrite (s : State) (page : Nat) : Bool := s.cmds.any fun c =>
  c.number != 0 && c.status.isNone && c.delivered != 0 && decide (c.delivered < c.total) && c.fn.copyOrGather
    && s.dstPage c c.order (c.delivered - 1) == some page && s.dstPage c c.order c.delivered == some page
/-- Flips to host bias whose page no engine is reading or writing take place (R313). -/
def State.doFlips (s : State) : State :=
  let go := s.flips.filter fun p => !s.reading.any (·.1 == p) && !s.midWrite p
  { s with flips := s.flips.filter fun p => !go.contains p, biasHost := go ++ s.biasHost }

/-- The engine's read marks after a chunk of n bytes: the page whose part is not finished (R313). -/
def State.markReading (s : State) (id n : Nat) (order : List Nat) : State :=
  let rest := s.reading.filter (·.2 != id)
  match s.cmd? id with
  | none => { s with reading := rest }
  | some c =>
    let next := if c.status.isSome then none else s.srcPage c order c.delivered
    let keep := match next with
      | none => []
      | some p => if n == 0 || (c.delivered != 0 && s.srcPage c order (c.delivered - 1) == some p) then [(p, id)] else []
    { s with reading := keep ++ rest }

/-- The byte of the stream written that byte k of the stream read makes (R303, R308). -/
def Cmd.outOf (c : Cmd) (k : Nat) : Option Nat :=
  let size := bits (c.arg 1) 31 0 * cElem (c.arg 1)
  let rank := c.peers.idxOf Config.packageId
  match c.fn with
  | .allgath => some (rank * size + k)
  | .redscat => if rank * (size / c.ranks) ≤ k && k < (rank + 1) * (size / c.ranks) then some (k - rank * (size / c.ranks)) else none
  | .barrier | .ease | .wake => none
  | _ => some k
/-- The source and destination places of the bytes of one 64-byte CXL line, from byte k of a command's stream on (R315). -/
def State.linePlaces (s : State) (c : Cmd) (order : List Nat) (k : Nat) : List (Nat × Nat) :=
  let src (j : Nat) : Option Nat := match s.srcPlace c order j with
    | .ok p => if placeTgt p == 1 || placeTgt p == 3 || placeTgt p == 4 then some p else none
    | .error _ => none
  let line := (src k).map (· / 64)
  ((List.range 64).map (k + ·)).filterMap fun j =>
    if (src j).map (· / 64) != line || c.total ≤ j && c.fn.copyOrGather then none
    else
      match src j, (c.outOf j).map (s.dstPlace c order) with
      | some p, some (.ok d) => some (p, d)
      | _, _ => none
/-- Poison on its way to HBM, the host or a pool is an engine write: it waits for the host's answer, or for the line, as one does (R312, R314,
R315). -/
def State.poisonStop (s : State) (c : Cmd) (order : List Nat) (k : Nat) : Option Stop :=
  (s.linePlaces c order k).findSome? fun x => if placeTgt x.2 == 1 || placeTgt x.2 == 3 || placeTgt x.2 == 4 then s.writeStop x.2 else none
/-- CXL data that carries poison (R315), the bytes of one line from byte k of the stream on: in HBM they are stored with a poison mark, and toward the
host or a pool they are sent with the poison flag. -/
def State.poisonOut (s : State) (c : Cmd) (order : List Nat) (k : Nat) : State :=
  let ps := s.linePlaces c order k
  (ps.foldl (fun (t : State) x =>
    let d := x.2
    if placeTgt d == 1 then
      { t with hbm := t.hbm.write (placeOff d) (s.byteAt c.squad x.1), hbmPoison := placeOff d :: t.hbmPoison }
    else if placeTgt d == 3 || placeTgt d == 4 then
      { t with hlc := t.hlc.map fun (h : HlcLine) =>
          if h.line == placeOff d / 64 && h.pool == (placeTgt d == 4) then { h with pois := true, st := .m, by_ := 0 } else h }
    else t) s).spend [] (ps.map (·.2))
/-- The first byte of a command's stream from k on whose source an engine finds poisoned. -/
def State.poisonAtByte (s : State) (c : Cmd) (order : List Nat) (k n : Nat) : Option Nat :=
  ((List.range n).map (k + ·)).find? fun j => match s.srcPlace c order j with
    | .ok p => s.readStop c p == some (.fail 2 0)
    | .error _ => false
/-- What a command that meets a stop leaves: a wait's requests; or its status, after poisoned CXL data has gone where it was bound (R315). -/
def State.stopAt (s : State) (c : Cmd) (order : List Nat) (n : Nat) (e : Stop) : State :=
  let fail (s : State) (a b : Nat) : State :=
    match s.cmd? c.id with
    | none => s
    | some d => s.setCmd { d with status := some (d.status.getD (BitVec.ofNat 8 a, BitVec.ofNat 8 b)) }
  match e with
  | .wait rs => s.request rs
  | .fail 2 b =>
    match s.poisonAtByte c order c.delivered n with
    | none => fail s 2 b
    | some k =>
      match s.poisonStop c order k with
      | some (.wait rs) => s.request rs
      | some (.fail a b) => fail s a b
      | none => fail (s.poisonOut c order k) 2 b
  | .fail a b => fail s a b

/-- A chunk of at most n bytes of a local command (R304 to R306, R312 to R315). -/
def State.moveChunk (s : State) (c : Cmd) (n : Nat) : State :=
  let order := c.order
  let x := Chunk.units order (min (c.delivered + n) c.total) n { s := s, c := c, pend := [], stop := none }
  let s := x.write.landTo x.c
  let s := s.settleArrived c.id order
  let s := s.spend x.reads (x.pend.map (·.1))
  let s := match x.stop with
    | none => s
    | some e => s.stopAt x.c order n e
  (s.markReading c.id n order).doFlips.pollWaitc

end Sys2Proof.Machine
end

