-- ==== Sys2Proof/Machine/Remote.lean ====
section
/-! DEFINITION. Remote copies (spec/11_engines.md R303; spec/18_prog_pod.md R433; spec/19_prog_links.md R440, R441): pieces, the link of a
command, what is sent, what is received and how a peer's read request is answered. -/

namespace Sys2Proof.Machine

/-! ## Payloads of far-link data flits (R440) -/

def payloadOf (bs : List Byte) : BitVec 512 := BitVec.ofNat 512 (leNat bs)
/-- A header (KIND 1), completion (KIND 2) or read request (KIND 3). -/
def headPayload (kind count addr : Nat) (tag : DWord) : BitVec 512 :=
  payloadOf (leBytes 4 kind ++ leBytes 4 count ++ leBytes 8 addr ++ leBytes 8 tag.toNat)
/-- The payload flits of a piece: 64 bytes each, the last filled with zeros. -/
def dataPayloads (bs : List Byte) : List (BitVec 512) :=
  (List.range ((bs.length + 63) / 64)).map fun i => payloadOf ((bs.drop (64 * i)).take 64)

def State.link (s : State) (l : Nat) : Link := s.links.getD l Link.reset
def State.setLink (s : State) (l : Nat) (f : Link → Link) : State := { s with links := s.links.mapIdx fun j x => if j == l then f x else x }
/-- The command's status when it fails. -/
def State.failCmd (s : State) (id code detail : Nat) : State :=
  { s with cmds := s.cmds.map fun (c : Cmd) =>
      if c.id == id && c.status.isNone then { c with status := some (BitVec.ofNat 8 code, BitVec.ofNat 8 detail) } else c }
/-- An event record of a link (R423): the hub, with the link's number as unit. -/
def State.linkEvent (s : State) (type l : Nat) (detail : List (Nat × Nat)) : State := s.event type 4 l l detail

/-! ## CRC-32C (R326, R406) -/

/-- One bit of the reflected Castagnoli CRC. -/
def crcBit (c : BitVec 32) : BitVec 32 := if c.getLsbD 0 then (c >>> 1) ^^^ 0x82F63B78 else c >>> 1
def crcBits : Nat → BitVec 32 → BitVec 32
  | 0, c => c
  | n + 1, c => crcBits n (crcBit c)
/-- CRC-32C of a list of bytes. -/
def crc32c (bs : List Byte) : BitVec 32 := ~~~ bs.foldl (fun c b => crcBits 8 (c ^^^ b.zeroExtend 32)) 0xFFFFFFFF

/-! ## Flits (R406, R408) -/

def flitTail (body : List Byte) : BitVec 576 := BitVec.ofNat 576 (leNat (body ++ leBytes 4 (crc32c body).toNat))
/-- A flit of a type with its payload. -/
def flitOf (seq : BitVec 16) (type : Nat) (payload : BitVec 512) : BitVec 576 :=
  flitTail (leBytes 2 seq.toNat ++ leBytes 1 type ++ [0] ++ leBytes 64 payload.toNat)
/-- A control flit of this package waits to be sent, ahead of every data flit (R408, R411, R412, R414). -/
def controlFlit (x : Link) (what : Nat) (transmit receive : BitVec 16) : BitVec 576 :=
  flitOf x.txSeq 4 (Config.controlPayload what transmit receive x.parked)
def Link.tells (x : Link) (what : Nat) (transmit receive : BitVec 16) : Link :=
  { x with ctlOut := x.ctlOut ++ [controlFlit x what transmit receive] }
/-- States in which flits pass (R418, R412, R414). -/
def Link.speaks (x : Link) : Bool := x.state == .up || x.state == .narrowing || x.state == .waking || x.state == .draining

/-! ## Width commands of a link (R415, R421, R422) -/

/-- The first width command of a link ends; an engine command gets its status. -/
def State.endLinkCmd (s : State) (l code detail : Nat) : State :=
  match (s.link l).cmds with
  | [] => s
  | h :: r =>
    let s := s.setLink l fun (x : Link) => { x with cmds := r }
    match h.cmd with
    | none => s
    | some id => s.failCmd id code detail

/-- A width command with a mask or an entry that R421 does not allow. -/
def widthBad (c : Cmd) : Bool :=
  decide (2 ^ 16 ≤ c.opB.toNat)
    || (c.fn == .ease && (decide (2 ^ 17 ≤ (c.args.headD 0).toNat) || decide (4096 < bits (c.args.headD 0).toNat 15 0)))

/-- The first width command of a link begins (R421): what needs no change of width ends at once. The two ends agree by control flits: of an ease
that is the whole change, of a wake the last of its steps (R414). -/
def State.startWidth (s : State) (l : Nat) : Nat → State
  | 0 => s
  | fuel + 1 =>
    let x := s.link l
    match x.cmds with
    | [] => s
    | h :: r =>
      let c := h.cmd.bind s.cmd?
      if (c.map widthBad).getD false then (s.endLinkCmd l 5 1).startWidth l fuel
      else if x.state == .quarantine then (s.endLinkCmd l 6 l).startWidth l fuel
      else if h.started || x.state == .narrowing then s
      else if h.ease then
        let p := h.mask &&& x.lit
        let e := (c.map fun c => (c.args.headD 0).toNat).getD 0
        if p == x.lit then (s.endLinkCmd l 5 1).startWidth l fuel
        else
          let s := if bits e 15 0 == 0 then s else s.setLink l fun (x : Link) => { x with wakeDepth := bits e 15 0, auto := bits e 16 16 == 1 }
          if p == 0 then (s.endLinkCmd l 0 0).startWidth l fuel
          else s.setLink l fun (x : Link) => Link.tells { x with cmds := { h with mask := p, started := true } :: r } 2 (x.lit &&& ~~~p) x.rxLit
      else
        let w := h.mask &&& x.parked
        if w == 0 then (s.endLinkCmd l 0 0).startWidth l fuel
        else if x.state == .up || x.state == .waking || x.state == .draining then
          s.setLink l fun (x : Link) =>
            { x with parked := x.parked &&& ~~~w, waking := x.waking ||| w, state := if x.state == .up then .waking else x.state, told := false
                     cmds := { h with started := true } :: r }
        else s
def State.startLink (s : State) (l : Nat) : State := s.startWidth l ((s.link l).cmds.length + 1)

/-- The condition of an automatic wake (R415). -/
def Link.wantsWake (x : Link) : Bool :=
  x.auto && x.speaks && x.parked != 0 && decide (x.wakeDepth ≤ x.egress.length) && !x.cmds.any (·.cmd.isNone)
/-- An automatic wake joins its link's commands, with its event and the depth that asks for it (R415, R422). -/
def State.autoWake (s : State) (l depth : Nat) : State :=
  let x := s.link l
  if !x.wantsWake then s
  else
    ((s.setLink l fun (x : Link) => { x with cmds := x.cmds ++ [⟨none, false, 0xFFFF, false⟩] }).linkEvent 0x54 l
      [(x.parked.toNat, 2), (depth, 2)]).startLink l
/-- Payloads of data flits join the egress queue of a link, which wakes at the moment it reaches WAKE_DEPTH (R415). -/
def State.egress (s : State) (l : Nat) (peer : BitVec 13) (ps : List (BitVec 512)) : State :=
  let old := (s.link l).egress.length
  let s := s.setLink l fun (x : Link) => { x with egress := x.egress ++ ps.map fun p => (peer, p) }
  let x := s.link l
  if old < x.wakeDepth ∧ x.wakeDepth ≤ x.egress.length then s.autoWake l x.wakeDepth else s

/-- The packets of a piece on the Sweep fabric, 128 bytes each (log 20). -/
def sweepPieces (tag : DWord) (answer : Bool) (base : Nat) (bs : List Byte) : List SweepPacket :=
  (List.range ((bs.length + 127) / 128)).map fun i =>
    .piece Config.packageId tag answer base bs.length (128 * i) ((bs.drop (128 * i)).take 128)

/-! ## The path of a COPYR (R303, R441) -/

def podOf (pkg : BitVec 13) : Nat := pkg.toNat / 64

inductive Route where
  | sweep | link (l : Nat) | wait | fail (code detail : Nat)
  deriving DecidableEq, Repr

/-- The path given to a command at acceptance. A peer that only the switched links may serve is waited for until one is UP to it; where the only
link to a peer is quarantined, the command ends (R297, R418). -/
def State.route (s : State) (path : Nat) (peer : BitVec 13) : Route :=
  let pod := podOf peer == podOf Config.packageId
  if path == 1 then (if pod then .sweep else .fail 5 1)
  else if path == 0 && pod then .sweep
  else
    let fixed := (List.range 8).filter fun l => s.routes.contains (l, peer)
    let up := (List.range 32).filter fun l => decide (8 ≤ l) && (s.link l).state == .up && (s.link l).peer == peer
    match fixed.find? fun l => (s.link l).state != .quarantine with
    | some l => .link l
    | none =>
      match (sortBy (fun l => (s.link l).egress.length) up).head? with
      | some l => .link l
      | none =>
        match fixed.head? with
        | some l => .fail 6 l
        | none =>
          let circuits := (List.range 32).filter fun l => decide (8 ≤ l) && (s.link l).dest == some peer
          match circuits.head? with
          | some l => if circuits.all fun l => (s.link l).state == .quarantine then .fail 6 l else .wait
          | none => if s.served.contains peer then .wait else .fail 5 1

/-! ## Sending -/

/-- The remote page of an address. -/
def State.remoteLeaf (s : State) (c : Cmd) (va : Nat) : Option Leaf :=
  if 2 ^ 47 ≤ va then none else (s.engTranslate (dieOf c.core) c.asid va).bind fun l => if l.tgt == 2 then some l else none
/-- The address of the remote side of byte k. -/
def Cmd.remoteVa (c : Cmd) (k : Nat) : Nat := ((if c.out then c.opA else c.opB).toNat + k) % 2 ^ 64

/-- The piece that starts at byte k: its physical address and count, or why it cannot be sent (R440). -/
def State.pieceAt (s : State) (c : Cmd) (k : Nat) : Except Stop (Nat × Nat) :=
  let va := c.remoteVa k
  match s.engPlace c va c.out (· == 2) with
  | .error e => .error e
  | .ok _ =>
    match s.remoteLeaf c va with
    | none => .error (.fail 1 3)
    | some l =>
      if c.peers.contains l.pkg then .ok (l.phys va, min (c.total - k) (2 ^ min l.bits 19 - va % 2 ^ min l.bits 19)) else .error (.fail 1 3)

def State.stopCmd (s : State) (id : Nat) (e : Stop) : State :=
  match e with
  | .fail a b => s.failCmd id a b
  | .wait rs => s.request rs

/-- What a command hands to its fabric. -/
def State.emit (s : State) (c : Cmd) (ps : List (BitVec 512)) (ks : List SweepPacket) : State :=
  match c.link with
  | some l => s.egress l (c.peers.headD 0) ps
  | none => { s with sweepOut := s.sweepOut ++ ks.map fun k => (c.peers.headD 0, k) }

/-- The next piece of a copy to a peer, sent whole (R440). -/
def State.sendPiece (s : State) (c : Cmd) : State :=
  if c.total ≤ c.delivered then s
  else
    match s.pieceAt c c.delivered with
    | .error e => s.stopCmd c.id e
    | .ok (pa, n) =>
      let x : Chunk := { s := s, c := c, pend := [], stop := none }
      match (List.range n).mapM fun j => x.srcByte [] (c.delivered + j) with
      | .error e => s.stopAt c [] n e
      | .ok bs =>
        let data := bs.map (·.2)
        let s := ((bs.filterMap (·.1)).foldl (fun (s : State) p => s.hlcRead p c.id) s).spend (bs.filterMap (·.1)) []
        let s := s.emit c (headPayload 1 n pa c.tag :: dataPayloads data) (sweepPieces c.tag false pa data)
        s.setCmd { c with delivered := c.delivered + n }

/-- The read requests of a copy from a peer, all pieces in order (R440). -/
def State.requestPieces (s : State) (c : Cmd) : Nat → Nat → Except Stop (List (Nat × Nat))
  | 0, _ => .ok []
  | fuel + 1, k =>
    if c.total ≤ k then .ok []
    else
      match s.pieceAt c k with
      | .error e => .error e
      | .ok (pa, n) => (s.requestPieces c fuel (k + max n 1)).map fun r => (pa, n) :: r
def State.sendRequests (s : State) (c : Cmd) : State :=
  match s.requestPieces c (c.total / 2 ^ 14 + 2) 0 with
  | .error e => s.stopCmd c.id e
  | .ok ps =>
    (s.emit c (ps.map fun p => headPayload 3 p.2 p.1 c.tag) (ps.map fun p => .request Config.packageId c.tag p.1 p.2)).setCmd
      { c with sent := true }

/-! ## Receiving answers and completions at the issuing package -/

/-- A read command that waits for a peer's answers. -/
def Cmd.answered (c : Cmd) (peer : BitVec 13) (tag : DWord) (link : Option Nat) : Bool :=
  c.fn == .copyr && !c.out && c.tag == tag && c.link == link && c.peers.contains peer && c.sent && c.status.isNone
/-- Bytes that have come ahead join those that have come in order. -/
def Cmd.join (c : Cmd) : Nat → Cmd
  | 0 => c
  | fuel + 1 =>
    match c.early.find? fun e => e.1 == c.delivered + c.inbuf.length with
    | none => c
    | some e => Cmd.join { c with inbuf := c.inbuf ++ e.2, early := c.early.erase e } fuel
/-- Bytes of an answered read at a place of its stream, written into the local destination as far as they are in order. -/
def State.answerAt (s : State) (c : Cmd) (k : Nat) (bs : List Byte) : State :=
  let c' := Cmd.join { c with early := c.early ++ [(k, bs)] } (c.early.length + 1)
  (s.setCmd c').moveChunk c' c'.inbuf.length
/-- Bytes of an answered read over a far link, which keeps their order (R440). -/
def State.answerBytes (s : State) (peer : BitVec 13) (tag : DWord) (link : Option Nat) (bs : List Byte) : State :=
  match s.cmds.find? fun (c : Cmd) => c.answered peer tag link with
  | none => s
  | some c => s.answerAt c (c.delivered + c.inbuf.length) bs
/-- The pieces of a command with the place of each in its stream. -/
def placed : Nat → List (Nat × Nat) → List (Nat × Nat × Nat)
  | _, [] => []
  | k, p :: ps => (k, p.1, p.2) :: placed (k + p.2) ps
/-- A packet of an answered read over the Sweep fabric: it belongs to the first piece of its address and count that is not complete. -/
def State.answerPacket (s : State) (peer : BitVec 13) (tag : DWord) (base count off : Nat) (bs : List Byte) : State :=
  match s.cmds.find? fun (c : Cmd) => c.answered peer tag none with
  | none => s
  | some c =>
    match s.requestPieces c (c.total / 2 ^ 14 + 2) 0 with
    | .error _ => s
    | .ok ps =>
      match (placed 0 ps).find? fun p => p.2.1 == base && p.2.2 == count && decide (c.delivered + c.inbuf.length ≤ p.1 + off)
          && !c.early.any (·.1 == p.1 + off) with
      | none => s
      | some p => if bs.isEmpty || count < off + bs.length then s else s.answerAt c (p.1 + off) bs

/-- A completion of a remote copy (R440): the peer's status. After it nothing more of a read command comes. -/
def State.peerCompletes (s : State) (peer : BitVec 13) (tag : DWord) (link : Option Nat) (code : Nat) : State :=
  match s.cmds.find? fun (c : Cmd) => c.fn == .copyr && c.tag == tag && c.link == link && c.peers.contains peer && c.number != 0
      && !c.acked with
  | none =>
    match link with
    | none => s
    | some l => s.setLink l fun (x : Link) => { x with late := x.late.erase tag }
  | some c =>
    if c.status.isSome || code != 0 then
      (if c.out then s else s.setCmd { c with acked := true }).failCmd c.id code (if code == 4 then 1 else 0)
    else if c.out && decide (c.delivered < c.total) then s
    else if c.out then (s.setCmd { c with acked := true, landed := c.total }).land c c.total
    else s.setCmd { c with acked := true }

/-! ## Receiving pieces of a peer's copy (R433) -/

/-- Where a peer's answers and completions go. -/
def State.reverse (s : State) (peer : BitVec 13) (link : Option Nat) (ps : List (BitVec 512)) (ks : List SweepPacket) : State :=
  match link with
  | some l => s.egress l peer ps
  | none => { s with sweepOut := s.sweepOut ++ ks.map fun k => (peer, k) }
def State.sendCompletion (s : State) (peer : BitVec 13) (link : Option Nat) (tag : DWord) (code : Nat) : State :=
  s.reverse peer link [headPayload 2 code 0 tag] [.completion Config.packageId tag (BitVec.ofNat 8 code)]

def RxPiece.hasByte (x : RxPiece) (a : Nat) : Bool := x.ranges.any fun r => decide (r.1 ≤ a) && decide (a < r.1 + r.2)
/-- The bytes of a line that belong to a piece have all arrived. -/
def RxPiece.lineDone (x : RxPiece) (line : Nat) : Bool :=
  (List.range 128).all fun j => let a := line * 128 + j; a < x.base || x.base + x.count ≤ a || x.hasByte a
def RxPiece.full (x : RxPiece) : Bool := x.count ≤ (x.ranges.map (·.2)).sum

/-- Lines of a piece whose bytes have all arrived, and been written at home, are present again (R251, R433). -/
def State.settlePiece (s : State) (x : RxPiece) : State × RxPiece :=
  let done := x.lines.filter fun l => x.lineDone l && !s.agentWaits (l * 128) 128
  let s := done.foldl (fun (s : State) l => s.settleLine l x.key false (decide (x.base ≤ l * 128) && decide (l * 128 + 128 ≤ x.base + x.count))) s
  (s.pollWaitc, { x with lines := x.lines.filter fun l => !done.contains l })
/-- Bytes of a piece at a physical address of this deck: their lines are cleared at the first arrival and set when all bytes have come. -/
def State.takeBytes (s : State) (x : RxPiece) (a : Nat) (bs : List Byte) : State × RxPiece :=
  let lines := (List.range (bs.length / 128 + 2)).map (a / 128 + ·) |>.filter fun l => decide (l * 128 < a + bs.length)
  let new := lines.filter fun l => !x.lines.contains l
  let s := new.foldl (fun (s : State) l => s.clearLine l x.key) s
  (s.agentWriteN a bs).settlePiece { x with ranges := x.ranges ++ [(a, bs.length)], lines := new ++ x.lines, got := x.got + bs.length }

/-- A piece whose bytes have all come and been written. -/
def RxPiece.written (x : RxPiece) : Bool := x.full && x.lines.isEmpty
/-- The written pieces end; the last one of a command once the others are written too, and a completion answers it (R440). -/
def State.endPieces (s : State) : State :=
  let others (x : RxPiece) : Bool := s.rx.any fun y => y.peer == x.peer && y.tag == x.tag && y.link == x.link && !y.written
  let last (x : RxPiece) : Bool := Config.lastPiece x.tag.toNat x.base x.count
  let ends := s.rx.filter fun x => x.written && !(last x && others x)
  (ends.filter last).foldl (fun (s : State) x => s.sendCompletion x.peer x.link x.tag 0) { s with rx := s.rx.filter fun x => !ends.contains x }
/-- A piece goes on, or ends. -/
def State.putPiece (s : State) (x : RxPiece) : State := ({ s with rx := s.rx ++ [x] } : State).endPieces
/-- What pieces still wait for of home's work with their lines, also the piece that a far link is receiving (R433). -/
def State.settlePieces (s : State) : State :=
  let s := s.rx.foldl (fun (s : State) x => let r := s.settlePiece x; { r.1 with rx := r.1.rx ++ [r.2] }) { s with rx := [] }
  let s := (List.range s.links.length).foldl (fun (s : State) l =>
    match (s.link l).rx with
    | none => s
    | some x => let r := s.settlePiece x; r.1.setLink l fun (y : Link) => { y with rx := some r.2 }) s
  s.endPieces

/-- A packet of a piece over the Sweep fabric. -/
def State.takePiece (s : State) (peer : BitVec 13) (tag : DWord) (base count off : Nat) (bs : List Byte) : State :=
  if Config.deckBytes < base + count || count < off + bs.length || bs.isEmpty then s
  else
    let same (x : RxPiece) : Bool := x.peer == peer && x.tag == tag && x.base == base && x.count == count && x.link.isNone && !x.full
    let x : RxPiece := (s.rx.find? same).getD
      { peer := peer, tag := tag, answer := false, base := base, count := count, got := 0, ranges := [], key := s.fresh, lines := [], link := none }
    let r := { s.bump with rx := s.rx.filter fun y => !same y }.takeBytes x (base + off) bs
    r.1.putPiece r.2

/-! ## Answering read requests (R440) -/

/-- The lines that are absent now. -/
def State.absentNow (s : State) : List Nat := (s.dir.filter fun d => !d.absentBy.isEmpty).map (·.line)

/-- The first request of a fabric that is not answered yet, answered when its lines have come; after a failed piece no further piece is sent. -/
def State.serveFirst (s : State) (v : Serve) : State :=
  let last := Config.lastPiece v.tag.toNat v.base v.count
  let rest (s : State) : State := { s with serves := s.serves.erase v }
  let lines := (List.range (v.count / 128 + 2)).map (v.base / 128 + ·) |>.filter fun l => decide (l * 128 < v.base + v.count)
  if v.failed then s
  else if s.serves.any (fun w => w.failed && w.peer == v.peer && w.tag == v.tag && w.link == v.link) then
    let s := rest s
    if last then { s with serves := s.serves.filter fun w => !(w.failed && w.peer == v.peer && w.tag == v.tag && w.link == v.link) } else s
  else if lines.any v.waits.contains then s
  else if lines.any fun l => s.present l && s.poisoned l then
    let s := (rest s).sendCompletion v.peer v.link v.tag 2
    if last then s else { s with serves := s.serves ++ [{ v with failed := true }] }
  else
    let bs := s.deck.readN v.base v.count
    let s := (rest s).reverse v.peer v.link (headPayload 1 v.count 0 v.tag :: dataPayloads bs) (sweepPieces v.tag true v.base bs)
    if last then s.sendCompletion v.peer v.link v.tag 0 else s

/-- One answer on each fabric that has one to give. -/
def State.serve (s : State) : State :=
  ((s.serves.filter (!·.failed)).map fun v => (v.peer, v.link)).dedup.foldl (fun (s : State) f =>
    match s.serves.find? fun v => !v.failed && v.peer == f.1 && v.link == f.2 with
    | none => s
    | some v => s.serveFirst v) s

/-- A read request arrives. -/
def State.takeRequest (s : State) (peer : BitVec 13) (tag : DWord) (base count : Nat) (link : Option Nat) : State :=
  if Config.deckBytes < base + count then s
  else
    let v : Serve := { peer := peer, tag := tag, base := base, count := count, link := link, waits := s.absentNow, failed := false }
    { s with serves := s.serves ++ [v] }.serve

/-- SWEEP_PACKET (R433, R440); a device without firmware answers nothing (R405). -/
def execSweepPacket (pkt : SweepPacket) (s : State) : Out State :=
  .next <|
    if s.dead then s else
    match pkt with
    | .piece peer tag true base count off bs => s.answerPacket peer tag base count off bs
    | .piece peer tag false base count off bs => s.takePiece peer tag base count off bs
    | .request peer tag base count => s.takeRequest peer tag base count none
    | .completion peer tag code => s.peerCompletes peer tag none code.toNat

end Sys2Proof.Machine
end

