-- ==== Sys2Proof/Machine/Engine.lean ====
section
/-! DEFINITION. Engine-command instructions, timelines, queues, the acceptance, progress and completion of commands, and host memory
(spec/11_engines.md R291 to R317). -/

namespace Sys2Proof.Machine

/-! ## Issue (R293) -/

/-- The command an instruction issues, with its entries. -/
def State.newCmd (s : State) (k : Crew) (fn : EngFn) (e : BitVec 1) (l : BitVec 3) (r : Reply) (opA opB : DWord) (args : List DWord) : Cmd :=
  { id := s.fresh, fn := fn, rel := e == 1, after := if e == 1 then s.orderedIds k.id else [], crew := k.id, squad := k.squad, grid := k.grid, asid := k.asid, priv := s.privileged k, core := k.core
    tl := l.toNat, reply := r, opA := opA, opB := opB, args := args, number := 0, delivered := 0, landed := 0, since := 0, timeout := 0, early := [], status := none, cleared := [], waitLines := []
    before := [], link := none, out := false, peers := [], ranks := 1, inbuf := [], tag := Config.commandTag s.fresh, sent := false
    acked := false, again := none }

/-- The kind of engine that takes a command: copy and gather engines of a die, the hub's collective engines and its link engine (R294, R419). -/
def EngFn.unit : EngFn → Nat
  | .copy1 | .copy2 | .copyt | .fill | .copyr | .copyh => 0
  | .gather | .scatter | .scatadd | .gatherq => 1
  | .allred | .redscat | .allgath | .barrier => 2
  | .ease | .wake => 3
/-- The place of such an engine: a die, the hub (4), or one of its 32 link engines (5 and up), that of the link the command names; a number beyond
31 counts modulo 32 (R15; DESIGN CHOICE, log 20). -/
def EngFn.at_ (fn : EngFn) (core : Nat) (opA : DWord) : Nat :=
  if fn.unit < 2 then dieOf core else if fn.unit == 3 then 5 + opA.toNat % 32 else 4
/-- The input buffer of a kind of engine holds as many commands not yet accepted as it can (R293, log 20). -/
def State.bufferFull (s : State) (fn : EngFn) (core : Nat) (opA : DWord) : Bool :=
  decide (Config.engineBuffer fn.unit <
    (s.cmds.filter fun c => c.number == 0 && c.fn.unit == fn.unit && c.fn.at_ c.core c.opA == fn.at_ core opA).length)

/-- An engine command at issue: too few entries is QUEUE_FAULT; while the engine's input buffer is full the crew is not ready; else its entries leave
the queue and it goes to its engine (R57, R293). A release form covers what the crew has issued, read and acquired (R228). -/
def State.command (s : State) (i : Instr) (k : Crew) (act : Lanes) (fn : EngFn) (e : BitVec 1) (l : BitVec 3) (r : Reply) (opA opB : DWord)
    (q n : Nat) : State :=
  let es := k.q.getD q []
  if s.cmdHeld k then s
  else if es.length < n then s.trapAll k .queueFault act
  else if s.bufferFull fn k.core opA then s.waits k (.room (.engine (fn.at_ k.core opA) fn.unit)) act
  else
    let c := s.newCmd k fn e l r opA opB (es.take n)
    let x := (if e == 1 then s.releases k false else s).impure k act
    let s := x.1.done i { x.2.await r with q := k.q.set q (es.drop n) } act
    { s.bump with cmds := s.cmds ++ [c] }

/-- XCE copy1. -/
def execCopy1 (r : Reply) (b a : BitVec 6) (e : BitVec 1) (l : BitVec 3) (s : State) : Out State :=
  issue (.copy1 r b a e l) s fun s k act => s.command (.copy1 r b a e l) k act .copy1 e l r (k.pr a.toNat) (k.pr b.toNat) 0 2
/-- XCE copy2. -/
def execCopy2 (r : Reply) (b a : BitVec 6) (e : BitVec 1) (l : BitVec 3) (s : State) : Out State :=
  issue (.copy2 r b a e l) s fun s k act => s.command (.copy2 r b a e l) k act .copy2 e l r (k.pr a.toNat) (k.pr b.toNat) 0 3
/-- XCE copyt. -/
def execCopyt (r : Reply) (b a : BitVec 6) (e : BitVec 1) (l : BitVec 3) (s : State) : Out State :=
  issue (.copyt r b a e l) s fun s k act => s.command (.copyt r b a e l) k act .copyt e l r (k.pr a.toNat) (k.pr b.toNat) 0 4
/-- XCE fill. -/
def execFill (r : Reply) (b a : BitVec 6) (e : BitVec 1) (l : BitVec 3) (s : State) : Out State :=
  issue (.fill r b a e l) s fun s k act => s.command (.fill r b a e l) k act .fill e l r (k.pr a.toNat) (k.pr b.toNat) 0 3
/-- XCE copyr. -/
def execCopyr (r : Reply) (b a : BitVec 6) (e : BitVec 1) (l : BitVec 3) (s : State) : Out State :=
  issue (.copyr r b a e l) s fun s k act => s.command (.copyr r b a e l) k act .copyr e l r (k.pr a.toNat) (k.pr b.toNat) 0 3
/-- XCE copyh. -/
def execCopyh (r : Reply) (b a : BitVec 6) (e : BitVec 1) (l : BitVec 3) (s : State) : Out State :=
  issue (.copyh r b a e l) s fun s k act => s.command (.copyh r b a e l) k act .copyh e l r (k.pr a.toNat) (k.pr b.toNat) 0 2
/-- XGE gather. -/
def execGather (r : Reply) (b a : BitVec 6) (e : BitVec 1) (l : BitVec 3) (s : State) : Out State :=
  issue (.gather r b a e l) s fun s k act => s.command (.gather r b a e l) k act .gather e l r (k.pr a.toNat) (k.pr b.toNat) 1 3
/-- XGE scatter. -/
def execScatter (r : Reply) (b a : BitVec 6) (e : BitVec 1) (l : BitVec 3) (s : State) : Out State :=
  issue (.scatter r b a e l) s fun s k act => s.command (.scatter r b a e l) k act .scatter e l r (k.pr a.toNat) (k.pr b.toNat) 1 3
/-- XGE scatadd. -/
def execScatadd (r : Reply) (b a : BitVec 6) (e : BitVec 1) (l : BitVec 3) (s : State) : Out State :=
  issue (.scatadd r b a e l) s fun s k act => s.command (.scatadd r b a e l) k act .scatadd e l r (k.pr a.toNat) (k.pr b.toNat) 1 3
/-- XGE gatherq. -/
def execGatherq (r : Reply) (b : BitVec 6) (e : BitVec 1) (l : BitVec 3) (s : State) : Out State :=
  issue (.gatherq r b e l) s fun s k act => s.command (.gatherq r b e l) k act .gatherq e l r 0 (k.pr b.toNat) 1 3
/-- XCL allred. -/
def execAllred (r : Reply) (b a : BitVec 6) (e : BitVec 1) (l : BitVec 3) (s : State) : Out State :=
  issue (.allred r b a e l) s fun s k act => s.command (.allred r b a e l) k act .allred e l r (k.pr a.toNat) (k.pr b.toNat) 3 3
/-- XCL redscat. -/
def execRedscat (r : Reply) (b a : BitVec 6) (e : BitVec 1) (l : BitVec 3) (s : State) : Out State :=
  issue (.redscat r b a e l) s fun s k act => s.command (.redscat r b a e l) k act .redscat e l r (k.pr a.toNat) (k.pr b.toNat) 3 3
/-- XCL allgath. -/
def execAllgath (r : Reply) (b a : BitVec 6) (e : BitVec 1) (l : BitVec 3) (s : State) : Out State :=
  issue (.allgath r b a e l) s fun s k act => s.command (.allgath r b a e l) k act .allgath e l r (k.pr a.toNat) (k.pr b.toNat) 3 3
/-- XCL barrier. -/
def execBarrier (r : Reply) (a : BitVec 6) (e : BitVec 1) (l : BitVec 3) (s : State) : Out State :=
  issue (.barrier r a e l) s fun s k act => s.command (.barrier r a e l) k act .barrier e l r (k.pr a.toNat) 0 3 1

/-! ## Queues (R56, R57, R295) -/

/-- A push to a queue (R295): QUEUE_FAULT on q2 and q6 to q15; a full queue stalls the crew. -/
def State.push (s : State) (i : Instr) (k : Crew) (act : Lanes) (q : BitVec 4) (d : DWord) : State :=
  let es := k.q.getD q.toNat []
  if q == 2 || decide (6 ≤ q.toNat) then s.trapAll k .queueFault act
  else if 16 ≤ es.length then s.waits k (.queue q.toNat true) act
  else s.done i { k with q := k.q.set q.toNat (es ++ [d]) } act

/-- QPUSH (R295). -/
def execQpush (a : SCode) (q : BitVec 4) (s : State) : Out State :=
  issue (.qpush a q) s fun s k act => s.push (.qpush a q) k act q (pair (k.sc a.toNat) (k.sc (a.toNat + 1)))
/-- QPUSH.s (R295). -/
def execQpushS (a : SCode) (q : BitVec 4) (s : State) : Out State :=
  issue (.qpushS a q) s fun s k act => s.push (.qpushS a q) k act q ((k.sc a.toNat).zeroExtend 64)

/-- A squad with a gather command outstanding (R57). -/
def State.gathering (s : State) (k : Crew) : Bool := s.cmds.any fun c => c.squad == k.squad
  && (c.fn == .gather || c.fn == .scatter || c.fn == .scatadd || c.fn == .gatherq)

/-- QPOP (R57, R295): an empty q2 stalls the crew while its squad has a gather command outstanding, and is QUEUE_FAULT otherwise. -/
def execQpop (q : BitVec 4) (d : SCode) (s : State) : Out State :=
  issue (.qpop q d) s fun s k act =>
    if q != 2 then s.trapAll k .queueFault act
    else
      match k.q.getD 2 [] with
      | [] => if s.gathering k then s.waits k (.queue 2 false) act else s.trapAll k .queueFault act
      | x :: r => s.done (.qpop q d) { (k.setS d.toNat (lo32 x)).setS (d.toNat + 1) (up32 x) with q := k.q.set 2 r } act

/-- QUEUE_WAIT_END: the queue a crew waits on can serve it, or nothing will fill it any more; the crew issues its instruction again (R56, R57). -/
def execQueueWaitEnd (crew : Nat) (s : State) : Out State :=
  .next <|
    match s.crew? crew with
    | none => s
    | some c =>
      match c.wait with
      | some (.queue q push) =>
        let n := (c.q.getD q []).length
        if (if push then decide (n < 16) else n != 0 || !s.gathering c) then s.setCrew { c with wait := none, waitLanes := 0 } else s
      | _ => s

/-! ## Timelines (R296 to R299) -/

def State.timeline (s : State) (sq tl : Nat) : Timeline := ((s.squad? sq).map fun q => q.tls.getD tl Timeline.reset).getD Timeline.reset
def State.setTimeline (s : State) (sq tl : Nat) (t : Timeline) : State :=
  { s with squads := s.squads.map fun (q : Squad) => if q.id == sq then { q with tls := q.tls.set tl t } else q }

/-- TLWAIT (R299). -/
def execTlwait (r : Reply) (a : BitVec 6) (l : BitVec 3) (s : State) : Out State :=
  issue (.tlwait r a l) s fun s k act =>
    let t := s.timeline k.squad l.toNat
    let m := min (k.pr a.toNat).toNat t.issued.toNat
    if m ≤ t.done.toNat then (s.doneReply (.tlwait r a l) k act r t.fails).acquires k else s.waits k (.tlwait l.toNat m r) act

/-- TLWAIT_COMPLETE: DONE has reached the target (R299). -/
def execTlwaitComplete (crew : Nat) (s : State) : Out State :=
  .next <|
    match s.crew? crew with
    | none => s
    | some c =>
      match c.wait with
      | some (.tlwait l m r) =>
        let t := s.timeline c.squad l
        if m ≤ t.done.toNat then s.wakes (c.reply r t.fails) else s
      | _ => s

/-- The status word of a command by number (R297): PENDING, GONE, or from WINDOW. -/
def Timeline.status (t : Timeline) (n : Nat) : DWord :=
  if n == 0 || decide (t.issued.toNat < n) || decide (n + 64 ≤ t.issued.toNat) then 0x81
  else ((t.window.find? (·.1 == n)).map (·.2)).getD 0x80

/-- TLRD status (R299). -/
def execTlrdSt (r : Reply) (a : BitVec 6) (l : BitVec 3) (s : State) : Out State :=
  issue (.tlrdSt r a l) s fun s k act =>
    s.doneReply (.tlrdSt r a l) k act r ((s.timeline k.squad l.toNat).status (k.pr a.toNat).toNat)
/-- TLRD ISSUED. -/
def execTlrdIssued (r : Reply) (l : BitVec 3) (s : State) : Out State :=
  issue (.tlrdIssued r l) s fun s k act => s.doneReply (.tlrdIssued r l) k act r (s.timeline k.squad l.toNat).issued
/-- TLRD DONE. -/
def execTlrdDone (r : Reply) (l : BitVec 3) (s : State) : Out State :=
  issue (.tlrdDone r l) s fun s k act => s.doneReply (.tlrdDone r l) k act r (s.timeline k.squad l.toNat).done
/-- TLRD FAILS. -/
def execTlrdFails (r : Reply) (l : BitVec 3) (s : State) : Out State :=
  issue (.tlrdFails r l) s fun s k act => s.doneReply (.tlrdFails r l) k act r (s.timeline k.squad l.toNat).fails

/-! ## Collectives (R307 to R310) -/

/-- A group descriptor (R307). -/
structure Group where
  peers   : List (BitVec 13)
  tag     : Word
  timeout : Nat              -- in ns
  deriving DecidableEq, Repr

def EngFn.collective : EngFn → Bool
  | .allred | .redscat | .allgath | .barrier => true
  | .copy1 | .copy2 | .copyt | .fill | .copyr | .copyh | .gather | .scatter | .scatadd | .gatherq | .ease | .wake => false

/-- Bytes of a descriptor in the deck. -/
def State.groupBytes (s : State) (c : Cmd) (off n : Nat) : Except Stop (List Byte) := do
  let ps ← (List.range n).mapM fun j => s.engPlace c (c.opA.toNat + off + j) false (· == 0)
  match ps.findSome? (s.readStop c) with
  | some e => .error e
  | none => .ok (ps.map (s.byteAt c.squad))

/-- The group of a collective: none inside when a field is invalid (R307, R310); reserved bytes are ignored (R5). -/
def State.group (s : State) (c : Cmd) : Except Stop (Option Group) := do
  let h ← s.groupBytes c 0 16
  let n := recN h 0 2
  if n < 2 || 256 < n then return none
  let ps ← s.groupBytes c 16 (2 * n)
  let ids := (List.range n).map fun j => recN ps (2 * j) 2
  if ids.any (fun x => decide (Config.packages ≤ x)) || ids.count Config.packageId.toNat != 1 then return none
  return some { peers := ids.map (BitVec.ofNat 13), tag := BitVec.ofNat 32 (recN h 4 4)
                timeout := 1000 * (if recN h 2 2 == 0 then 1000 else recN h 2 2) }

/-- One step of a reduction on element values (R309); .bf16 elements stand as FP32. -/
def redStep (type op x y : Nat) : Nat :=
  match type, op with
  | 1, 0 => (fadd (BitVec.ofNat 32 x) (BitVec.ofNat 32 y)).toNat
  | 2, 0 => (fadd (BitVec.ofNat 32 x) (BitVec.ofNat 32 y)).toNat
  | 1, 1 => (fmin (BitVec.ofNat 32 x) (BitVec.ofNat 32 y)).toNat
  | 2, 1 => (fmin (BitVec.ofNat 32 x) (BitVec.ofNat 32 y)).toNat
  | 1, _ => (fmax (BitVec.ofNat 32 x) (BitVec.ofNat 32 y)).toNat
  | 2, _ => (fmax (BitVec.ofNat 32 x) (BitVec.ofNat 32 y)).toNat
  | 3, 0 => (x + y) % 2 ^ 64
  | 3, 1 => if sextN x 64 < sextN y 64 then x else y
  | 3, _ => if sextN x 64 < sextN y 64 then y else x
  | _, 0 => (x + y) % 2 ^ 32
  | _, 1 => (minI (BitVec.ofNat 32 x) (BitVec.ofNat 32 y)).toNat
  | _, _ => (maxI (BitVec.ofNat 32 x) (BitVec.ofNat 32 y)).toNat

/-- Element j of a peer's source as a reduction takes it, and a result as it is stored. -/
def redElem (type : Nat) (src : List Byte) (j : Nat) : Nat :=
  let z := match type with | 2 => 2 | 3 => 8 | _ => 4
  let v := recN src (j * z) z
  if type == 2 then (f32r (Fmt.bf16.decode v)).toNat else v
def redStore (type v : Nat) : List Byte :=
  match type with
  | 2 => leBytes 2 (Fmt.bf16.round .rne (f32v (BitVec.ofNat 32 v)))
  | 3 => leBytes 8 v
  | _ => leBytes 4 v

/-- Elementwise reduction of all peers' sources in rank order (R309). -/
def reduceAll (e : Nat) (srcs : List (List Byte)) (first n : Nat) : List Byte :=
  let type := bits e 35 32
  (List.range n).flatMap fun j =>
    match srcs.map fun x => redElem type x (first + j) with
    | [] => []
    | x :: r => redStore type (r.foldl (redStep type (bits e 39 36)) x)

/-- The bytes a collective delivers (R308). -/
def collectiveResult (c : Cmd) (rank : Nat) (srcs : List (List Byte)) : List Byte :=
  let count := bits (c.arg 1) 31 0
  match c.fn with
  | .allred => reduceAll (c.arg 1) srcs 0 count
  | .redscat => reduceAll (c.arg 1) srcs (rank * (count / c.ranks)) (count / c.ranks)
  | .allgath => srcs.flatten
  | _ => []

/-- Function values of XCL (R308). -/
def EngFn.code : EngFn → Nat
  | .allred => 1 | .redscat => 2 | .allgath => 3 | .barrier => 4
  | .copy1 | .copy2 | .copyt | .fill | .copyr | .copyh | .gather | .scatter | .scatadd | .gatherq | .ease | .wake => 0
/-- A peer's command forms one collective with this one without a mismatch (R310). -/
def Cmd.agrees (c : Cmd) (p : PeerCommand) : Bool :=
  p.ok && p.fn == c.fn.code && p.peers == c.peers && (c.fn == .barrier || p.e.toNat == c.arg 1)

/-- A collective for which every peer has issued a command with its TAG: peers holds them by rank (inputs from outside, log 1; this package's own
bytes are read here). One that differs ends it with ABORTED, detail 4 (R310). -/
def State.collect (s : State) (c : Cmd) (peers : List PeerCommand) : State :=
  let rank := c.peers.idxOf Config.packageId
  let others := peers.eraseIdx rank
  let src := bits (c.arg 1) 31 0 * cElem (c.arg 1)
  if peers.length != c.ranks || others.any (fun p => p.tag.zeroExtend 64 != c.tag) then s
  else if !others.all c.agrees then s.failCmd c.id 5 4
  else if c.fn == .barrier then s.setCmd { c with acked := true }
  else if others.any fun p => p.bytes.length != src then s
  else
    let x : Chunk := { s := s, c := c, pend := [], stop := none }
    match (List.range src).mapM (x.srcByte []), (List.range c.total).mapM (s.dstPlace c []) with
    | .error e, _ => s.stopAt c [] src e
    | _, .error e => s.stopCmd c.id e
    | .ok own, .ok ps =>
      match ps.findSome? s.writeStop with
      | some e => s.stopCmd c.id e
      | none =>
        let out := collectiveResult c rank ((peers.map (·.bytes)).set rank (own.map (·.2)))
        let s := ((own.filterMap (·.1)).foldl (fun (s : State) p => s.hlcRead p c.id) s).spend (own.filterMap (·.1)) ps
        let s := (runsOf (ps.zip out)).foldl (fun (s : State) r => s.putBytes c.squad r.1 r.2) s
        ((s.landTo { c with delivered := out.length, acked := true }).settleArrived c.id []).pollWaitc

/-! ## Acceptance (R294, R296, R304) -/

/-- What acceptance settles of a command: its direction, peers and group, path and link; or that it must still wait. -/
inductive Prepared where
  | wait (req : List CxlReq)
  | ready (c : Cmd)
  deriving DecidableEq, Repr

def Cmd.bad (c : Cmd) (code detail : Nat) : Prepared := .ready { c with status := some (BitVec.ofNat 8 code, BitVec.ofNat 8 detail) }

/-- The status of an XGE command whose base lies where R300 does not allow it, also where no index reaches it (R306). -/
def State.basesBad (s : State) (c : Cmd) : Option (Nat × Nat) :=
  let fault (x : Except Stop Nat) : Option (Nat × Nat) := match x with | .error (.fail a b) => some (a, b) | .error (.wait _) => none | .ok _ => none
  let dst (w : Bool) := if c.fn == .gatherq then none else fault (s.engPlace c c.opA.toNat w c.dstOk)
  ((dst true).or (if c.fn == .scatadd then dst false else none)).or (fault (s.engPlace c c.opB.toNat false c.srcOk))

def State.prepare (s : State) (c : Cmd) : Prepared :=
  if c.status.isSome then .ready c
  else if s.argsBad c then c.bad 5 1
  else
    match c.fn with
    | .copyr =>
      let out := (s.remoteLeaf c c.opA.toNat).isSome
      let c : Cmd := { c with out := out }
      match s.remoteLeaf c (c.remoteVa 0) with
      | none => .ready c
      | some l =>
        match s.route (c.arg 2) l.pkg with
        | .wait => .wait []
        | .fail a b => ({ c with peers := [l.pkg] } : Cmd).bad a b
        | .sweep => .ready { c with peers := [l.pkg] }
        | .link n => .ready { c with peers := [l.pkg], link := some n }
    | .copyh =>
      let va := c.opA.toNat
      let t : Nat := if va < 2 ^ 47 then ((s.engTranslate (dieOf c.core) c.asid va).map (·.tgt.toNat)).getD 0 else 0
      .ready { c with out := t == 3 || t == 4 }
    | .gather | .gatherq | .scatter | .scatadd =>
      match s.basesBad c, (if c.fn == .scatter || c.fn == .scatadd then (List.range (bits (c.arg 1) 31 0)).mapM (s.indexAt c) else .ok []) with
      | some (a, b), _ => c.bad a b
      | none, .error (.wait rs) => .wait rs
      | none, _ => .ready c
    | .allred | .redscat | .allgath | .barrier =>
      match s.group c with
      | .error (.wait rs) => .wait rs
      | .error (.fail a b) => c.bad a b
      | .ok none => c.bad 5 4
      | .ok (some g) =>
        let c : Cmd := { c with peers := g.peers, ranks := g.peers.length, tag := g.tag.zeroExtend 64, timeout := g.timeout }
        if c.fn == .redscat && bits (c.arg 1) 31 0 % c.ranks != 0 then c.bad 5 1 else .ready c
    | .ease | .wake =>
      if 31 < c.opA.toNat then c.bad 5 1 else .ready c
    | _ => .ready c

/-- An easing or waking command of a link joins that link's commands in the order of acceptance (R422). -/
def State.queueLink (s : State) (c : Cmd) : State :=
  if (c.fn == .ease || c.fn == .wake) && c.status.isNone then
    (s.setLink c.opA.toNat fun (x : Link) =>
      { x with cmds := x.cmds ++ [⟨some c.id, c.fn == .ease, BitVec.ofNat 16 c.opB.toNat, false⟩] }).startLink c.opA.toNat
  else s

/-- ENGINE_ACCEPTANCE: the command is numbered, its destination lines become absent, its reply is written, its room in the input buffer is free. A release
form waits until the writes it covers are globally performed (R228). A command that fails here clears its lines as well: its completion leaves them
poisoned (R179, R298). -/
def State.accept (s : State) (c : Cmd) : State :=
  if c.number != 0 || !s.orderedDone c.after then s
  else
    match s.prepare { c with waitLines := s.absentNow } with
    | .wait rs => s.request rs
    | .ready c =>
      let t := s.timeline c.squad c.tl
      let n := t.issued + 1
      let lines := if c.fn == .gatherq || (c.fn == .copyr && c.out) || c.fn == .ease || c.fn == .wake then []
        else s.dstLines c c.order 0 c.total
      let c : Cmd := { c with number := n.toNat, cleared := lines, since := s.time.toNat }
      let s := s.setTimeline c.squad c.tl { t with issued := n, window := t.window.filter fun w => decide (n.toNat < w.1 + 64) }
      let s := lines.foldl (fun (s : State) l => s.clearLine l c.id) (s.setCmd c)
      ((s.queueLink c).replyTo c.crew c.reply n).freeRoom (· == .engine (c.fn.at_ c.core c.opA) c.fn.unit)

def execEngineAcceptance (cmd : Nat) (s : State) : Out State :=
  .next <|
    match s.cmd? cmd with
    | none => s
    | some c => s.accept c

/-! ## Progress (R304 to R310) -/

/-- A word pushed to q2 of a crew wherever it is; of a saved crew its area is written (R305, R392). -/
def State.pushTo (s : State) (id : Nat) (w : DWord) : State :=
  let put (k : Crew) : Crew := if k.id == id && !k.ended then { k with q := k.q.set 2 (k.q.getD 2 [] ++ [w]) } else k
  let t : State := { s with
    crews := s.crews.map put
    squads := s.squads.map fun (q : Squad) => { q with swapped := q.swapped.map put }
    saved := s.saved.map fun (x : SavedCrew) => { x with crew := put x.crew } }
  match s.saved.find? (·.crew.id == id) with
  | none => t
  | some x =>
    let n := (x.crew.q.getD 2 []).length
    (t.saveWrite x (0x0280 + 8 * n) (leBytes 8 w.toNat)).saveWrite x 0x0022 (leBytes 1 (n + 1))
/-- GATHERQ's words pushed to q2 of its crew while it has room; a crew that has ended takes nothing (R305). -/
def State.pushWords (s : State) (c : Cmd) : Nat → State
  | 0 => s
  | fuel + 1 =>
    if c.total ≤ c.delivered then s.setCmd c
    else
      let x : Chunk := { s := s, c := c, pend := [], stop := none }
      match (List.range 8).mapM fun j => x.srcByte c.order (c.delivered + j) with
      | .error e => (s.setCmd c).stopAt c c.order 8 e
      | .ok bs =>
        let w : DWord := BitVec.ofNat 64 (leNat (bs.map (·.2)))
        let full := match s.anyCrew? c.crew with
          | none => false
          | some k => !k.ended && decide (16 ≤ (k.q.getD 2 []).length)
        if full then s.setCmd c
        else
          let s := ((bs.filterMap (·.1)).foldl (fun (s : State) p => s.hlcRead p c.id) s).spend (bs.filterMap (·.1)) []
          let c : Cmd := { c with delivered := c.delivered + 8 }
          ((s.pushTo c.crew w).landTo c).pushWords { c with landed := max c.landed c.delivered } fuel

/-- A read that starts again under host bias and whose bytes have been used already: they are read once more, and used no more (R313, log 41). -/
def State.reread (s : State) (c : Cmd) (from_ : Nat) : State :=
  match (List.range (c.delivered - from_)).mapM fun j => do
      let p ← s.srcPlace c c.order (from_ + j)
      match s.readStop c p with
      | some e => Except.error e
      | none => .ok p with
  | .error e => s.stopAt c c.order 0 e
  | .ok ps => ((ps.foldl (fun (s : State) p => s.hlcRead p c.id) s).spend ps []).setCmd { c with again := none }
/-- The read marks of a command after a step t of its engine (R313). -/
def State.markedBy (t : State) (c : Cmd) : State :=
  (t.markReading c.id ((((t.cmd? c.id).map (·.delivered)).getD 0) - c.delivered) c.order).doFlips

/-- ENGINE_CHUNK_DELIVERED: an accepted command moves up to len bytes, or sends its next piece or its requests. -/
def State.progress (s : State) (c : Cmd) (len : Nat) (peers : List PeerCommand) : State :=
  if c.number == 0 || c.status.isSome || (c.acked && !(c.fn == .copyr && !c.out)) then s
  else
    match c.again with
    | some a => s.reread c a
    | none =>
    match c.fn with
    | .ease | .wake => s
    | .gatherq => (s.pushWords c (min 16 len)).markedBy c
    | .copyr =>
      if c.out then (s.sendPiece c).markedBy c
      else if c.peers.isEmpty then s.stopCmd c.id (match s.engPlace c (c.remoteVa 0) false (· == 2) with | .error e => e | .ok _ => .fail 1 3)
      else if !c.sent then s.sendRequests c
      else s.moveChunk c len
    | .allred | .redscat | .allgath | .barrier => s.collect c peers
    | _ => s.moveChunk c len

def execEngineChunkDelivered (cmd len : Nat) (peers : List PeerCommand) (s : State) : Out State :=
  .next <|
    match s.cmd? cmd with
    | none => s
    | some c => s.bump.progress c len peers

/-! ## Completion (R297, R298) -/

/-- Whether a command may complete. -/
def Cmd.complete (c : Cmd) : Bool :=
  c.number != 0 && (c.status.isSome || match c.fn with
    | .copyr => decide (c.total ≤ c.delivered) && (c.acked || (!c.out && c.link.isNone))
    | .allred | .redscat | .allgath | .barrier => c.acked
    | .ease | .wake => false
    | _ => decide (c.total ≤ c.delivered))

/-- Bytes delivered to the destination (R297). -/
def Cmd.bytes (c : Cmd) : Nat :=
  if c.fn == .copyr && c.out && !c.acked then min (Config.peerGot c.id) c.delivered else c.delivered

/-- DONE after the commands still in flight (R296). -/
def State.doneOf (s : State) (sq tl : Nat) (issued : DWord) : DWord :=
  match ((s.cmds.filter fun c => c.squad == sq && c.tl == tl && c.number != 0).map (·.number)).min? with
  | none => issued
  | some n => BitVec.ofNat 64 (n - 1)

/-- The engine's writes to the deck are still on their way to being performed. -/
def State.owesWrites (s : State) (c : Cmd) : Bool :=
  let lines := s.dstLines c c.order 0 c.delivered
  s.writes.any fun w => w.core.isNone && lines.contains (w.off / 128)
/-- A byte whose contents a failed command leaves undefined, outside the deck (R298); bytes of HBM with a poison mark keep it. -/
def State.spoilByte (s : State) (sq p : Nat) (b : Byte) : State :=
  let off := placeOff p
  match placeTgt p with
  | 1 => if s.hbmPoison.contains off then s else { s with hbm := s.hbm.write off b }
  | 3 => { s with host := s.host.write off b }
  | 4 => { s with pool := s.pool.write off b }
  | 5 => { s with squads := s.squads.map fun (q : Squad) => if q.id == sq then { q with mem := q.mem.writeN off [b] } else q }
  | _ => s
/-- The undelivered bytes of a failed command become free values (R298, log 14). -/
def State.spoil (s : State) (c : Cmd) : State :=
  let order := c.order
  ((List.range (c.total - c.delivered)).map (c.delivered + ·)).foldl (fun (t : State) k =>
    match s.dstPlace c order k with
    | .ok p => t.spoilByte c.squad p (Config.freeByte s.fresh k)
    | .error _ => t) s.bump

/-- ATS invalidations that no engine command holds up any more have completed (R317). -/
def State.atsEnd (s : State) (id : Nat) : State :=
  let left := s.atsWait.map fun w => (w.1, w.2.filter (· != id))
  { s with atsWait := left.filter fun w => !w.2.isEmpty, atsDone := (left.filter fun w => w.2.isEmpty).map (·.1) ++ s.atsDone }

/-- A read over a far link that completes before the peer has answered it in full: what still comes for it is no piece of a peer's copy (R440). -/
def State.awaitLate (s : State) (c : Cmd) : State :=
  match c.link with
  | some l => if c.fn == .copyr && !c.out && c.sent && !c.acked then s.setLink l fun (x : Link) => { x with late := c.tag :: x.late } else s
  | none => s
/-- COMMAND_COMPLETION. -/
def State.complete (s : State) (c : Cmd) : State :=
  let code := c.status.getD (0, 0)
  let ok := code.1 == 0
  let word : DWord := BitVec.ofNat 64 (code.1.toNat + 256 * code.2.toNat + 2 ^ 32 * min c.bytes 0xFFFFFFFF)
  let s := if ok then s else (s.land c (c.total - c.landed)).spoil c
  let s := s.awaitLate c
  let s := c.cleared.foldl (fun (s : State) l => s.settleLine l c.id (!ok) false) s
  let t := s.timeline c.squad c.tl
  let s : State := { s with cmds := s.cmds.filter (·.id != c.id), reading := s.reading.filter (·.2 != c.id) }
  let s := s.setTimeline c.squad c.tl { t with
    window := if decide (t.issued.toNat < c.number + 64) then t.window ++ [(c.number, word)] else t.window
    fails := if ok then t.fails else t.fails + 1
    done := s.doneOf c.squad c.tl t.issued }
  (s.atsEnd c.id).doFlips.pollWaitc

def execCommandCompletion (cmd : Nat) (s : State) : Out State :=
  .next <|
    match s.cmd? cmd with
    | none => s
    | some c => if c.complete && !s.owesWrites c then s.complete c else s

/-- COLLECTIVE_TIMEOUT: a peer has not issued within TIMEOUT after the first peer's command was accepted, at TIME first and not later than this
package's own (R307, R310). -/
def execCollectiveTimeout (cmd : PeerWait) (s : State) : Out State :=
  .next <|
    match s.cmd? cmd.cmd with
    | none => s
    | some c =>
      if c.fn.collective && c.number != 0 && !c.acked && decide (cmd.first ≤ c.since) && decide (cmd.first + c.timeout ≤ s.time.toNat) then
        s.failCmd cmd.cmd 4 2
      else s

/-- PEER_LEAVES: the commands that still need the peer end with PEER_LOST (R297, R310). -/
def execPeerLeaves (pkg : BitVec 13) (s : State) : Out State :=
  .next <| (s.cmds.filter fun c => c.number != 0 && c.peers.contains pkg && !c.complete).foldl
    (fun (s : State) c => s.failCmd c.id 4 (if c.fn == .copyr then 1 else 2)) s

/-- Every command of a context stops (R297 ABORTED, detail 3). -/
def State.abortAsid (s : State) (asid : BitVec 12) : State :=
  (s.cmds.filter fun c => c.asid == asid && !c.complete).foldl (fun (s : State) c => s.failCmd c.id 5 3) s

/-! ## Host and pool memory (R311 to R317); a device without firmware answers none of it (R405) -/

/-- A page is to change to host bias; the flip waits for engine accesses under way (R313). -/
def State.flipToHost (s : State) (page : Nat) : State :=
  if s.biasHost.contains page || s.flips.contains page then s else ({ s with flips := page :: s.flips } : State).doFlips
/-- HOST_BIAS_FLIP: a host access to a device-bias page (R312). -/
def execHostBiasFlip (page : Nat) (s : State) : Out State := .next (if s.dead then s else s.flipToHost page)

/-- A read goes back to the start of its part in an HBM page (R313, log 41). What SCATADD has added, GATHERQ pushed and a copy to a peer sent stays:
its bytes are read again only. -/
def State.restartRead (s : State) (page : Nat) (c : Cmd) : Cmd :=
  let start := c.delivered - ((List.range c.delivered).reverse.takeWhile fun j => s.srcPage c c.order j == some page).length
  if c.fn == .scatadd || c.fn == .gatherq || c.fn == .copyr && c.out then { c with again := some start } else { c with delivered := start }
/-- BIAS_FLIP_TIMEOUT: the flip no longer waits for reads, which start again under host bias (R313). -/
def execBiasFlipTimeout (page : Nat) (s : State) : Out State :=
  .next (if s.flips.contains page then
    let again (c : Cmd) : Bool := s.reading.contains (page, c.id)
    ({ s with
      cmds := s.cmds.map fun (c : Cmd) => if again c then s.restartRead page c else c
      reading := s.reading.filter (·.1 != page) } : State).doFlips
    else s)

/-- BIAS_TABLE_WRITE (R312): to host bias it is a flip, which waits for engine accesses under way (R313). -/
def execBiasTableWrite (page : Nat) (host : Bool) (s : State) : Out State :=
  .next <|
    if s.dead then s
    else if host then s.flipToHost page
    else { s with biasHost := s.biasHost.filter (· != page), flips := s.flips.filter (· != page) }

/-- A snoop's write-back of a dirty line, with its poison flag (R311, R314, R315). -/
def State.writeBack (s : State) (line : Nat) (pool : Bool) : State :=
  match s.hlcState line pool with
  | .m | .o => s.request [⟨if pool then .memWr else .writeBack, line, pool, s.hlcPoison line pool⟩]
  | .e | .s | .i => s

/-- SNP_DATA (R314). -/
def execSnpData (line : Nat) (pool : Bool) (s : State) : Out State :=
  .next <|
    if s.dead then s else
    let s := s.writeBack line pool
    { s with hlc := s.hlc.map fun (h : HlcLine) => if h.line == line && h.pool == pool then { h with st := .s, by_ := 0 } else h }

/-- SNP_INV (R314). -/
def execSnpInv (line : Nat) (pool : Bool) (s : State) : Out State :=
  .next <|
    if s.dead then s else
    let s := s.writeBack line pool
    { s with hlc := s.hlc.filter fun h => !(h.line == line && h.pool == pool) }

/-- What an HLC line sends as it is evicted (R311, R314): to a pool only dirty data go. -/
def HlcLine.leaves (h : HlcLine) : List CxlReq :=
  match h.st, h.pool with
  | .m, p | .o, p => [⟨if p then .memWr else .dirtyEvict, h.line, p, h.pois⟩]
  | .e, false | .s, false => [⟨.cleanEvict, h.line, false, false⟩]
  | .e, true | .s, true | .i, _ => []
/-- A line enters the HLC; when it is full another line leaves it, with its notice (R314). -/
def State.hlcFill (s : State) (line : Nat) (pool : Bool) (st : HlcState) (pois : Bool) : State :=
  let rest := s.hlc.filter fun h => !(h.line == line && h.pool == pool)
  let new : HlcLine := { line := line, pool := pool, st := st, by_ := 0, pois := pois }
  if rest.length < 131072 then { s with hlc := new :: rest }
  else
    match rest[Config.orderKey s.fresh line % rest.length]? with
    | none => s
    | some v =>
      let s : State := { s.bump with hlc := new :: rest.erase v }
      s.request v.leaves

/-- CXL_RESPONSE: the host or a pool device answers a request of the package (R312, R314, R315), or takes what it has written or evicted. -/
def execCxlResponse (line : Nat) (pool : Bool) (grant : CxlGrant) (s : State) : Out State :=
  .next <|
    if s.dead then s else
    let is (k : CxlKind) (r : CxlReq) : Bool := r.kind == k && r.line == line && r.pool == pool
    let has (k : CxlKind) : Bool := s.cxlOut.any (is k)
    let took (k : CxlKind) : State := { s with cxlOut := s.cxlOut.filter fun r => !is k r }
    let read := (lineRequest false pool line).kind
    let own := (lineRequest true pool line).kind
    match grant with
    | .snooped =>
      if has .biSnpInv && !pool then { took .biSnpInv with granted := (line, .owned) :: s.granted }
      else if has .biSnpData && !pool then { took .biSnpData with granted := (line, .shared) :: s.granted }
      else
        match [CxlKind.memWr, .writeBack, .dirtyEvict, .cleanEvict].find? has with
        | some k => took k
        | none => s
    | .shared => if has read then (took read).hlcFill line pool .s false else s
    | .exclusive => if has read then (took read).hlcFill line pool .e false else s
    | .poisoned =>
      if has read then (took read).hlcFill line pool .s true else if has own then (took own).hlcFill line pool .m true else s
    | .owned => if has own then (took own).hlcFill line pool .m false else s

/-- A stream byte of a command lies where a test holds, on either side. -/
def State.touches (s : State) (c : Cmd) (f : Nat → Bool) : Bool :=
  let order := c.order
  let hit (x : Except Stop Nat) : Bool := match x with | .ok p => f p | .error _ => false
  c.fn.copyOrGather && (List.range c.total).any fun k => hit (s.srcPlace c order k) || hit (s.dstPlace c order k)

/-- A pool shelf has failed (R316): its range is lost and the commands that touch it end. -/
def State.loseShelf (s : State) (base len : Nat) : State :=
  let hit := s.cmds.filter fun c => c.number != 0 && !c.complete && s.touches c fun p =>
    placeTgt p == 4 && decide (base ≤ placeOff p) && decide (placeOff p < base + len)
  let s := hit.foldl (fun (s : State) c => s.failCmd c.id 3 0) s
  ({ s with lostPools := (base, len) :: s.lostPools.filter (·.1 != base) } : State).event 0x21 4 0 0xFFFF [(base, 8), (len, 8)]

/-- POOL_SHELF_FAILURE. -/
def execPoolShelfFailure (base len : Nat) (s : State) : Out State := .next (s.loseShelf base len)
/-- POOL_COMPLETION_TIMEOUT: a request to the shelf is unanswered after 10 ms. -/
def execPoolCompletionTimeout (base len : Nat) (s : State) : Out State :=
  .next (if s.cxlOut.any fun r => r.pool && decide (base ≤ r.line * 64) && decide (r.line * 64 < base + len) then
    ({ s with cxlOut := s.cxlOut.filter fun r => !(r.pool && decide (base ≤ r.line * 64) && decide (r.line * 64 < base + len)) } : State).loseShelf base len
    else s)
/-- POOL_RANGE_REENABLE. -/
def execPoolRangeReenable (base : Nat) (s : State) : Out State := .next { s with lostPools := s.lostPools.filter (·.1 != base) }

/-- ATS_INVALIDATION of a 16 KiB host page: it completes when the engine commands that access the page have drained, or have been aborted first
(R317). -/
def execAtsInvalidation (page : Nat) (drained : Bool) (s : State) : Out State :=
  .next <|
    if s.dead then s else
    let hit := s.cmds.filter fun c => c.number != 0 && s.touches c fun p => placeTgt p == 3 && placeOff p / 16384 == page
    let s := if drained then s else (hit.filter (!·.complete)).foldl (fun (s : State) c => s.failCmd c.id 5 2) s
    if hit.isEmpty then { s with atsDone := page :: s.atsDone } else { s with atsWait := (page, hit.map (·.id)) :: s.atsWait }

/-- LANES_LOST: a CXL port retrains at x8 or x4 (R311). -/
def execLanesLost (port : Bool) (width : Nat) (s : State) : Out State :=
  .next (if width == 8 || width == 4 then { s with portWidth := s.portWidth.set (if port then 1 else 0) width } else s)

end Sys2Proof.Machine
end

