-- ==== Sys2Proof/Machine/Order.lean ====
section
/-! DEFINITION. FENCE, BAR and BBAR (spec/08_ordering.md R232 to R239). -/

namespace Sys2Proof.Machine

/-! ## FENCE (R233) -/

/-- Every write command of a crew to another package is acknowledged by its destination, or has failed. -/
def State.remoteAcked (s : State) (crew : Nat) : Bool := !s.cmds.any fun c => c.crew == crew && c.fn == .copyr && c.out && !c.complete
/-- What a full or release fence waits for: the writes its crew has issued, read from or acquired (R220, R222). A fence issues only once every read of
its crew is performed, those of pending WAITCs among them. -/
def State.fenceMet (s : State) (crew : Nat) (all pod : Bool) : Bool := !all || (s.coveredDone crew && (!pod || s.remoteAcked crew))

/-- A fence: it completes when what it waits for has happened; one that orders reads is an acquire (R219). -/
def State.fence (s : State) (i : Instr) (k : Crew) (act : Lanes) (reads all pod : Bool) : State :=
  if s.cmdHeld k then s
  else if s.fenceMet k.id all pod then (if reads then (s.done i k act).acquires k else s.done i k act)
  else s.waits k (.fence reads all pod) act

/-- FENCE. -/
def execFence (c : Scope) (s : State) : Out State :=
  issue (.fence c) s fun s k act => s.fence (.fence c) k act true true (c == .pod)
/-- FENCE.acq. -/
def execFenceAcq (c : Scope) (s : State) : Out State :=
  issue (.fenceAcq c) s fun s k act => s.fence (.fenceAcq c) k act true false false
/-- FENCE.rel. -/
def execFenceRel (c : Scope) (s : State) : Out State :=
  issue (.fenceRel c) s fun s k act => s.fence (.fenceRel c) k act false true (c == .pod)

/-- FENCE_WAIT_END (R234); the wait of a DUMPW for its own bytes ends in the same way (R369). -/
def execFenceWaitEnd (crew : Nat) (s : State) : Out State :=
  .next <|
    match s.crew? crew with
    | none => s
    | some c =>
      match c.wait with
      | some (.fence reads all pod) => if s.fenceMet crew all pod then (if reads then s.wakes c else s.setCrew c.wake) else s
      | some (.perform r d) => if s.crewWritesDone crew then s.wakes (c.reply r d) else s
      | _ => s

/-! ## BAR (R235, R236) -/

/-- The crews of a squad that have not ended, wherever they are. -/
def State.squadCrews (s : State) (sq : Nat) : List Crew :=
  (s.crews.filter fun c => c.squad == sq && !c.ended)
    ++ ((s.squads.filter (·.id == sq)).flatMap (·.swapped)) ++ (s.saved.map (·.crew)).filter fun c => c.squad == sq

def Squad.bar (q : Squad) (j : Nat) : Bar := q.bars.getD j Bar.idle
def Squad.setBar (q : Squad) (j : Nat) (b : Bar) : Squad := { q with bars := q.bars.set j b }

/-- The barrier after one arrival. -/
def Bar.arrive (b : Bar) (count crews : Nat) : Bar :=
  let b := if b.isOpen then b
    else { isOpen := true, need := BitVec.ofNat 6 (if count == 0 then crews else count), arrived := 0, all := count == 0 }
  { b with arrived := b.arrived + 1 }

/-- BAR: the crew arrives, which is a release at SQUAD scope (R236) and orders what it has issued before all that follows (R218), and waits for its
phase. -/
def execBar (n : BitVec 6) (id : BitVec 4) (d : SCode) (s : State) : Out State :=
  issue (.bar n id d) s fun s k act =>
    if s.cmdHeld k then s
    else
      match s.squad? k.squad with
      | none => s
      | some q =>
        (((s.releases k false).ordersAll k).setSquad (q.setBar id.toNat ((q.bar id.toNat).arrive n.toNat (s.squadCrews k.squad).length))).waits k (.bar id.toNat d.toNat) act

def Crew.waitsBar (c : Crew) (j : Nat) : Bool := match c.wait with | some (.bar b _) => b == j | _ => false
def Crew.inBar (c : Crew) : Bool := match c.wait with | some (.bar _ _) => true | _ => false

/-- The code a phase completes with now, if it completes (R236). -/
def State.barCode (s : State) (q : Squad) (j : Nat) : Option Word :=
  let b := q.bar j
  let cs := s.squadCrews q.id
  if !b.isOpen then none
  else if b.need ≤ b.arrived then some 0
  else if cs.all Crew.inBar && cs.any (·.waitsBar j) && (List.range j).all (fun i => !cs.any (·.waitsBar i)) then some 1
  else none

/-- A crew whose BAR completes, resident, halted, swapped or saved (R236, R389). -/
def Crew.endBar (c : Crew) (j : Nat) (code : Word) : Crew :=
  match c.wait with
  | some (.bar b d) => if b == j then (c.setS d code).wake else c
  | _ => c
/-- Word 0 of a thread in a save area (R392). -/
def Thread.word0 (t : Thread) : Nat :=
  t.pcv.toNat + bit t.live 48 + bit t.yex 49 + bit t.rwait 50 + (match t.inreg with
    | .none => 0
    | some r => 2 ^ 51 + r.slot % 16 * 2 ^ 52 + bit r.recd 56)
/-- pcv and scalars of a saved crew written into its area again. -/
def State.resave (s : State) (x : SavedCrew) : State :=
  let s := (List.range 32).foldl (fun (s : State) t => s.saveWrite x (0x500 + 32 * t) (leBytes 8 (x.crew.thread t).word0)) s
  x.crew.s.zipIdx.foldl (fun (s : State) w => s.saveWrite x (0x1A00 + 4 * w.2) (leBytes 4 w.1.toNat)) s

/-- BAR_PHASE_COMPLETE: every waiting crew goes on; the end of the phase is its acquire (R218, R236). -/
def execBarPhaseComplete (squad bar : Nat) (s : State) : Out State :=
  .next <|
    match s.squad? squad with
    | none => s
    | some q =>
      match s.barCode q bar with
      | none => s
      | some code =>
        let up (c : Crew) : Crew := if c.squad == squad then c.endBar bar code else c
        let s := (s.saved.filter fun x => x.crew.squad == squad && x.crew.waitsBar bar).foldl (fun (s : State) (x : SavedCrew) =>
          s.resave { x with crew := up x.crew }) s
        let s := ((s.squadCrews squad).filter (·.waitsBar bar)).foldl (fun (s : State) c => s.acquires c) s
        { s with
          crews := s.crews.map up
          saved := s.saved.map fun (x : SavedCrew) => { x with crew := up x.crew }
          squads := s.squads.map fun (q : Squad) =>
            if q.id == squad then { q.setBar bar Bar.idle with swapped := q.swapped.map up } else q }

/-! ## BBAR (R237 to R239) -/

/-- The checks of a record address in the order of R196 (R239). -/
def State.recordAt (s : State) (k : Crew) (a : Nat) : Except Cause Nat :=
  if a % 16 != 0 then .error .misalign
  else if a < Config.squadBase || Config.spillBase ≤ a then .error .farAccess
  else if ((s.squad? k.squad).map (·.memLen)).getD 0 < a - Config.squadBase + 16 then .error .prot
  else .ok (a - Config.squadBase)

def State.squadN (s : State) (sq off : Nat) : Nat := ((s.squad? sq).map fun q => leNat (q.mem.readN off 8)).getD 0
/-- EXPECT and LANDED of a record. -/
def State.expect (s : State) (sq off : Nat) : Nat := s.squadN sq off
def State.landed (s : State) (sq off : Nat) : Nat := s.squadN sq (off + 8)

/-- A BBAR on the record its address names. -/
def State.bbar (s : State) (k : Crew) (act : Lanes) (a : BitVec 6) (body : Nat → State) : State :=
  if s.cmdHeld k then s
  else
    match s.recordAt k (k.pr a.toNat).toNat with
    | .error c => s.trapAt k c act (k.pr a.toNat).toNat
    | .ok off => body off

/-- BBAR ARM. -/
def execBbarArm (r : Reply) (b a : BitVec 6) (s : State) : Out State :=
  issue (.bbarArm r b a) s fun s k act => s.bbar k act a fun off =>
    let v := (s.expect k.squad off + (k.pr b.toNat).toNat) % 2 ^ 64
    (s.doneReply (.bbarArm r b a) k act r (BitVec.ofNat 64 v)).squadWrite k.squad off (leBytes 8 v)

/-- BBAR WAIT. -/
def execBbarWait (r : Reply) (a : BitVec 6) (s : State) : Out State :=
  issue (.bbarWait r a) s fun s k act => s.bbar k act a fun off =>
    if s.expect k.squad off ≤ s.landed k.squad off then
      (s.doneReply (.bbarWait r a) k act r (BitVec.ofNat 64 (s.landed k.squad off))).acquires k
    else s.waits k (.bbar false r off) act

/-- LANDED less EXPECT, EXPECT zero (R239). -/
def State.take (s : State) (sq off : Nat) : State :=
  s.squadWrite sq off (leBytes 8 0 ++ leBytes 8 (s.landed sq off - s.expect sq off))

/-- BBAR TAKE. -/
def execBbarTake (r : Reply) (a : BitVec 6) (s : State) : Out State :=
  issue (.bbarTake r a) s fun s k act => s.bbar k act a fun off =>
    if s.expect k.squad off ≤ s.landed k.squad off then
      ((s.doneReply (.bbarTake r a) k act r (BitVec.ofNat 64 (s.expect k.squad off))).acquires k).take k.squad off
    else s.waits k (.bbar true r off) act

/-- BBAR_CONDITION_MET. -/
def execBbarConditionMet (crew : Nat) (s : State) : Out State :=
  .next <|
    match s.crew? crew with
    | none => s
    | some c =>
      match c.wait with
      | some (.bbar t r off) =>
        let e := s.expect c.squad off
        let l := s.landed c.squad off
        if l < e then s
        else if t then (s.wakes (c.reply r (BitVec.ofNat 64 e))).take c.squad off
        else s.wakes (c.reply r (BitVec.ofNat 64 l))
      | _ => s

end Sys2Proof.Machine
end

