-- ==== Sys2Proof/Machine/Erg.lean ====
section
/-! DEFINITION. The Erg: descriptors, the surrogate network, training, arming, the states of a slot and invalidation (spec/13_approx.md R345 to
R362). -/

namespace Sys2Proof.Machine

/-! ## Descriptors (R345, R346) -/

/-- Bytes of a read descriptor, little-endian. -/
def u (bs : List Byte) (off n : Nat) : Nat := leNat ((bs.drop off).take n)
def w32 (bs : List Byte) (off : Nat) : Word := BitVec.ofNat 32 (u bs off 4)

/-- The fields of a descriptor; a scale whose bits [30:0] are zero is 1.0. -/
def descFields (bs : List Byte) : Desc :=
  let nin := u bs 1 1
  let nout := u bs 2 1
  { ok := false, nin := nin, nout := nout, h1 := u bs 3 1, h2 := u bs 4 1, preload := bits (u bs 7 1) 1 1 == 1, trust := bits (u bs 7 1) 2 2 == 1
    ins := (List.range nin).map fun i => u bs (8 + i) 1, outs := (List.range nout).map fun o => u bs (0x18 + o) 1
    entry := (w32 bs 0x20).toInt, exit := (w32 bs 0x24).toInt
    dom := (List.range nin).map fun i => (w32 bs (0x40 + 8 * i), w32 bs (0x44 + 8 * i))
    scale := (List.range nout).map fun o => let x := w32 bs (0xC0 + 4 * o); if x.toNat % 2 ^ 31 == 0 then 0x3F800000 else x
    errLimit := w32 bs 0xE0, errSpike := w32 bs 0xE4, rate := w32 bs 0xE8, window := u bs 0xEC 2, epochs := u bs 0xEE 2, minsamp := u bs 0xF0 2
    trial := u bs 0xF2 2, cooldown := u bs 0xF4 2, weights := BitVec.ofNat 64 (u bs 0xF8 8)
    deps := (List.range (u bs 6 1)).map fun i => (u bs (0x100 + 16 * i) 8, u bs (0x108 + 16 * i) 4) }

def finite (w : Word) : Bool := !(f32v w).isNan && !(f32v w).isInf
/-- The limits of R346 and the allotment of R348. -/
def descLegal (bs : List Byte) (slot n : Nat) : Bool :=
  let d := descFields bs
  let z (off k : Nat) : Bool := u bs off k == 0
  u bs 0 1 == slot && decide (1 ≤ d.nin ∧ d.nin ≤ 16) && decide (1 ≤ d.nout ∧ d.nout ≤ 8) && decide (1 ≤ d.h1 ∧ d.h1 ≤ 64) && decide (d.h2 ≤ 64)
    && decide (u bs 5 1 ≤ 15) && decide (u bs 6 1 ≤ 4) && decide (u bs 7 1 < 8) && (!d.trust || d.preload)
    && decide d.outs.Nodup && (d.ins ++ d.outs).all (decide <| · < n)
    && decide (8 ≤ d.exit - d.entry ∧ d.exit - d.entry ≤ 65536) && z 0x28 24 && z 0xF6 2 && (List.range 4).all (fun i => z (0x10C + 16 * i) 4)
    && d.dom.all (fun x => fle x.1 x.2) && d.scale.all finite
    && finite d.errLimit && fle 0 d.errLimit && fle d.errLimit d.errSpike && finite d.rate && (f32v 0).lt (f32v d.rate)
    && decide (1 ≤ d.window ∧ d.window ≤ 1024) && decide (1 ≤ d.epochs ∧ d.epochs ≤ 1024)
    && decide (64 ≤ d.minsamp ∧ d.minsamp ≤ 4096) && d.minsamp % 64 == 0 && decide (d.window ≤ d.trial) && decide (1 ≤ d.cooldown)
    && (d.preload || d.weights == 0) && d.deps.all (fun x => decide (1 ≤ x.2 ∧ x.2 ≤ 2 ^ 24))

/-- An address relative to the grid's entry E, modulo 2^48. -/
def rel48 (e : Nat) (off : Int) : Nat := ((e + off) % 2 ^ 48).toNat

/-- The descriptor at a VA through a crew's fetch path; none when a read faults or a limit is broken. -/
def State.readDesc (s : State) (k : Crew) (va slot n : Nat) : Option (List Byte × Desc) :=
  if va % 16 != 0 then none
  else
    match s.fetchBytes k va 80 with
    | .error _ => none
    | .ok bs => if descLegal bs slot n then some (bs, { descFields bs with ok := true }) else none

/-- The APXE and APXL of the slot stand at ENTRY and EXIT - 4 (R348). -/
def State.regionMarked (s : State) (k : Crew) (e slot : Nat) (d : Desc) : Bool :=
  let word (a : Nat) : Nat := match s.fetch32 k a with | .ok w => w | .error _ => 0
  rel48 e d.entry % 2 == 0 && rel48 e d.exit % 2 == 0 && word (rel48 e d.entry) == 0xF80000C9 + slot * 256
    && word (rel48 e (d.exit - 4)) == 0xF80000CB + slot * 256

/-! ## The surrogate network (R351 to R353) -/

/-- Fan-in and units of the layers. -/
def Desc.layers (d : Desc) : List (Nat × Nat) :=
  if d.h2 == 0 then [(d.nin, d.h1), (d.h1, d.nout)] else [(d.nin, d.h1), (d.h1, d.h2), (d.h2, d.nout)]
def Desc.params (d : Desc) : Nat := (d.layers.map fun l => l.1 * l.2 + l.2).sum
/-- Bytes of the weight image. -/
def Desc.imageSize (d : Desc) : Nat := (2 * d.params + 15) / 16 * 16

/-- A layer: rows of weights and biases. -/
abbrev Layer := List (List Fv) × List Fv
def bf16v (w : BitVec 16) : Fv := Fmt.bf16.decode w.toNat
def bf16r (v : Fv) : BitVec 16 := BitVec.ofNat 16 (Fmt.bf16.round .rne v)
/-- Layers of a weight image in the order of R351. -/
def layersOf : List (Nat × Nat) → List Fv → List Layer
  | [], _ => []
  | (f, n) :: r, ws =>
    ((List.range n).map (fun j => (ws.drop (j * f)).take f), (ws.drop (n * f)).take n) :: layersOf r (ws.drop (n * f + n))

def dot (a b : List Fv) : List Fv := List.zipWith Fv.mul a b
/-- z of a layer. -/
def layerZ (l : Layer) (h : List Word) : List Word := List.zipWith (fun row b => f32r (.sum (b :: dot row (h.map f32v)))) l.1 l.2
def ramp (z : Word) : Word := if (f32v z).isNan then f32nan else if (f32v 0).lt (f32v z) then z else 0
/-- Inputs and z of every layer. -/
def forward : List Layer → List Word → List (List Word × List Word)
  | [], _ => []
  | l :: r, h => (h, layerZ l h) :: forward r ((layerZ l h).map ramp)

/-- NET (R352). -/
def ErgSlot.net (e : ErgSlot) (x : List Word) : List Word :=
  let z := ((forward (layersOf e.desc.layers (e.weights.map bf16v)) x).getLast?.map (·.2)).getD []
  List.zipWith (fun z s => f32r ((f32v z).mul (f32v s))) z e.desc.scale

/-- The least q with 4^q >= f. -/
def fanShift (f : Nat) : Nat := ((List.range 8).find? fun q => decide (f ≤ 4 ^ q)).getD 8
/-- The initial weights (R353). -/
def initFrom (slot : Nat) : List (Nat × Nat) → Nat → List (BitVec 16)
  | [], _ => []
  | (f, n) :: r, i =>
    let w (j : Nat) : BitVec 16 :=
      let m := sextN ((mix (BitVec.ofNat 64 (2 ^ 32 * slot + (i + j)))).toNat % 2 ^ 16) 16
      bf16r (.fin (decide (m < 0)) m.natAbs (2 ^ (15 + fanShift f)))
    ((List.range (f * n)).map w ++ List.replicate n 0) ++ initFrom slot r (i + f * n + n)
def Desc.initial (d : Desc) (slot : Nat) : List (BitVec 16) := initFrom slot d.layers 0

/-- Values of an image of n parameters. -/
def imageValues (bs : List Byte) (n : Nat) : List (BitVec 16) := (List.range n).map fun j => BitVec.ofNat 16 (u bs (2 * j) 2)
/-- The image of a slot (R351). -/
def ErgSlot.image (e : ErgSlot) : List Byte :=
  let bs := e.weights.flatMap fun w => leBytes 2 w.toNat
  bs ++ List.replicate (e.desc.imageSize - bs.length) 0

/-! ## Training (R355) -/

/-- The errors of the layers below, from those of a layer: (layer, d) from the output side back. -/
def backward : List (Layer × (List Word × List Word)) → List Word → List (List Word)
  | [], d => [d]
  | (l, _, z) :: r, d =>
    d :: backward r (z.mapIdx fun j zj =>
      if (f32v 0).lt (f32v zj) && !(f32v zj).isNan then f32r (.sum (dot (l.1.map fun row => row.getD j (.fin false 0 1)) (d.map f32v))) else 0)

/-- Per layer, what a sample gives: the inputs h and the errors d. -/
def sampleErrors (dsc : Desc) (ls : List Layer) (sm : Sample) : List (List Word × List Word) :=
  let f := forward ls sm.x
  let t := List.zipWith (fun y sc => f32r ((f32v y).div (f32v sc))) sm.y dsc.scale
  let out := (f.getLast?.map (·.2)).getD []
  let d := List.zipWith (fun o t =>
    f32r (((Fv.ofInt 2).mul (.sum [f32v o, (f32v t).neg])).div (.ofInt (64 * dsc.nout)))) out t
  -- above each hidden layer stands the layer whose weights carry its errors back
  let above := (ls.drop 1).reverse.zip (f.dropLast.reverse)
  List.zipWith (fun x d => (x.1, d)) f (backward above d).reverse

/-- One update of the weights from a batch; none when a gradient is NaN or infinite (R355). -/
def ErgSlot.update (e : ErgSlot) (batch : List Sample) : Option (List (BitVec 16)) :=
  let ls := layersOf e.desc.layers (e.weights.map bf16v)
  let ss := batch.map (sampleErrors e.desc ls)
  let at_ (n : Nat) : List (List Word × List Word) := ss.map fun x => x.getD n ([], [])
  let grads : List Word := (e.desc.layers.mapIdx fun n (l : Nat × Nat) =>
    ((List.range l.2).flatMap fun j => (List.range l.1).map fun i =>
      f32r (.sum ((at_ n).map fun x => (f32v (x.2.getD j 0)).mul (f32v (x.1.getD i 0)))))
    ++ (List.range l.2).map fun j => f32r (.sum ((at_ n).map fun x => f32v (x.2.getD j 0)))).flatten
  if grads.any fun g => !finite g then none
  else some (List.zipWith (fun w g => bf16r (.sum [bf16v w, ((f32v e.desc.rate).mul (f32v g)).neg])) e.weights grads)

/-! ## Errors and the window (R356, R357) -/

/-- e of a compared sample. -/
def Desc.error (d : Desc) (p y : List Word) : Word :=
  if !(p.all finite && y.all finite) then 0x7F800000
  else
    let ts := List.zipWith (fun (x : Word × Word) sc => (Fv.sum [f32v x.1, (f32v x.2).neg]).abs.div (f32v sc).abs) (p.zip y) d.scale
    f32r ((Fv.sum ts).div (.ofInt d.nout))
def ErgSlot.pushError (e : ErgSlot) (x : Word) : ErgSlot :=
  { e with
    window := if e.window.length < e.desc.window then e.window ++ [x] else e.window.set e.winNext x
    winNext := (e.winNext + 1) % (max 1 e.desc.window), lastE := x }
def ErgSlot.full (e : ErgSlot) : Bool := e.desc.ok && decide (e.desc.window ≤ e.window.length)
/-- m, the mean of a full window. -/
def ErgSlot.mean (e : ErgSlot) : Word := f32r ((Fv.sum (e.window.map f32v)).div (.ofInt e.desc.window))
def ErgSlot.clearWindow (e : ErgSlot) : ErgSlot := { e with window := [], winNext := 0 }

/-! ## Transitions (R358) -/

/-- A slot goes IDLE: the tag and the watch bits go and its fields return to those of a slot never armed. -/
def State.ergIdle (s : State) (e : ErgSlot) : State :=
  (s.ergGo e .idle).setErg { ErgSlot.idle e.die e.slot with epoch := e.epoch + 1 }

/-- A compared sample in TRIAL or FITTED. -/
def State.ergCompare (s : State) (e : ErgSlot) (x : Word) : State :=
  let e := e.pushError x
  let above (lim : Word) (m : Word) : Bool := (f32v lim).lt (f32v m)
  match e.state with
  | .trial =>
    let e := { e with compared := e.compared + 1 }
    let due := decide (e.desc.trial ≤ e.compared)
    if above e.desc.errSpike x || (due && above e.desc.errLimit e.mean) then
      let e := { e with buffer := [], tries := e.tries + 1, compared := 0 }
      if 4 ≤ e.tries then s.ergGo { e with reason := 3 } .retired else s.ergGo e .observe
    else if due then s.ergGo e .fitted
    else s.setErg e
  | .fitted =>
    if above e.desc.errSpike x || (e.full && above e.desc.errLimit e.mean) then
      s.ergGo { e with fallbacks := if e.fallbacks == 0xFFFF then e.fallbacks else e.fallbacks + 1, cooled := 0 } .fallback
    else s.setErg e
  | .idle | .observe | .train | .fallback | .retired => s

/-- A sample of OBSERVE; the buffer that reaches MINSAMP starts training (R354). -/
def State.ergObserve (s : State) (e : ErgSlot) (x : Sample) : State :=
  let e := { e with buffer := e.buffer ++ [x] }
  if e.buffer.length < e.desc.minsamp then s.setErg e
  else
    s.ergGo { e with
      buffer := if e.det then sortBy (fun (x : Sample) => (x.cid.toNat * 2 ^ 32 + x.icnt.toNat) * 32 + x.lane) e.buffer else e.buffer
      trained := 0 } .train

/-- COOLDOWN true runs end a fallback. -/
def State.ergCooled (s : State) (e : ErgSlot) : State :=
  if e.state == .fallback && decide (e.desc.cooldown ≤ e.cooled) then s.ergGo { e.clearWindow with buffer := [], tries := 0 } .observe else s

/-! ## Arming and invalidation (R348, R360) -/

/-- Deck offsets of the 16-byte pieces of an image under the checks of R196, for a context (core, ASID, privilege); none when one fails,
and when the address is not 16-aligned (R346 and R348 do not say; DESIGN CHOICE, log 91). -/
def State.imageLocs (s : State) (core : Nat) (asid : BitVec 12) (priv : Bool) (va n : Nat) : Option (List Nat) :=
  if va % 16 != 0 then none
  else
    (List.range (n / 16)).mapM fun j =>
      let a := va + 16 * j
      if 2 ^ 47 ≤ a then none
      else
        match s.translate core asid a with
        | none => none
        | some l => if l.r && (!l.p || priv) && l.tgt == 0 then some (l.phys a) else none
/-- A PRELOAD image; none when it does not map to the deck or its read faults. -/
def State.preloadImage (s : State) (core : Nat) (asid : BitVec 12) (priv : Bool) (d : Desc) : Option (List (BitVec 16)) :=
  match s.imageLocs core asid priv d.weights.toNat d.imageSize with
  | none => none
  | some ls =>
    if ls.any fun a => s.poisoned (a / 128) then none
    else some (imageValues (ls.flatMap fun a => s.deck.readN a 16) d.params)

/-- The deck lines of a range of VA; none when one does not map to the deck. -/
def State.deckRange (s : State) (k : Crew) (va n : Nat) : Option (List Nat) :=
  (List.range ((va + n - 1) / 128 + 1 - va / 128)).mapM fun j =>
    let a := (va / 128 + j) * 128
    if 2 ^ 47 ≤ a then none
    else
      match s.translate k.core k.asid a with
      | none => none
      | some l => if l.tgt == 0 then some (l.phys a / 128) else none

/-- The lines a slot watches (R360). -/
def State.watchLines (s : State) (k : Crew) (e va : Nat) (d : Desc) : Option (List Nat) :=
  ((((rel48 e d.entry, (d.exit - d.entry).toNat) :: (va, 320) :: d.deps).mapM fun r => s.deckRange k r.1 r.2).map fun ls => ls.flatten.dedup)

/-- The grid's entry E. -/
def State.gridEntry (s : State) (k : Crew) : Nat := ((s.grid? k.grid).map (·.entry.toNat)).getD 0

/-- A slot armed by a crew (R348). -/
def State.arm (s : State) (k : Crew) (slot va : Nat) : State :=
  let die := dieOf k.core
  let e := s.gridEntry k
  let e0 : ErgSlot := { ErgSlot.idle die slot with asid := k.asid, descVa := va, base := e, epoch := (s.erg die slot).epoch }
  match s.readDesc k va slot k.n with
  | none => s.ergGo { e0 with reason := 2 } .retired
  | some (bs, d) =>
    let e1 : ErgSlot := { e0 with desc := d, shift := BitVec.ofNat 4 (u bs 5 1), det := bits (u bs 7 1) 0 0 == 1 }
    let ws := if d.preload then s.preloadImage k.core k.asid (s.privileged k) d else some (d.initial slot)
    match s.regionMarked k e slot d, ws with
    | true, some w =>
      let e2 : ErgSlot := { e1 with weights := w }
      match s.watchLines k e va d with
      | none => s.ergGo { e2 with reason := 4 } .retired
      | some ls =>
        if Config.watchedLines < (((s.ergs.filter fun x => x.die == die).flatMap (·.watched)) ++ ls).dedup.length then
          s.ergGo { e2 with reason := 4 } .retired
        else
          (s.ergGo { e2 with watched := ls } (if !d.preload then .observe else if d.trust then .fitted else .trial)).watch die ls
    | _, _ => s.ergGo { e0 with reason := 2 } .retired

/-- Absent lines of the PRELOAD image an arming would read, which park the crew (R179, R196). -/
def State.armAbsent (s : State) (k : Crew) (slot va : Nat) : List Nat :=
  match s.readDesc k va slot k.n with
  | none => []
  | some (_, d) =>
    if !d.preload then []
    else (((s.imageLocs k.core k.asid (s.privileged k) d.weights.toNat d.imageSize).getD []).map (· / 128)).dedup.filter fun l => !s.present l

/-- The states that take an invalidation (R358). -/
def ErgSlot.takesInval (e : ErgSlot) : Bool := e.state != .idle && e.state != .retired

/-- The invalidation of a slot (R358). -/
def State.invalidate (s : State) (e : ErgSlot) : State :=
  if !e.takesInval then s
  else
    let e1 : ErgSlot := { e.clearWindow with
      invals := if e.invals == 0xFFFF then e.invals else e.invals + 1, tries := 0, compared := 0, buffer := [] }
    if e.desc.preload then
      match s.preloadImage (e.die * Config.coresPerDie) e.asid (s.ctx e.asid).priv e.desc with
      | none => s.ergGo { e1 with reason := 2 } .retired
      | some w => s.ergGo { e1 with weights := w } .trial
    else s.ergGo { e1 with weights := e.desc.initial e.slot } .observe

/-- Every slot of a list invalidated; the slots that took the transition. -/
def State.invalidateAll (s : State) (p : ErgSlot → Bool) : State :=
  (s.ergs.filter fun e => p e && e.takesInval).foldl (fun (s : State) e => s.invalidate (s.erg e.die e.slot)) s

end Sys2Proof.Machine
end

