-- ==== Sys2Proof/Machine/Stroke.lean ====
section
/-! DEFINITION. Strokes, the Cox ring and stroke memory (spec/12_stroke.md R319 to R342). -/

namespace Sys2Proof.Machine

/-! ## Records (R326 to R328) -/

/-- A record of the given first 60 bytes with its CRC. -/
def recordWith (bs : List Byte) : BitVec 512 := BitVec.ofNat 512 (leNat (bs ++ leBytes 4 (crc32c bs).toNat))
/-- The record of a stroke with its number. -/
def Stroke.record (x : Stroke) (k : Nat) : BitVec 512 :=
  recordWith (leBytes 1 x.kind.toNat ++ leBytes 1 x.flags.toNat ++ leBytes 2 (Config.packageId.toNat % 64 + x.core.toNat * 64) ++ leBytes 4 k
    ++ leBytes 8 x.offset.toNat ++ leBytes 8 x.p0.toNat ++ leBytes 8 x.p1.toNat ++ leBytes 28 0)
/-- The request for repair of a range of numbers (R340). -/
def requestRecord (a b : Nat) : BitVec 512 :=
  recordWith (leBytes 2 0x0F ++ leBytes 2 (Config.packageId.toNat % 64) ++ leBytes 12 0 ++ leBytes 8 a ++ leBytes 8 b ++ leBytes 28 0)

/-- Field of a record: bytes o to o + n - 1. -/
def recF (r : BitVec 512) (o n : Nat) : Nat := r.toNat / 256 ^ o % 256 ^ n
def recGood (r : BitVec 512) : Bool := crc32c (leBytes 60 r.toNat) == BitVec.ofNat 32 (recF r 60 4)
def recKind (r : BitVec 512) : Nat := recF r 0 1
def recRepair (r : BitVec 512) : Bool := recF r 1 1 / 128 == 1
/-- A sent stroke as it is sent again: REPAIR set, the CRC recomputed (R340). -/
def repairOf (r : BitVec 512) : BitVec 512 := recordWith ((leBytes 60 r.toNat).set 1 (BitVec.ofNat 8 (recF r 1 1 % 128 + 128)))

/-- A counted record with a reserved field that is not zero has no effect (R327). -/
def recReserved (r : BitVec 512) : Bool := recF r 1 1 / 2 % 16 != 0 || recF r 2 2 / 2 ^ 15 != 0 || recF r 56 4 != 0
def recWidth (r : BitVec 512) : Nat := if recF r 1 1 % 2 == 1 then 8 else 4
/-- A w-byte word inside the replica, aligned (R327). -/
def skmWord (off w : Nat) : Bool := off % w == 0 && decide (off + w ≤ Config.skmBytes)

/-! ## Application (R323, R324, R328 to R331) -/

/-- Bytes of the replica written by an application: monitors of the line trigger (R324). -/
def State.skmWrite (s : State) (off w v : Nat) : State := ({ s with skm := s.skm.writeN off (leBytes w v) } : State).trigger .skm (off / 128)

/-- The generation of an ASID raised by one; at the wrap its cached translations go first (R191). -/
def State.raiseGen (s : State) (asid : BitVec 12) : State :=
  let c := s.ctx asid
  let s := s.setCtx { c with gen := c.gen + 1 }
  let s : State :=
    if c.gen == 0xFFFFF then { s with tlb := s.tlb.filter (·.asid != asid), walkCache := s.walkCache.filter (·.asid != asid) } else s
  s.invalidateAll (·.asid == asid)

/-- A launch by stroke at its arrival; while a line of its record is absent its check waits (R98, R330). -/
def State.strokeLaunch (s : State) (asid : BitVec 12) (va : Nat) : State :=
  match s.hostLaunch asid va with
  | some t => t
  | none => { s with arrived := s.arrived ++ [(va, asid)] }
/-- The arrived launches whose records can now be read. -/
def State.retryLaunches (s : State) : State :=
  s.arrived.foldl (fun (s : State) x => s.strokeLaunch x.2 x.1) { s with arrived := [] }

/-- The effect of stroke k on this package (R328). -/
def State.strokeEffect (s : State) (r : BitVec 512) (k : Nat) : State :=
  let w := recWidth r
  let off := recF r 8 8
  let m := 2 ^ (8 * w)
  let p0 := recF r 16 8
  let p1 := recF r 24 8
  let x := leNat (s.skm.readN off w)
  if recReserved r then s
  else
    match recKind r with
    | 0x01 => if skmWord off w then s.skmWrite off w (p0 % m) else s
    | 0x02 => if skmWord off w then s.skmWrite off w ((x + p0) % m) else s
    | 0x03 => if skmWord off w && x == p1 % m then s.skmWrite off w (p0 % m) else s
    | 0x04 => if skmWord off w && skmWord p1 w then (s.skmWrite off w (p0 % m)).skmWrite p1 w x else s
    | 0x05 => if skmWord off w then s.skmWrite off w (max x (p0 % m)) else s
    | 0x08 => s.raiseGen (BitVec.ofNat 12 p0)
    | 0x09 => s.strokeLaunch (BitVec.ofNat 12 p1) p0
    | 0x0A => { s with ring := { s.ring with notes := (p0 % 256, BitVec.ofNat 64 k) :: s.ring.notes.filter (·.1 != p0 % 256) } }
    | _ => s

/-- Stroke k applied: SK_APPLIED follows its effect (R324). -/
def State.applyStroke (s : State) (r : BitVec 512) (k : Nat) : State :=
  let s := s.strokeEffect r k
  { s with ring := { s.ring with applied := k } }.pollWaitc

/-- The state of the ring after a change of what is missing (R337, R340). -/
def Ring.refresh (r : Ring) : Ring :=
  match r.state with
  | .inService | .lagging => { r with state := if r.missing.isEmpty then .inService else .lagging }
  | .down => r
  | .fault => r

/-- Held strokes applied in order up to the first gap (R324, R340). -/
def State.drainStrokes (s : State) : Nat → State
  | 0 => s
  | fuel + 1 =>
    match s.ring.held.find? (·.1 == s.ring.applied + 1) with
    | none => { s with ring := s.ring.refresh }
    | some x =>
      let s : State := { s with ring := { s.ring with held := s.ring.held.filter (·.1 != x.1) } }
      (s.applyStroke x.2 x.1).drainStrokes fuel

/-- The replica enters FAULT (R342). -/
def State.ringFault (s : State) : State :=
  if s.ring.state == .fault then s
  else
    let first := ((s.ring.missing.map (·.1)).min?).getD (s.ring.applied + 1)
    ({ s with ring := { s.ring with state := .fault, faulted := true, missing := [], held := [] } } : State).event 0x31 4 0 0xFFFF [(first, 8)]

/-- The numbers e to e + d - 1 are missing from now on (R339). -/
def Ring.lack (r : Ring) (d : Nat) : Ring :=
  if r.state == .fault then r else { r with missing := r.missing ++ (List.range d).map fun j => (r.counted + 1 + j, 0) }

/-- How far a carried number is ahead of the next one expected (R339). -/
def Ring.delta (r : Ring) (carried : Nat) : Nat := (carried + 2 ^ 32 - (r.counted + 1) % 2 ^ 32) % 2 ^ 32

/-- A stroke with its number, held until its turn. -/
def State.holdStroke (s : State) (k : Nat) (rec : BitVec 512) : State :=
  if s.ring.state == .fault then s
  else
    let s : State := { s with ring := { s.ring with held := s.ring.held ++ [(k, rec)] } }
    let s := s.drainStrokes (s.ring.held.length + 1)
    if Config.heldRecords < s.ring.held.length then s.ringFault else s

/-- A record that requests repair: the strokes of this package among the numbers are owed (R340). -/
def State.repairAsked (s : State) (rec : BitVec 512) : State :=
  let a := recF rec 16 8
  let b := recF rec 24 8
  let have_ := (s.ring.history.map (·.1)).filter fun k => decide (a ≤ k) && decide (k ≤ b) && !s.ring.owed.contains k
  { s with ring := { s.ring with owed := s.ring.owed ++ have_ } }

/-- A record arrives (R338 to R340). -/
def State.receive (s : State) (rec : BitVec 512) : State :=
  if s.ring.state == .down || !recGood rec then s
  else if recKind rec == 0x0F then s.repairAsked rec
  else if recRepair rec then
    match s.ring.missing.find? fun m => m.1 % 2 ^ 32 == recF rec 4 4 with
    | none => s
    | some m =>
      ({ s with ring := { s.ring with missing := s.ring.missing.filter (·.1 != m.1), repairs := s.ring.repairs + 1 } } : State).holdStroke m.1 rec
  else
    let d := s.ring.delta (recF rec 4 4)
    if 4096 ≤ d then ({ s with ring := { s.ring with counted := s.ring.counted + 1 } } : State).ringFault
    else
      let k := s.ring.counted + 1 + d
      ({ s with ring := ({ s.ring.lack d with counted := k } : Ring).refresh } : State).holdStroke k rec

/-- STROKE_RECEIVE. -/
def execStrokeReceive (rec : BitVec 512) (s : State) : Out State := .next (s.receive rec)
/-- REPAIR_REQUEST. -/
def execRepairRequest (rec : BitVec 512) (s : State) : Out State :=
  .next (if s.ring.state != .down && recGood rec && recKind rec == 0x0F then s.repairAsked rec else s)

/-! ## The token (R319 to R321, R339, R340) -/

/-- The number carried by a token marks what is missing (R339). -/
def State.tokenNumber (s : State) (carried : Nat) : State :=
  let d := s.ring.delta carried
  if 4096 ≤ d then s.ringFault
  else { s with ring := ({ s.ring.lack d with counted := s.ring.counted + d } : Ring).refresh }

/-- The repair request of a hold: one for the range of what is missing; a number requested twice already is lost (R340, R342). -/
def State.askRepair (s : State) : State :=
  match s.ring.missing with
  | [] => s
  | m :: r =>
    if s.ring.missing.any fun x => decide (2 ≤ x.2) then s.ringFault
    else
      let lo := r.foldl (fun a x => min a x.1) m.1
      let hi := r.foldl (fun a x => max a x.1) m.1
      { s with ring := { s.ring with missing := s.ring.missing.map (fun x => (x.1, x.2 + 1)), out := s.ring.out ++ [requestRecord lo hi] } }

/-- One stroke of the outbound queue sent: numbered, kept, its reply written (R321, R334, R340). -/
def State.sendStroke (s : State) : State :=
  match s.ring.outq with
  | [] => s
  | (x, who) :: rest =>
    let k := max s.ring.counted s.ring.sent + 1
    let out := x.record k
    let s : State := { s with ring := { s.ring with
      outq := rest, sent := k, out := s.ring.out ++ [out], history := ((k, out) :: s.ring.history).take 4096 } }
    match who with
    | none => s
    | some w => s.replyTo w.1 w.2 (BitVec.ofNat 64 k)

/-- What a package does while it holds the token (R319): its own repair request, the owed repairs (R319 and R340 give the two no order; DESIGN CHOICE, log 93),
up to BURST strokes, then the token goes on; it never leaves a ring of one (R335). -/
def State.holdToken (s : State) : State :=
  let s := s.askRepair
  let own := s.ring.history.filter fun h => s.ring.owed.contains h.1
  let s : State := { s with ring := { s.ring with out := s.ring.out ++ (own.reverse.map fun h => repairOf h.2), owed := [] } }
  let before := s.ring.out.length
  let s := (List.range s.ring.burst).foldl (fun (s : State) _ => s.sendStroke) s
  let s : State := { s with ring := { s.ring with
    holding := s.ring.alone
    tokenOut := if s.ring.alone then none else some (BitVec.ofNat 32 (max s.ring.counted s.ring.sent + 1)) } }
  -- on a ring of one the records come back at once (R335)
  if s.ring.alone then (s.ring.out.drop before).foldl (fun (s : State) r => s.receive r) s else s

/-- COX_TOKEN. -/
def execCoxToken (number : BitVec 32) (s : State) : Out State :=
  .next (if s.ring.state == .down then s else (s.tokenNumber number.toNat).holdToken)

def devCode : DevState → Nat | .starting => 0 | .reduced => 1 | .full => 2 | .failed => 3
/-- The part field of a 0x40 record (R443). -/
def partNumber : SparePart → Nat
  | .core c => 0x1000 + c % 4096 | .deckLine j => 0x2000 + j % 4096 | .hbmChannel j => 0x3000 + j % 4096 | .laser j => 0x4000 + j % 4096
  | .coxWaveguide => 0x5000
/-- SPARED and the event of a takeover (R404). -/
def State.spare (s : State) (part : SparePart) : State :=
  ({ s with spared := true, spares := s.spares ++ [part] } : State).event 0x40 4 0 0xFFFF [(partNumber part, 2), (devCode s.dev, 1)]
/-- The standby waveguide takes over, once (R341, R404). -/
def State.standBy (s : State) : State :=
  if s.ring.standby then s else ({ s with ring := { s.ring with standby := true } } : State).spare .coxWaveguide

/-- WAVEGUIDE_BREAK: one loop lost leaves the standby loop, and the package immediately downstream of the break discards any token and sends the
count-collection symbol with its own highest number; both lost leave the ring down (R341), and a replica in FAULT stays in it (R342). -/
def execWaveguideBreak (both : LoopBreak) (s : State) : Out State :=
  .next <|
    if both.both then ({ s with ring := { s.ring with state := .down, tokenOut := none, holding := false } } : State).event 0x32 4 0 0xFFFF []
    else
      let s := s.standBy
      let r : Ring := s.ring
      ({ s with ring :=
          if both.downstream && r.state != .down then { r with tokenOut := none, holding := false, symbolOut := some (max r.counted r.sent) } else r } : State).event
        0x30 4 0 0xFFFF []

/-- COUNT_COLLECTION: the symbol comes with the highest number entered so far and goes on with this package's entered as well, any token being
discarded; or it returns here and this package issues the new token and holds it first (R341). -/
def execCountCollection (highest : BitVec 64) (returned : Bool) (s : State) : Out State :=
  .next <|
    if s.ring.state == .down then s
    else
      let top := max highest.toNat (max s.ring.counted s.ring.sent)
      if returned then (({ s with ring := { s.ring with symbolOut := none } } : State).tokenNumber ((top + 1) % 2 ^ 32)).holdToken
      else { s with ring := { s.ring with tokenOut := none, holding := false, symbolOut := some top } }

/-- RING_INITIALISATION: replica, notes and numbering start again (R319, R322, R323, R331, R335), and the loops are whole: STANDBY is clear (R337
does not say; DESIGN CHOICE, log 83). A device without firmware takes no part (R405). -/
def execRingInitialisation (n burst : Nat) (alone : Bool) (s : State) : Out State :=
  .next <|
    if s.dead then s else
    { s with
      skm := []
      ring := { Ring.reset with
        state := .inService, alone := alone, burst := max 1 (min burst 16), n := if alone then 1 else max 1 (min n 64), repairs := s.ring.repairs
        outq := s.ring.outq } }.pollWaitc

/-- REPLICA_RESYNC: a peer's replica and notes as after stroke j; the strokes after j are missing here (R342). A package that joins takes the ring's
N and BURST with them (R319, R337). A device without firmware takes no part (R405). -/
def execReplicaResync (replica : List Host.Cell) (notes : List DWord) (j : JoinPoint) (s : State) : Out State :=
  .next <|
    if s.dead then s else
    let skm := replica.foldl (fun (m : Memory) c => if c.1 < Config.skmBytes then m.write c.1 c.2 else m) []
    let old := s.skm
    let r := s.ring
    let counted := max r.counted j.stroke.toNat
    let ring : Ring := { r with
      state := .inService, faulted := false, applied := j.stroke.toNat, counted := counted, held := []
      n := if r.state == .down then max 1 (min j.n 64) else r.n
      burst := if r.state == .down then max 1 (min j.burst 16) else r.burst
      notes := (notes.take 256).mapIdx fun t v => (t, v)
      missing := (List.range (counted - j.stroke.toNat)).map fun d => (j.stroke.toNat + 1 + d, 0) }
    let s : State := { s with skm := skm, ring := ring.refresh }
    let lines := ((s.crews.flatMap (·.mon)).filter (·.space == .skm)).map (·.line)
    ((lines.dedup.filter fun l => old.readN (128 * l) 128 != skm.readN (128 * l) 128).foldl (fun (s : State) l => s.trigger .skm l) s).pollWaitc

/-! ## STRK (R334, R335) -/

/-- The context's stroke window holds a word (R374). -/
def State.inWindow (s : State) (k : Crew) (off w : Nat) : Bool :=
  let x := (s.ctx k.asid).skmWin.toNat
  decide (x % 2 ^ 22 ≤ off) && decide (off + w ≤ x % 2 ^ 22 + x / 2 ^ 22 % 2 ^ 23)
/-- The checks of a stroke address (R334). -/
def State.strokeAt (s : State) (k : Crew) (w a : Nat) : Except Cause Nat :=
  if a % w != 0 then .error .misalign
  else if a < Config.skmBase || 2 ^ 48 ≤ a then .error .farAccess
  else if Config.skmBytes < a - Config.skmBase + w || !s.inWindow k (a - Config.skmBase) w then .error .prot
  else .ok (a - Config.skmBase)

/-- A stroke may enter the outbound queue (R320, R334, R335); one that is a release waits for the writes it covers and for the crew's remote copies
(R230). -/
def State.strokeRoom (s : State) (k : Crew) (x : Stroke) : Bool :=
  (!x.flags.getLsbD 5 || (s.coveredDone k.id && s.remoteAcked k.id)) && decide (s.ring.outq.length < Config.outbound) && s.ring.state != .down
/-- The crew after its stroke is accepted: the entry of q5 it takes, its reply outstanding. -/
def Crew.strokeTaken (k : Crew) (takes : Bool) (r : Reply) : Crew :=
  let k := k.await r
  if takes then { k with q := k.q.set 5 ((k.q.getD 5 []).drop 1) } else k
def State.enqueue (s : State) (x : Stroke) (crew : Nat) (r : Reply) : State :=
  { s with ring := { s.ring with outq := s.ring.outq ++ [(x, some (crew, r))] } }

/-- A stroke of a kind: accepted at once or waited for. -/
def State.strike (s : State) (i : Instr) (k : Crew) (act : Lanes) (kind : Nat) (e w : BitVec 1) (off : Nat) (p0 p1 : DWord) (takes : Bool)
    (r : Reply) : State :=
  let x : Stroke := { kind := BitVec.ofNat 8 kind, flags := BitVec.ofNat 8 (w.toNat + 32 * e.toNat + (if s.privileged k then 64 else 0))
                      core := BitVec.ofNat 9 k.core, offset := BitVec.ofNat 64 off, p0 := p0, p1 := p1 }
  let m := s.impure k act
  if s.strokeRoom k x then (m.1.done i (m.2.strokeTaken takes r) act).enqueue x k.id r else m.1.waits m.2 (.strk x takes r) act

/-- A data stroke (R334). -/
def State.dataStroke (s : State) (i : Instr) (k : Crew) (act : Lanes) (kind : Nat) (r : Reply) (b a : BitVec 6) (e w : BitVec 1) : State :=
  let n := if w == 1 then 8 else 4
  let va := (k.pr a.toNat).toNat
  let q5 := k.q.getD 5 []
  let takes := kind == 3 || kind == 4
  if s.cmdHeld k then s
  else
    match s.strokeAt k n va with
    | .error c => s.trapAt k c act va
    | .ok off =>
      if takes && q5.isEmpty then s.trapAll k .queueFault act
      else
        let p1 := if takes then q5.getD 0 0 else 0
        let ra := (Config.skmBase + p1.toNat) % 2 ^ 64
        match (if kind == 4 then s.strokeAt k n ra else .ok 0) with
        | .error c => s.trapAt k c act ra
        | .ok _ => s.strike i k act kind e w off (k.pr b.toNat) p1 takes r

/-- SK_STORE. -/
def execSkStore (r : Reply) (b a : BitVec 6) (e w : BitVec 1) (s : State) : Out State :=
  issue (.skStore r b a e w) s fun s k act => s.dataStroke (.skStore r b a e w) k act 1 r b a e w
/-- SK_ADD. -/
def execSkAdd (r : Reply) (b a : BitVec 6) (e w : BitVec 1) (s : State) : Out State :=
  issue (.skAdd r b a e w) s fun s k act => s.dataStroke (.skAdd r b a e w) k act 2 r b a e w
/-- SK_CLAIM. -/
def execSkClaim (r : Reply) (b a : BitVec 6) (e w : BitVec 1) (s : State) : Out State :=
  issue (.skClaim r b a e w) s fun s k act => s.dataStroke (.skClaim r b a e w) k act 3 r b a e w
/-- SK_SWAP. -/
def execSkSwap (r : Reply) (b a : BitVec 6) (e w : BitVec 1) (s : State) : Out State :=
  issue (.skSwap r b a e w) s fun s k act => s.dataStroke (.skSwap r b a e w) k act 4 r b a e w
/-- SK_MAX. -/
def execSkMax (r : Reply) (b a : BitVec 6) (e w : BitVec 1) (s : State) : Out State :=
  issue (.skMax r b a e w) s fun s k act => s.dataStroke (.skMax r b a e w) k act 5 r b a e w
/-- SK_GEN. -/
def execSkGen (r : Reply) (b : BitVec 6) (e : BitVec 1) (s : State) : Out State :=
  issue (.skGen r b e) s fun s k act =>
    if s.cmdHeld k then s else s.strike (.skGen r b e) k act 8 e 0 0 (k.pr b.toNat) 0 false r
/-- SK_LAUNCH. -/
def execSkLaunch (r : Reply) (b : BitVec 6) (e : BitVec 1) (s : State) : Out State :=
  issue (.skLaunch r b e) s fun s k act =>
    if s.cmdHeld k then s else s.strike (.skLaunch r b e) k act 9 e 0 0 (k.pr b.toNat) (k.asid.zeroExtend 64) false r
/-- SK_NOTE. -/
def execSkNote (r : Reply) (b : BitVec 6) (e : BitVec 1) (s : State) : Out State :=
  issue (.skNote r b e) s fun s k act =>
    if s.cmdHeld k then s else s.strike (.skNote r b e) k act 10 e 0 0 (k.pr b.toNat) 0 false r

/-- STROKE_ACCEPTANCE. -/
def execStrokeAcceptance (crew : Nat) (s : State) : Out State :=
  .next <|
    match s.crew? crew with
    | none => s
    | some c =>
      match c.wait with
      | some (.strk x takes r) => if s.strokeRoom c x then (s.setCrew (c.strokeTaken takes r).wake).enqueue x crew r else s
      | _ => s

/-! ## WSTRK and STRKN (R336, R337) -/

def Ring.note (r : Ring) (t : Nat) : DWord := ((r.notes.find? (·.1 == t)).map (·.2)).getD 0
/-- The reply of a WSTRK that may complete. -/
def State.wstrkReply (s : State) (note : Option Nat) (n : Nat) : Option DWord :=
  let r := s.ring
  if r.faulted then some (BitVec.ofNat 64 (2 ^ 63 + r.applied))
  else
    match note with
    | none => if n ≤ r.applied then some (BitVec.ofNat 64 r.applied) else none
    | some t => if n ≤ (r.note t).toNat then some (r.note t) else none

/-- WSTRK: an acquire at POD scope, but where the replica is in FAULT (R336). -/
def State.wstrk (s : State) (i : Instr) (k : Crew) (act : Lanes) (note : Option Nat) (n : Nat) (r : Reply) : State :=
  match s.wstrkReply note n with
  | some d => if s.ring.faulted then s.doneReply i k act r d else (s.doneReply i k act r d).acquires k
  | none => s.waits k (.wstrk note n r) act

/-- WSTRK. -/
def execWstrk (r : Reply) (a : BitVec 6) (s : State) : Out State :=
  issue (.wstrk r a) s fun s k act => s.wstrk (.wstrk r a) k act none (k.pr a.toNat).toNat r
/-- WSTRK note. -/
def execWstrkNote (r : Reply) (b a : BitVec 6) (s : State) : Out State :=
  issue (.wstrkNote r b a) s fun s k act => s.wstrk (.wstrkNote r b a) k act (some ((k.pr b.toNat).toNat % 256)) (k.pr a.toNat).toNat r
/-- WSTRK_COMPLETE. -/
def execWstrkComplete (crew : Nat) (s : State) : Out State :=
  .next <|
    match s.crew? crew with
    | none => s
    | some c =>
      match c.wait with
      | some (.wstrk note n r) =>
        match s.wstrkReply note n with
        | some d => if s.ring.faulted then s.setCrew (c.reply r d).wake else s.wakes (c.reply r d)
        | none => s
      | _ => s

/-- STRKN. -/
def execStrkn (r : Reply) (s : State) : Out State :=
  issue (.strkn r) s fun s k act => s.doneReply (.strkn r) k act r (BitVec.ofNat 64 s.ring.applied)
/-- STRKN note. -/
def execStrknNote (r : Reply) (a : BitVec 6) (s : State) : Out State :=
  issue (.strknNote r a) s fun s k act => s.doneReply (.strknNote r a) k act r (s.ring.note ((k.pr a.toNat).toNat % 256))

def ringCode : RingState → Nat | .down => 0 | .inService => 1 | .lagging => 2 | .fault => 3
/-- The ring status word (R337). -/
def Ring.status (r : Ring) : DWord :=
  BitVec.ofNat 64 (ringCode r.state + bit r.standby 2 + bit r.alone 3 + r.burst % 32 * 2 ^ 4 + r.n % 128 * 2 ^ 9
    + min (r.counted - r.applied) 0xFFFF * 2 ^ 16 + r.repairs.toNat * 2 ^ 32)
/-- STRKN status. -/
def execStrknStat (r : Reply) (s : State) : Out State :=
  issue (.strknStat r) s fun s k act => s.doneReply (.strknStat r) k act r s.ring.status

end Sys2Proof.Machine
end

