-- ==== Sys2Proof/Machine/Approx.lean ====
section
/-! DEFINITION. Approximation instructions and the events of the Erg (spec/13_approx.md R360 to R370). -/

namespace Sys2Proof.Machine

/-! ## Images in memory (R369, R370; also the save areas of R392 to R395) -/

/-- The bytes of a checked location, exact whatever the format its line is held in. -/
def State.locBytes (s : State) (k : Crew) (y : Loc) (n : Nat) : List Byte :=
  (List.range n).map fun j => BitVec.ofNat 8 (s.locRead k (match y with
    | .deck off => .deck (off + j)
    | .squad off => .squad (off + j)
    | .spill off => .spill (off + j)
    | .skm off => .skm (off + j)) 1)

/-- An access of n bytes of an image at a VA, checked piece by piece under R196, parked on absent lines, then its effect on the locations. -/
def State.imageAccess (s : State) (k : Crew) (act : Lanes) (a : Acc) (align va n : Nat) (body : State → List (Loc × Nat) → State) : State :=
  let ps := (List.range ((n + 15) / 16)).map fun j => ((va + 16 * j) % 2 ^ 64, min 16 (n - 16 * j))
  if s.memHeld k then s
  else if va % align != 0 then s.trapAt k .misalign act va
  else
    match s.firstBad k a ps with
    | some (c, e) => s.trapAt k c act e
    | none =>
      let locs : List (Loc × Nat) := ps.filterMap fun p => match s.check k a 1 p.2 p.1 with | .ok x => some (x, p.2) | .error _ => none
      let absent := s.absentLines (locs.map (·.1))
      if !absent.isEmpty then s.waits k (.park absent.dedup) act
      else
        match (ps.zip locs).find? fun x => s.poisonAt k x.2.1 with
        | some x => s.trapAt k .poison act x.1.1
        | none =>
          let shut := s.shutAt k a locs
          if !shut.isEmpty then s.parks k act false shut
          else body (if a.writes then s.learnAll k (ps.map (·.1)) else (s.learnAll k (ps.map (·.1))).readsAll k locs) locs
/-- Bytes written at checked locations as one store of the crew. -/
def State.imageWrite (s : State) (k : Crew) (locs : List (Loc × Nat)) (bs : List Byte) : State :=
  let key := s.fresh
  (locs.foldl (fun (p : State × List Byte) (y : Loc × Nat) => (p.1.locWrite k 32 y.1 (p.2.take y.2) [] false key, p.2.drop y.2)) (s.bump, bs)).1

/-! ## Words of a slot (R368) -/

def ergCode : ErgState → Nat
  | .idle => 0 | .observe => 1 | .train => 2 | .trial => 3 | .fitted => 4 | .fallback => 5 | .retired => 6
def ergState (n : Nat) : ErgState :=
  match n with
  | 1 => .observe | 2 => .train | 3 => .trial | 4 => .fitted | 5 => .fallback | 6 => .retired | _ => .idle
def ErgSlot.statWord (e : ErgSlot) : DWord :=
  BitVec.ofNat 64 (ergCode e.state + bit e.impure 3 + e.reason.toNat * 2 ^ 4 + e.tries % 4 * 2 ^ 7 + e.shift.toNat * 2 ^ 9 + bit e.det 13
    + e.fallbacks.toNat * 2 ^ 16 + e.buffer.length * 2 ^ 32 + e.invals.toNat * 2 ^ 48)
def ErgSlot.countWord (e : ErgSlot) : DWord := e.trueRuns ++ e.subst
def ErgSlot.errWord (e : ErgSlot) : DWord := e.lastE ++ (if e.full then e.mean else f32nan)
def ErgSlot.miscWord (e : ErgSlot) : DWord := (e.skips ++ e.batches) ++ e.drops

/-! ## APXE (R365) -/

/-- What an APXE has done so far: the slot, its pending entries, the crew, the substituted lanes. -/
structure ApxeRun where
  e       : ErgSlot
  entries : List ErgPending
  room    : Nat
  k       : Crew
  subst   : List Nat
  deriving DecidableEq, Repr

/-- One thread of an APXE; st is the state read once (R359). The count its sample carries is that of the APXE (R354 does not say; DESIGN CHOICE, log 90). -/
def ApxeRun.lane (r : ApxeRun) (st : ErgState) (icnt : Word) (l : Nat) : ApxeRun :=
  let t := r.k.thread l
  if t.inreg.isSome || st == .retired then { r with e := { r.e with trueRuns := r.e.trueRuns + 1 } }
  else
    let x := r.e.desc.ins.map (t.val l)
    let box := r.e.desc.inBox x
    let smp := sampled r.e.slot r.e.shift.toNat l r.k.cid icnt
    if st == .fitted && box && !smp then
      { r with
        e := { r.e with subst := r.e.subst + 1 }
        k := { r.k with threads := r.k.threads.set l (t.puts l (r.e.desc.outs.zip (r.e.net x))) }
        subst := l :: r.subst }
    else
      let want := box && (st == .observe || st == .trial || (st == .fitted && smp))
      let recd := want && r.room != 0
      let e : ErgSlot := { r.e with trueRuns := r.e.trueRuns + 1, cooled := if st == .fallback then r.e.cooled + 1 else r.e.cooled
                                    drops := if want && !recd then r.e.drops + 1 else r.e.drops }
      let p : ErgPending := { die := r.e.die, slot := r.e.slot, crew := r.k.id, lane := l, x := x
                              p := if st == .observe then .none else some (r.e.net x), epoch := r.e.epoch, icnt := icnt }
      { r with
        e := e
        entries := if recd then p :: r.entries else r.entries
        room := if recd then r.room - 1 else r.room
        k := { r.k with threads := r.k.threads.set l { t with inreg := some { slot := r.e.slot, recd := recd } } } }

/-- An APXE of a slot that carries the crew's own tag; E is the entry of the issuing crew's grid (R345, R365). -/
def State.apxeRun (s : State) (i : Instr) (k : Crew) (act : Lanes) (slot : Nat) : State :=
  let e := s.erg (dieOf k.core) slot
  let base := ((s.grid? k.grid).map (·.entry.toNat)).getD 0
  if e.state != .retired && k.pc != rel48 base e.desc.entry then s.trapAll k .illegal act
  else if e.state != .retired && (e.desc.ins ++ e.desc.outs).any (k.n ≤ ·) then s.trapAll k .regBound act
  else
    let ic := k.icnt.getD slot 0 + 1
    let used := (s.pending.filter fun (p : ErgPending) => p.die == e.die).length
    let r0 : ApxeRun := { e := e, entries := s.pending, room := Config.pendingTable - used, k := { k with icnt := k.icnt.set slot ic }, subst := [] }
    let r := (laneList act).foldl (fun (r : ApxeRun) l => r.lane e.state ic l) r0
    let k' := r.k.advance i act (s.cycles k.core).toNat
    let k' := k'.mapT fun l t => if r.subst.contains l then t.setPc (rel48 base e.desc.exit) else t
    (({ s with pending := r.entries } : State).setErg r.e |>.setCrew k').ergCooled r.e

/-- An instruction that has armed a slot and then traps has no effect: the slot is as it was (R197, R365). -/
def State.unarm (t s : State) (k : Crew) : State :=
  match t.crew? k.id with
  | none => t
  | some c => if c.ended || (c.inh && !k.inh) then { t with ergs := s.ergs, dir := (s.dropHold k.id).dir } else t
/-- The slot armed if it is IDLE, then what follows; a slot of another tag raises ERG_OWNED (R348, R349). -/
def State.withSlot (s : State) (k : Crew) (act : Lanes) (slot va : Nat) (body : State → State) : State :=
  let e := s.erg (dieOf k.core) slot
  if e.state != .idle then (if s.ergMine k e then body s else s.trapAll k .ergOwned act)
  else
    let absent := s.armAbsent k slot va
    if !absent.isEmpty then s.waits k (.park absent) act else (body (s.arm k slot va)).unarm s k

/-- APXE (R365). -/
def execApxe (sl : BitVec 4) (s : State) : Out State :=
  issue (.apxe sl) s fun s k act =>
    match s.bindVa k sl.toNat with
    | none => s.done (.apxe sl) k act
    | some va => s.withSlot k act sl.toNat va fun s => s.apxeRun (.apxe sl) k act sl.toNat

/-! ## APXL (R366) -/

/-- A completed true invocation with a current entry. -/
def State.apxRecord (s : State) (k : Crew) (e : ErgSlot) (p : ErgPending) : State :=
  let y := e.desc.outs.map ((k.thread p.lane).val p.lane)
  match e.state with
  | .observe => s.ergObserve e { x := p.x, y := y, cid := k.cid, icnt := p.icnt, lane := p.lane }
  | .trial | .fitted => s.ergCompare e (e.desc.error (p.p.getD []) y)
  | .idle | .train | .fallback | .retired => s

/-- One thread of an APXL. -/
def State.apxlLane (s : State) (id slot lane : Nat) : State :=
  match s.crew? id with
  | none => s
  | some k =>
    match (k.thread lane).inreg with
    | none => s
    | some r =>
      if r.slot != slot then s
      else
        let e := s.erg (dieOf k.core) slot
        let mine (p : ErgPending) : Bool := p.die == e.die && p.slot == slot && p.crew == id && p.lane == lane
        let s1 := match s.pending.find? mine with
          | none => s
          | some p => if r.recd && p.epoch == e.epoch && s.ergMine k e then s.apxRecord k e p else s
        let s2 : State := { s1 with pending := s1.pending.filter (!mine ·) }
        match s2.crew? id with
        | none => s2
        | some k => s2.setCrew { k with threads := k.threads.set lane { k.thread lane with inreg := none } }

/-- APXL (R366). -/
def execApxl (sl : BitVec 4) (s : State) : Out State :=
  issue (.apxl sl) s fun s k act =>
    let e := s.erg (dieOf k.core) sl.toNat
    if (s.bindVa k sl.toNat).isNone then s.done (.apxl sl) k act
    else if s.ergMine k e && e.desc.outs.any (k.n ≤ ·) then s.trapAll k .regBound act
    else
      let s := (laneList act).foldl (fun (s : State) l => s.apxlLane k.id sl.toNat l) s
      s.finish (.apxl sl) k.id act id

/-! ## APXI, APXQ (R367, R368) -/

/-- The reply of an approximation instruction, to the crew as the state now holds it. -/
def State.apxReply (s : State) (i : Instr) (k : Crew) (act : Lanes) (r : Reply) (d : DWord) : State := s.finish i k.id act fun c => c.reply r d

/-- APXI naming a slot (R367). -/
def execApxi (r : Reply) (sl : BitVec 4) (s : State) : Out State :=
  issue (.apxi r sl) s fun s k act =>
    let e := s.erg (dieOf k.core) sl.toNat
    if (s.bindVa k sl.toNat).isNone then s.apxReply (.apxi r sl) k act r (refuse64 3)
    else if e.state != .idle && !s.ergMine k e then s.trapAll k .ergOwned act
    else (s.invalidate e).apxReply (.apxi r sl) k act r (if e.takesInval then 1 else 0)

/-- APXI.all (R367). -/
def execApxiAll (r : Reply) (s : State) : Out State :=
  issue (.apxiAll r) s fun s k act =>
    let mine (e : ErgSlot) : Bool := e.die == dieOf k.core && e.asid == k.asid
    (s.invalidateAll mine).apxReply (.apxiAll r) k act r (BitVec.ofNat 64 (s.ergs.filter fun e => mine e && e.takesInval).length)

/-- A word of a slot; 0 where the grid does not bind it (R364). -/
def State.apxWord (s : State) (k : Crew) (slot : Nat) (w : ErgSlot → DWord) : DWord :=
  if (s.bindVa k slot).isNone then 0 else w (s.erg (dieOf k.core) slot)

/-- APXQ.stat (R368). -/
def execApxqStat (r : Reply) (sl : BitVec 4) (s : State) : Out State :=
  issue (.apxqStat r sl) s fun s k act => s.apxReply (.apxqStat r sl) k act r (s.apxWord k sl.toNat ErgSlot.statWord)
/-- APXQ.count (R368). -/
def execApxqCount (r : Reply) (sl : BitVec 4) (s : State) : Out State :=
  issue (.apxqCount r sl) s fun s k act => s.apxReply (.apxqCount r sl) k act r (s.apxWord k sl.toNat ErgSlot.countWord)
/-- APXQ.err (R368). -/
def execApxqErr (r : Reply) (sl : BitVec 4) (s : State) : Out State :=
  issue (.apxqErr r sl) s fun s k act => s.apxReply (.apxqErr r sl) k act r (s.apxWord k sl.toNat ErgSlot.errWord)
/-- APXQ.misc (R368). -/
def execApxqMisc (r : Reply) (sl : BitVec 4) (s : State) : Out State :=
  issue (.apxqMisc r sl) s fun s k act => s.apxReply (.apxqMisc r sl) k act r (s.apxWord k sl.toNat ErgSlot.miscWord)

/-! ## APXC (R369) -/

/-- An APXC on a bound slot, armed first; the body gets the slot. -/
def State.apxc (s : State) (i : Instr) (k : Crew) (act : Lanes) (r : Reply) (sl : BitVec 4) (body : State → ErgSlot → State) : State :=
  match s.bindVa k sl.toNat with
  | none => s.apxReply i k act r (refuse64 3)
  | some va => s.withSlot k act sl.toNat va fun s => body s (s.erg (dieOf k.core) sl.toNat)

/-- The reply is the state word after the action. -/
def State.apxcDone (s : State) (i : Instr) (k : Crew) (act : Lanes) (r : Reply) (sl : BitVec 4) : State :=
  s.apxReply i k act r (s.erg (dieOf k.core) sl.toNat).statWord

/-- APXC.retire. -/
def execApxcRetire (r : Reply) (sl : BitVec 4) (s : State) : Out State :=
  issue (.apxcRetire r sl) s fun s k act =>
    s.apxc (.apxcRetire r sl) k act r sl fun s e => (s.ergGo { e with reason := 5 } .retired).apxcDone (.apxcRetire r sl) k act r sl

/-- APXC.reset: it leaves an IDLE slot IDLE. -/
def execApxcReset (r : Reply) (sl : BitVec 4) (s : State) : Out State :=
  issue (.apxcReset r sl) s fun s k act =>
    let e := s.erg (dieOf k.core) sl.toNat
    if (s.bindVa k sl.toNat).isNone then s.apxReply (.apxcReset r sl) k act r (refuse64 3)
    else if e.state == .idle then s.apxcDone (.apxcReset r sl) k act r sl
    else if !s.ergMine k e then s.trapAll k .ergOwned act
    else (s.ergIdle e).apxcDone (.apxcReset r sl) k act r sl

/-- APXC.shift. -/
def execApxcShift (r : Reply) (a : BitVec 6) (sl : BitVec 4) (s : State) : Out State :=
  issue (.apxcShift r a sl) s fun s k act =>
    let d := k.pr a.toNat
    s.apxc (.apxcShift r a sl) k act r sl fun s e =>
      if 16 ≤ d.toNat then s.apxReply (.apxcShift r a sl) k act r (refuse64 1)
      else (s.setErg { e with shift := d.extractLsb' 0 4 }).apxcDone (.apxcShift r a sl) k act r sl

/-- APXC.det. -/
def execApxcDet (r : Reply) (a : BitVec 6) (sl : BitVec 4) (s : State) : Out State :=
  issue (.apxcDet r a sl) s fun s k act =>
    let d := k.pr a.toNat
    s.apxc (.apxcDet r a sl) k act r sl fun s e =>
      if 2 ≤ d.toNat then s.apxReply (.apxcDet r a sl) k act r (refuse64 1)
      else (s.setErg { e with det := d.getLsbD 0 }).apxcDone (.apxcDet r a sl) k act r sl

/-- Access of APXC.loadw and APXC.dumpw to the image: after every earlier memory instruction of the crew, and not without an accepted
descriptor. -/
def State.apxcImage (s : State) (i : Instr) (k : Crew) (act : Lanes) (r : Reply) (e : ErgSlot) (a : Acc) (va : Nat)
    (body : State → List (Loc × Nat) → State) : State :=
  if e.state == .retired && e.reason == 2 then s.apxReply i k act r (refuse64 2)
  else if !s.crewWritesDone k.id then s
  else s.imageAccess k act a 16 va e.desc.imageSize body

/-- APXC.loadw. -/
def execApxcLoadw (r : Reply) (a : BitVec 6) (sl : BitVec 4) (s : State) : Out State :=
  issue (.apxcLoadw r a sl) s fun s k act =>
    s.apxc (.apxcLoadw r a sl) k act r sl fun s e =>
      s.apxcImage (.apxcLoadw r a sl) k act r e .load (k.pr a.toNat).toNat fun s locs =>
        let bs := locs.flatMap fun y => s.locBytes k y.1 y.2
        (if e.state == .retired then s
         else s.ergGo { e.clearWindow with weights := imageValues bs e.desc.params, compared := 0 } .trial).apxcDone (.apxcLoadw r a sl) k act r sl

/-- APXC.dumpw: its reply follows the global performance of its bytes. -/
def execApxcDumpw (r : Reply) (a : BitVec 6) (sl : BitVec 4) (s : State) : Out State :=
  issue (.apxcDumpw r a sl) s fun s k act =>
    s.apxc (.apxcDumpw r a sl) k act r sl fun s e =>
      s.apxcImage (.apxcDumpw r a sl) k act r e .store (k.pr a.toNat).toNat fun s locs =>
        let s := s.imageWrite k locs e.image
        if s.crewWritesDone k.id then s.apxcDone (.apxcDumpw r a sl) k act r sl
        else
          match s.crew? k.id with
          | none => s
          | some c => s.waits (c.await r) (.perform r e.statWord) act

/-! ## APXS (R370) -/

/-- A sample in 128 bytes. -/
def Sample.bytes (x : Sample) : List Byte :=
  let ws (l : List Word) (n : Nat) : List Byte := (List.range n).flatMap fun j => leBytes 4 (l.getD j 0).toNat
  ws x.x 16 ++ ws x.y 8 ++ leBytes 4 x.cid.toNat ++ leBytes 4 x.icnt.toNat ++ leBytes 4 x.lane ++ List.replicate 20 0
def Sample.ofBytes (d : Desc) (bs : List Byte) : Sample :=
  { x := (List.range d.nin).map fun j => w32 bs (4 * j), y := (List.range d.nout).map fun j => w32 bs (0x40 + 4 * j), cid := w32 bs 0x60
    icnt := w32 bs 0x64, lane := u bs 0x68 4 % 32 }

def padTo (n : Nat) (bs : List Byte) : List Byte := bs ++ List.replicate (n - bs.length) 0
/-- The bytes of a slot image. -/
def ergImageBytes : Nat := 0x84100
/-- The image of a slot. -/
def ErgSlot.save (e : ErgSlot) : List Byte :=
  let hd := leBytes 8 e.statWord.toNat ++ leBytes 8 e.asid.toNat ++ leBytes 8 e.descVa ++ leBytes 8 e.countWord.toNat ++ leBytes 8 e.miscWord.toNat
    ++ leBytes 4 e.window.length ++ leBytes 4 e.winNext ++ leBytes 8 (if e.state == .train then e.trained else if e.state == .fallback then e.cooled else 0)
  padTo ergImageBytes (padTo 0x4100 (padTo 0x3100 (padTo 0x100 hd ++ e.image) ++ e.window.flatMap fun w => leBytes 4 w.toNat)
    ++ e.buffer.flatMap (·.bytes))

/-- The entry E of a grid of a context that binds a descriptor; a free value where none does. -/
def State.entryFor (s : State) (asid : BitVec 12) (va : Nat) : Nat :=
  match s.grids.find? fun g => g.asid == asid && g.binds.any fun b => b.getLsbD 31 && (g.entry.toNat + b.toNat % 2 ^ 31) % 2 ^ 48 == va with
  | some g => g.entry.toNat
  | none => (Config.restoredEntry s.fresh).toNat

/-- A slot loaded from its image, watching the lines of its descriptor as the context now maps them. -/
def State.ergLoad (s : State) (k : Crew) (slot : Nat) (bs : List Byte) : State :=
  let die := dieOf k.core
  let st := u bs 0 8
  let asid := BitVec.ofNat 12 (u bs 8 8)
  let va := u bs 0x10 8 % 2 ^ 48
  let k' : Crew := { k with asid := asid }
  let base := s.entryFor asid va
  let state := ergState (bits st 2 0)
  let e0 : ErgSlot := { ErgSlot.idle die slot with
    epoch := (s.erg die slot).epoch, asid := asid, descVa := va, base := base, impure := bits st 3 3 == 1, reason := BitVec.ofNat 3 (bits st 6 4)
    tries := bits st 8 7, shift := BitVec.ofNat 4 (bits st 12 9), det := bits st 13 13 == 1, fallbacks := BitVec.ofNat 16 (bits st 31 16)
    invals := BitVec.ofNat 16 (bits st 63 48), subst := w32 bs 0x18, trueRuns := w32 bs 0x1C, drops := w32 bs 0x20
    batches := BitVec.ofNat 16 (u bs 0x24 2), skips := BitVec.ofNat 16 (u bs 0x26 2), lastE := Config.restoredErr s.fresh
    compared := Config.restoredCompared s.fresh, trained := if state == .train then u bs 0x30 8 else 0
    cooled := if state == .fallback then u bs 0x30 8 else 0, winNext := u bs 0x2C 4 % 1024
    window := (List.range (min 1024 (u bs 0x28 4))).map fun j => w32 bs (0x3100 + 4 * j) }
  if state == .idle then s
  else
    match s.readDesc k' va slot 256 with
    | none => s.ergGo { e0 with reason := if state == .retired then e0.reason else 2 } .retired
    | some (_, d) =>
      let e1 : ErgSlot := { e0 with
        desc := d, weights := imageValues ((bs.drop 0x100).take (2 * d.params)) d.params
        buffer := (List.range (min 4096 (bits st 47 32))).map fun j => Sample.ofBytes d ((bs.drop (0x4100 + 128 * j)).take 128) }
      if state == .retired then s.ergGo e1 .retired
      else
        match s.watchLines k' base va d with
        | none => s.ergGo { e1 with reason := 4 } .retired
        | some ls => (s.ergGo { e1 with watched := ls } state).watch die ls

/-- APXS.save. -/
def execApxsSave (r : Reply) (a : BitVec 6) (sl : BitVec 4) (s : State) : Out State :=
  issue (.apxsSave r a sl) s fun s k act =>
    s.imageAccess k act .store 256 (k.pr a.toNat).toNat ergImageBytes fun s locs =>
      let e := s.erg (dieOf k.core) sl.toNat
      if e.state == .idle then s.apxReply (.apxsSave r a sl) k act r (refuse64 2)
      else ((s.imageWrite k locs e.save).ergIdle e).apxReply (.apxsSave r a sl) k act r 0

/-- APXS.load. -/
def execApxsLoad (r : Reply) (a : BitVec 6) (sl : BitVec 4) (s : State) : Out State :=
  issue (.apxsLoad r a sl) s fun s k act =>
    s.imageAccess k act .load 256 (k.pr a.toNat).toNat ergImageBytes fun s locs =>
      if (s.erg (dieOf k.core) sl.toNat).state != .idle then s.apxReply (.apxsLoad r a sl) k act r (refuse64 1)
      else (s.ergLoad k sl.toNat (locs.flatMap fun y => s.locBytes k y.1 y.2)).apxReply (.apxsLoad r a sl) k act r 0

/-- APXS.drop. -/
def execApxsDrop (r : Reply) (sl : BitVec 4) (s : State) : Out State :=
  issue (.apxsDrop r sl) s fun s k act =>
    let e := s.erg (dieOf k.core) sl.toNat
    (if e.state == .idle then s else s.ergIdle e).apxReply (.apxsDrop r sl) k act r 0

/-! ## Events of the Erg -/

/-- ERG_WATCH_NOTIFICATION (R254, R360, R361): every covering slot is invalidated before the write counts its acknowledgement. -/
def execErgWatchNotification (k : Nat) (s : State) : Out State :=
  .next <|
    match s.notes.find? (·.id == k) with
    | none => s
    | some n =>
      let s := ({ s with notes := s.notes.filter (·.id != k) } : State).invalidateAll fun e => e.die == n.die && e.watched.contains n.line
      match n.write with
      | none => s
      | some w => s.countAck (.write w)

/-- TRAINING_BATCH (R354, R355): one batch; the last of the last pass ends training (R358). -/
def execTrainingBatch (die slot : Nat) (s : State) : Out State :=
  .next <|
    let e := s.erg die slot
    if e.state != .train then s
    else
      let per := e.desc.minsamp / 64
      let b := (e.buffer.drop (64 * (e.trained % max 1 per))).take 64
      let e' : ErgSlot := { e with trained := e.trained + 1, batches := e.batches + 1 }
      let e' : ErgSlot := match e.update b with
        | none => { e' with skips := e'.skips + 1 }
        | some w => { e' with weights := w }
      if e.desc.epochs * per ≤ e'.trained then s.ergGo { e'.clearWindow with compared := 0 } .trial else s.setErg e'

/-- CONTEXT_TEARDOWN: the commands of the context complete with ABORTED (R297) and its Erg slots become IDLE (R358). -/
def execContextTeardown (asid : BitVec 12) (s : State) : Out State :=
  .next <|
    let s := s.abortAsid asid
    (s.ergs.filter fun e => e.asid == asid && e.state != .idle).foldl (fun (s : State) e => s.ergIdle (s.erg e.die e.slot)) s

end Sys2Proof.Machine
end

