-- ==== Sys2Proof/Machine/System.lean ====
section
/-! DEFINITION. Privilege, system registers, traps, ends, halts, service calls, pre-emption, clocks and start-up (spec/14_system.md R372 to R391,
R396 to R405). -/

namespace Sys2Proof.Machine

/-! ## Traps, returns, ends (R380 to R385) -/

/-- TRAP (R382). -/
def execTrap (imm : BitVec 15) (s : State) : Out State :=
  issue (.trap imm) s fun s k act => s.takeTrap k ((laneList act).map fun t => ⟨t, .swtrap, k.instrAddr⟩) imm

/-- RETT (R381). -/
def execRett (s : State) : Out State :=
  issue .rett s fun s k act =>
    if !k.inh then s.trapAll k (if s.privileged k then .illegal else .priv) act else (s.returnTrap k).settle k.id

/-- CREND with an immediate code (R384). -/
def execCrend (c : BitVec 14) (s : State) : Out State :=
  issue (.crend c) s fun s k _ => s.endCrew k (some c)
/-- CREND with a code from a scalar. -/
def execCrendS (d : BitVec 9) (s : State) : Out State :=
  issue (.crendS d) s fun s k _ => s.endCrew k (some ((k.sc d.toNat).extractLsb' 0 14))

/-- A crew halts and leaves the scheduler's lists; its accesses not yet performed are dropped (R389). Its lines stay in the L1. -/
def State.haltCrew (s : State) (id : Nat) : State :=
  let s := s.haltAccesses id
  match s.crew? id with
  | none => s
  | some c => { (s.setCrew c.halt).forgetCrew id with plain := s.plain }

/-- HALT (R385). -/
def execHalt (imm : BitVec 15) (s : State) : Out State :=
  issue (.halt imm) s fun s k act =>
    let c : Crew := { k.advance (.halt imm) act (s.cycles k.core).toNat with haltCode := some imm }
    ((s.setCrew c).haltCrew k.id).event 0x11 (dieOf k.core) k.core 0xFFFF [(imm.toNat, 2), (k.asid.toNat, 2)]

/-! ## System registers (R374 to R377) -/

/-- DEV_STATE (R375); FREQ is that of the reader's region. -/
def State.devWord (s : State) (core : Nat) : DWord :=
  BitVec.ofNat 64 (devCode s.dev + bit s.spared 2 + bit s.fwOk 3 + s.coresUp.length * 2 ^ 8 + s.hbmUp.toNat * 2 ^ 17
    + (s.region (regionOf core)).freq.toNat * 2 ^ 32)

/-- TRAP_CAUSE (R379). -/
def Crew.causeWord (k : Crew) : DWord := BitVec.ofNat 64 (k.cause.toNat + bit k.privSave 8 + bit k.inh 9)

/-- A crew, context or package register as GSR reads it; write-only registers read 0. -/
def State.regRead (s : State) (k : Crew) (r : SysReg) : DWord :=
  let x := s.ctx k.asid
  match r with
  | .devState => s.devWord k.core
  | .devId => BitVec.ofNat 64 (Config.partNumber.toNat + Config.stepping.toNat * 2 ^ 16 + Config.packageId.toNat * 2 ^ 24)
  | .coreId => BitVec.ofNat 64 (k.core + k.part * 2 ^ 9 + k.slot * 2 ^ 11)
  | .schedAge => BitVec.ofNat 64 s.schedAge
  | .lqStat => BitVec.ofNat 64 (s.lq.length + s.lqCount.toNat * 2 ^ 32)
  | .clkCtl => s.clkCtl.zeroExtend 64
  | .fwState => BitVec.ofNat 64 (bit s.fwEcdsa 0 + bit s.fwLms 1 + bit s.fwAcc 2 + s.fwVer.toNat * 2 ^ 16)
  | .genRaise | .preemptReq | .lqPush | .taskReady => 0
  | .trapCause => k.causeWord
  | .trapMask => k.trapMask.zeroExtend 64
  | .trapInfo => k.trapInfo.zeroExtend 64
  | .repSave => k.repSave.zeroExtend 64
  | .trapScr0 => k.scr.getD 0 0
  | .trapScr1 => k.scr.getD 1 0
  | .trapScr2 => k.scr.getD 2 0
  | .trapScr3 => k.scr.getD 3 0
  | .tankInfo => k.tankInfo
  | .ctxAsid => k.asid.zeroExtend 64
  | .ctxRoot => x.root
  | .trapBase => x.trapBase
  | .skmWin => x.skmWin
  | .ctxKey => x.key.zeroExtend 64
  | .ctxFlags => BitVec.ofNat 64 (bit x.priv 0 + bit x.swap 1)
  | .pcvSave | .trapAddr | .trapTcause | .trapTstate => 0
/-- A thread register as GSR.V reads it. -/
def Thread.regRead (t : Thread) (r : SysReg) : DWord :=
  match r with
  | .pcvSave => t.pcvSave
  | .trapAddr => t.trapAddr
  | .trapTcause => t.trapTcause.zeroExtend 64
  | .trapTstate => t.trapTstate.zeroExtend 64
  | _ => 0

/-- A halt or release request (R390): the crews it names. -/
def named (core slot : Nat) (halt : Bool) (c : Crew) : Bool := c.core == core && !c.ended && (c.slot == slot || (slot == 0x7F && (c.slot != 80 || !halt)))
def State.preempt (s : State) (core slot : Nat) : State :=
  { s with crews := s.crews.map fun (c : Crew) => if named core slot true c && !c.halted then { c with haltReq := true } else c }
/-- A halted crew that goes on: the stores its halt dropped set out again, and its armed monitor entries have triggered (R212, R389, R390). -/
def State.goOn (s : State) (c : Crew) : State :=
  if c.halted then
    s.resend { c with haltReq := false, halted := false, haltCode := none, mon := c.mon.map fun m => { m with triggered := true } }
  else s.setCrew { c with haltReq := false }
def State.release (s : State) (core slot : Nat) : State :=
  (s.crews.filter (named core slot false)).foldl (fun (s : State) c => s.goOn c) s

/-- A write of CLK_CTL (R400); bits [63:16] are reserved (R5). -/
def State.setClk (s : State) (v : DWord) : State :=
  let f := bits v.toNat 15 0
  if 1200 ≤ f ∧ f ≤ 2100 ∧ f % 100 = 0 then { s with clkCtl := v.extractLsb' 0 16 } else s

/-- A scratch register. -/
def State.setScr (s : State) (id j : Nat) (v : DWord) : State :=
  match s.crew? id with
  | none => s
  | some c => s.setCrew { c with scr := c.scr.set j v }

/-- A crew, context or package register as SSR writes it (R374); writes of read-only registers and of reserved bits are ignored (R5). -/
def State.regWrite (s : State) (k : Crew) (r : SysReg) (v : DWord) : State :=
  let x := s.ctx k.asid
  let n := v.toNat
  match r with
  | .schedAge => { s with schedAge := min 1023 (max 8 n) }
  | .genRaise => if n < 2 ^ 12 then s.raiseGen (v.extractLsb' 0 12) else s
  | .preemptReq =>
    if 2 ^ 18 ≤ n || decide (Config.cores ≤ bits n 8 0) then s
    else if bits n 17 16 == 0 then s.preempt (bits n 8 0) (bits n 15 9)
    else if bits n 17 16 == 1 then s.release (bits n 8 0) (bits n 15 9)
    else s
  | .lqPush => s.lqPush (v.extractLsb' 0 48) (v.extractLsb' 48 12)
  | .clkCtl => s.setClk v
  | .taskReady => s.readyTask v
  | .repSave =>
    match s.crew? k.id with
    | none => s
    | some c => s.setCrew { c with repSave := v.extractLsb' 0 7 }
  | .trapScr0 => s.setScr k.id 0 v
  | .trapScr1 => s.setScr k.id 1 v
  | .trapScr2 => s.setScr k.id 2 v
  | .trapScr3 => s.setScr k.id 3 v
  | .ctxRoot => if n % 2 ^ 16 = 0 then s.setCtx { x with root := v } else s
  | .trapBase => s.setCtx { x with trapBase := BitVec.ofNat 64 (n / 1024 * 1024) }
  | .skmWin => if n < 2 ^ 45 ∧ bits n 44 22 ≤ Config.skmBytes - bits n 21 0 then s.setCtx { x with skmWin := v } else s
  | .ctxKey => s.setCtx { x with key := v.extractLsb' 0 42 }
  | .ctxFlags => s.setCtx { x with priv := v.getLsbD 0, swap := v.getLsbD 1 }
  | .devState | .devId | .coreId | .lqStat | .fwState | .trapCause | .trapMask | .trapInfo | .tankInfo | .ctxAsid | .pcvSave | .trapAddr
  | .trapTcause | .trapTstate => s
/-- A thread register as SSR.V writes it. R374 gives PCV_SAVE no layout above bit 47; all 64 bits written are kept, as its save word has them (R392;
DEDUCED, log 74). -/
def Thread.regWrite (t : Thread) (r : SysReg) (v : DWord) : Thread :=
  match r with
  | .pcvSave => { t with pcvSave := v }
  | .trapTstate => { t with trapTstate := v.extractLsb' 0 3 }
  | _ => t

/-- The scalar pair whose even code is given. -/
def Crew.sPair (k : Crew) (d : SCode) : DWord := pair (k.sc d.toNat) (k.sc (d.toNat + 1))
def Crew.setSPair (k : Crew) (d : SCode) (v : DWord) : Crew := (k.setS d.toNat (lo32 v)).setS (d.toNat + 1) (up32 v)

/-- GSR with V = 0. -/
def execGsr (r : SysReg) (d : BitVec 9) (s : State) : Out State :=
  issue (.gsr r d) s fun s k act => s.done (.gsr r d) (k.setSPair d (s.regRead k r)) act
/-- GSR with V = 1. -/
def execGsrV (r : SysReg) (v : BitVec 6) (s : State) : Out State :=
  issue (.gsrV r v) s fun s k act =>
    s.done (.gsrV r v) (k.writeV s.fresh 0 act fun _ t =>
      [(k.vnum .vd v, lo32 (t.regRead r)), (k.vnum .vd v + 1, up32 (t.regRead r))]) act
/-- SSR with V = 0; a write of LQ_PUSH waits while the launch queue is full (R402). -/
def execSsr (r : SysReg) (d : BitVec 9) (s : State) : Out State :=
  issue (.ssr r d) s fun s k act =>
    if r == .lqPush && decide (Config.launchQueue ≤ s.lq.length) then s.waits k (.room .lq) act
    else (s.done (.ssr r d) k act).regWrite k r (k.sPair d)
/-- SSR with V = 1. -/
def execSsrV (r : SysReg) (v : BitVec 6) (s : State) : Out State :=
  issue (.ssrV r v) s fun s k act =>
    s.done (.ssrV r v) (k.mapT fun l t =>
      if act.getLsbD l then t.regWrite r (pair (t.val l (k.vnum .vd v)) (t.val l (k.vnum .vd v + 1))) else t) act

/-- CYC (R397). -/
def execCyc (d : BitVec 9) (s : State) : Out State :=
  issue (.cyc d) s fun s k act => s.done (.cyc d) (k.setSPair d (s.cycles k.core)) act
/-- CYC.time. -/
def execCycTime (d : BitVec 9) (s : State) : Out State :=
  issue (.cycTime d) s fun s k act => s.done (.cycTime d) (k.setSPair d s.time) act

/-! ## Service calls (R387, R388) -/

/-- The check of a reply line: alignment, then the memory causes of R196 for a translated deck page. -/
def State.checkLine (s : State) (k : Crew) (a : Acc) (va : Nat) : Except Cause Nat :=
  if va % 128 != 0 then .error .misalign
  else if 2 ^ 47 ≤ va then .error .farAccess
  else
    match s.checkPage k a va with
    | .error c => .error c
    | .ok (.deck off) => .ok off
    | .ok _ => .error .farAccess

/-- SVCALL (R387): a release at PKG scope, which issues once what it covers is performed (State.unready) and waits for room in the queue. -/
def execSvcall (r : Reply) (b a : BitVec 6) (svc : BitVec 7) (s : State) : Out State :=
  issue (.svcall r b a svc) s fun s k act =>
    let va := (k.pr b.toNat).toNat
    if s.cmdHeld k then s
    else
      match s.checkLine k .rmw va with
      | .error c => s.trapAt k c act va
      | .ok _ =>
        if Config.requestQueue ≤ s.requests.length then s.waits k (.room .requests) act
        else
          let req : List DWord :=
            [BitVec.ofNat 64 (s.reqSeq.toNat + svc.toNat * 2 ^ 48), k.pr a.toNat, BitVec.ofNat 64 va
             , BitVec.ofNat 64 (k.asid.toNat + k.core * 2 ^ 12 + k.slot * 2 ^ 21 + bit (s.privileged k) 28), 0, 0, 0, 0]
          ({ s with requests := s.requests ++ [req], reqSeq := s.reqSeq + 1 } : State).doneReply (.svcall r b a svc) k act r (s.reqSeq.zeroExtend 64)

/-- SVWAIT (R388): the monitor is armed before word 0 is read. -/
def execSvwait (r : Reply) (a : BitVec 6) (s : State) : Out State :=
  issue (.svwait r a) s fun s k act =>
    let va := (k.pr a.toNat).toNat
    if s.memHeld k then s
    else
      match s.checkLine k .load va with
      | .error c => s.trapAt k c act va
      | .ok off =>
        let shut := s.shutAt k .load [(.deck off, 8)]
        if !s.present (off / 128) then s.waits k (.park [off / 128]) act
        else if s.poisoned (off / 128) then s.trapAt k .poison act va
        else if !shut.isEmpty then s.waits k (.park shut) act
        else
          let s := (s.learnAll k [va]).reads .exact k 32 (.deck off) 8
          let w := BitVec.ofNat 64 (s.locRead k (.deck off) 8)
          if w.getLsbD 63 then (s.finish (.svwait r a) k.id act fun c => c.reply r w).acquires k
          else
            match s.crew? k.id with
            | none => s
            | some c => s.waits c (.svwait r off false) act

/-- SVWAIT_WAKE: the line has been written; the reply is word 0 as it now reads. -/
def execSvwaitWake (crew : Nat) (s : State) : Out State :=
  .next <|
    match s.crew? crew with
    | none => s
    | some c =>
      match c.wait with
      | some (.svwait r off true) =>
        let s := s.reads .exact c 32 (.deck off) 8
        match s.crew? crew with
        | none => s
        | some c => s.wakes (c.reply r (BitVec.ofNat 64 (s.locRead c (.deck off) 8)))
      | _ => s

/-- REQUEST_QUEUE_TAKE (R387): the service kernel takes the oldest request. -/
def execRequestQueueTake (s : State) : Out State :=
  .next <|
    let t : State := { s with requests := s.requests.tail }
    (State.placePages t.pageReqs t).freeRoom (· == .requests)

/-! ## Requests from system software (R191, R390, R391, R400) -/

/-- GEN_RAISE. -/
def execGenRaise (asid : BitVec 12) (s : State) : Out State := .next (s.raiseGen asid)
/-- PREEMPT_HALT (R390). -/
def execPreemptHalt (core slot : Nat) (s : State) : Out State := .next (if core < Config.cores then s.preempt core slot else s)
/-- PREEMPT_RELEASE (R390). -/
def execPreemptRelease (core slot : Nat) (s : State) : Out State := .next (if core < Config.cores then s.release core slot else s)

/-- PREEMPTION_HALT_COMPLETE (R389, R391): the named crews of a core halt once the boats that issued have finished, an APXC.dumpw whose bytes are
written has ended (R369), and no clock stop delays the request. -/
def execPreemptionHaltComplete (core : Nat) (s : State) : Out State :=
  .next <|
    let cs := s.crews.filter fun c => c.core == core && c.haltReq && !c.ended
    if (s.region (regionOf core)).stopped || cs.any (fun c => s.issueQ.contains c.id || c.performing) then s
    else cs.foldl (fun (s : State) c => s.haltCrew c.id) s

/-- CLK_CTL (R400). -/
def execClkCtl (mhz : BitVec 64) (s : State) : Out State := .next (s.setClk mhz)

def State.setRegion (s : State) (j : Nat) (r : ClockRegion) : State := { s with regions := s.regions.set j r }

/-- REGION_FREQUENCY_CHANGE (R399, R400): in service a region that is not at the requested frequency stops, one region at a time. -/
def execRegionFrequencyChange (region : Nat) (s : State) : Out State :=
  .next <|
    let r := s.region region
    if s.dev != .full || r.freq == s.clkCtl || s.regions.any (·.stopped) then s else s.setRegion region { r with stopped := true }

/-- REGION_STOP_END (R399): the region goes on at the requested frequency. -/
def execRegionStopEnd (region : Nat) (s : State) : Out State :=
  .next <|
    let r := s.region region
    if r.stopped then s.setRegion region { r with stopped := false, freq := s.clkCtl } else s

/-- CLOCK_STRETCH (R398): the region's periods are stretched; a stretched period counts as one c. -/
def execClockStretch (region : Nat) (s : State) : Out State := .next (s.setRegion region { s.region region with stretched := true })

/-! ## Start-up and firmware (R401, R404, R405) -/

/-- A change of DEV_STATE with its event (R401). -/
def State.setDev (s : State) (d : DevState) : State :=
  if s.dev == d then s
  else ({ s with dev := d } : State).event 0x41 4 0 0xFFFF [((Config.partCode s.fresh).toNat, 2), (devCode d, 1)]

/-- The three checks of an image, reported in FW_STATE; an accepted image runs (R405). -/
def State.checkFirmware (s : State) (f : FirmwareImage) : State :=
  let e := Config.ecdsaOk f.bytes
  let l := Config.lmsOk f.bytes
  let ok := e && l && decide (Config.rollback.toNat ≤ f.version.toNat)
  { s with fwEcdsa := e, fwLms := l, fwAcc := ok, fwVer := if ok then f.version else s.fwVer, fwOk := s.fwOk || ok }

/-- DEVICE_RESET (R401, R405): the state of a reset; memory outside the package, what the host already received and what the outside has under
way stay. -/
def execDeviceReset (image : FirmwareImage) (s : State) : Out State :=
  .next <|
    let t := ({ State.reset with host := s.host, pool := s.pool, events := s.events, eventNo := s.eventNo, eventWait := s.eventWait, dropped := s.dropped, fresh := s.fresh, inbox := s.inbox }
      : State).checkFirmware image
    if t.fwOk then t else t.setDev .failed

/-- FIRMWARE_IMAGE (R405). -/
def execFirmwareImage (image : FirmwareImage) (s : State) : Out State := .next (s.checkFirmware image)

/-- A core region with every core in service. -/
def State.regionUp (s : State) : Bool := (List.range 16).any fun r => (List.range 20).all fun j => s.coresUp.contains (20 * r + j)

/-- Whether a die has one of its 4 spare cores left (R11, R404). -/
def State.spareCore (s : State) (core : Nat) : Bool :=
  decide (core < Config.cores) && decide ((s.spares.filter fun p => match p with
    | .core c => dieOf c == dieOf core
    | .deckLine _ | .hbmChannel _ | .laser _ | .coxWaveguide => false).length < 4)
/-- Whether a stack has its spare channel left (R404). -/
def State.spareChannel (s : State) (stack : Nat) : Bool := !s.spares.any fun p => match p with
  | .hbmChannel k => (Config.channelStack k).val == stack
  | .core _ | .deckLine _ | .laser _ | .coxWaveguide => false
/-- Whether a spare is left for a part that fails its test (R401, R404). How many spare lines the deck has is a free value; a link as a whole has no
spare (log 82). -/
def State.spareLeft (s : State) (part : TestedPart) : Bool :=
  match part with
  | .core c => s.spareCore c
  | .stack j => s.spareChannel j
  | .deck => Config.deckSpareLeft s.fresh
  | .ring => !s.ring.standby
  | .link _ | .last => false

/-- PART_TEST_COMPLETE (R401). The spare of a part that has failed takes over by SPARE_TAKEOVER, and is tested in its turn. -/
def execPartTestComplete (part : TestedPart) (passed : Bool) (s : State) : Out State :=
  .next <|
    if !s.fwOk || !(s.dev == .starting || s.dev == .reduced) then s
    else if !passed then (if s.spareLeft part then s.bump else s.setDev .failed)
    else
      let s : State := { s with tested := part :: s.tested.filter (· != part) }
      let s : State := match part with
        | .core c => { s with coresUp := if c < Config.cores ∧ !s.coresUp.contains c then s.coresUp ++ [c] else s.coresUp }
        | .stack j => { s with hbmUp := s.hbmUp ||| (1#12 <<< j) }
        | .deck | .link _ | .ring | .last => s
      let s := if s.dev == .starting && s.regionUp && s.hbmUp != 0 then s.setDev .reduced else s
      if part == .last && s.dev == .reduced then
        (({ s with regions := s.regions.map fun (r : ClockRegion) => { r with freq := s.clkCtl } } : State)).setDev .full
      else s

/-- HBM lines of 64 bytes that a failed channel loses with data not yet written back: which is a free value (log 26). -/
def unwritten (key channel : Nat) : List Nat := (Config.hbmUnwritten key channel).filter fun l => Config.hbmChannel l == channel

/-- SPARE_TAKEOVER (R404): SPARED, the event, and the visible effect of the part. A die without a spare core left takes none,
nor a stack without its spare channel. -/
def execSpareTakeover (part : SparePart) (s : State) : Out State :=
  .next <|
    match part with
    | .core c =>
      if !s.spareCore c then s
      else ((s.spare part).crews.filter fun k => k.core == c && !k.ended).foldl (fun (s : State) k => s.endCrew k (some 0x3F0A)) (s.spare part)
    | .hbmChannel j =>
      if !s.spareChannel (Config.channelStack j).val then s else
      let lost := (unwritten s.fresh j).flatMap fun l => (List.range 64).map (64 * l + ·)
      { (s.spare part).bump with hbmPoison := s.hbmPoison ++ lost.filter fun a => !s.hbmPoison.contains a }
    | .laser j => if s.lasers.contains j || s.spares.contains part then s else s.spare part
    | .coxWaveguide => s.standBy
    | .deckLine _ => s.spare part

end Sys2Proof.Machine
end

