-- ==== Sys2Proof/Machine/Context.lean ====
section
/-! DEFINITION. Tile images, context save and context load (spec/14_system.md R392 to R395). -/

namespace Sys2Proof.Machine

/-! ## Areas -/

/-- An engine or the hub still has bytes to write where an access lies (R253). -/
def State.stillComes (s : State) (locs : List (Loc × Nat)) : Bool :=
  locs.any fun y => match y.1 with
    | .deck off => s.agentWaits off y.2
    | .squad _ => false
    | .spill _ => false
    | .skm _ => false
/-- An access of an image that must lie in deck pages: a window address raises FAR_ACCESS. It is made once what agents write there has been
applied. -/
def State.areaAccess (s : State) (k : Crew) (act : Lanes) (a : Acc) (align va n : Nat) (then_ : State → List (Loc × Nat) → State) : State :=
  let body (t : State) (locs : List (Loc × Nat)) : State := if t.stillComes locs then s else then_ t locs
  if va % align == 0 && decide (2 ^ 47 < va + n) then
    (if 2 ^ 47 ≤ va then s.trapAt k .farAccess act va
     else s.imageAccess k act a align va (2 ^ 47 - va) fun s _ => s.trapAt k .farAccess act (2 ^ 47))
  else s.imageAccess k act a align va n body
/-- The deck offsets of the 256-byte blocks of checked pieces. -/
def blockOffsets (locs : List (Loc × Nat)) : List Nat :=
  (List.range ((locs.length + 15) / 16)).map fun b => match (locs.getD (16 * b) (.deck 0, 0)).1 with
    | .deck off => off
    | .squad _ => 0
    | .spill _ => 0
    | .skm _ => 0
/-- Bytes written over an area by the save, block by block. -/
def State.areaWrite (s : State) (blocks : List Nat) (bs : List Byte) : State :=
  blocks.zipIdx.foldl (fun (s : State) b => s.agentWriteN b.1 ((bs.drop (256 * b.2)).take 256)) s

/-! ## Tile images (R395) -/

def kindCode : TileKind → Nat | .empty => 0 | .f32 => 1 | .res => 2
/-- The status word of R266. -/
def Tile.status (t : Tile) : Nat := kindCode t.kind + t.depth.toNat * 4 + bit t.lost 6 + t.ovf.toNat * 2 ^ 16
def tileBytes : Nat := 0x840
/-- The image of a tile (R395); the tag stands from bit 0 upward (DEDUCED, log 27). -/
def Tile.image (t : Tile) : List Byte :=
  let es := t.elems.flatMap fun e => if t.kind == .res then leBytes 8 e.toNat else leBytes 4 (lo32 e).toNat
  let tag := match t.tag with
    | none => 0
    | some g => g.1.toNat + g.2.toNat * 2 ^ 12
  padTo tileBytes (padTo 0x800 es ++ leBytes 8 t.status ++ leBytes 8 tag)
/-- A status word that TKLD takes. -/
def statusOk (w : Nat) : Bool :=
  let kind := bits w 1 0
  let depth := bits w 5 2
  kind != 3 && decide (depth ≤ 8) && (depth == 0 || kind == 2) && bits w 15 7 == 0
/-- The tile an image makes, for a slot and a tag. -/
def Tile.ofImage (core slot : Nat) (tag : BitVec 12 × BitVec 42) (bs : List Byte) : Tile :=
  let w := u bs 0x800 4
  let kind : TileKind := if bits w 1 0 == 2 then .res else if bits w 1 0 == 1 then .f32 else .empty
  { core := core, slot := slot, tag := some tag, kind := kind, depth := BitVec.ofNat 4 (bits w 5 2), lost := bits w 6 6 == 1
    ovf := BitVec.ofNat 16 (bits w 31 16)
    elems := (List.range 256).map fun j => match kind with
      | .res => BitVec.ofNat 64 (u bs (8 * j) 8)
      | .f32 => BitVec.ofNat 64 (u bs (4 * j) 4)
      | .empty => 0 }

/-- TKSV. -/
def execTksv (r : Reply) (a : BitVec 6) (t : BitVec 3) (s : State) : Out State :=
  issue (.tksv r a t) s fun s k act =>
    if s.tileBusy k.core (k.tileSlot t) then s
    else
      s.areaAccess k act .store 64 (k.pr a.toNat).toNat tileBytes fun s locs =>
        let x := s.tileOf k t
        ((s.imageWrite k locs x.image).setTile { x with tag := none }).apxReply (.tksv r a t) k act r 0

/-- TKLD: a status word it does not take leaves the slot as it is. -/
def execTkld (r : Reply) (a : BitVec 6) (t : BitVec 3) (s : State) : Out State :=
  issue (.tkld r a t) s fun s k act =>
    if s.tileBusy k.core (k.tileSlot t) then s
    else
      s.areaAccess k act .load 64 (k.pr a.toNat).toNat tileBytes fun s locs =>
        let bs := locs.flatMap fun y => s.locBytes k y.1 y.2
        if !statusOk (u bs 0x800 4) then s.apxReply (.tkld r a t) k act r (refuse64 1)
        else (s.setTile (Tile.ofImage k.core (k.tileSlot t) (s.tagOf k) bs)).apxReply (.tkld r a t) k act r 0

/-! ## The image of a crew (R392) -/

def Cv.bytes (v : Cv) : List Byte :=
  leBytes 8 (v.signed.toNat + v.decl.toNat * 2 ^ 32 + bit v.pend 40 + v.opword.toNat % 2 ^ 16 * 2 ^ 48) ++ leBytes 8 (v.opword.toNat / 2 ^ 16)
def MonEntry.word (m : MonEntry) : Nat := m.va / 128 * 128 % 2 ^ 48 + 1 + bit m.triggered 1
/-- REP state and REP_SAVE share a layout (R374). -/
def Rep.word (r : Rep) : Nat := r.i.toNat + bit r.active 6
def Thread.words (t : Thread) : List Byte :=
  leBytes 8 t.word0 ++ leBytes 8 (t.rsd.toNat + t.trapTcause.toNat * 2 ^ 16 + t.trapTstate.toNat * 2 ^ 24) ++ leBytes 8 t.pcvSave.toNat
    ++ leBytes 8 t.trapAddr.toNat

/-- The header; the linear squad index and s5 as they stood at crew start (R356). -/
def State.crewHeader (s : State) (c : Crew) (tiles : Bool) : List Byte :=
  let idx := ((s.squad? c.squad).map (·.index)).getD 0
  padTo 64 (leBytes 8 (c.n + c.m * 2 ^ 16 + c.tileSlots.length * 2 ^ 32 + classNat c.role * 2 ^ 36 + bit (s.privileged c) 38 + bit c.task.isSome 39
      + bit c.haltCode.isSome 40 + bit tiles 41 + c.core * 2 ^ 42)
    ++ leBytes 8 c.grid.toNat ++ leBytes 4 idx ++ leBytes 4 c.s5Start.toNat ++ leBytes 8 ((c.haltCode.map (·.toNat)).getD 0)
    ++ ((List.range 6).flatMap fun j => leBytes 1 (c.q.getD j []).length) ++ leBytes 1 (bit c.monOvf 0))

/-- The whole image. -/
def State.crewImage (s : State) (c : Crew) (tiles : Bool) : List Byte :=
  let lanes {α : Type} (f : Nat → List α) : List α := (List.range 32).flatMap f
  s.crewHeader c tiles
    ++ ((List.range 16).flatMap fun j => (c.cvN j).bytes)
    ++ ((List.range 16).flatMap fun j => leBytes 4 (c.icnt.getD j 0).toNat)
    ++ ((List.range 6).flatMap fun j => padTo 128 ((c.q.getD j []).flatMap fun d => leBytes 8 d.toNat))
    ++ padTo 32 (c.mon.flatMap fun m => leBytes 8 m.word)
    ++ padTo 96 (leBytes 8 c.causeWord.toNat ++ leBytes 8 c.trapMask.toNat ++ leBytes 8 c.trapInfo.toNat ++ leBytes 8 c.repSave.toNat
        ++ ((List.range 4).flatMap fun j => leBytes 8 (c.scr.getD j 0).toNat) ++ leBytes 8 c.rep.word
        ++ leBytes 8 (leNat (c.x.take 4) + classNat c.role * 2 ^ 32))
    ++ lanes (fun t => (c.thread t).words)
    ++ lanes (fun t => leBytes 8 (c.thread t).p.toNat)
    ++ lanes (fun t => padTo 128 ((c.thread t).rs.reverse.flatMap fun a => leBytes 8 a.toNat))
    ++ padTo 1536 (c.s.flatMap fun w => leBytes 4 w.toNat)
    ++ ((List.range c.n).flatMap fun r => lanes fun t => leBytes 4 ((c.thread t).v.getD r 0).toNat)
    ++ (if tiles then c.tileSlots.flatMap fun t => (s.tile c.core t).image else [])
def imageLength (n tiles : Nat) : Nat := 0x2000 + 128 * n + tileBytes * tiles

/-- CTXSV of a crew, with its tiles or without. -/
def State.saveCrew (s : State) (i : Instr) (k : Crew) (act : Lanes) (r : Reply) (b a : BitVec 6) (tiles : Bool) : State :=
  let va := (k.pr a.toNat).toNat
  match s.crews.find? fun c => c.core == k.core && c.slot == (k.pr b.toNat).toNat && !c.ended && c.halted with
  | none => s.apxReply i k act r (refuse64 1)
  | some c =>
    if va % 256 != 0 then s.apxReply i k act r (refuse64 3)
    else
      let len := imageLength c.n (if tiles then c.tileSlots.length else 0)
      s.areaAccess k act .store 256 va len fun s locs =>
        let s := c.tileSlots.foldl (fun (s : State) t => s.drainTile c.core t) s
        let blocks := blockOffsets locs
        let s := s.areaWrite blocks (s.crewImage c tiles)
        let s := if tiles then c.tileSlots.foldl (fun (s : State) t => s.setTile { s.tile c.core t with tag := none }) s else s
        let s : State := { s with crews := s.crews.filter (·.id != c.id), saved := s.saved ++ [{ blocks := blocks, crew := c }] }
        (s.forgetCrew c.id).apxReply i k act r (BitVec.ofNat 64 len)

/-- CTXSV.crew. -/
def execCtxsvCrew (r : Reply) (b a : BitVec 6) (s : State) : Out State :=
  issue (.ctxsvCrew r b a) s fun s k act => s.saveCrew (.ctxsvCrew r b a) k act r b a false
/-- CTXSV.tiles. -/
def execCtxsvTiles (r : Reply) (b a : BitVec 6) (s : State) : Out State :=
  issue (.ctxsvTiles r b a) s fun s k act => s.saveCrew (.ctxsvTiles r b a) k act r b a true

/-! ## The image of a squad (R393) -/

def SubSlot.words (b : SubSlot) : Nat :=
  bit b.valid 0 + fmtCode b.fmt * 2 + bit b.upd 4 + b.count % 2 ^ 16 * 2 ^ 5 + b.base % 2 ^ 41 * 2 ^ 21 + b.seq.toNat * 2 ^ 62
/-- WINDOW holds the status of command n in entry n modulo 64. -/
def Timeline.bytes (t : Timeline) : List Byte :=
  leBytes 8 t.issued.toNat ++ leBytes 8 t.done.toNat ++ leBytes 8 t.fails.toNat
    ++ (List.range 64).flatMap fun j => leBytes 8 (match t.window.find? fun w => w.1 % 64 == j with | none => 0 | some w => w.2.toNat)
def Squad.image (q : Squad) (crews : Nat) : List Byte :=
  padTo 64 (leBytes 8 (q.memLen % 2 ^ 18 + crews * 2 ^ 18))
    ++ ((List.range 16).flatMap fun j =>
        let b := q.bars.getD j Bar.idle
        padTo 16 (leBytes 8 (bit b.isOpen 0 + b.need.toNat * 2 ^ 8 + b.arrived.toNat * 2 ^ 16)))
    ++ ((List.range 8).flatMap fun j => (q.tls.getD j Timeline.reset).bytes)
    ++ ((List.range 16).flatMap fun j => leBytes 16 (q.subs.getD j SubSlot.empty).words)
    ++ q.mem.readN 0 q.memLen

/-- The squad a slot of the issuing core names: that of a saved crew that held it, else of the crew that holds it. -/
def State.squadBySlot (s : State) (core slot : Nat) : Option Squad :=
  let old := (s.saved.reverse.filter fun x => x.crew.core == core && x.crew.slot == slot
    && ((s.squad? x.crew.squad).map (·.out.isNone)).getD false).head?.map (·.crew)
  let here := s.crews.find? fun c => c.core == core && c.slot == slot && !c.ended && c.halted
  match old with
  | some c => s.squad? c.squad
  | none => here.bind fun c => s.squad? c.squad

/-- CTXSV.squad: it waits until every command of the squad has completed and its timelines stand (R393), and the squad's stores are performed. -/
def execCtxsvSquad (r : Reply) (b a : BitVec 6) (s : State) : Out State :=
  issue (.ctxsvSquad r b a) s fun s k act =>
    let va := (k.pr a.toNat).toNat
    let i : Instr := .ctxsvSquad r b a
    match s.squadBySlot k.core (k.pr b.toNat).toNat with
    | none => s.apxReply i k act r (refuse64 1)
    | some q =>
      if s.crews.any fun c => c.squad == q.id && !c.ended then s.apxReply i k act r (refuse64 2)
      else if va % 256 != 0 then s.apxReply i k act r (refuse64 3)
      else if s.commanded q.id || !q.bank.isEmpty then s
      else
        let len := 0x1300 + q.memLen
        s.areaAccess k act .store 256 va len fun s locs =>
          let blocks := blockOffsets locs
          let s := (s.areaWrite blocks (q.image (s.saved.filter fun x => x.crew.squad == q.id).length)).dropSquadLines q
          (s.setSquad { q with out := some (blocks.headD 0), mem := { seed := q.id, cells := [] } }).apxReply i k act r (BitVec.ofNat 64 len)

/-! ## CTXLD (R394) -/

def SubSlot.ofWords (x : Nat) : SubSlot :=
  { valid := bits x 0 0 == 1, fmt := match bits x 3 1 with | 1 => .bf16 | 2 => .f16 | 3 => .e4m3 | 4 => .e5m2 | _ => .exact
    upd := bits x 4 4 == 1, count := bits x 20 5, base := bits x 61 21, seq := BitVec.ofNat 16 (bits x 77 62) }
def Timeline.ofBytes (bs : List Byte) : Timeline :=
  let issued := u bs 0 8
  { issued := BitVec.ofNat 64 issued, done := BitVec.ofNat 64 (u bs 8 8), fails := BitVec.ofNat 64 (u bs 16 8)
    window := ((List.range 64).map fun j => issued - j).filterMap fun n =>
      if n == 0 then none else some (n, BitVec.ofNat 64 (u bs (24 + 8 * (n % 64)) 8)) }

/-- The squad of an image on a core, under the least squad slot free there; it takes its grid and its number from its crews. The count of a
BAR opened with COUNT 0 comes from the squad that was saved. -/
def squadOf (bs : List Byte) (id core slotNo memLen : Nat) (old : Option Squad) : Squad :=
  { id := id, core := core, grid := 0, asid := 0, index := 0, memLen := memLen
    mem := ({ seed := id, cells := [] } : Region).writeN 0 ((bs.drop 0x1300).take memLen), bank := []
    bars := (List.range 16).map fun j =>
      let w := u bs (0x40 + 16 * j) 8
      { isOpen := bits w 0 0 == 1, need := BitVec.ofNat 6 (bits w 13 8), arrived := BitVec.ofNat 6 (bits w 21 16)
        all := (old.map fun q => (q.bars.getD j Bar.idle).all).getD false }
    tls := (List.range 8).map fun j => Timeline.ofBytes ((bs.drop (0x140 + 536 * j)).take 536)
    subs := (List.range 16).map fun j => SubSlot.ofWords (u bs (0x1200 + 16 * j) 16)
    task := (old.map (·.task)).getD false, ended := false, early := (old.map (·.early)).getD false, out := none, slotNo := some slotNo, swapped := [] }

/-- The squad slots of a core in use. -/
def State.freeSquadSlot (s : State) (core : Nat) : Nat :=
  ((List.range 256).find? fun j => !s.squads.any fun q => q.core == core && q.slotNo == some j).getD 0

/-- Room for a saved squad's crews on a core (R95, R265). The image gives their number only: without the records of the saved crews that counts, and
each crew's own room is looked at as it comes (State.loadCrew). -/
def State.crewRoom (s : State) (core count : Nat) (cs : List Crew) : Bool :=
  let n := (cs.map (·.n)).getD 0 8
  let normal := if cs.isEmpty then count else (cs.filter fun c => c.slot < 64).length
  let pool := (cs.filter (·.pool)).length
  let held := ((s.onCore core).map (·.tileSlots.length)).sum + (cs.map (·.tileSlots.length)).sum
  (s.placement core n normal []).isSome && decide (pool ≤ (s.poolFree core n pool).length) && decide (held ≤ Config.tankSlots)

/-- CTXLD.squad: room is checked first; the reply is the squad slot (log 25). -/
def execCtxldSquad (r : Reply) (a : BitVec 6) (s : State) : Out State :=
  issue (.ctxldSquad r a) s fun s k act =>
    let va := (k.pr a.toNat).toNat
    let i : Instr := .ctxldSquad r a
    if va % 256 != 0 then s.apxReply i k act r (refuse64 3)
    else
      s.areaAccess k act .load 256 va 0x1300 fun t locs =>
        let old := t.squads.find? fun q => q.out == some ((blockOffsets locs).headD 0)
        let h := u (locs.flatMap fun y => t.locBytes k y.1 y.2) 0 8
        let memLen := (old.map (·.memLen)).getD (bits h 17 0)
        t.areaAccess k act .load 256 va (0x1300 + memLen) fun s locs =>
          let bs := locs.flatMap fun y => s.locBytes k y.1 y.2
          let slot := s.freeSquadSlot k.core
          let q := squadOf bs s.fresh k.core slot memLen old
          let cs := match old with
            | none => []
            | some o => (s.saved.map (·.crew)).filter fun c => c.squad == o.id
          if s.memFree k.core < memLen || !s.subsFit k.core q || !s.crewRoom k.core (bits h 23 18) cs then s.apxReply i k act r (refuse64 4)
          else ({ s.bump with squads := s.squads ++ [q] } : State).apxReply i k act r (BitVec.ofNat 64 slot)

/-- A grid of no launch, behind an image whose grid is not in flight. -/
def noGrid : Grid :=
  { handle := 0, asid := 0, entry := 0, dimX := 1, dimY := 1, dimZ := 1, crewsPer := 1, n := 8, m := 16, squadMem := 0, spill := 0, tiles := 0
    cls := .computer, early := false, idempotent := false, e7 := false, arg := 0, waitOn := 0, counter := 0, slots := [], binds := []
    cap := 50, depth := 0, parent := 0, parentSquad := none, args := [], next := 1, endCode := none, recOff := 0, since := 0, add := none }

/-- A convergence register of an image: signatures known from the save are kept, others have free fragment registers (log 21). -/
def cvOf (bs : List Byte) (j key : Nat) (th : List Thread) (old : Cv) : Cv :=
  let w := u bs (0x40 + 16 * j) 16
  let signed : Lanes := BitVec.ofNat 32 (bits w 31 0)
  { signed := signed, decl := BitVec.ofNat 8 (bits w 39 32), pend := bits w 40 40 == 1, opword := BitVec.ofNat 32 (bits w 79 48)
    sigs := (laneList signed).map fun l => match old.sigs.find? (·.lane == l) with
      | some g => g
      | none =>
        let a := 8 * (Config.restoredFragment key j l).toNat
        let b := 8 * (Config.restoredFragment (key + 1) j l).toNat
        let t := th.getD l Thread.none
        { lane := l, at_ := Config.restoredSigner key j l, a := a, b := b, wa := (t.v.drop a).take 8, wb := (t.v.drop b).take 8 } }

/-- A thread of an image; the windows of results still to come are those of the thread that was saved (R389, log 77). -/
def threadOf (bs : List Byte) (n t : Nat) (old : Thread) : Thread :=
  let w := u bs (0x500 + 32 * t) 8
  let x := u bs (0x508 + 32 * t) 8
  let rsd := bits x 15 0
  { v := (List.range n).map fun r => w32 bs (0x2000 + 128 * r + 4 * t), p := BitVec.ofNat 64 (u bs (0x900 + 8 * t) 8), pcv := mkPc (bits w 47 0)
    live := bits w 48 48 == 1, yex := bits w 49 49 == 1, rwait := bits w 50 50 == 1, rsd := BitVec.ofNat 16 rsd
    rs := ((List.range (min rsd 16)).map fun j => BitVec.ofNat 48 (u bs (0xA00 + 128 * t + 8 * j) 8)).reverse
    inreg := if bits w 51 51 == 1 then some { slot := bits w 55 52, recd := bits w 56 56 == 1 } else none
    pcvSave := BitVec.ofNat 64 (u bs (0x510 + 32 * t) 8), trapAddr := BitVec.ofNat 64 (u bs (0x518 + 32 * t) 8)
    trapTcause := BitVec.ofNat 8 (bits x 23 16), trapTstate := BitVec.ofNat 3 (bits x 26 24), win := old.win }

/-- A monitor entry of an image, armed and triggered (R212), on the line its address now has for the crew; one that has none there stands on a line
no memory has. -/
def State.monOf (s : State) (c : Crew) (w : Nat) : Option MonEntry :=
  let va := bits w 47 7 * 128
  let here : Option MonEntry := match s.check c .mon 1 1 va with
    | .ok x => monLine c va x
    | .error _ => none
  if w % 2 == 0 then none
  else some { here.getD { space := .deck, line := Config.deckBytes / 128 + va / 128, va := va, triggered := true } with triggered := true }
/-- The monitor table of an image for its crew. -/
def State.withMon (s : State) (bs : List Byte) (c : Crew) : Crew :=
  { c with mon := (List.range 4).filterMap fun j => s.monOf c (u bs (0x480 + 8 * j) 8) }

/-- A crew from its image over the crew that was saved, its monitor table apart. -/
def crewOf (bs : List Byte) (c : Crew) (sq key : Nat) : Crew :=
  let h := u bs 0 8
  let n := bits h 15 0
  let m := bits h 31 16
  let cause := u bs 0x4A0 8
  let misc := u bs 0x4E8 8
  let ths := (List.range 32).map fun t => threadOf bs n t (c.thread t)
  let rep := u bs 0x4E0 8
  { c with
    squad := sq, grid := BitVec.ofNat 64 (u bs 8 8), n := n, m := m, threads := ths
    s := (List.range m).map fun j => w32 bs (0x1A00 + 4 * j), x := leBytes 4 (bits misc 31 0)
    cv := (List.range 16).map fun j => cvOf bs j key ths (c.cvN j)
    q := (List.range 6).map fun j => (List.range (min 16 (u bs (0x20 + j) 1))).map fun e => BitVec.ofNat 64 (u bs (0x180 + 128 * j + 8 * e) 8)
    rep := { Rep.idle with
      active := bits rep 6 6 == 1, i := BitVec.ofNat 6 rep, fixed := if bits rep 6 6 == 1 then ({ c with threads := ths } : Crew).refix c.rep.fixed else none }
    mon := [], monOvf := bits (u bs 0x26 1) 0 0 == 1
    icnt := (List.range 16).map fun j => w32 bs (0x140 + 4 * j), role := classOf (bits misc 33 32)
    cause := BitVec.ofNat 8 cause, privSave := bits cause 8 8 == 1, inh := bits cause 9 9 == 1
    trapMask := BitVec.ofNat 32 (u bs 0x4A8 8), trapInfo := BitVec.ofNat 15 (u bs 0x4B0 8), repSave := BitVec.ofNat 7 (u bs 0x4B8 8)
    scr := (List.range 4).map fun j => BitVec.ofNat 64 (u bs (0x4C0 + 8 * j) 8), s5Start := w32 bs 0x14
    haltReq := false, halted := true
    haltCode := if bits h 40 40 == 1 then some (BitVec.ofNat 15 (u bs 0x18 8)) else none, held := 0 }

/-- The place a restored crew takes: a slot of a partition, a context of the SPAWN pool, or the context of R373. -/
def State.crewPlace (s : State) (c : Crew) (core n : Nat) : Option (Nat × Nat) :=
  if c.pool then ((s.poolFree core n 1).head?).map fun pc => (pc % 4, 64 + pc)
  else
    match s.placement core n 1 [] with
    | some (p :: _) => some p
    | _ => if (s.ctx c.asid).priv && !(s.onCore core).any (·.slot == 80) then some (0, 80) else none

/-- The squad that takes a restored crew becomes the squad it was saved from. -/
def State.adopt (s : State) (c : Crew) (q : Squad) (grid : DWord) (index : Nat) : State :=
  if q.grid == grid && c.squad == q.id then s
  else
    let old := if c.squad == q.id then none else s.squad? c.squad
    let q' : Squad := { q with grid := grid, asid := c.asid, index := (old.map (·.index)).getD index, task := (old.map (·.task)).getD q.task }
    match old with
    | none => s.setSquad q'
    | some o =>
      { s.setSquad q' with
        squads := (s.setSquad q').squads.filter (·.id != o.id)
        saved := s.saved.map fun (x : SavedCrew) => if x.crew.squad == o.id then { x with crew := { x.crew with squad := q.id } } else x
        grids := s.grids.map fun (g : Grid) => if g.parentSquad == some o.id then { g with parentSquad := some q.id } else g
        launches := s.launches.map fun (p : PendingLaunch) => if p.squad == o.id then { p with squad := q.id } else p
        held := s.held.map fun (h : HeldLaunch) =>
          if h.grid.parentSquad == some o.id then { h with grid := { h.grid with parentSquad := some q.id } } else h }

/-- CTXLD of a crew: into the squad of the slot, with its tiles where the image holds them (function 1). A crew without room, for its tiles too (R265), waits, and
so does one with stores still on their way, which its threads read from the core they left (R215; DEDUCED, log 77). The tiles of the image overwrite what
another context left in the slots (DESIGN CHOICE, log 87). -/
def State.loadCrew (s : State) (i : Instr) (k : Crew) (act : Lanes) (r : Reply) (b a : BitVec 6) (tiles : Bool) : State :=
  let va := (k.pr a.toNat).toNat
  match s.squads.find? fun q => q.core == k.core && q.slotNo == some (k.pr b.toNat).toNat && !q.ended with
  | none => s.apxReply i k act r (refuse64 1)
  | some q =>
    if va % 256 != 0 then s.apxReply i k act r (refuse64 3)
    else
      s.areaAccess k act .load 256 va 0x2000 fun t locs =>
        let h := u (locs.flatMap fun y => t.locBytes k y.1 y.2) 0 8
        let n := bits h 15 0
        let count := bits h 35 32
        let withTiles := tiles && bits h 41 41 == 1
        if !tiles && bits h 50 42 != k.core then t.apxReply i k act r (refuse64 5)
        else
          t.areaAccess k act .load 256 va (imageLength n (if withTiles then count else 0)) fun s locs =>
            let bs := locs.flatMap fun y => s.locBytes k y.1 y.2
            let grid := BitVec.ofNat 64 (u bs 8 8)
            let index := u bs 0x10 4
            let first := (blockOffsets locs).headD 0
            let same (x : SavedCrew) : Bool := x.crew.grid == grid && x.crew.s5Start == w32 bs 0x14
              && ((s.squad? x.crew.squad).map fun o => o.index == index).getD false
            let rec_ := match s.saved.find? fun x => x.blocks.head? == some first && same x with
              | some x => some x
              | none => s.saved.find? same
            let g := (s.grid? grid).getD noGrid
            let base : Crew := match rec_ with
              | some x => x.crew
              | none => { newCrew g s.fresh k.core 0 0 q.id 0 [] g.entry [] .computer with
                  cid := crewId index (w32 bs 0x14).toNat, asid := if g.handle == 0 then k.asid else g.asid }
            match s.crewPlace base k.core n with
            | none => s
            | some (part, slot) =>
              if s.writes.any fun w => w.crew == some base.id && !w.done then s
              else
              let tag := (base.asid, (s.ctx base.asid).key)
              let free := s.freeTiles k.core tag
              let slots := if !withTiles && base.core == k.core && base.tileSlots.length == count && base.tileSlots.all free.contains then base.tileSlots
                else free.take count
              if free.length < count then s
              else
              let c : Crew := s.withMon bs { crewOf bs base q.id s.fresh with core := k.core, part := part, slot := slot, tileSlots := slots }
              let s := if withTiles then slots.zipIdx.foldl (fun (s : State) (x : Nat × Nat) =>
                  let im := (bs.drop (0x2000 + 128 * n + tileBytes * x.2)).take tileBytes
                  if statusOk (u im 0x800 4) then s.setTile (Tile.ofImage k.core x.1 tag im) else s) s
                else s
              let s := s.adopt base q grid index
              let s : State := { s.bump with
                saved := s.saved.filter fun (x : SavedCrew) => some x.crew.id != rec_.map (·.crew.id), crews := s.crews ++ [c] }
              s.apxReply i k act r (Config.ctxldReply s.fresh)

/-- CTXLD.crew. -/
def execCtxldCrew (r : Reply) (b a : BitVec 6) (s : State) : Out State :=
  issue (.ctxldCrew r b a) s fun s k act => s.loadCrew (.ctxldCrew r b a) k act r b a false
/-- CTXLD.tiles. -/
def execCtxldTiles (r : Reply) (b a : BitVec 6) (s : State) : Out State :=
  issue (.ctxldTiles r b a) s fun s k act => s.loadCrew (.ctxldTiles r b a) k act r b a true

end Sys2Proof.Machine
end

