-- ==== Sys2Proof/Machine/Integer.lean ====
section
/-! DEFINITION. Integer, predicate, cross-lane and scalar instructions and the 16-bit form (spec/05_integer.md R118 to R144), and the REP prefix
(spec/02_encoding.md R43). -/

namespace Sys2Proof.Machine

/-- One vector result per thread of a set, then the threads of ACTIVE advance (R118). -/
def State.vec (s : State) (i : Instr) (k : Crew) (act on : Lanes) (la d : Nat) (f : Nat → Thread → Word) : State :=
  s.done i (k.writeV s.fresh la on fun l t => [(d, f l t)]) act
/-- Several vector results per thread. -/
def State.vecs (s : State) (i : Instr) (k : Crew) (act on : Lanes) (la : Nat) (f : Nat → Thread → List (Nat × Word)) : State :=
  s.done i (k.writeV s.fresh la on f) act
/-- One predicate result per thread of ACTIVE. -/
def State.prd (s : State) (i : Instr) (k : Crew) (act : Lanes) (p : Nat) (f : Nat → Thread → Bool) : State :=
  s.done i (k.writeP act p f) act
/-- Three operands of a thread: va, vb and the old vd. -/
def tri (k : Crew) (l : Nat) (t : Thread) (b a d : VCode) : Word × Word × Word :=
  (t.val l (k.vnum .va a), t.val l (k.vnum .vb b), t.val l (k.vnum .vd d))

/-- ADD (R121). -/
def execAdd (f : AddOp) (g : Guard) (b : VCode) (a : VCode) (d : VCode) (s : State) : Out State :=
  issue (.add f g b a d) s fun s k act =>
    s.vec (.add f g b a d) k act (k.guarded act g) 0 (k.vnum .vd d) fun n t =>
      let x := tri k n t b a d
      addOp f x.1 x.2.1

/-- MUL (R122). The wide members write a pair. -/
def execMul (f : MulOp) (g : Guard) (b a d : VCode) (s : State) : Out State :=
  issue (.mul f g b a d) s fun s k act =>
    s.vecs (.mul f g b a d) k act (k.guarded act g) 0 fun n t =>
      let x := tri k n t b a d
      (mulOp f x.1 x.2.1 0 0).zipIdx.map fun w => (k.vnum .vd d + w.2, w.1)

/-- MAD (R122). The wide members write a pair. -/
def execMad (f : MulOp) (g : Guard) (b a d : VCode) (s : State) : Out State :=
  issue (.mad f g b a d) s fun s k act =>
    s.vecs (.mad f g b a d) k act (k.guarded act g) 0 fun n t =>
      let x := tri k n t b a d
      (mulOp f x.1 x.2.1 x.2.2 (t.val n (k.vnum .vd d + 1))).zipIdx.map fun w => (k.vnum .vd d + w.2, w.1)

/-- LOG (R123). -/
def execLog (f : LogOp) (g : Guard) (b : VCode) (a : VCode) (d : VCode) (s : State) : Out State :=
  issue (.log f g b a d) s fun s k act =>
    s.vec (.log f g b a d) k act (k.guarded act g) 0 (k.vnum .vd d) fun n t =>
      let x := tri k n t b a d
      logOp f x.1 x.2.1

/-- SHF (R124). -/
def execShf (f : ShfOp) (g : Guard) (b : VCode) (a : VCode) (d : VCode) (s : State) : Out State :=
  issue (.shf f g b a d) s fun s k act =>
    s.vec (.shf f g b a d) k act (k.guarded act g) 0 (k.vnum .vd d) fun n t =>
      let x := tri k n t b a d
      shfOp f x.1 x.2.1

/-- MINMAX (R125). -/
def execMinmax (f : MinMaxOp) (g : Guard) (b : VCode) (a : VCode) (d : VCode) (s : State) : Out State :=
  issue (.minmax f g b a d) s fun s k act =>
    s.vec (.minmax f g b a d) k act (k.guarded act g) 0 (k.vnum .vd d) fun n t =>
      let x := tri k n t b a d
      minmaxOp f x.1 x.2.1 x.2.2

/-- BIT (R126). -/
def execBit (f : BitOp) (g : Guard) (a : VCode) (d : VCode) (s : State) : Out State :=
  issue (.bit f g a d) s fun s k act =>
    s.vec (.bit f g a d) k act (k.guarded act g) 0 (k.vnum .vd d) fun n t =>
      bitOp f (t.val n (k.vnum .va a))

/-- BFX (R127). -/
def execBfx (l : BitVec 4) (f : BfxOp) (b : VCode) (a : VCode) (d : VCode) (s : State) : Out State :=
  issue (.bfx l f b a d) s fun s k act =>
    s.vec (.bfx l f b a d) k act act l.toNat (k.vnum .vd d) fun n t =>
      let x := tri k n t b a d
      bfxOp f x.1 x.2.1

/-- BFI (R127). -/
def execBfi (l : BitVec 4) (b : VCode) (a : VCode) (d : VCode) (s : State) : Out State :=
  issue (.bfi l b a d) s fun s k act =>
    s.vec (.bfi l b a d) k act act l.toNat (k.vnum .vd d) fun n t =>
      let x := tri k n t b a d
      bfiOp x.1 x.2.1 x.2.2

/-- SEL (R128). -/
def execSel (q : BitVec 3) (g : Guard) (b : VCode) (a : VCode) (d : VCode) (s : State) : Out State :=
  issue (.sel q g b a d) s fun s k act =>
    s.vec (.sel q g b a d) k act (k.guarded act g) 0 (k.vnum .vd d) fun n t =>
      let x := tri k n t b a d
      if t.p.getLsbD q.toNat then x.1 else x.2.1

/-- OPI (R129). -/
def execOpi (f : OpiOp) (imm : BitVec 9) (a : VCode) (d : VCode) (s : State) : Out State :=
  issue (.opi f imm a d) s fun s k act =>
    s.vec (.opi f imm a d) k act act 0 (k.vnum .vd d) fun n t =>
      opiOp f imm (t.val n (k.vnum .va a))

/-- LIH (R130). -/
def execLih (imm : BitVec 18) (d : VCode) (s : State) : Out State :=
  issue (.lih imm d) s fun s k act => s.vec (.lih imm d) k act act 0 (k.vnum .vd d) fun _ _ => imm ++ 0#14

/-- CMP (R133). -/
def execCmp (t : CmpType) (c : CmpCond) (b a p : VCode) (s : State) : Out State :=
  issue (.cmp t c b a p) s fun s k act =>
    s.prd (.cmp t c b a p) k act (pnum k .vd p) fun l x => cmpOp t c (x.val l (k.vnum .va a)) (x.val l (k.vnum .vb b))

/-- PLOG (R134). -/
def execPlog (c : PlogOp) (b a p : VCode) (s : State) : Out State :=
  issue (.plog c b a p) s fun s k act =>
    s.prd (.plog c b a p) k act (pnum k .vd p) fun _ x => plogOp c (x.p.getLsbD (pnum k .va a)) (x.p.getLsbD (pnum k .vb b))

/-- PMOV (R135). -/
def execPmov (a p : VCode) (s : State) : Out State :=
  issue (.pmov a p) s fun s k act => s.prd (.pmov a p) k act (pnum k .vd p) fun _ x => x.p.getLsbD (pnum k .va a)

/-- PSET (R135). -/
def execPset (c : BitVec 1) (p : VCode) (s : State) : Out State :=
  issue (.pset c p) s fun s k act => s.prd (.pset c p) k act (pnum k .vd p) fun _ _ => c == 1

/-- P2V from base 0 or 32 (R135). -/
def execP2v (b v : VCode) (s : State) : Out State :=
  issue (.p2v b v) s fun s k act =>
    s.vec (.p2v b v) k act act 0 (k.vnum .vd v) fun _ x => x.p.extractLsb' b.toNat 32

/-- V2P into base 0 or 32 (R135). -/
def execV2p (v b : VCode) (s : State) : Out State :=
  issue (.v2p v b) s fun s k act =>
    s.done (.v2p v b) (k.mapT fun l x =>
      if act.getLsbD l then
        { x with p := if b == 0 then up32 x.p ++ x.val l (k.vnum .va v) else x.val l (k.vnum .va v) ++ lo32 x.p }
      else x) act

/-- A register of a source lane: 0 for a thread that has exited or was never launched (R136). -/
def Crew.laneVal (k : Crew) (lane r : Nat) : Word := if (k.thread lane).live then (k.thread lane).val lane r else 0

/-- The source lane of SHFL (R137). -/
def shflLane (f : ShflOp) (t x : Nat) : Nat :=
  match f with
  | .idx => x % 32
  | .up => if t < x then t else t - x
  | .down => if 31 < t + x then t else t + x
  | .xor => t ^^^ x

/-- SHFL (R137): [25:20] is a register for idx and a count otherwise. -/
def execShfl (l : BitVec 4) (f : ShflOp) (b a d : VCode) (s : State) : Out State :=
  issue (.shfl l f b a d) s fun s k act =>
    s.vec (.shfl l f b a d) k act act l.toNat (k.vnum .vd d) fun n t =>
      k.laneVal (shflLane f n (if f == .idx then (t.val n (k.vnum .vb b)).toNat else b.toNat)) (k.vnum .va a)

/-- VOTE over ACTIVE (R138). -/
def execVote (t : VoteOp) (a p : VCode) (s : State) : Out State :=
  issue (.vote t a p) s fun s k act =>
    let ps := (laneList act).map fun l => (k.thread l).p.getLsbD (pnum k .va a)
    if t == .ballot then
      s.vec (.vote t a p) k act act 0 (k.vnum .vd p) fun _ _ => laneSet fun l => act.getLsbD l && (k.thread l).p.getLsbD (pnum k .va a)
    else s.prd (.vote t a p) k act (pnum k .vd p) fun _ _ => voteOp t ps

/-- The lanes REDX combines for a thread (R139). -/
def redxLanes (f : RedxScope) (act : Lanes) (t : Nat) : List Nat :=
  (laneList act).filter fun u =>
    match f with
    | .crew => true
    | .four => u / 4 == t / 4
    | .scan => decide (u ≤ t)

/-- REDX (R139). -/
def execRedx (l : BitVec 4) (f : RedxScope) (o : RedxOp) (a d : VCode) (s : State) : Out State :=
  issue (.redx l f o a d) s fun s k act =>
    s.vec (.redx l f o a d) k act act l.toNat (k.vnum .vd d) fun n _ =>
      redxOp o ((redxLanes f act n).map fun u => (k.thread u).val u (k.vnum .va a))

/-- S2V (R140). -/
def execS2v (f : S2vOp) (l : BitVec 5) (sn : SCode) (v : VCode) (s : State) : Out State :=
  issue (.s2v f l sn v) s fun s k act =>
    let d := k.vnum .vd v
    s.vecs (.s2v f l sn v) k act act 0 fun n _ =>
      match f with
      | .w => [(d, k.sc sn.toNat)]
      | .pair => [(d, k.sc sn.toNat), (d + 1, k.sc (sn.toNat + 1))]
      | .lane => if n == l.toNat then [(d, k.sc sn.toNat)] else []

/-- V2S, once per crew (R141). -/
def execV2s (f : V2sOp) (l : BitVec 5) (sn : SCode) (v : VCode) (s : State) : Out State :=
  issue (.v2s f l sn v) s fun s k act =>
    let a := k.vnum .vd v
    let lane := l.toNat
    let k' := match f with
      | .lane => k.setS sn.toNat (k.laneVal lane a)
      | .first => k.setS sn.toNat (k.laneVal ((laneList act).headD 0) a)
      | .pair => (k.setS sn.toNat (k.laneVal lane a)).setS (sn.toNat + 1) (k.laneVal lane (a + 1))
    s.done (.v2s f l sn v) k' act

/-- SOP (R142). -/
def execSop (f : SopOp) (a d : SCode) (s : State) : Out State :=
  issue (.sop f a d) s fun s k act =>
    let k' := if sopPair f then k.setPr (d.toNat / 2) (dopOp f (k.pr (d.toNat / 2)) (k.pr (a.toNat / 2)))
      else k.setS d.toNat (sopOp f (k.sc d.toNat) (k.sc a.toNat))
    s.done (.sop f a d) k' act

/-- SLI (R143). -/
def execSli (imm : BitVec 15) (d : SCode) (s : State) : Out State :=
  issue (.sli imm d) s fun s k act => s.done (.sli imm d) (k.setS d.toNat (imm.signExtend 32)) act

/-- SADDI (R143). -/
def execSaddi (imm : BitVec 15) (d : SCode) (s : State) : Out State :=
  issue (.saddi imm d) s fun s k act => s.done (.saddi imm d) (k.setS d.toNat (k.sc d.toNat + imm.signExtend 32)) act

/-- SLIH (R143). -/
def execSlih (imm : BitVec 15) (d : SCode) (s : State) : Out State :=
  issue (.slih imm d) s fun s k act => s.done (.slih imm d) (k.setS d.toNat ((k.sc d.toNat) <<< 15 + imm.zeroExtend 32)) act

def Crew.setX (k : Crew) (n : BitVec 2) (b : Byte) : Crew := { k with x := k.x.set n.toNat b }

/-- XSET from an immediate (R144). -/
def execXsetImm (imm : BitVec 15) (k : BitVec 2) (s : State) : Out State :=
  issue (.xsetImm imm k) s fun s c act => s.done (.xsetImm imm k) (c.setX k (imm.extractLsb' 0 8)) act

/-- XSET from a scalar (R144). -/
def execXsetScalar (n : SCode) (k : BitVec 2) (s : State) : Out State :=
  issue (.xsetScalar n k) s fun s c act => s.done (.xsetScalar n k) (c.setX k ((c.sc n.toNat).extractLsb' 0 8)) act

/-- XADD (R144). -/
def execXadd (imm : BitVec 15) (k : BitVec 2) (s : State) : Out State :=
  issue (.xadd imm k) s fun s c act => s.done (.xadd imm k) (c.setX k (c.x.getD k.toNat 0 + imm.extractLsb' 0 8)) act

/-- REP (R43): the prefix becomes active at repeat 0; it takes no issue slot of its own (R46), so the crew stands first in line again. -/
def execRep (st : BitVec 2) (m : BitVec 4) (c : BitVec 6) (s : State) : Out State :=
  issue (.rep st m c) s fun s k act =>
    { s.setCrew { k with rep := { active := true, i := 0, ctl := repCtl st m c, fixed := some act } } with issueQ := k.id :: s.issueQ }

/-! ## The 16-bit form (R131, R132) -/

/-- vd := f vd va in the threads of ACTIVE. -/
def State.vec16 (s : State) (i : Instr) (k : Crew) (act : Lanes) (a d : BitVec 5) (f : Word → Word → Word) : State :=
  s.vec i k act act 0 (k.vnum16 .vd d) fun l t => f (t.val l (k.vnum16 .vd d)) (t.val l (k.vnum16 .va a))

/-- R131. -/
def execMov16 (a d : BitVec 5) (s : State) : Out State :=
  issue (.mov16 a d) s fun s k act => s.vec16 (.mov16 a d) k act a d fun _ a => a

/-- R131. -/
def execAdd16I32 (a d : BitVec 5) (s : State) : Out State :=
  issue (.add16I32 a d) s fun s k act => s.vec16 (.add16I32 a d) k act a d fun c a => c + a

/-- R132. -/
def execAdd16F32 (a d : BitVec 5) (s : State) : Out State :=
  issue (.add16F32 a d) s fun s k act => s.vec16 (.add16F32 a d) k act a d fun c a => fadd c a

/-- R131. -/
def execSub16I32 (a d : BitVec 5) (s : State) : Out State :=
  issue (.sub16I32 a d) s fun s k act => s.vec16 (.sub16I32 a d) k act a d fun c a => c - a

/-- R132. -/
def execSub16F32 (a d : BitVec 5) (s : State) : Out State :=
  issue (.sub16F32 a d) s fun s k act => s.vec16 (.sub16F32 a d) k act a d fun c a => fsub c a

/-- R131. -/
def execMul16I32 (a d : BitVec 5) (s : State) : Out State :=
  issue (.mul16I32 a d) s fun s k act => s.vec16 (.mul16I32 a d) k act a d fun c a => c * a

/-- R132. -/
def execMul16F32 (a d : BitVec 5) (s : State) : Out State :=
  issue (.mul16F32 a d) s fun s k act => s.vec16 (.mul16F32 a d) k act a d fun c a => fmul c a

/-- R131. -/
def execAnd16 (a d : BitVec 5) (s : State) : Out State :=
  issue (.and16 a d) s fun s k act => s.vec16 (.and16 a d) k act a d fun c a => c &&& a

/-- R131. -/
def execOr16 (a d : BitVec 5) (s : State) : Out State :=
  issue (.or16 a d) s fun s k act => s.vec16 (.or16 a d) k act a d fun c a => c ||| a

/-- R131. -/
def execXor16 (a d : BitVec 5) (s : State) : Out State :=
  issue (.xor16 a d) s fun s k act => s.vec16 (.xor16 a d) k act a d fun c a => c ^^^ a

/-- R131. -/
def execShl16 (a d : BitVec 5) (s : State) : Out State :=
  issue (.shl16 a d) s fun s k act => s.vec16 (.shl16 a d) k act a d fun c a => c <<< (a.toNat % 32)

/-- R131. -/
def execShr16N32 (a d : BitVec 5) (s : State) : Out State :=
  issue (.shr16N32 a d) s fun s k act => s.vec16 (.shr16N32 a d) k act a d fun c a => c >>> (a.toNat % 32)

/-- R132. -/
def execShr16I32 (a d : BitVec 5) (s : State) : Out State :=
  issue (.shr16I32 a d) s fun s k act => s.vec16 (.shr16I32 a d) k act a d fun c a => c.sshiftRight (a.toNat % 32)

/-- R131. -/
def execMin16I32 (a d : BitVec 5) (s : State) : Out State :=
  issue (.min16I32 a d) s fun s k act => s.vec16 (.min16I32 a d) k act a d fun c a => minI c a

/-- R132. -/
def execMin16F32 (a d : BitVec 5) (s : State) : Out State :=
  issue (.min16F32 a d) s fun s k act => s.vec16 (.min16F32 a d) k act a d fun c a => fmin c a

/-- R131. -/
def execMax16I32 (a d : BitVec 5) (s : State) : Out State :=
  issue (.max16I32 a d) s fun s k act => s.vec16 (.max16I32 a d) k act a d fun c a => maxI c a

/-- R132. -/
def execMax16F32 (a d : BitVec 5) (s : State) : Out State :=
  issue (.max16F32 a d) s fun s k act => s.vec16 (.max16F32 a d) k act a d fun c a => fmax c a

/-- R131. -/
def execNeg16I32 (a d : BitVec 5) (s : State) : Out State :=
  issue (.neg16I32 a d) s fun s k act => s.vec16 (.neg16I32 a d) k act a d fun _ a => 0 - a

/-- R132. -/
def execNeg16F32 (a d : BitVec 5) (s : State) : Out State :=
  issue (.neg16F32 a d) s fun s k act => s.vec16 (.neg16F32 a d) k act a d fun _ a => withSign a (!a.getLsbD 31)

/-- R131. -/
def execNot16 (a d : BitVec 5) (s : State) : Out State :=
  issue (.not16 a d) s fun s k act => s.vec16 (.not16 a d) k act a d fun _ a => ~~~a

/-- R132. -/
def execAbs16F32 (a d : BitVec 5) (s : State) : Out State :=
  issue (.abs16F32 a d) s fun s k act => s.vec16 (.abs16F32 a d) k act a d fun _ a => withSign a false

/-- ADDI5 (R131). -/
def execAddi5 (imm d : BitVec 5) (s : State) : Out State :=
  issue (.addi5 imm d) s fun s k act => s.vec (.addi5 imm d) k act act 0 (k.vnum16 .vd d) fun l t => t.val l (k.vnum16 .vd d) + imm.signExtend 32

/-- MOVI5 (R131). -/
def execMovi5 (imm d : BitVec 5) (s : State) : Out State :=
  issue (.movi5 imm d) s fun s k act => s.vec (.movi5 imm d) k act act 0 (k.vnum16 .vd d) fun _ _ => imm.signExtend 32

/-- S2V of the 16-bit form (R131). -/
def execS2v16 (sn d : BitVec 5) (s : State) : Out State :=
  issue (.s2v16 sn d) s fun s k act => s.vec (.s2v16 sn d) k act act 0 (k.vnum16 .vd d) fun _ _ => k.sc (snum16 k sn)

end Sys2Proof.Machine
end

