-- ==== Sys2Proof/Machine/Float.lean ====
section
/-! DEFINITION. Float, conversion, packing and residue instructions (spec/06_float.md R159 to R173). -/

namespace Sys2Proof.Machine

/-- FAR (R161). -/
def execFar (f : FarOp) (g : Guard) (b : VCode) (a : VCode) (d : VCode) (s : State) : Out State :=
  issue (.far f g b a d) s fun s k act =>
    s.vec (.far f g b a d) k act (k.guarded act g) 0 (k.vnum .vd d) fun n t =>
      let x := tri k n t b a d
      farOp f x.1 x.2.1

/-- FFMA (R162). -/
def execFfma (f : FfmaOp) (g : Guard) (b : VCode) (a : VCode) (d : VCode) (s : State) : Out State :=
  issue (.ffma f g b a d) s fun s k act =>
    s.vec (.ffma f g b a d) k act (k.guarded act g) 0 (k.vnum .vd d) fun n t =>
      let x := tri k n t b a d
      ffmaOp f x.1 x.2.1 x.2.2

/-- FUN (R163). -/
def execFun (f : FunOp) (g : Guard) (a : VCode) (d : VCode) (s : State) : Out State :=
  issue (.fun f g a d) s fun s k act =>
    s.vec (.fun f g a d) k act (k.guarded act g) 0 (k.vnum .vd d) fun n t =>
      funOp f (t.val n (k.vnum .va a))

/-- SFU (R164, R165). -/
def execSfu (l : BitVec 4) (f : SfuOp) (a : VCode) (d : VCode) (s : State) : Out State :=
  issue (.sfu l f a d) s fun s k act =>
    s.vec (.sfu l f a d) k act act l.toNat (k.vnum .vd d) fun n t =>
      sfuOp f (t.val n (k.vnum .va a))

/-- CVT (R166). -/
def execCvt (l : BitVec 4) (f : CvtOp) (fs : BitVec 3) (a : VCode) (d : VCode) (s : State) : Out State :=
  issue (.cvt l f fs a d) s fun s k act =>
    s.vec (.cvt l f fs a d) k act act l.toNat (k.vnum .vd d) fun n t =>
      match f with
      | .narrow => narrow (s.slot k fs) (t.val n (k.vnum .va a))
      | .widen => widen (s.slot k fs) (t.val n (k.vnum .va a))

/-- ICVT (R167). -/
def execIcvt (l : BitVec 4) (r : Rnd) (f : IcvtOp) (a : VCode) (d : VCode) (s : State) : Out State :=
  issue (.icvt l r f a d) s fun s k act =>
    s.vec (.icvt l r f a d) k act act l.toNat (k.vnum .vd d) fun n t =>
      icvtOp f r (t.val n (k.vnum .va a))

/-- PACK (R168). -/
def execPack (f : PackOp) (g : Guard) (b : VCode) (a : VCode) (d : VCode) (s : State) : Out State :=
  issue (.pack f g b a d) s fun s k act =>
    s.vec (.pack f g b a d) k act (k.guarded act g) 0 (k.vnum .vd d) fun n t =>
      let x := tri k n t b a d
      packOp f x.1 x.2.1 x.2.2

/-- UNPK (R169). -/
def execUnpk (l : BitVec 4) (f : UnpkOp) (ix : BitVec 3) (fs : BitVec 3) (a : VCode) (d : VCode) (s : State) : Out State :=
  issue (.unpk l f ix fs a d) s fun s k act =>
    s.vec (.unpk l f ix fs a d) k act act l.toNat (k.vnum .vd d) fun n t =>
      unpkOp f (s.slot k fs) ix.toNat (t.val n (k.vnum .va a))

/-- HOP (R170). -/
def execHop (f : HopOp) (g : Guard) (b : VCode) (a : VCode) (d : VCode) (s : State) : Out State :=
  issue (.hop f g b a d) s fun s k act =>
    s.vec (.hop f g b a d) k act (k.guarded act g) 0 (k.vnum .vd d) fun n t =>
      let x := tri k n t b a d
      hopOp f x.1 x.2.1 x.2.2

/-- RENC (R171). -/
def execRenc (l : BitVec 4) (f : RencOp) (a : VCode) (d : VCode) (s : State) : Out State :=
  issue (.renc l f a d) s fun s k act =>
    s.vec (.renc l f a d) k act act l.toNat (k.vnum .vd d) fun n t =>
      rencOp f (t.val n (k.vnum .va a))

/-- RDEC (R172). -/
def execRdec (l : BitVec 4) (f : RdecOp) (a : VCode) (d : VCode) (s : State) : Out State :=
  issue (.rdec l f a d) s fun s k act =>
    s.vec (.rdec l f a d) k act act l.toNat (k.vnum .vd d) fun n t =>
      rdecOp f (t.val n (k.vnum .va a))

/-- FCLS (R173). -/
def execFcls (t : FclsType) (m : BitVec 9) (a p : VCode) (s : State) : Out State :=
  issue (.fcls t m a p) s fun s k act => s.prd (.fcls t m a p) k act (pnum k .vd p) fun l x => fclsOp t m (x.val l (k.vnum .va a))

end Sys2Proof.Machine
end

