-- ==== Sys2Proof/Machine/Links.lean ====
section
/-! DEFINITION. The far links (spec/15_links.md R406 to R422; spec/19_prog_links.md R440, R443). -/

namespace Sys2Proof.Machine

/-! ## Flits that arrive (R406, R408) -/

/-- An acknowledgement (1) or negative acknowledgement (2) of a SEQ. -/
def ackFlit (next : BitVec 16) (type : Nat) (seq : BitVec 16) : BitVec 576 := flitOf next type (seq.zeroExtend 512)
def flitBytes (f : BitVec 576) : List Byte := leBytes 72 f.toNat
def flitGood (f : BitVec 576) : Bool := crc32c ((flitBytes f).take 68) == w32 (flitBytes f) 68
def flitSeq (f : BitVec 576) : BitVec 16 := f.extractLsb' 0 16
def flitType (f : BitVec 576) : Nat := (f.extractLsb' 16 8).toNat
def flitPayload (f : BitVec 576) : List Byte := ((flitBytes f).drop 4).take 64
/-- The 36 beats of a flit that arrives, of any type (R407). -/
def Link.hears (x : Link) : Link := { x with rxBeats := x.rxBeats + 36 }

/-- A negative acknowledgement or acknowledgement carrying the last delivered SEQ, ahead of every data flit (R408). -/
def Link.sendAck (x : Link) (type : Nat) : Link := { x with ctlOut := x.ctlOut ++ [ackFlit x.txSeq type (x.rxSeq - 1)] }

/-- A flit that is not delivered: it and every later flit go until the expected SEQ arrives; one negative acknowledgement is sent (R408). -/
def Link.discard (x : Link) : Link := if x.nakSent then x else { x.sendAck 2 with nakSent := true }

/-- A delivered data flit: after every 16 of them an acknowledgement goes out (R408). -/
def Link.delivered (x : Link) : Link :=
  let y : Link := { x with rxSeq := x.rxSeq + 1, rxUnacked := x.rxUnacked + 1, nakSent := false }
  if 16 ≤ y.rxUnacked then { y.sendAck 1 with rxUnacked := 0 } else y

/-- An acknowledged SEQ frees every flit up to it (R409). -/
def Link.acks (x : Link) (seq : BitVec 16) : Link :=
  let n := (seq - x.acked).toNat
  if n ≤ x.replay.length then { x with acked := seq, replay := x.replay.drop n, resend := min x.resend (x.replay.length - n) } else x
/-- Every flit after the acknowledged SEQ is sent again (R409). -/
def Link.again (x : Link) : Link := { x with resend := x.replay.length }

/-! ## Delivered payloads (R440) -/

/-- A payload flit of the piece under way: no byte is written beyond the count. A piece that has come whole ends as its lines settle. -/
def State.rxPayload (s : State) (l : Nat) (x : RxPiece) (bs : List Byte) : State :=
  let data := bs.take (x.count - x.got)
  let done := decide (x.count ≤ x.got + data.length)
  if x.answer then
    (s.setLink l fun (y : Link) => { y with rx := if done then none else some { x with got := x.got + data.length } }).answerBytes x.peer x.tag
      (some l) data
  else
    let r : State × RxPiece :=
      if Config.deckBytes < x.base + x.count then
        (s, { x with got := x.got + data.length, ranges := x.ranges ++ [(x.base + x.got, data.length)] })
      else s.takeBytes x (x.base + x.got) data
    let s := r.1.setLink l fun (y : Link) => { y with rx := if done then none else some r.2 }
    if done then s.putPiece r.2 else s

/-- A header opens a piece: the answer of a read request of this package, also of one whose command has failed, or a piece of a peer's copy. -/
def State.rxHeader (s : State) (l count base : Nat) (tag : DWord) : State :=
  let peer := (s.link l).peer
  let answer := base == 0 && ((s.link l).late.contains tag
    || s.cmds.any fun (c : Cmd) => c.fn == .copyr && !c.out && c.tag == tag && c.link == some l && c.sent && !c.acked)
  if count == 0 || decide (2 ^ 19 < count) then s
  else
    s.bump.setLink l fun (y : Link) =>
      { y with rx := some { peer := peer, tag := tag, answer := answer, base := base, count := count, got := 0, ranges := [], key := s.fresh
                            lines := [], link := some l } }

/-- A delivered data flit, told apart by its position and its KIND. -/
def State.rxData (s : State) (l : Nat) (p : List Byte) : State :=
  match (s.link l).rx with
  | some x => s.rxPayload l x p
  | none =>
    let tag := BitVec.ofNat 64 (u p 16 8)
    match u p 0 4 with
    | 1 => s.rxHeader l (u p 4 4) (u p 8 8) tag
    | 2 => s.peerCompletes (s.link l).peer tag (some l) (u p 4 4)
    | 3 => s.takeRequest (s.link l).peer tag (u p 8 8) (u p 4 4) (some l)
    | _ => s

/-- A flit arrives (R408, R409). -/
def State.rxFlit (s : State) (l : Nat) (f : BitVec 576) : State :=
  if !(s.link l).speaks then s
  else
    let s := s.setLink l Link.hears
    let x := s.link l
    if !flitGood f || decide (4 < flitType f) then s.setLink l Link.discard
    else if flitType f == 0 then
      if flitSeq f == x.rxSeq then (s.setLink l Link.delivered).rxData l (flitPayload f)
      else if 0 < (x.rxSeq - flitSeq f).toNat ∧ (x.rxSeq - flitSeq f).toNat < 2 ^ 15 then s
      else s.setLink l Link.discard
    else if flitType f == 1 then s.setLink l fun (x : Link) => x.acks (BitVec.ofNat 16 (u (flitPayload f) 0 2))
    else if flitType f == 2 then s.setLink l fun (x : Link) => (x.acks (BitVec.ofNat 16 (u (flitPayload f) 0 2))).again
    else s

/-- HEADER_FLIT. -/
def execHeaderFlit (link : Nat) (flit : BitVec 576) (s : State) : Out State := .next (s.rxFlit link flit)
/-- READ_REQUEST_FLIT. -/
def execReadRequestFlit (link : Nat) (flit : BitVec 576) (s : State) : Out State := .next (s.rxFlit link flit)
/-- PAYLOAD_FLIT. -/
def execPayloadFlit (link : Nat) (flit : BitVec 576) (s : State) : Out State := .next (s.rxFlit link flit)
/-- COMPLETION_FLIT. -/
def execCompletionFlit (link : Nat) (flit : BitVec 576) (s : State) : Out State := .next (s.rxFlit link flit)
/-- ACKNOWLEDGEMENT. -/
def execAcknowledgement (link : Nat) (flit : BitVec 576) (s : State) : Out State := .next (s.rxFlit link flit)
/-- NEGATIVE_ACKNOWLEDGEMENT. -/
def execNegativeAcknowledgement (link : Nat) (flit : BitVec 576) (s : State) : Out State := .next (s.rxFlit link flit)
/-- IDLE_FLIT. -/
def execIdleFlit (link : Nat) (flit : BitVec 576) (s : State) : Out State := .next (s.rxFlit link flit)
/-- DISCARDED_FLIT. -/
def execDiscardedFlit (link : Nat) (s : State) : Out State := .next (if (s.link link).speaks then s.setLink link fun (x : Link) => x.hears.discard else s)

/-- ACK_TIMER (R408). -/
def execAckTimer (link : Nat) (s : State) : Out State :=
  .next <| s.setLink link fun (x : Link) => if x.speaks && x.rxUnacked != 0 then { x.sendAck 1 with rxUnacked := 0 } else x
/-- REPLAY_TIMEOUT (R409). -/
def execReplayTimeout (link : Nat) (s : State) : Out State := .next <| s.setLink link fun (x : Link) => if x.speaks then x.again else x

/-! ## Sending (R407 to R409) -/

/-- The wavelengths of an active list, in ascending order. -/
def activeList (m : BitVec 16) : List Nat := (List.range 16).filter m.getLsbD
/-- The wavelength that carries beat j of a flit: entry b mod W of the active list (R407). -/
def WireFlit.wavelength (w : WireFlit) (j : Nat) : Option Nat := (activeList w.list)[(w.beat + j) % (activeList w.list).length]?
/-- The wavelengths a link sends on: while it narrows, the surviving ones (R412); in bring-up, those that have passed its stages (R411). -/
def Link.list (x : Link) : BitVec 16 :=
  match x.state with
  | .narrowing => x.lit &&& ~~~x.lost
  | .bringup => x.found
  | .down | .up | .waking | .quarantine | .failed | .draining | .switching => x.lit
/-- A flit goes out on the active list; every flit counts (R407). -/
def Link.puts (x : Link) (f : BitVec 576) : Link := { x with wire := some { flit := f, beat := x.beats, list := x.list }, beats := x.beats + 36 }
/-- An idle flit: it carries the SEQ of the next data flit (R407). -/
def Link.idles (x : Link) : Link := x.puts (flitOf (if x.state == .narrowing && x.lost != 0 then x.acked + 1 else x.txSeq) 3 0)

/-- One flit of a link: acknowledgements and control flits first, then flits sent again, then new ones while the replay buffer has room; else an
idle flit. Data stop while the direction narrows, new flits while it drains. -/
def Link.send (x : Link) : Link :=
  match x.ctlOut with
  | f :: r => Link.puts { x with ctlOut := r } f
  | [] =>
    if x.state == .narrowing && x.lost != 0 then x.idles
    else if x.resend != 0 then Link.puts { x with resend := x.resend - 1 } (x.replay.getD (x.replay.length - x.resend) 0)
    else if x.state == .draining || x.drain || decide (Config.replayFlits ≤ x.replay.length) then x.idles
    else
      match x.egress.find? fun e => e.1 == x.peer with
      | none => x.idles
      | some e =>
        let f := flitOf x.txSeq 0 e.2
        Link.puts { x with egress := x.egress.erase e, replay := x.replay ++ [f], txSeq := x.txSeq + 1 } f

/-! ## States (R411 to R413, R418) -/

/-- The payloads of unacknowledged flits, which wait to be sent after FLOW (R413). -/
def Link.requeue (x : Link) : Link :=
  { x with
    egress := x.replay.map (fun f => (x.peer, BitVec.ofNat 512 (leNat (flitPayload f)))) ++ x.egress, replay := [], resend := 0, ctlOut := []
    cmds := x.cmds.map fun (c : LinkCmd) => { c with started := false } }
/-- No light is in use any more; PARKED masks stay (R411, R418). A piece that has begun to arrive goes on after FLOW (R413). -/
def Link.unlit (x : Link) : Link :=
  let p := x.parked ||| x.waking
  let q := x.rxParked ||| x.rxWaking
  { x.requeue with
    lit := 0, parked := p, waking := 0, dark := ~~~p, rxLit := 0, rxParked := q, rxWaking := 0, rxDark := ~~~q, lost := 0, rxLost := 0
    lostAt := none, rxLostAt := none, drain := false, found := 0, rxFound := 0, told := false, rxNext := none }
/-- The link goes DOWN and starts bring-up from stage 1 (R413). -/
def Link.restart (x : Link) : Link := { x.unlit with state := .bringup, stage := 1, fails := 0 }
/-- A DRAINING link goes to SWITCHING (R418). -/
def Link.toSwitching (x : Link) : Link := { x.unlit with state := .switching }
/-- A direction is left without light, or its handshake does not finish: DOWN and bring-up (R413), or SWITCHING from DRAINING (R418). -/
def Link.goesDown (x : Link) : Link := if x.drain then x.toSwitching else x.restart

/-- The state after a narrowing: DRAINING and WAKING go on. -/
def Link.afterNarrowing (x : Link) : LinkState := if x.drain then .draining else if x.waking != 0 then .waking else .up

/-- A loss of light in one direction, detected here or told by the peer (R412, R413): the handshake starts, or again with the smaller list, and this
end sends its active lists; without a survivor the link goes down, or on to SWITCHING from DRAINING. -/
def State.loseLight (s : State) (l : Nat) (receive detected : Bool) (lost : BitVec 16) : State :=
  let x := s.link l
  let new := if receive then lost &&& x.rxLit else lost &&& x.lit
  let seen (old : Option Nat) : Option Nat := if detected && old.isNone then some s.time.toNat else old
  if !x.speaks || new == 0 then s
  else
    let y : Link := if receive then { x with rxLost := x.rxLost ||| new, rxLostAt := seen x.rxLostAt }
      else { x with lost := x.lost ||| new, lostAt := seen x.lostAt }
    let tx := y.lit &&& ~~~y.lost
    let rx := y.rxLit &&& ~~~y.rxLost
    if tx == 0 || rx == 0 then s.setLink l Link.goesDown
    else s.setLink l fun (_ : Link) => Link.tells { y with state := .narrowing, told := false, rxNext := none } 1 tx rx

/-- LOSS_OF_LIGHT (R412). -/
def execLossOfLight (link : Nat) (receive : Bool) (lost : BitVec 16) (s : State) : Out State := .next (s.loseLight link receive true lost)

/-- A wake that has no wavelength left to bring back completes OK (R421): it works on the states that remain after a narrowing (R422). -/
def State.wakeEnds (s : State) (l : Nat) : State :=
  let x := s.link l
  match x.cmds with
  | h :: _ =>
    if h.started && !h.ease && x.waking == 0 && x.state != .narrowing then
      ((s.setLink l fun (x : Link) => { x with state := if x.state == .waking then .up else x.state }).endLinkCmd l 0 0).startLink l
    else s
  | [] => s

/-- LASER_MODULE_FAILURE (R410, R443): parked light of the module goes too, and light found in bring-up; every link it feeds that carries flits
narrows. -/
def execLaserModuleFailure (els : Nat) (s : State) : Out State :=
  .next <|
    if s.lasers.contains els || decide (16 ≤ els) then s
    else
      let m : BitVec 16 := 0xF#16 <<< (4 * (els % 4))
      let s := ({ s with lasers := els :: s.lasers } : State).spare (.laser els)
      (List.range 8).foldl (fun (s : State) j =>
        let l := 8 * (els / 4) + j
        let s := s.setLink l fun (x : Link) =>
          { x with parked := x.parked &&& ~~~m, waking := x.waking &&& ~~~m, dark := x.dark ||| ((x.parked ||| x.waking) &&& m)
                   found := x.found &&& ~~~m }
        (s.loseLight l false true m).wakeEnds l) s

/-- The 0x50 record of a direction in which this package has detected the loss, with the TIME of the detection (R443). -/
def State.lossEvent (s : State) (l : Nat) (at_ : Option Nat) (lost lit boundary : BitVec 16) (replayed : Nat) : State :=
  match at_ with
  | none => s
  | some t => s.eventAt (BitVec.ofNat 64 t) 0x50 4 l l [(lost.toNat, 2), (lit.toNat, 2), (boundary.toNat, 2), (replayed, 2)]

/-- The handshake of a narrowing has finished (R412): each direction that lost light starts a new stripe. Records go out in TIME order (R423). An ease
under way begins again on the states that remain (R422). -/
def State.narrowed (s : State) (l : Nat) (boundary : BitVec 16) (replayed : Nat) : State :=
  let x := s.link l
  if x.state != .narrowing then s
  else
    let tx := x.lost != 0
    let y : Link := { x with
      lit := x.lit &&& ~~~x.lost, dark := x.dark ||| x.lost, rxLit := x.rxLit &&& ~~~x.rxLost, rxDark := x.rxDark ||| x.rxLost, lost := 0, rxLost := 0
      lostAt := none, rxLostAt := none, state := x.afterNarrowing, cmds := x.cmds.map fun (c : LinkCmd) => { c with started := c.started && !c.ease } 
      beats := if tx then 0 else x.beats
      rxBeats := if x.rxLost != 0 then 0 else x.rxBeats, resend := if tx then x.replay.length else x.resend }
    let s := s.setLink l fun (_ : Link) => y
    let own (s : State) : State := s.lossEvent l x.lostAt x.lost y.lit (x.acked + 1) x.replay.length
    let peer (s : State) : State := s.lossEvent l x.rxLostAt x.rxLost y.rxLit boundary replayed
    let s := if x.rxLostAt.getD 0 < x.lostAt.getD 0 then own (peer s) else peer (own s)
    (s.wakeEnds l).startLink l

/-- The agreement of an ease: p is parked at the boundary (R414, R421). -/
def State.eased (s : State) (l : Nat) : State :=
  let x := s.link l
  match x.cmds with
  | h :: _ =>
    if !h.started || !h.ease || x.state == .narrowing then s
    else
      let p := h.mask &&& x.lit
      if p == x.lit then (s.endLinkCmd l 5 1).startLink l
      else
        ((s.setLink l fun (x : Link) => { x with lit := x.lit &&& ~~~p, parked := x.parked ||| p, beats := 0 }).endLinkCmd l 0 0).startLink l
  | [] => s

/-- The peer's ease or wake: this end agrees by a control flit of its own. The receive wavelengths keep their list until the agreement completes; those
that are to join it are WAKING (R410, R414). -/
def Link.rxWidth (x : Link) (active parked waking : BitVec 16) : Link :=
  let w := (waking ||| active) &&& ~~~x.rxLit
  let p := parked &&& ~~~(x.rxLit ||| w)
  Link.tells { x with rxNext := some (active, parked, waking), rxWaking := w, rxParked := p, rxDark := ~~~(x.rxLit ||| w ||| p) } 2 x.lit active
/-- The boundary of the peer's change: the receive wavelengths take the states the peer has set, and a new stripe starts (R407, R414). -/
def Link.rxBoundary (x : Link) : Link :=
  match x.rxNext with
  | none => x
  | some (active, parked, waking) =>
    { x with
      rxLit := active, rxParked := parked, rxWaking := waking, rxDark := ~~~(active ||| parked ||| waking), rxNext := none
      rxBeats := if active == x.rxLit then x.rxBeats else 0 }

/-- CONTROL_FLIT (R411, R412, R414): a flit as any other for the beat count (R407). -/
def execControlFlit (link : Nat) (ctl : LinkControl) (s : State) : Out State :=
  .next <|
    if !(s.link link).speaks then s
    else
      let s := s.setLink link Link.hears
      match ctl with
      | .narrow transmit active => s.loseLight link (!transmit) false (~~~active)
      | .narrowDone boundary replayed => s.narrowed link boundary replayed
      | .width => s.eased link
      | .peerWidth active parked waking => s.setLink link fun (x : Link) => if x.state == .narrowing then x else x.rxWidth active parked waking
      | .peerBoundary => s.setLink link Link.rxBoundary

/-- NARROWING_TIMEOUT (R413). -/
def execNarrowingTimeout (link : Nat) (s : State) : Out State :=
  .next <| s.setLink link fun (x : Link) => if x.state == .narrowing then x.goesDown else x

/-- A link that carries flits for a package now (R409, R418); one that drains sends no new ones. -/
def Link.carries (x : Link) (peer : BitVec 13) : Bool := x.speaks && !x.drain && x.peer == peer
/-- FLIT_WAIT_TIMEOUT (R413): a copy whose flits wait on a link that carries none for its peer, also one that has moved to another package, completes
with PEER_LOST, detail 1. -/
def execFlitWaitTimeout (cmd : Nat) (s : State) : Out State :=
  .next <|
    match s.cmd? cmd with
    | none => s
    | some c =>
      match c.link with
      | none => s
      | some l => if c.peers.any (s.link l).carries then s else s.failCmd cmd 4 1

/-! ## The Draw engine (R417, R418) -/

/-- Flits of a remote copy to a package: the header or request of each piece, and the payload it sends (R440). -/
def State.copyFlits (s : State) (c : Cmd) : Nat :=
  match s.requestPieces c (c.total / 2 ^ 14 + 2) 0 with
  | .error _ => 0
  | .ok ps => (ps.map fun p => 1 + if c.out then (p.2 + 63) / 64 else 0).sum
/-- The package a waiting COPYR is for. -/
def State.copyPeer (s : State) (c : Cmd) : Option (BitVec 13) := (s.remoteLeaf { c with out := true } c.opA.toNat).map (·.pkg) |>.orElse fun _ =>
  (s.remoteLeaf { c with out := false } c.opB.toNat).map (·.pkg)
/-- Q(p): flits queued toward a package on the switched links, and those of copies that wait for a link to it (R417, R441). -/
def State.queued (s : State) (p : BitVec 13) : Nat :=
  ((List.range 32).map fun l => if 8 ≤ l then ((s.link l).egress.filter fun e => e.1 == p).length else 0).sum
    + ((s.cmds.filter fun c => c.fn == .copyr && c.number == 0 && s.copyPeer c == some p && s.route (c.arg 2) p == .wait).map
        fun c => s.copyFlits { c with out := (s.remoteLeaf { c with out := true } c.opA.toNat).isSome, peers := [p] }).sum
/-- The listed packages without a fixed link. -/
def State.listed (s : State) : List (BitVec 13) := (s.served.filter fun p => !s.routes.any fun r => decide (r.1 < 8) && r.2 == p).dedup

/-- One link allotted: the package with the largest Q / (n + 1), the lower identifier winning a tie. -/
def State.allot (s : State) (l : Nat) (got : List (BitVec 13)) : Option (BitVec 13) :=
  let ps := s.listed.filter fun p => s.queued p != 0 && !s.excluded.contains (l, p)
  ps.foldl (fun (best : Option (BitVec 13)) p =>
    match best with
    | none => some p
    | some b =>
      let x := s.queued p * (got.count b + 1)
      let y := s.queued b * (got.count p + 1)
      if y < x || (x == y && decide (p.toNat < b.toNat)) then some p else some b) none
/-- The setting of FL8 to FL31. -/
def State.setting (s : State) : List (Nat × BitVec 13) :=
  (List.range 24).foldl (fun (acc : List (Nat × BitVec 13)) j =>
    match s.allot (8 + j) (acc.map (·.2)) with
    | none => acc
    | some p => acc ++ [(8 + j, p)]) []

/-- The setting applied: UP links drain, a quarantined link switches. -/
def State.draw (s : State) : State :=
  s.setting.foldl (fun (t : State) (x : Nat × BitVec 13) =>
    let y := t.link x.1
    let now := ((y.dest.map s.queued)).getD 0
    if y.state == .up && y.dest != some x.2 && decide (s.drawHyst * now ≤ s.queued x.2) then
      t.setLink x.1 fun (y : Link) => { y with state := .draining, drain := true, dest := some x.2 }
    else if y.state == .quarantine then t.setLink x.1 fun (y : Link) => { y.toSwitching with dest := some x.2 }
    else t) s
/-- DRAW_RUN. -/
def execDrawRun (s : State) : Out State := .next s.draw

/-- LINK_DRAINED (R418). -/
def execLinkDrained (link : Nat) (s : State) : Out State :=
  .next <| s.setLink link fun (x : Link) => if x.state == .draining && x.replay.isEmpty then x.toSwitching else x
/-- CIRCUIT_SWITCH_REPORT (R418). -/
def execCircuitSwitchReport (link : Nat) (s : State) : Out State :=
  .next <| s.setLink link fun (x : Link) => if x.state == .switching then { x with state := .bringup, stage := 1, fails := 0 } else x
/-- SWITCH_TIMEOUT (R418). -/
def execSwitchTimeout (link : Nat) (s : State) : Out State :=
  .next <|
    let x := s.link link
    if x.state != .switching then s
    else (s.setLink link fun (x : Link) => { x with state := .down, stage := 1 }).linkEvent 0x52 link [(x.lit.toNat, 2), (x.peer.toNat, 2), (0, 1)]
/-- EXCLUSION_CLEAR (R418). -/
def execExclusionClear (link : Nat) (pkg : BitVec 13) (s : State) : Out State := .next { s with excluded := s.excluded.filter (· != (link, pkg)) }

/-! ## Bring-up (R411) -/

/-- Transmit wavelengths of a link whose laser module has failed (R410). -/
def State.unfed (s : State) (l : Nat) : BitVec 16 :=
  (s.lasers.filter fun e => e / 4 == l / 8).foldl (fun m e => m ||| (0xF#16 <<< (4 * (e % 4)))) 0

/-- The peer a link should find in stage 6: the route table's for a fixed link, the circuit's for a switched one. -/
def State.expected (s : State) (l : Nat) : Option (BitVec 13) :=
  if l < 8 then (s.routes.find? (·.1 == l)).map (·.2) else (s.link l).dest

/-- QUARANTINE (R418): the link carries no traffic, so the copies given to it and its width commands end; a switched link is excluded from the pairing and
Draw runs. -/
def State.quarantine (s : State) (l : Nat) (peer e : BitVec 13) : State :=
  let s := (s.setLink l fun (x : Link) => { x with state := .quarantine, peer := peer }).linkEvent 0x53 l [(peer.toNat, 2), (e.toNat, 2)]
  let s := (s.cmds.filter fun c => c.link == some l && !c.complete).foldl (fun (s : State) c => s.failCmd c.id 6 l) s
  let s := s.startLink l
  if l < 8 then s else ({ s with excluded := (l, e) :: s.excluded } : State).draw
/-- What the two ends have exchanged in stage 6 (R411): the peer's active list and PARKED mask. Another peer's pieces are not gone on with. -/
def Link.meets (x : Link) (active parked : BitVec 16) (peer : BitVec 13) : Link :=
  { x with
    stage := 7, peer := peer, rxLit := active, rxParked := parked, rxWaking := 0, rxDark := ~~~(active ||| parked)
    rx := if peer == x.peer then x.rx else none, late := if peer == x.peer then x.late else [] }
/-- Stage 6 (R411, R418). -/
def State.stage6 (s : State) (l : Nat) (active parked : BitVec 16) (peer : BitVec 13) : State :=
  match s.expected l with
  | some e => if e != peer then s.quarantine l peer e else s.setLink l fun (x : Link) => x.meets active parked peer
  | none => s.setLink l fun (x : Link) => { x.meets active parked peer with dest := if l < 8 then none else some peer }

/-- Stage 7: SEQ 0 both ways, UP (R411). -/
def State.stage7 (s : State) (l : Nat) : State :=
  let s := s.setLink l fun (x : Link) =>
    { x.requeue with
      lit := x.found, dark := ~~~(x.found ||| x.parked), found := 0, rxFound := 0, state := .up, stage := 1, fails := 0, txSeq := 0, acked := 0xFFFF, rxSeq := 0, rxUnacked := 0
      nakSent := false, beats := 0, rxBeats := 0 }
  let x := s.link l
  (s.linkEvent 0x51 l [(x.lit.toNat, 2), (x.peer.toNat, 2), (7, 1)]).startLink l

/-- A bring-up stage finished with these wavelengths each way (R411). -/
def Link.passes (x : Link) (tx rx : BitVec 16) : Link := { x with state := .bringup, stage := x.stage + 1, found := tx, rxFound := rx }
/-- BRINGUP_STAGE_COMPLETE: stage 1 finds light on unparked wavelengths each way, and bring-up goes on with those that pass stages 2 to 4; the others stay
DARK, and PARKED masks survive. A stage without a wavelength left does not finish. As stage 6 begins this end sends its active list and PARKED
mask; the masks are then the peer's. A device without firmware brings no link up (R405). -/
def execBringupStageComplete (link : Nat) (good : StageMasks) (peer : BitVec 13) (s : State) : Out State :=
  .next <|
    let x := s.link link
    if s.dead || (x.state != .bringup && x.state != .down) then s
    else
      let tx := good.good &&& (if x.stage == 1 then ~~~(x.parked ||| s.unfed link) else x.found)
      let rx := good.rx &&& (if x.stage == 1 then ~~~x.rxParked else x.rxFound)
      if x.stage ≤ 4 then (if tx == 0 || rx == 0 then s else s.setLink link fun (x : Link) => x.passes tx rx)
      else if x.found == 0 then s
      else if x.stage == 5 then
        s.setLink link fun (x : Link) => Link.puts { x.passes x.found x.rxFound with beats := 0, rxBeats := 0 } (controlFlit x 0 x.found 0)
      else if x.stage == 6 then s.stage6 link good.good good.parked peer
      else s.stage7 link

/-- BRINGUP_STAGE_TIMEOUT: back to stage 1; FAILED after the third failure in a row. A link that is DOWN stands at stage 1. -/
def execBringupStageTimeout (link : Nat) (s : State) : Out State :=
  .next <|
    let x := s.link link
    if x.state != .bringup && x.state != .down then s
    else if 3 ≤ x.fails + 1 then
      (s.setLink link fun (x : Link) => { x with state := .failed, fails := x.fails + 1, found := 0, rxFound := 0 }).linkEvent 0x52 link
        [(x.lit.toNat, 2), (x.peer.toNat, 2), (x.stage, 1)]
    else s.setLink link fun (x : Link) => { x with stage := 1, fails := x.fails + 1, found := 0, rxFound := 0 }

/-! ## Waking, parameters, status (R414 to R422) -/

/-- The last step of a wake: once code lock has ended this end sends its part of the agreement (R414). -/
def Link.codeLocked (x : Link) : Link :=
  if x.waking != 0 && !x.told && (x.state == .waking || x.state == .draining) then Link.tells { x with told := true } 2 (x.lit ||| x.waking) x.rxLit
  else x
/-- The wakes whose code lock ends by itself now: which is a free value (log 63). -/
def State.codeLocks (s : State) : State :=
  { s with links := s.links.mapIdx fun l (x : Link) => if Config.codeLock s.fresh l then x.codeLocked else x }

/-- WAKE_COMPLETE: the width handshake of a wake has ended. -/
def execWakeComplete (link : Nat) (s : State) : Out State :=
  .next <|
    let x := s.link link
    match x.cmds with
    | h :: _ =>
      if !h.started || h.ease || !x.told || !(x.state == .waking || x.state == .draining) then s
      else
        ((s.setLink link fun (x : Link) =>
          { x with lit := x.lit ||| x.waking, waking := 0, beats := 0, told := false, state := if x.state == .waking then .up else x.state }).endLinkCmd
            link 0 0).startLink link
    | [] => s

/-- WAKE_BUDGET_EXPIRY: wavelengths still WAKING become DARK, and the rest of the wake completes without them: code lock has ended for those, or none is
left (R414, R421). A wake that is past its code lock has no budget to keep. -/
def execWakeBudgetExpiry (link : Nat) (stuck : BitVec 16) (s : State) : Out State :=
  .next <|
    if (s.link link).told then s
    else
      (s.setLink link fun (x : Link) =>
        Link.codeLocked { x with dark := x.dark ||| (x.waking &&& stuck), waking := x.waking &&& ~~~stuck }).wakeEnds link

/-- AUTOMATIC_WAKE: of a queue that stands at WAKE_DEPTH or above it where wavelengths are PARKED later (R415). -/
def execAutomaticWake (link : Nat) (s : State) : Out State := .next (s.autoWake link (s.link link).egress.length)

/-- LINK_PARAMETER_WRITE (R416): values outside their ranges are ignored. -/
def execLinkParameterWrite (link : Nat) (par : LinkParam) (s : State) : Out State :=
  .next <|
    match par with
    | .lolThresh d => if -20 ≤ d ∧ d ≤ -8 then s.setLink link fun (x : Link) => { x with lolThresh := d } else s
    | .wakeDepth n => if 1 ≤ n ∧ n ≤ 4096 then s.setLink link fun (x : Link) => { x with wakeDepth := n } else s
    | .auto on => s.setLink link fun (x : Link) => { x with auto := on }
    | .drawInt n => if 1 ≤ n ∧ n ≤ 1000 then { s with drawInt := n } else s
    | .drawHyst n => if 1 ≤ n ∧ n ≤ 16 then { s with drawHyst := n } else s

/-- ROUTE_TABLE_WRITE (R417): a quarantined fixed link that the new table names rightly comes up again. -/
def execRouteTableWrite (fixed : List (Nat × BitVec 13)) (served : List (BitVec 13)) (s : State) : Out State :=
  .next <|
    let s : State := { s with routes := fixed.filter fun r => decide (r.1 < 8), served := served }
    (List.range 8).foldl (fun (s : State) l =>
      if (s.link l).state == .quarantine && s.expected l == some (s.link l).peer then s.setLink l Link.restart else s) s

def linkCode : LinkState → Nat
  | .down => 0 | .bringup => 1 | .up => 2 | .narrowing => 3 | .waking => 4 | .quarantine => 5 | .failed => 6 | .draining => 7 | .switching => 7
/-- The word of XLN STAT (R420). -/
def Link.statWord (x : Link) : DWord :=
  BitVec.ofNat 64 (x.lit.toNat + (x.parked ||| x.waking).toNat * 2 ^ 16 + x.dark.toNat * 2 ^ 32 + linkCode x.state * 2 ^ 48 + x.peer.toNat * 2 ^ 51)

/-- XLN STAT (R420). -/
def execXlnStat (r : Reply) (a : BitVec 6) (s : State) : Out State :=
  issue (.xlnStat r a) s fun s k act =>
    let l := (k.pr a.toNat).toNat
    s.doneReply (.xlnStat r a) k act r (if 31 < l then refuse64 1 else (s.link l).statWord)

/-- XLN EASE (R421): one entry of q4. -/
def execEase (r : Reply) (b a : BitVec 6) (l : BitVec 3) (s : State) : Out State :=
  issue (.ease r b a l) s fun s k act => s.command (.ease r b a l) k act .ease 0 l r (k.pr a.toNat) (k.pr b.toNat) 4 1
/-- XLN WAKE (R421). -/
def execWake (r : Reply) (b a : BitVec 6) (l : BitVec 3) (s : State) : Out State :=
  issue (.wake r b a l) s fun s k act => s.command (.wake r b a l) k act .wake 0 l r (k.pr a.toNat) (k.pr b.toNat) 4 0

end Sys2Proof.Machine
end

