-- ==== Sys2Proof/Machine/Dispatch.lean ====
section
/-! DEFINITION. One arm per instruction and event: a direct call of its meaning. -/

namespace Sys2Proof.Machine

def exec (i : Instr) (s : State) : Host.Outcome State Fault Refusal :=
  match i with
  | .bra d => Sys2Proof.Machine.execBra d s
  | .brp d n p => Sys2Proof.Machine.execBrp d n p s
  | .brs d n sn => Sys2Proof.Machine.execBrs d n sn s
  | .jmpv g a => Sys2Proof.Machine.execJmpv g a s
  | .call d => Sys2Proof.Machine.execCall d s
  | .callv g a => Sys2Proof.Machine.execCallv g a s
  | .ret g => Sys2Proof.Machine.execRet g s
  | .switch d v => Sys2Proof.Machine.execSwitch d v s
  | .refuse => Sys2Proof.Machine.execRefuse s
  | .exit g => Sys2Proof.Machine.execExit g s
  | .yield g => Sys2Proof.Machine.execYield g s
  | .spawn r b a e => Sys2Proof.Machine.execSpawn r b a e s
  | .launch r a => Sys2Proof.Machine.execLaunch r a s
  | .waitcCounter r b a => Sys2Proof.Machine.execWaitcCounter r b a s
  | .waitcHandle r a => Sys2Proof.Machine.execWaitcHandle r a s
  | .fork r a => Sys2Proof.Machine.execFork r a s
  | .join r => Sys2Proof.Machine.execJoin r s
  | .taskq r a => Sys2Proof.Machine.execTaskq r a s
  | .taskend => Sys2Proof.Machine.execTaskend s
  | .role imm => Sys2Proof.Machine.execRole imm s
  | .add f g b a d => Sys2Proof.Machine.execAdd f g b a d s
  | .mul f g b a d => Sys2Proof.Machine.execMul f g b a d s
  | .mad f g b a d => Sys2Proof.Machine.execMad f g b a d s
  | .log f g b a d => Sys2Proof.Machine.execLog f g b a d s
  | .shf f g b a d => Sys2Proof.Machine.execShf f g b a d s
  | .minmax f g b a d => Sys2Proof.Machine.execMinmax f g b a d s
  | .bit f g a d => Sys2Proof.Machine.execBit f g a d s
  | .bfx l f b a d => Sys2Proof.Machine.execBfx l f b a d s
  | .bfi l b a d => Sys2Proof.Machine.execBfi l b a d s
  | .sel q g b a d => Sys2Proof.Machine.execSel q g b a d s
  | .opi f imm a d => Sys2Proof.Machine.execOpi f imm a d s
  | .lih imm d => Sys2Proof.Machine.execLih imm d s
  | .cmp t c b a p => Sys2Proof.Machine.execCmp t c b a p s
  | .plog c b a p => Sys2Proof.Machine.execPlog c b a p s
  | .pmov a p => Sys2Proof.Machine.execPmov a p s
  | .pset c p => Sys2Proof.Machine.execPset c p s
  | .p2v b v => Sys2Proof.Machine.execP2v b v s
  | .v2p v b => Sys2Proof.Machine.execV2p v b s
  | .shfl l f b a d => Sys2Proof.Machine.execShfl l f b a d s
  | .vote t a p => Sys2Proof.Machine.execVote t a p s
  | .redx l f o a d => Sys2Proof.Machine.execRedx l f o a d s
  | .s2v f l sn v => Sys2Proof.Machine.execS2v f l sn v s
  | .v2s f l sn v => Sys2Proof.Machine.execV2s f l sn v s
  | .sop f a d => Sys2Proof.Machine.execSop f a d s
  | .sli imm d => Sys2Proof.Machine.execSli imm d s
  | .saddi imm d => Sys2Proof.Machine.execSaddi imm d s
  | .slih imm d => Sys2Proof.Machine.execSlih imm d s
  | .xsetImm imm k => Sys2Proof.Machine.execXsetImm imm k s
  | .xsetScalar n k => Sys2Proof.Machine.execXsetScalar n k s
  | .xadd imm k => Sys2Proof.Machine.execXadd imm k s
  | .rep st m c => Sys2Proof.Machine.execRep st m c s
  | .far f g b a d => Sys2Proof.Machine.execFar f g b a d s
  | .ffma f g b a d => Sys2Proof.Machine.execFfma f g b a d s
  | .fun f g a d => Sys2Proof.Machine.execFun f g a d s
  | .sfu l f a d => Sys2Proof.Machine.execSfu l f a d s
  | .cvt l f fs a d => Sys2Proof.Machine.execCvt l f fs a d s
  | .icvt l r f a d => Sys2Proof.Machine.execIcvt l r f a d s
  | .pack f g b a d => Sys2Proof.Machine.execPack f g b a d s
  | .unpk l f ix fs a d => Sys2Proof.Machine.execUnpk l f ix fs a d s
  | .hop f g b a d => Sys2Proof.Machine.execHop f g b a d s
  | .renc l f a d => Sys2Proof.Machine.execRenc l f a d s
  | .rdec l f a d => Sys2Proof.Machine.execRdec l f a d s
  | .fcls t m a p => Sys2Proof.Machine.execFcls t m a p s
  | .ld l z b o t => Sys2Proof.Machine.execLd l z b o t s
  | .st z b o t => Sys2Proof.Machine.execSt z b o t s
  | .lda c z b o t => Sys2Proof.Machine.execLda c z b o t s
  | .stl c z b o t => Sys2Proof.Machine.execStl c z b o t s
  | .lds l z b o t => Sys2Proof.Machine.execLds l z b o t s
  | .sts z b o t => Sys2Proof.Machine.execSts z b o t s
  | .atom w r p b o t => Sys2Proof.Machine.execAtom w r p b o t s
  | .cas r p b o t => Sys2Proof.Machine.execCas r p b o t s
  | .fence c => Sys2Proof.Machine.execFence c s
  | .fenceAcq c => Sys2Proof.Machine.execFenceAcq c s
  | .fenceRel c => Sys2Proof.Machine.execFenceRel c s
  | .fenceWaitEnd crew => Sys2Proof.Machine.execFenceWaitEnd crew s
  | .bar n id d => Sys2Proof.Machine.execBar n id d s
  | .barPhaseComplete squad bar => Sys2Proof.Machine.execBarPhaseComplete squad bar s
  | .bbarArm r b a => Sys2Proof.Machine.execBbarArm r b a s
  | .bbarWait r a => Sys2Proof.Machine.execBbarWait r a s
  | .bbarTake r a => Sys2Proof.Machine.execBbarTake r a s
  | .bbarConditionMet crew => Sys2Proof.Machine.execBbarConditionMet crew s
  | .pres l b o t => Sys2Proof.Machine.execPres l b o t s
  | .mon l b o t => Sys2Proof.Machine.execMon l b o t s
  | .mwait imm d => Sys2Proof.Machine.execMwait imm d s
  | .mwaitWake crew => Sys2Proof.Machine.execMwaitWake crew s
  | .mwaitTimeout crew => Sys2Proof.Machine.execMwaitTimeout crew s
  | .subs r b a m f => Sys2Proof.Machine.execSubs r b a m f s
  | .unsub r a => Sys2Proof.Machine.execUnsub r a s
  | .subup r a f => Sys2Proof.Machine.execSubup r a f s
  | .subqLine r a => Sys2Proof.Machine.execSubqLine r a s
  | .subqSlot r a => Sys2Proof.Machine.execSubqSlot r a s
  | .subqCnt r => Sys2Proof.Machine.execSubqCnt r s
  | .lineFetch core line fmt upd => Sys2Proof.Machine.execLineFetch core line fmt upd s
  | .homeWriteApply k => Sys2Proof.Machine.execHomeWriteApply k s
  | .inval k => Sys2Proof.Machine.execInval k s
  | .upd k => Sys2Proof.Machine.execUpd k s
  | .sharerAcknowledgement k => Sys2Proof.Machine.execSharerAcknowledgement k s
  | .evictionNotice core line => Sys2Proof.Machine.execEvictionNotice core line s
  | .accessUnpark crew => Sys2Proof.Machine.execAccessUnpark crew s
  | .cvset a c => Sys2Proof.Machine.execCvset a c s
  | .cvsetLive c => Sys2Proof.Machine.execCvsetLive c s
  | .cvsetImm m c => Sys2Proof.Machine.execCvsetImm m c s
  | .mma c fs b a t => Sys2Proof.Machine.execMma c fs b a t s
  | .mmaSet c fs b a t => Sys2Proof.Machine.execMmaSet c fs b a t s
  | .mmr c fs b a t => Sys2Proof.Machine.execMmr c fs b a t s
  | .mmrSet c fs b a t => Sys2Proof.Machine.execMmrSet c fs b a t s
  | .matrixOperationComplete core => Sys2Proof.Machine.execMatrixOperationComplete core s
  | .mzero t => Sys2Proof.Machine.execMzero t s
  | .mepi l fs d t => Sys2Proof.Machine.execMepi l fs d t s
  | .mstConv b sp f t => Sys2Proof.Machine.execMstConv b sp f t s
  | .mstRaw b sp t => Sys2Proof.Machine.execMstRaw b sp t s
  | .mldConv b sp f t => Sys2Proof.Machine.execMldConv b sp f t s
  | .mldRawF32 b sp t => Sys2Proof.Machine.execMldRawF32 b sp t s
  | .mldRawRes b sp t => Sys2Proof.Machine.execMldRawRes b sp t s
  | .movfGet l t d => Sys2Proof.Machine.execMovfGet l t d s
  | .movfPutF32 l t a => Sys2Proof.Machine.execMovfPutF32 l t a s
  | .movfPutI32 l t a => Sys2Proof.Machine.execMovfPutI32 l t a s
  | .copy1 r b a e l => Sys2Proof.Machine.execCopy1 r b a e l s
  | .copy2 r b a e l => Sys2Proof.Machine.execCopy2 r b a e l s
  | .copyt r b a e l => Sys2Proof.Machine.execCopyt r b a e l s
  | .fill r b a e l => Sys2Proof.Machine.execFill r b a e l s
  | .copyr r b a e l => Sys2Proof.Machine.execCopyr r b a e l s
  | .copyh r b a e l => Sys2Proof.Machine.execCopyh r b a e l s
  | .gather r b a e l => Sys2Proof.Machine.execGather r b a e l s
  | .scatter r b a e l => Sys2Proof.Machine.execScatter r b a e l s
  | .scatadd r b a e l => Sys2Proof.Machine.execScatadd r b a e l s
  | .gatherq r b e l => Sys2Proof.Machine.execGatherq r b e l s
  | .allred r b a e l => Sys2Proof.Machine.execAllred r b a e l s
  | .redscat r b a e l => Sys2Proof.Machine.execRedscat r b a e l s
  | .allgath r b a e l => Sys2Proof.Machine.execAllgath r b a e l s
  | .barrier r a e l => Sys2Proof.Machine.execBarrier r a e l s
  | .engineAcceptance cmd => Sys2Proof.Machine.execEngineAcceptance cmd s
  | .engineChunkDelivered cmd len peers => Sys2Proof.Machine.execEngineChunkDelivered cmd len peers s
  | .commandCompletion cmd => Sys2Proof.Machine.execCommandCompletion cmd s
  | .collectiveTimeout cmd => Sys2Proof.Machine.execCollectiveTimeout cmd s
  | .peerLeaves pkg => Sys2Proof.Machine.execPeerLeaves pkg s
  | .xlnStat r a => Sys2Proof.Machine.execXlnStat r a s
  | .ease r b a l => Sys2Proof.Machine.execEase r b a l s
  | .wake r b a l => Sys2Proof.Machine.execWake r b a l s
  | .qpush a q => Sys2Proof.Machine.execQpush a q s
  | .qpushS a q => Sys2Proof.Machine.execQpushS a q s
  | .qpop q d => Sys2Proof.Machine.execQpop q d s
  | .queueWaitEnd crew => Sys2Proof.Machine.execQueueWaitEnd crew s
  | .tlwait r a l => Sys2Proof.Machine.execTlwait r a l s
  | .tlwaitComplete crew => Sys2Proof.Machine.execTlwaitComplete crew s
  | .tlrdSt r a l => Sys2Proof.Machine.execTlrdSt r a l s
  | .tlrdIssued r l => Sys2Proof.Machine.execTlrdIssued r l s
  | .tlrdDone r l => Sys2Proof.Machine.execTlrdDone r l s
  | .tlrdFails r l => Sys2Proof.Machine.execTlrdFails r l s
  | .skStore r b a e w => Sys2Proof.Machine.execSkStore r b a e w s
  | .skAdd r b a e w => Sys2Proof.Machine.execSkAdd r b a e w s
  | .skClaim r b a e w => Sys2Proof.Machine.execSkClaim r b a e w s
  | .skSwap r b a e w => Sys2Proof.Machine.execSkSwap r b a e w s
  | .skMax r b a e w => Sys2Proof.Machine.execSkMax r b a e w s
  | .skGen r b e => Sys2Proof.Machine.execSkGen r b e s
  | .skLaunch r b e => Sys2Proof.Machine.execSkLaunch r b e s
  | .skNote r b e => Sys2Proof.Machine.execSkNote r b e s
  | .strokeAcceptance crew => Sys2Proof.Machine.execStrokeAcceptance crew s
  | .wstrk r a => Sys2Proof.Machine.execWstrk r a s
  | .wstrkNote r b a => Sys2Proof.Machine.execWstrkNote r b a s
  | .wstrkComplete crew => Sys2Proof.Machine.execWstrkComplete crew s
  | .strkn r => Sys2Proof.Machine.execStrkn r s
  | .strknNote r a => Sys2Proof.Machine.execStrknNote r a s
  | .strknStat r => Sys2Proof.Machine.execStrknStat r s
  | .coxToken number => Sys2Proof.Machine.execCoxToken number s
  | .strokeReceive rec => Sys2Proof.Machine.execStrokeReceive rec s
  | .repairRequest rec => Sys2Proof.Machine.execRepairRequest rec s
  | .waveguideBreak both => Sys2Proof.Machine.execWaveguideBreak both s
  | .countCollection highest returned => Sys2Proof.Machine.execCountCollection highest returned s
  | .ringInitialisation n burst alone => Sys2Proof.Machine.execRingInitialisation n burst alone s
  | .replicaResync replica notes j => Sys2Proof.Machine.execReplicaResync replica notes j s
  | .apxe sl => Sys2Proof.Machine.execApxe sl s
  | .apxl sl => Sys2Proof.Machine.execApxl sl s
  | .apxi r sl => Sys2Proof.Machine.execApxi r sl s
  | .apxiAll r => Sys2Proof.Machine.execApxiAll r s
  | .apxqStat r sl => Sys2Proof.Machine.execApxqStat r sl s
  | .apxqCount r sl => Sys2Proof.Machine.execApxqCount r sl s
  | .apxqErr r sl => Sys2Proof.Machine.execApxqErr r sl s
  | .apxqMisc r sl => Sys2Proof.Machine.execApxqMisc r sl s
  | .apxcRetire r sl => Sys2Proof.Machine.execApxcRetire r sl s
  | .apxcReset r sl => Sys2Proof.Machine.execApxcReset r sl s
  | .apxcShift r a sl => Sys2Proof.Machine.execApxcShift r a sl s
  | .apxcDet r a sl => Sys2Proof.Machine.execApxcDet r a sl s
  | .apxcLoadw r a sl => Sys2Proof.Machine.execApxcLoadw r a sl s
  | .apxcDumpw r a sl => Sys2Proof.Machine.execApxcDumpw r a sl s
  | .apxsSave r a sl => Sys2Proof.Machine.execApxsSave r a sl s
  | .apxsLoad r a sl => Sys2Proof.Machine.execApxsLoad r a sl s
  | .apxsDrop r sl => Sys2Proof.Machine.execApxsDrop r sl s
  | .ergWatchNotification k => Sys2Proof.Machine.execErgWatchNotification k s
  | .trainingBatch die slot => Sys2Proof.Machine.execTrainingBatch die slot s
  | .trap imm => Sys2Proof.Machine.execTrap imm s
  | .rett => Sys2Proof.Machine.execRett s
  | .gsr r d => Sys2Proof.Machine.execGsr r d s
  | .gsrV r v => Sys2Proof.Machine.execGsrV r v s
  | .ssr r d => Sys2Proof.Machine.execSsr r d s
  | .ssrV r v => Sys2Proof.Machine.execSsrV r v s
  | .svcall r b a svc => Sys2Proof.Machine.execSvcall r b a svc s
  | .svwait r a => Sys2Proof.Machine.execSvwait r a s
  | .svwaitWake crew => Sys2Proof.Machine.execSvwaitWake crew s
  | .tksv r a t => Sys2Proof.Machine.execTksv r a t s
  | .tkld r a t => Sys2Proof.Machine.execTkld r a t s
  | .ctxsvCrew r b a => Sys2Proof.Machine.execCtxsvCrew r b a s
  | .ctxsvTiles r b a => Sys2Proof.Machine.execCtxsvTiles r b a s
  | .ctxsvSquad r b a => Sys2Proof.Machine.execCtxsvSquad r b a s
  | .ctxldCrew r b a => Sys2Proof.Machine.execCtxldCrew r b a s
  | .ctxldTiles r b a => Sys2Proof.Machine.execCtxldTiles r b a s
  | .ctxldSquad r a => Sys2Proof.Machine.execCtxldSquad r a s
  | .halt imm => Sys2Proof.Machine.execHalt imm s
  | .crend c => Sys2Proof.Machine.execCrend c s
  | .crendS d => Sys2Proof.Machine.execCrendS d s
  | .cyc d => Sys2Proof.Machine.execCyc d s
  | .cycTime d => Sys2Proof.Machine.execCycTime d s
  | .mov16 a d => Sys2Proof.Machine.execMov16 a d s
  | .add16I32 a d => Sys2Proof.Machine.execAdd16I32 a d s
  | .add16F32 a d => Sys2Proof.Machine.execAdd16F32 a d s
  | .sub16I32 a d => Sys2Proof.Machine.execSub16I32 a d s
  | .sub16F32 a d => Sys2Proof.Machine.execSub16F32 a d s
  | .mul16I32 a d => Sys2Proof.Machine.execMul16I32 a d s
  | .mul16F32 a d => Sys2Proof.Machine.execMul16F32 a d s
  | .and16 a d => Sys2Proof.Machine.execAnd16 a d s
  | .or16 a d => Sys2Proof.Machine.execOr16 a d s
  | .xor16 a d => Sys2Proof.Machine.execXor16 a d s
  | .shl16 a d => Sys2Proof.Machine.execShl16 a d s
  | .shr16N32 a d => Sys2Proof.Machine.execShr16N32 a d s
  | .shr16I32 a d => Sys2Proof.Machine.execShr16I32 a d s
  | .min16I32 a d => Sys2Proof.Machine.execMin16I32 a d s
  | .min16F32 a d => Sys2Proof.Machine.execMin16F32 a d s
  | .max16I32 a d => Sys2Proof.Machine.execMax16I32 a d s
  | .max16F32 a d => Sys2Proof.Machine.execMax16F32 a d s
  | .neg16I32 a d => Sys2Proof.Machine.execNeg16I32 a d s
  | .neg16F32 a d => Sys2Proof.Machine.execNeg16F32 a d s
  | .not16 a d => Sys2Proof.Machine.execNot16 a d s
  | .abs16F32 a d => Sys2Proof.Machine.execAbs16F32 a d s
  | .addi5 imm d => Sys2Proof.Machine.execAddi5 imm d s
  | .movi5 imm d => Sys2Proof.Machine.execMovi5 imm d s
  | .s2v16 sn d => Sys2Proof.Machine.execS2v16 sn d s
  | .boatFormation core part => Sys2Proof.Machine.execBoatFormation core part s
  | .boatIssue core part => Sys2Proof.Machine.execBoatIssue core part s
  | .agePromotion crew => Sys2Proof.Machine.execAgePromotion crew s
  | .lqPush va asid => Sys2Proof.Machine.execLqPush va asid s
  | .hostLaunchArrival => Sys2Proof.Machine.execHostLaunchArrival s
  | .gridTableWaitEnd => Sys2Proof.Machine.execGridTableWaitEnd s
  | .squadAdmission grid core => Sys2Proof.Machine.execSquadAdmission grid core s
  | .swapOutForRoom squad => Sys2Proof.Machine.execSwapOutForRoom squad s
  | .crewResourcesFreed crew => Sys2Proof.Machine.execCrewResourcesFreed crew s
  | .gridRetirement grid => Sys2Proof.Machine.execGridRetirement grid s
  | .joinResume squad core => Sys2Proof.Machine.execJoinResume squad core s
  | .taskStart die entry core => Sys2Proof.Machine.execTaskStart die entry core s
  | .taskDrained die entry => Sys2Proof.Machine.execTaskDrained die entry s
  | .taskReady task => Sys2Proof.Machine.execTaskReady task s
  | .genRaise asid => Sys2Proof.Machine.execGenRaise asid s
  | .preemptHalt core slot => Sys2Proof.Machine.execPreemptHalt core slot s
  | .preemptRelease core slot => Sys2Proof.Machine.execPreemptRelease core slot s
  | .preemptionHaltComplete core => Sys2Proof.Machine.execPreemptionHaltComplete core s
  | .clkCtl mhz => Sys2Proof.Machine.execClkCtl mhz s
  | .regionFrequencyChange region => Sys2Proof.Machine.execRegionFrequencyChange region s
  | .regionStopEnd region => Sys2Proof.Machine.execRegionStopEnd region s
  | .clockStretch region => Sys2Proof.Machine.execClockStretch region s
  | .deviceReset image => Sys2Proof.Machine.execDeviceReset image s
  | .partTestComplete part passed => Sys2Proof.Machine.execPartTestComplete part passed s
  | .spareTakeover part => Sys2Proof.Machine.execSpareTakeover part s
  | .hostBiasFlip page => Sys2Proof.Machine.execHostBiasFlip page s
  | .biasFlipTimeout page => Sys2Proof.Machine.execBiasFlipTimeout page s
  | .snpData line pool => Sys2Proof.Machine.execSnpData line pool s
  | .snpInv line pool => Sys2Proof.Machine.execSnpInv line pool s
  | .poolShelfFailure base len => Sys2Proof.Machine.execPoolShelfFailure base len s
  | .poolCompletionTimeout base len => Sys2Proof.Machine.execPoolCompletionTimeout base len s
  | .atsInvalidation page drained => Sys2Proof.Machine.execAtsInvalidation page drained s
  | .sweepPacket pkt => Sys2Proof.Machine.execSweepPacket pkt s
  | .headerFlit link flit => Sys2Proof.Machine.execHeaderFlit link flit s
  | .readRequestFlit link flit => Sys2Proof.Machine.execReadRequestFlit link flit s
  | .payloadFlit link flit => Sys2Proof.Machine.execPayloadFlit link flit s
  | .completionFlit link flit => Sys2Proof.Machine.execCompletionFlit link flit s
  | .acknowledgement link flit => Sys2Proof.Machine.execAcknowledgement link flit s
  | .negativeAcknowledgement link flit => Sys2Proof.Machine.execNegativeAcknowledgement link flit s
  | .idleFlit link flit => Sys2Proof.Machine.execIdleFlit link flit s
  | .controlFlit link ctl => Sys2Proof.Machine.execControlFlit link ctl s
  | .ackTimer link => Sys2Proof.Machine.execAckTimer link s
  | .replayTimeout link => Sys2Proof.Machine.execReplayTimeout link s
  | .lossOfLight link receive lost => Sys2Proof.Machine.execLossOfLight link receive lost s
  | .laserModuleFailure els => Sys2Proof.Machine.execLaserModuleFailure els s
  | .narrowingTimeout link => Sys2Proof.Machine.execNarrowingTimeout link s
  | .flitWaitTimeout cmd => Sys2Proof.Machine.execFlitWaitTimeout cmd s
  | .bringupStageComplete link good peer => Sys2Proof.Machine.execBringupStageComplete link good peer s
  | .bringupStageTimeout link => Sys2Proof.Machine.execBringupStageTimeout link s
  | .wakeComplete link => Sys2Proof.Machine.execWakeComplete link s
  | .wakeBudgetExpiry link stuck => Sys2Proof.Machine.execWakeBudgetExpiry link stuck s
  | .automaticWake link => Sys2Proof.Machine.execAutomaticWake link s
  | .drawRun => Sys2Proof.Machine.execDrawRun s
  | .linkDrained link => Sys2Proof.Machine.execLinkDrained link s
  | .circuitSwitchReport link => Sys2Proof.Machine.execCircuitSwitchReport link s
  | .switchTimeout link => Sys2Proof.Machine.execSwitchTimeout link s
  | .exclusionClear link pkg => Sys2Proof.Machine.execExclusionClear link pkg s
  | .linkParameterWrite link par => Sys2Proof.Machine.execLinkParameterWrite link par s
  | .discardedFlit link => Sys2Proof.Machine.execDiscardedFlit link s
  | .lanesLost port width => Sys2Proof.Machine.execLanesLost port width s
  | .poolRangeReenable base => Sys2Proof.Machine.execPoolRangeReenable base s
  | .biasTableWrite page host => Sys2Proof.Machine.execBiasTableWrite page host s
  | .routeTableWrite fixed served => Sys2Proof.Machine.execRouteTableWrite fixed served s
  | .contextTeardown asid => Sys2Proof.Machine.execContextTeardown asid s
  | .firmwareImage image => Sys2Proof.Machine.execFirmwareImage image s
  | .cxlResponse line pool grant => Sys2Proof.Machine.execCxlResponse line pool grant s
  | .requestQueueTake => Sys2Proof.Machine.execRequestQueueTake s

end Sys2Proof.Machine
end

