-- ==== Sys2Proof/Machine/Load.lean ====
section
/-! DEFINITION. The load of a program from outside the machine that withFetchWord stands for (log 23). -/

namespace Sys2Proof.Machine

/-- The grid, squad and crew of a loaded instruction: privileged context 0, 64 vector and 384 scalar registers, 8 tiles, a spill window. -/
def bootGrid : Grid :=
  { handle := 0, asid := 0, entry := 0x40000, dimX := 1, dimY := 1, dimZ := 1, crewsPer := 1, n := 64, m := 384, squadMem := 1024
    spill := 1024, tiles := 8, cls := .loader, early := false, idempotent := false, e7 := true, arg := 0, waitOn := 0, counter := 0
    slots := List.replicate 8 0, binds := List.replicate 16 0, cap := 50, depth := 0, parent := 0, parentSquad := none, args := []
    next := 1, endCode := none, recOff := 0, since := 0, add := none }
def bootSquad (id : Nat) : Squad := newSquad bootGrid id 0 0 false false
def bootCrew (id sq : Nat) : Crew := newCrew bootGrid id 0 0 0 sq 0 (List.range 8) 0x40000 (launchScalars bootGrid 0 0 0 0) .loader
/-- Context 0: privileged, its page tables at deck offset 0. -/
def bootCtx : Ctx := { Ctx.reset 0 with priv := true, swap := true }
/-- The page tables (R185, R186): the first 8 MiB of addresses onto the first 8 MiB of the deck, readable, writable, executable. -/
def bootTables (m : Memory) : Memory := (m.writeN 0 (leBytes 8 0x10001)).writeN 0x10000 (leBytes 8 0x3D)

/-- A machine whose next step fetches the given word at the issue address of a crew. -/
def State.load (s : State) (word : Nat) : State :=
  { (s.setCtx bootCtx) with
    deck := (bootTables s.deck).writeN 0x40000 (leBytes 8 word)
    tlb := s.tlb.filter (·.asid != 0)
    walkCache := s.walkCache.filter (·.asid != 0)
    grids := bootGrid :: s.grids.filter (·.handle != 0)
    squads := bootSquad s.fresh :: s.squads
    crews := bootCrew (s.fresh + 1) s.fresh :: s.crews
    issueQ := [s.fresh + 1]
    fresh := s.fresh + 2 }

end Sys2Proof.Machine
end

