-- ==== Sys2Proof/Machine/Tick.lean ====
section
/-! DEFINITION. What happens when no input waits: the clocks advance and the machine's own events become due (log 2, log 7). An event that is
listed before it may take effect does nothing, so the lists below only say which events to try. -/

namespace Sys2Proof.Machine

/-- CYCLES of every running region and TIME advance (R397, R399); the host takes event records (R423). -/
def State.clocks (s : State) : State :=
  { s.bump with
    regions := s.regions.map fun (r : ClockRegion) => if r.stopped then r else { r with cycles := r.cycles + 1 }
    time := s.time + BitVec.ofNat 64 (Config.tickNs s.fresh)
    events := match s.events with
      | [] => []
      | es => es.drop (Config.hostTakes s.fresh) }

/-- Events of the home slices, the cores' L1 and the tanks (R249, R252, R254, R276). -/
def State.memoryEvents (s : State) : List Instr :=
  ((s.writes.filter (!·.applied)).map fun w => Instr.homeWriteApply w.id)
    ++ (s.msgs.map fun m => if m.upd then Instr.upd m.id else Instr.inval m.id)
    ++ (s.acks.map fun a => Instr.sharerAcknowledgement a.id)
    ++ (s.notes.map fun n => Instr.ergWatchNotification n.id)
    ++ (s.notices.map fun n => Instr.evictionNotice n.core n.line)
    ++ ((s.matops.map (·.core)).dedup.map fun c => Instr.matrixOperationComplete c)

/-- The event that ends a wait. -/
def Crew.waitEvent (c : Crew) : List Instr :=
  match c.wait with
  | some (.fence ..) | some (.perform ..) => [.fenceWaitEnd c.id]
  | some (.bar j _) => [.barPhaseComplete c.squad j]
  | some (.bbar ..) => [.bbarConditionMet c.id]
  | some (.mwait _ t) => if c.mon.any (·.triggered) || t.isNone then [.mwaitWake c.id] else [.mwaitTimeout c.id]
  | some (.svwait ..) => [.svwaitWake c.id]
  | some (.wstrk ..) => [.wstrkComplete c.id]
  | some (.tlwait ..) => [.tlwaitComplete c.id]
  | some (.park _) => [.accessUnpark c.id]
  | some (.strk ..) => [.strokeAcceptance c.id]
  | some (.queue ..) => [.queueWaitEnd c.id]
  | some (.room ..) | some (.join ..) | none => []

/-- Events of crews: waits that may end, ageing (R117), ends (R85), halts asked for (R391). -/
def State.crewEvents (s : State) : List Instr :=
  s.crews.flatMap fun c =>
    if c.ended then [.crewResourcesFreed c.id]
    else
      c.waitEvent
        ++ (if c.wait.isNone && decide (s.schedAge ≤ c.age) && decide (c.raised < classNat c.role)
            then [.agePromotion c.id] else [])
        ++ (if c.haltReq then [.preemptionHaltComplete c.core] else [])

/-- Events of engine commands (R294, R297, R304): acceptance, up to 4,096 bytes of progress, completion. What a collective's peers send is an input. -/
def State.engineEvents (s : State) : List Instr :=
  s.cmds.flatMap fun c =>
    if c.number == 0 then [.engineAcceptance c.id]
    else if c.complete then [.commandCompletion c.id]
    else [.engineChunkDelivered c.id 4096 []]

/-- Events of the hub's work (R94, R95, R90, R108, R113, R402). -/
def State.workEvents (s : State) : List Instr :=
  (if s.lq.isEmpty then [] else [.hostLaunchArrival])
    ++ (if s.held.isEmpty then [] else [.gridTableWaitEnd])
    ++ (s.grids.flatMap fun g =>
        if g.dimX * g.dimY * g.dimZ ≤ g.next then [.gridRetirement g.handle.toNat]
        else ((s.coresUp.find? fun c => (s.admitSquad g c).isSome).map fun c => Instr.squadAdmission g.handle.toNat c).toList)
    ++ (s.squads.flatMap fun q => if q.swapped.isEmpty then [] else s.coresUp.map fun c => Instr.joinResume q.id c)
    ++ (s.tasks.flatMap fun t =>
        match t.state with
        | .ready => s.coresUp.map fun c => Instr.taskStart t.die t.entry c
        | .draining => [.taskDrained t.die t.entry]
        | _ => [])

/-- Events of the Erg, the ring of one package, the clocks and the links (R355, R319, R399, R415, R418). -/
def State.unitEvents (s : State) : List Instr :=
  ((s.ergs.filter (·.state == .train)).map fun e => Instr.trainingBatch e.die e.slot)
    ++ (if s.ring.alone && s.ring.state != .down then [.coxToken (BitVec.ofNat 32 (max s.ring.counted s.ring.sent + 1))] else [])
    ++ ((List.range s.regions.length).flatMap fun j =>
        if (s.region j).stopped then [.regionStopEnd j]
        else if s.dev == .full && (s.region j).freq != s.clkCtl then [.regionFrequencyChange j]
        else [])
    ++ ((List.range s.links.length).flatMap fun l =>
        (if (s.link l).wantsWake then [.automaticWake l] else []) ++ (if (s.link l).state == .draining then [.linkDrained l] else []))

/-- The partitions that hold a crew. -/
def State.partitions (s : State) : List (Nat × Nat) := ((s.crews.filter (!·.ended)).map fun c => (c.core, c.part)).dedup

/-- The issue events of a cycle: formation at a multiple of 4, then one boat per partition (R67, R68). -/
def State.issueEvents (s : State) : List Instr :=
  let ps := s.partitions.filter fun p => !(s.region (regionOf p.1)).stopped
  ((ps.filter fun p => (s.cycles p.1).toNat % 4 == 0).map fun p => Instr.boatFormation p.1 p.2) ++ ps.map fun p => Instr.boatIssue p.1 p.2

/-- What the units do by themselves: one flit of each link that is up (R407), answers to read requests whose lines have come (R440), stroke launches
whose records have come (R330), launches that may be resolved (R103), accesses performed (R181, R218), squads suspended once the cycle's boats have issued (R108, R109), pieces whose lines
settle (R433), event records whose turn has come (R423). -/
def State.background (s : State) : State :=
  ({ s.codeLocks with links := s.codeLocks.links.map fun (x : Link) => if x.speaks then x.send else x } : State).settlePieces.serve.retryLaunches.resolveLaunches.performSome.suspend.post

/-- One tick. -/
def State.tick (s : State) : State :=
  let s := s.clocks.settleAll.ages.background
  { s with inbox := s.memoryEvents ++ s.crewEvents ++ s.engineEvents ++ s.workEvents ++ s.unitEvents ++ s.issueEvents }

end Sys2Proof.Machine
end

