-- ==== Sys2Proof/Machine/Step.lean ====
section
/-! DEFINITION. One step of the package: the next crew of an issued boat takes its turn; when the last has, the boat's members are looked at
again (R68); else the next input or event takes effect; else the clocks advance (log 2). -/

namespace Sys2Proof.Machine

/-- One step. -/
def step (s : State) : Host.Outcome State Fault Refusal :=
  match s.issueQ with
  | id :: _ =>
    match s.turn id with
    | .idle t => .next t
    | .run i t => exec i t
  | [] =>
    if !s.boatOut.isEmpty then .next s.boatDone
    else
      match s.inbox with
      | e :: r => exec e { s with inbox := r, cur := none }
      | [] => .next s.tick

/-- s with an instruction stored where step fetches its next one (log 23). -/
def State.withFetchWord (s : State) (nbits w : Nat) : State := s.load (w % 2 ^ nbits)

end Sys2Proof.Machine
end

