-- ==== Sys2Proof/Safety.lean ====
section
/-! DEFINITION. The terms in which claims are stated: when a crew runs an instruction, what an instruction that only touches its own crew leaves,
and the invariant of the package's memories. -/

namespace Sys2Proof.Machine

/-- Every memory of the package is in its canonical form (log 3). -/
def State.memWf (s : State) : Bool := s.deck.wf && s.hbm.wf && s.host.wf && s.pool.wf && s.skm.wf

/-- The same memories, byte for byte: the deck, HBM, host and pool memory, stroke memory. -/
def State.sameMemory (s t : State) : Prop :=
  t.deck = s.deck ∧ t.hbm = s.hbm ∧ t.host = s.host ∧ t.pool = s.pool ∧ t.skm = s.skm

/-- It is crew k's turn, and nothing that all instructions share stops it from issuing i: it may issue (R66), a thread of it issues, and neither
PRIV (R372), nor REG_BOUND (R36), nor an outstanding reply (R33) applies. -/
def State.runs (s : State) (k : Crew) (i : Instr) : Prop := s.curCrew = some k ∧ s.issues k i = true

/-- No repeat of the instruction follows this one (R43). -/
def Crew.lastRepeat (k : Crew) : Bool := !k.rep.active || decide (k.rep.ctl.count ≤ k.rep.i.toNat + 1)

/-- Where thread l stands after its crew's instruction i (R26, R43, R73): past it, and past its prefix in a repeat. -/
def Crew.pcAfter (k : Crew) (i : Instr) (l : Nat) : Pc :=
  if k.active.getLsbD l && k.lastRepeat then
    BitVec.ofNat 48 (((k.thread l).pcv.toNat + i.length + if k.rep.active then 4 else 0) / 2 * 2)
  else (k.thread l).pcv

/-- The REP state after an instruction (R43). -/
def Crew.repAfter (k : Crew) : Rep := if k.rep.active && !k.lastRepeat then { k.rep with i := k.rep.i + 1 } else Rep.idle

/-- YEX of a thread after an instruction: it ends with the last repeat (R44, R83). -/
def Crew.yexAfter (k : Crew) (l : Nat) : Bool := !k.lastRepeat && (k.thread l).yex
/-- Loads still to come, their windows closed by an instruction of the threads of act (R39). -/
def closedLoads (i : Instr) (act : Lanes) (ps : List PendLoad) : List PendLoad :=
  if closesWindow i then ps.map fun (p : PendLoad) => if act.getLsbD p.lane then { p with left := 0 } else p else ps
/-- The loads still to come after an instruction of crew k, which their lookahead windows have counted (R39, R44). -/
def Crew.loadsAfter (k : Crew) (i : Instr) (ps : List PendLoad) : List PendLoad :=
  if k.lastRepeat then (closedLoads i k.active ps).map fun p => p.tick i k.active else closedLoads i k.active ps

/-- Crew k has become k' by its instruction i at a time of its region; of its threads only vector registers, predicates, the place, the YEX
bit and the lookahead windows may differ, and beside its threads only the REP state, the count of its loads' windows and the scheduler's marks. -/
def Crew.moved (k k' : Crew) (i : Instr) (now : Nat) : Prop :=
  k' = { k with threads := k'.threads, rep := k.repAfter, loads := k.loadsAfter i k.loads, raised := 0, age := 0, passed := 0, lastIssue := now }
    ∧ k'.threads.length = k.threads.length
    ∧ ∀ l < k.threads.length,
        k'.thread l =
            { k.thread l with v := (k'.thread l).v, p := (k'.thread l).p, pcv := k.pcAfter i l, yex := k.yexAfter l, win := (k'.thread l).win }
          ∧ (k'.thread l).v.length = (k.thread l).v.length

/-- A vector register of a thread. -/
def Crew.reg (k : Crew) (l r : Nat) : Word := (k.thread l).v.getD r 0
/-- A register stands in an open lookahead window of a thread (R39). -/
def Crew.windowed (k : Crew) (l r : Nat) : Bool := (k.thread l).win.any fun e => e.reg == r && e.left != 0
/-- The operand of thread l that a 6-bit code of a field names, as the thread reads it (R35, R40). -/
def Crew.operand (k : Crew) (l : Nat) (f : RepField) (code : VCode) : Word := (k.thread l).val l (k.vnum f code)

/-- The registers d to d + n - 1 of the threads of a set hold f, every other register and every predicate is as before. A register in open
windows holds f, or in the end the result of a long instruction of theirs (R40). -/
def Crew.gets (k k' : Crew) (on : Lanes) (d n : Nat) (f : Nat → Nat → Word) : Prop :=
  ∀ l < k.threads.length,
    (k'.thread l).p = (k.thread l).p
      ∧ (∀ r, on.getLsbD l = false ∨ r < d ∨ d + n ≤ r → k'.reg l r = k.reg l r)
      ∧ ∀ j < n, on.getLsbD l = true → d + j < (k.thread l).v.length →
          (k'.reg l (d + j) = f l j ∨ ∃ e ∈ (k.thread l).win, e.reg = d + j ∧ e.left ≠ 0 ∧ e.new = some (k'.reg l (d + j)))
            ∧ (k.windowed l (d + j) = false → k'.reg l (d + j) = f l j)

/-- exec i s answers a next state in which crew k alone has changed: the registers d to d + n - 1 of the threads of a set hold f. -/
def State.writesRegs (s : State) (k : Crew) (i : Instr) (on : Lanes) (d n : Nat) (f : Nat → Nat → Word) : Prop :=
  ∃ k' : Crew, exec i s = .next (s.bump.setCrew k') ∧ k.moved k' i (s.cycles k.core).toNat ∧ k.gets k' on d n f

/-- exec i s answers a next state in which crew k alone has changed: predicate p of the threads of ACTIVE holds f, every other predicate and
every vector register is as before. -/
def State.writesPred (s : State) (k : Crew) (i : Instr) (p : Nat) (f : Nat → Bool) : Prop :=
  ∃ k' : Crew, exec i s = .next (s.bump.setCrew k') ∧ k.moved k' i (s.cycles k.core).toNat
    ∧ ∀ l < k.threads.length,
        (k'.thread l).v = (k.thread l).v
          ∧ ∀ r < 64, (k'.thread l).p.getLsbD r = if k.active.getLsbD l = true ∧ r = p then f l else (k.thread l).p.getLsbD r

/-- Crew k as its instruction i finds it: a closing instruction ends the lookahead windows of its threads first (R39). -/
def Crew.entering (k : Crew) (i : Instr) : Crew := k.closeWin i k.active
/-- The state in which crew k's instruction i acts. -/
def State.entering (s : State) (k : Crew) (i : Instr) : State := (s.closed k i).bump

/-- Crew k has become k' by its instruction i at a time of its region, and i itself has changed k into c: the threads of ACTIVE have
advanced, the REP state and the scheduler's marks are those after an instruction, and nothing else differs from c. -/
def Crew.movedFrom (k c k' : Crew) (i : Instr) (now : Nat) : Prop :=
  k' = { c with threads := k'.threads, rep := k.repAfter, loads := k.loadsAfter i c.loads, raised := 0, age := 0, passed := 0, lastIssue := now }
    ∧ k'.threads.length = c.threads.length
    ∧ ∀ l < c.threads.length, k'.thread l = { c.thread l with pcv := k.pcAfter i l, yex := k.yexAfter l, win := (k'.thread l).win }

/-- exec i s answers the state t in which crew k has become c and moved past i. -/
def State.goesTo (s : State) (k : Crew) (i : Instr) (t : State) (c : Crew) : Prop :=
  ∃ k' : Crew, exec i s = .next (t.setCrew k') ∧ k.movedFrom c k' i (t.cycles k.core).toNat

/-- Crew c has become k' by stopping in instruction i until w ends, at a time of its region (R66): the threads of act stay where they are, the windows
i closes have ended (R39), the scheduler counts an issue (R67, R69, R117), and YEX ends unless the crew is to issue i again (R83). -/
def Crew.stopped (c k' : Crew) (i : Instr) (act : Lanes) (w : Wait) (now : Nat) : Prop :=
  k' = { c with threads := k'.threads, loads := closedLoads i act c.loads, wait := some w, waitLanes := act, raised := 0, age := 0, passed := 0, lastIssue := now }
    ∧ k'.threads.length = c.threads.length
    ∧ ∀ l < c.threads.length, k'.thread l =
        { c.thread l with
          yex := w.again && (c.thread l).yex
          win := (if closesWindow i && act.getLsbD l then (c.thread l).endWin else c.thread l).win }

/-- exec i s answers the state t in which crew k, as c, stops in i until w ends. -/
def State.stops (s : State) (k : Crew) (i : Instr) (t : State) (c : Crew) (w : Wait) : Prop :=
  ∃ k' : Crew, exec i s = .next (t.setCrew k') ∧ c.stopped k' i k.active w (t.cycles k.core).toNat

/-- exec i s answers the state t in which crew k has become c by a control instruction: the threads of ACTIVE stand at their targets (R73). -/
def State.transfers (s : State) (k : Crew) (i : Instr) (t : State) (c : Crew) (tgt : Nat → Nat) : Prop :=
  ∃ k' : Crew, exec i s = .next (t.setCrew k')
    ∧ k' = { c with
        threads := k'.threads, rep := k.repAfter, loads := k.loadsAfter i c.loads, raised := 0, age := 0, passed := 0
        lastIssue := (t.cycles k.core).toNat }
    ∧ k'.threads.length = c.threads.length
    ∧ ∀ l < c.threads.length,
        k'.thread l =
          { c.thread l with
            pcv := if k.active.getLsbD l then BitVec.ofNat 48 (tgt l / 2 * 2) else (c.thread l).pcv
            yex := k.yexAfter l, win := (k'.thread l).win }

/-- Crew k parks in instruction i on the lines that satisfy p (R179); one that stores has issued by then, as an access inside the regions of its threads
(R362). -/
def State.parksOn (s : State) (k : Crew) (i : Instr) (stores : Bool) (p : Nat → Prop) : Prop :=
  ∃ (lines : List Nat) (x : State) (m k' : Crew), (if stores then s.bump.impure k k.active else (s.bump, k)) = (x, m)
    ∧ exec i s = .next (x.setCrew k') ∧ m.stopped k' i k.active (.park lines) (x.cycles m.core).toNat ∧ ∀ j, j ∈ lines ↔ p j

/-- What stops instruction i of crew k, whose access of each thread chk checks and ea reports: a cause of steps 1 to 6 of R196 in some thread traps,
with the threads that meet a poisoned line beside it; else an absent line parks the crew; else POISON traps. -/
def State.accessStops (s : State) (k : Crew) (i : Instr) (stores : Bool) (ea : Nat → Nat) (chk : Nat → Except Cause Loc) : Prop :=
  let t := s.bump
  let lanes := (List.range 32).filter fun l => k.active.getLsbD l
  let poisoned (x : Loc) : Bool := match x with
    | .deck p => t.poisoned (p / 128) && t.present (p / 128)
    | .skm _ => t.ring.faulted
    | .spill p => k.spillBad.contains (p / 128)
    | .squad _ => false
  let marks : List Mark := lanes.filterMap fun l => match chk l with
    | .ok x => if poisoned x then some ⟨l, .poison, ea l⟩ else none
    | .error c => some ⟨l, c, ea l⟩
  let absent (j : Nat) : Prop := t.present j = false ∧ ∃ l ∈ lanes, ∃ p, chk l = .ok (.deck p) ∧ p / 128 = j
  s.runs k i → t.memHeld k = false →
    ((∃ m ∈ marks, m.cause ≠ .poison) → exec i s = .next (t.takeTrapFrom k k.pc marks 0))
    ∧ ((∀ m ∈ marks, m.cause = .poison) → (∃ j, absent j) → s.parksOn k i stores absent)
    ∧ ((∀ m ∈ marks, m.cause = .poison) → marks ≠ [] → (∀ j, ¬ absent j) → exec i s = .next (t.takeTrapFrom k k.pc marks 0))

end Sys2Proof.Machine
end

