-- ==== Sys2Proof/Certificates/Slice0/Obligations.lean ====
section
/-! DEFINITION. The statements about the machine, from the numbered rules of spec/. -/

open Sys2Proof Sys2Proof.Machine

/-! ## The machine: fetch, decode, issue, traps, reset -/

/-- Words of the worked example of spec/05_integer.md and of spec/03_control.md decode to the instructions the tables beside them name (R2, R26,
R30 to R34, R47). -/
def Obligations.DecodeSample : Prop :=
  decode [0x3D, 0x04, 0x10, 0x20] = some (.opi .andi 1 0 4, [])
  ∧ decode [0x41, 0x01, 0x51, 0x04] = some (.cmp .i32 .ne 5 4 1, [])
  ∧ decode [0x13, 0x00, 0x00, 0x04] = some (.exit 1, [])
  ∧ decode [0x4B, 0x06, 0x00, 0x00] = some (.redx 0 .crew .add 0 6, [])
  ∧ decode [0x47, 0x08, 0x10, 0x0C] = some (.shfl 0 .xor 1 0 8, [])
  ∧ decode [0x4F, 0x06, 0x05, 0x02] = some (.v2s .lane 4 20 6, [])
  ∧ decode [0x53, 0x15, 0xD0, 0x48] = some (.sli 0x2468 21, [])
  ∧ decode [0x57, 0x15, 0xF0, 0xAC] = some (.slih 0x5678 21, [])
  ∧ decode [0x4D, 0x49, 0x05, 0x00] = some (.s2v .w 0 21 9, [])
  ∧ decode [0x29, 0x81, 0x30, 0x5C] = some (.add .addSatI 7 3 2 1, [])
  ∧ decode [0x20, 0x04, 0x3D, 0x04, 0x10, 0x20] = some (.mov16 1 1, [0x3D, 0x04, 0x10, 0x20])

/-- R26, R27, R47: the bytes of every well-formed instruction decode to it, with every operand at every value its encoding admits. -/
def Obligations.DecodeEncode : Prop := ∀ i : Instr, i.isWord = true → i.wellFormed = true → decode (encode i) = some (i, [])

/-- R26, R27: the bytes that decode to an instruction are its encoding, so no bit of a legal word is ignored and no two words share a meaning. -/
def Obligations.EncodeDecode : Prop := ∀ (bs : List Byte) (i : Instr) (rest : List Byte),
  decode bs = some (i, rest) → bs = encode i ++ rest ∧ i.wellFormed = true ∧ i.isWord = true

/-- R60: the eligible threads, the issue address as the least of their addresses, and the threads that may execute; no thread is held by a
signature of its own (R274). R44: under an active REP with its set ACTIVE fixed, the threads of that set alone are eligible. -/
def Obligations.IssueAddress : Prop := ∀ k : Crew, k.held = 0 →
  let eligible (l : Nat) : Prop := l < 32 ∧ (k.thread l).live = true ∧
    match k.rep.fixed with
    | none => (k.thread l).yex = false ∧ (k.thread l).rwait = false
    | some set => set.getLsbD l = true
  (∀ a, k.issueAddr = some a ↔
    (∃ l, eligible l ∧ (k.thread l).pcv.toNat = a) ∧ ∀ l, eligible l → a ≤ (k.thread l).pcv.toNat)
  ∧ (k.issueAddr = none ↔ ∀ l, ¬ eligible l)
  ∧ (∀ l < 32, k.active.getLsbD l = true ↔ eligible l ∧ k.issueAddr = some (k.thread l).pcv.toNat)

/-- A step runs the instruction that stands at the issue address of the crew whose turn it is (R26, R60, R63, R64): the bytes at the address,
through the fetch path, decode to i, which is no REP prefix, and no thread is held by a signature; home gives up lines it held for the crew unless
i is a read-modify-write (R253). When the last crew of a boat has had its turn, the boat's members are looked at again (R68). Without a turn, the
next input or event takes effect; without one, the clocks advance. The order of turns, inputs and clocks is the model's (log 2), as is the fetch
path's answer from a held translation (log 6). -/
def Obligations.StepRunsDecoded : Prop := ∀ s : State,
  (∀ id rest k a p, s.issueQ = id :: rest →
    let s1 := ({ s with issueQ := rest, cur := some id } : State).settle id
    let h : Crew := { k with held := 0, lastIssue := (s1.cycles k.core).toNat, passed := 0 }
    s1.crew? id = some k → k.mayIssue = true → k.rep.active = false → (∀ v ∈ k.cv, v.sigs = []) → h.issueAddr = some a →
    s1.fetchAt h a = .ok p →
    (∀ i, decode (s1.deck.readN p 2) = some (i, []) →
      step s = exec i (((s1.unheld h i).setCrew { h with rep := Rep.idle }).learn h.core h.asid a))
    ∧ (∀ i q, s1.fetchAt h ((a + 2) % 2 ^ 48) = .ok q → (s1.deck.read p).toNat % 2 = 1 →
      decode (s1.deck.readN p 2 ++ s1.deck.readN q 2) = some (i, []) → (∀ st m c, i ≠ .rep st m c) →
      step s = exec i (((s1.unheld h i).setCrew { h with rep := Rep.idle }).learn h.core h.asid a)))
  ∧ (s.issueQ = [] → s.boatOut ≠ [] → step s = .next s.boatDone)
  ∧ (∀ e rest, s.issueQ = [] → s.boatOut = [] → s.inbox = e :: rest → step s = exec e { s with inbox := rest, cur := none })
  ∧ (s.issueQ = [] → s.boatOut = [] → s.inbox = [] → step s = .next s.tick)

/-- R41, R43, R44, R45, R46: a legal REP prefix at the issue address makes the step run the prefix, and in an active REP the step runs its I for the
next repeat, while repeats remain, for a set ACTIVE that stays fixed; an illegal pair is ILLEGAL at the address of I. R64: a fault of the fetch is taken by the threads at the issue
address, with the address of the halfword in TRAP_ADDR: FAR_ACCESS from 2^47 on, PAGE without a translation, PROT without execute permission or on a
privileged page for unprivileged code, FAR_ACCESS where the page does not lie in the deck. The translation a cached entry gives is a free value (log
6). -/
def Obligations.RepeatsAndFetchFaults : Prop :=
  (∀ (s : State) (id : Nat) (rest : List Nat) (k : Crew) (a : Nat) (st : BitVec 2) (m : BitVec 4)
      (c : BitVec 6) (i : Instr), s.issueQ = id :: rest →
    let s1 := ({ s with issueQ := rest, cur := some id } : State).settle id
    let h : Crew := { k with held := 0, lastIssue := (s1.cycles k.core).toNat, passed := 0 }
    let ctl : RepCtl := { step := 2 ^ st.toNat, mask := m, count := c.toNat + 1 }
    s1.crew? id = some k → k.mayIssue = true → (∀ v ∈ k.cv, v.sigs = []) → h.issueAddr = some a →
    s1.fetchInstr h a = .ok (.rep st m c) → s1.fetchInstr h ((a + 4) % 2 ^ 48) = .ok i →
    (repLegal m i = true → k.rep.active = false →
      step s = exec (.rep st m c) (((s1.unheld h (.rep st m c)).setCrew { h with rep := Rep.idle }).learn h.core h.asid a))
    ∧ (repLegal m i = true → k.rep.active = true → k.rep.i.toNat ≤ c.toNat →
      step s = exec i (((s1.unheld h i).setCrew { h with rep := { k.rep with ctl := ctl, fixed := some h.active } }).learn h.core h.asid a))
    ∧ (repLegal m i = false → step s = .next ((s1.setCrew h).trapAt h .illegal h.active ((a + 4) % 2 ^ 48))))
  ∧ ((∀ (s : State) (id : Nat) (rest : List Nat) (k : Crew) (a : Nat) (c : Cause), s.issueQ = id :: rest →
      let s1 := ({ s with issueQ := rest, cur := some id } : State).settle id
      let h : Crew := { k with held := 0, lastIssue := (s1.cycles k.core).toNat, passed := 0 }
      s1.crew? id = some k → k.mayIssue = true → h.issueAddr = some a → s1.fetchAt h a = .error c →
      step s = .next ((s1.setCrew h).trapAt h c h.active a))
    ∧ ∀ (s : State) (k : Crew) (a : Nat),
      (2 ^ 47 ≤ a → s.fetchAt k a = .error .farAccess)
      ∧ (a < 2 ^ 47 → s.translate k.core k.asid a = none → s.fetchAt k a = .error .page)
      ∧ ∀ l, a < 2 ^ 47 → s.translate k.core k.asid a = some l →
        s.fetchAt k a =
          if l.x = false ∨ (l.p = true ∧ s.privileged k = false) then .error .prot
          else if l.tgt ≠ 0 then .error .farAccess
          else .ok (l.frame + a % 2 ^ l.bits))

/-- Every step answers a next state: no instruction and no event stops the machine; and every step keeps every memory in its canonical form
(log 3). -/
def Obligations.MemoriesStayCanonical : Prop := ∀ s : State, s.memWf = true → ∃ t, step s = .next t ∧ t.memWf = true

/-- Every memory is in its canonical form after reset: nothing is listed (what an unlisted address reads as is log 3). -/
def Obligations.ResetMemoriesCanonical : Prop := State.reset.memWf = true

/-- A read of a byte after a write of a run of bytes: the byte written inside the run, the old byte outside it; an unlisted address reads as log 3
says. -/
def Obligations.ReadAfterWrite : Prop := ∀ (m : Memory) (a : Nat) (bs : List Byte) (b : Nat), m.wf = true →
  (m.writeN a bs).wf = true
  ∧ (m.writeN a bs).read b = if a ≤ b ∧ b < a + bs.length then bs.getD (b - a) 0 else m.read b

/-- R337, R374, R375, R397, R401, R416, R420: what reset leaves: no crew, squad, grid or command; DEV_STATE STARTING with no core and no HBM
stack in service and no spare taken; FREQ and CLK_CTL 1,200 MHz; AGE_LIMIT 64; the ring DOWN with BURST 4 and SK_APPLIED 0; every link DOWN
with every transmit wavelength DARK, LOL_THRESH -14 dBm, WAKE_DEPTH 256 and AUTO 1. That there is no crew, that no ring note is held and that a context's
generation is 0 are the model's reset values (log 8). -/
def Obligations.ResetValues : Prop :=
  let s := State.reset
  s.crews = [] ∧ s.squads = [] ∧ s.grids = [] ∧ s.cmds = [] ∧ s.tasks = [] ∧ s.lq = [] ∧ s.events = []
  ∧ s.dev = .starting ∧ s.coresUp = [] ∧ s.hbmUp = 0 ∧ s.spared = false ∧ s.fwOk = false
  ∧ s.clkCtl = 1200 ∧ s.regions.length = 21 ∧ (∀ r ∈ s.regions, r.freq = 1200 ∧ r.cycles = 0) ∧ s.time = 0 ∧ s.schedAge = 64
  ∧ s.ring.state = .down ∧ s.ring.burst = 4 ∧ s.ring.applied = 0 ∧ s.ring.notes = []
  ∧ s.links.length = 32 ∧ (∀ l ∈ s.links, l.state = .down ∧ l.dark = 0xFFFF ∧ l.lit = 0 ∧ l.lolThresh = -14 ∧ l.wakeDepth = 256 ∧ l.auto = true)
  ∧ (∀ a, (s.ctx a).root = 0 ∧ (s.ctx a).trapBase = 0 ∧ (s.ctx a).priv = false ∧ (s.ctx a).gen = 0)

/-! ## Traps and privilege (spec/14_system.md R372 to R382) -/

/-- R378, R380: trap entry at P for the marked threads. In a handler the crew ends with 0x3F00 + c and event 0x10; else, but for PAGE in an
idempotent task (R386), every live thread is saved and sent to the handler, and the crew's trap registers take the marks, the cause of highest
priority, the mode and the REP state; a trap inside an MWAIT sets the monitor entries triggered (R212). R378: the cause of a trap is one that a marked thread raised, and no marked thread raised one of higher
priority. Lookahead windows stay as they are (R39), and the set ACTIVE of a REP is kept for its resumption (R44). -/
def Obligations.TrapEntry : Prop :=
  (∀ (s : State) (k : Crew) (P : Nat) (ms : List Mark) (info : BitVec 15), ms ≠ [] →
    let c := topCause ms
    let mark (l : Nat) := ms.find? (·.lane == l)
    (k.inh = true →
      s.takeTrapFrom k P ms info = (s.endCrew k (some (BitVec.ofNat 14 (0x3F00 + c.code)))).event 0x10 (k.core / 80) k.core 0xFFFF
        [(0x3F00 + c.code, 2), (k.asid.toNat, 2)])
    ∧ (k.inh = false → c ≠ .page ∨ k.task_idem = false ∨ k.task = none →
      ∃ k' : Crew, s.takeTrapFrom k P ms info = (s.dropHold k.id).setCrew k'
        ∧ k' = { k with
            raised := 0, age := 0, passed := 0, lastIssue := (s.cycles k.core).toNat
            mon := match k.wait with
              | some (.mwait _ _) => k.mon.map fun (m : MonEntry) => { m with triggered := true }
              | _ => k.mon
            threads := k'.threads, trapMask := laneSet fun l => (mark l).isSome, cause := BitVec.ofNat 8 c.code, privSave := s.privileged k
            inh := true, trapInfo := info, repSave := BitVec.ofNat 7 (k.rep.i.toNat + if k.rep.active then 64 else 0)
            repFixed := k.rep.fixed, rep := Rep.idle, held := 0, wait := none, waitLanes := 0 }
        ∧ s.privileged k' = true
        ∧ k'.threads.length = k.threads.length
        ∧ ∀ l < k.threads.length, k'.thread l =
            if (k.thread l).live then
              { k.thread l with
                pcvSave := match mark l with
                  | some _ => BitVec.ofNat 64 (if c = .swtrap then (P + 4) % 2 ^ 48 else P)
                  | none => (k.thread l).pcv.zeroExtend 64
                trapTstate := BitVec.ofNat 3 ((if (k.thread l).yex then 1 else 0) + (if (k.thread l).rwait then 2 else 0)
                  + if (mark l).isSome then 4 else 0)
                trapAddr := match mark l with | some x => BitVec.ofNat 64 x.addr | none => 0
                trapTcause := match mark l with | some x => BitVec.ofNat 8 x.cause.code | none => 0
                yex := false, rwait := false
                pcv := BitVec.ofNat 48 (((s.ctx k.asid).trapBase.toNat + 64 * c.code) / 2 * 2) }
            else k.thread l))
  ∧ (∀ ms : List Mark, ms ≠ [] →
    let order : List Cause := [.illegal, .priv, .regBound, .queueFault, .depthLimit, .tankOwned, .ergOwned, .rstackEmpty, .misalign, .farAccess
      , .prot, .page, .poison, .swtrap]
    (∃ m ∈ ms, m.cause = topCause ms) ∧ ∀ m ∈ ms, order.findIdx (· == topCause ms) ≤ order.findIdx (· == m.cause))

/-- R382: TRAP raises SWTRAP for every thread in ACTIVE, with TRAP_INFO the immediate, and does nothing else. -/
def Obligations.TrapInstruction : Prop := ∀ (s : State) (k : Crew) (imm : BitVec 15), s.runs k (.trap imm) →
  exec (.trap imm) s =
    .next ((s.entering k (.trap imm)).takeTrapFrom (k.entering (.trap imm)) k.pc (((List.range 32).filter fun l => k.active.getLsbD l).map fun l => ⟨l, .swtrap, k.instrAddr⟩) imm)

/-- R381: RETT in a handler gives every live thread its saved address, YEX and RWAIT, and the crew its saved REP state, and leaves the handler
and the mode it had; outside a handler it is PRIV, or ILLEGAL for privileged code. A REP goes on for the threads of the set its ACTIVE was fixed to
that stand at the issue address again (R44, R45). -/
def Obligations.TrapReturn : Prop := ∀ (s : State) (k : Crew), s.runs k .rett →
  let e := k.entering .rett
  (k.inh = true →
    ∃ k' : Crew, exec .rett s = .next ((s.bump.setCrew k').settle k.id)
      ∧ k' = { e with
          threads := k'.threads, inh := false, raised := 0, age := 0, passed := 0, lastIssue := (s.cycles k.core).toNat
          rep := { active := k.repSave.getLsbD 6, i := k.repSave.extractLsb' 0 6, ctl := { step := 1, mask := 0, count := 1 }
                   fixed := k'.rep.fixed } }
      ∧ (∀ a, k'.rep.fixed = some a ↔ k.repSave.getLsbD 6 = true ∧ ∃ b, k.repFixed = some b
          ∧ a = b &&& ({ k' with rep := Rep.idle, held := 0 } : Crew).active ∧ a ≠ 0)
      ∧ k'.threads.length = k.threads.length
      ∧ ∀ l < k.threads.length, k'.thread l =
          if (k.thread l).live then
            { e.thread l with
              pcv := BitVec.ofNat 48 ((k.thread l).pcvSave.toNat / 2 * 2), yex := (k.thread l).trapTstate.getLsbD 0
              rwait := (k.thread l).trapTstate.getLsbD 1 }
          else e.thread l)
  ∧ (k.inh = false →
    exec .rett s = .next ((s.entering k .rett).trapAll (k.entering .rett) (if (s.ctx k.asid).priv then .illegal else .priv) k.active))

/-- R372: unprivileged code takes PRIV, with every thread of ACTIVE marked, at TKSV, TKLD, CTXSV, CTXLD, APXS, a stroke of kind 8 or 9, SSR, and GSR
of a register that unprivileged code may not read (R374). R36, R37, R42: an instruction that names a register out of bounds, in either mode where PRIV
does not come first, takes REG_BOUND in the threads it would act on, and does nothing else. Which threads REG_BOUND marks is the model's reading (log
29), as is REG_BOUND for a register that a REP's step has misaligned (log 67). The ten instructions whose own legality depends on the state are left to
their statements. -/
def Obligations.PrivilegeAndBoundTraps : Prop :=
  let privileged (i : Instr) : Prop := match i with
    | .tksv .. | .tkld .. | .ctxsvCrew .. | .ctxsvTiles .. | .ctxsvSquad .. | .ctxldCrew .. | .ctxldTiles .. | .ctxldSquad .. => True
    | .apxsSave .. | .apxsLoad .. | .apxsDrop .. | .skGen .. | .skLaunch .. | .ssr .. | .ssrV .. => True
    | .gsr r _ | .gsrV r _ =>
      r ∈ [SysReg.devState, .devId, .coreId, .schedAge, .lqStat, .clkCtl, .fwState, .ctxAsid, .skmWin, .ctxFlags]
    | _ => False
  (∀ (s : State) (k : Crew) (i : Instr),
    s.curCrew = some k → k.mayIssue = true → k.active ≠ 0 → (s.ctx k.asid).priv = false → k.inh = false → privileged i →
    exec i s = .next (s.trapAll k .priv k.active))
  ∧ (∀ (s : State) (k : Crew) (i : Instr),
    s.curCrew = some k → k.mayIssue = true → k.active ≠ 0 → s.privileged k = true ∨ ¬ privileged i → i.isWord = true →
    (match i with
      | .mma .. | .mmaSet .. | .mmr .. | .mmrSet .. | .movfPutF32 .. | .movfPutI32 .. | .fork .. | .join .. | .spawn .. | .taskend => False
      | _ => True) →
    (uses (s.slots k) k i).inBounds k = false → k.guarded k.active (guardOf i) ≠ 0 →
    exec i s = .next (s.trapAll k .regBound (k.guarded k.active (guardOf i))))

/-! ## Integer, predicate, cross-lane and scalar instructions (spec/05_integer.md) -/

/-- R121, R123, R124, R125: ADD, LOG, SHF and MINMAX write vd in the threads of ACTIVE (R8) and nothing else. -/
def Obligations.AddLogShiftMinmax : Prop := ∀ (s : State) (k : Crew) (g : Guard) (b a d : VCode),
  (∀ f, s.runs k (.add f g b a d) →
    s.writesRegs k (.add f g b a d) (k.guarded k.active g) (k.vnum .vd d) 1 fun l _ =>
      let x := k.operand l .va a
      let y := k.operand l .vb b
      BitVec.ofInt 32 <| match f with
        | .add => x.toInt + y.toInt
        | .sub => x.toInt - y.toInt
        | .addSatI => max (-2 ^ 31) (min (2 ^ 31 - 1) (x.toInt + y.toInt))
        | .subSatI => max (-2 ^ 31) (min (2 ^ 31 - 1) (x.toInt - y.toInt))
        | .addSatN => min (2 ^ 32 - 1) ((x.toNat : Int) + y.toNat)
        | .subSatN => max 0 ((x.toNat : Int) - y.toNat)
        | .adiffI => |x.toInt - y.toInt|
        | .adiffN => |(x.toNat : Int) - y.toNat|)
  ∧ (∀ f, s.runs k (.log f g b a d) →
    s.writesRegs k (.log f g b a d) (k.guarded k.active g) (k.vnum .vd d) 1 fun l _ =>
      let x := k.operand l .va a
      let y := k.operand l .vb b
      match f with
        | .and => x &&& y | .or => x ||| y | .xor => x ^^^ y | .andn => x &&& ~~~y | .orn => x ||| ~~~y
        | .xnor => ~~~(x ^^^ y) | .nand => ~~~(x &&& y) | .nor => ~~~(x ||| y))
  ∧ (∀ f, s.runs k (.shf f g b a d) →
    s.writesRegs k (.shf f g b a d) (k.guarded k.active g) (k.vnum .vd d) 1 fun l _ =>
      let x := k.operand l .va a
      let n := (k.operand l .vb b).toNat
      match f with
        | .shl => if n < 32 then BitVec.ofNat 32 (x.toNat * 2 ^ n) else 0
        | .shrN => if n < 32 then BitVec.ofNat 32 (x.toNat / 2 ^ n) else 0
        | .shrI => BitVec.ofInt 32 (x.toInt / 2 ^ min n 31)
        | .rol => x.rotateLeft (n % 32)
        | .ror => x.rotateRight (n % 32))
  ∧ (∀ f, s.runs k (.minmax f g b a d) →
    s.writesRegs k (.minmax f g b a d) (k.guarded k.active g) (k.vnum .vd d) 1 fun l _ =>
      let x := k.operand l .va a
      let y := k.operand l .vb b
      let c := k.operand l .vd d
      BitVec.ofInt 32 <| match f with
        | .minI => min x.toInt y.toInt
        | .maxI => max x.toInt y.toInt
        | .minN => min (x.toNat : Int) y.toNat
        | .maxN => max (x.toNat : Int) y.toNat
        | .clampI => min (max c.toInt x.toInt) y.toInt
        | .clampN => min (max (c.toNat : Int) x.toNat) y.toNat
        | .absI => |x.toInt|
        | .absSatI => min (2 ^ 31 - 1) |x.toInt|)

/-- R122: MUL and MAD on the exact product; the wide members write the pair vd, vd+1, and MAD adds the old vd or pair. -/
def Obligations.MultiplyAndMultiplyAdd : Prop := ∀ (s : State) (k : Crew) (f : MulOp) (g : Guard) (b a d : VCode),
  let n := if f = .wideI ∨ f = .wideN then 2 else 1
  let product (l : Nat) : Int :=
    let x := k.operand l .va a
    let y := k.operand l .vb b
    match f with
    | .hiI | .satI | .wideI => x.toInt * y.toInt
    | .lo | .hiN | .satN | .wideN => (x.toNat : Int) * y.toNat
  (s.runs k (.mul f g b a d) →
    s.writesRegs k (.mul f g b a d) (k.guarded k.active g) (k.vnum .vd d) n fun l j =>
      match f with
      | .lo => BitVec.ofInt 32 (product l)
      | .hiI | .hiN => (BitVec.ofInt 64 (product l)).extractLsb' 32 32
      | .satI => BitVec.ofInt 32 (max (-2 ^ 31) (min (2 ^ 31 - 1) (product l)))
      | .satN => BitVec.ofInt 32 (max 0 (min (2 ^ 32 - 1) (product l)))
      | .wideI | .wideN => (BitVec.ofInt 64 (product l)).extractLsb' (32 * j) 32)
  ∧ (s.runs k (.mad f g b a d) →
    s.writesRegs k (.mad f g b a d) (k.guarded k.active g) (k.vnum .vd d) n fun l j =>
      let c := k.operand l .vd d
      let old : BitVec 64 := (k.thread l).val l (k.vnum .vd d + 1) ++ c
      match f with
      | .lo => BitVec.ofInt 32 (product l + c.toNat)
      | .hiI | .hiN => (BitVec.ofInt 64 (product l)).extractLsb' 32 32 + c
      | .satI => BitVec.ofInt 32 (max (-2 ^ 31) (min (2 ^ 31 - 1) (product l + c.toInt)))
      | .satN => BitVec.ofInt 32 (max 0 (min (2 ^ 32 - 1) (product l + c.toNat)))
      | .wideI | .wideN => (BitVec.ofInt 64 (product l) + old).extractLsb' (32 * j) 32)

/-- R126 to R130: BIT, BFX, BFI, SEL, OPI and LIH. R131, R132: the 16-bit form, vd := vd op va. -/
def Obligations.BitFieldsAndShortForms : Prop :=
  (∀ (s : State) (k : Crew),
    (∀ f g a d, s.runs k (.bit f g a d) →
      s.writesRegs k (.bit f g a d) (k.guarded k.active g) (k.vnum .vd d) 1 fun l _ =>
        let x := k.operand l .va a
        match f with
          | .popc => BitVec.ofNat 32 ((List.range 32).filter fun j => x.getLsbD j).length
          | .clz => BitVec.ofNat 32 ((List.range 32).findIdx fun j => x.getLsbD (31 - j))
          | .ctz => BitVec.ofNat 32 ((List.range 32).findIdx fun j => x.getLsbD j)
          | .brev => x.reverse
          | .bswap => x.extractLsb' 0 8 ++ x.extractLsb' 8 8 ++ x.extractLsb' 16 8 ++ x.extractLsb' 24 8
          | .cls => BitVec.ofNat 32 ((List.range 31).findIdx fun j => x.getLsbD (30 - j) != x.getLsbD 31))
    ∧ (∀ la b a d,
      let pos (l : Nat) := (k.operand l .vb b).toNat % 32
      let width (l : Nat) := min ((k.operand l .vb b).toNat / 256 % 64) (32 - pos l)
      (∀ f, s.runs k (.bfx la f b a d) →
        s.writesRegs k (.bfx la f b a d) k.active (k.vnum .vd d) 1 fun l _ =>
          let field := (k.operand l .va a).toNat / 2 ^ pos l % 2 ^ width l
          if f = .signed ∧ 0 < width l ∧ 2 ^ (width l - 1) ≤ field then BitVec.ofInt 32 ((field : Int) - 2 ^ width l)
          else BitVec.ofNat 32 field)
      ∧ (s.runs k (.bfi la b a d) →
        s.writesRegs k (.bfi la b a d) k.active (k.vnum .vd d) 1 fun l _ =>
          let mask : Word := BitVec.ofNat 32 ((2 ^ width l - 1) * 2 ^ pos l)
          (k.operand l .vd d &&& ~~~mask) ||| ((k.operand l .va a <<< pos l) &&& mask)))
    ∧ (∀ q g b a d, s.runs k (.sel q g b a d) →
      s.writesRegs k (.sel q g b a d) (k.guarded k.active g) (k.vnum .vd d) 1 fun l _ =>
        if (k.thread l).p.getLsbD q.toNat then k.operand l .va a else k.operand l .vb b)
    ∧ (∀ f imm a d, s.runs k (.opi f imm a d) →
      s.writesRegs k (.opi f imm a d) k.active (k.vnum .vd d) 1 fun l _ =>
        let x := k.operand l .va a
        let c : Word := BitVec.ofInt 32 imm.toInt
        let n := imm.toNat % 32
        match f with
          | .addi => x + c
          | .andi => x &&& c
          | .ori => x ||| c
          | .xori => x ^^^ c
          | .shli => BitVec.ofNat 32 (x.toNat * 2 ^ n)
          | .shriN => BitVec.ofNat 32 (x.toNat / 2 ^ n)
          | .shriI => BitVec.ofInt 32 (x.toInt / 2 ^ n)
          | .muli => x * c)
    ∧ (∀ imm d, s.runs k (.lih imm d) →
      s.writesRegs k (.lih imm d) k.active (k.vnum .vd d) 1 fun _ _ => BitVec.ofNat 32 (imm.toNat * 2 ^ 14)))
  ∧ (∀ (s : State) (k : Crew) (a d : BitVec 5),
    let x (l : Nat) := (k.thread l).val l (k.vnum16 .va a)
    let c (l : Nat) := (k.thread l).val l (k.vnum16 .vd d)
    let holds (i : Instr) (f : Nat → Word) : Prop := s.runs k i → s.writesRegs k i k.active (k.vnum16 .vd d) 1 fun l _ => f l
    let nanOr (l : Nat) (w : Word) : Word := if (f32v (x l)).isNan then 0x7FC00000 else w
    holds (.mov16 a d) x
    ∧ holds (.add16I32 a d) (fun l => c l + x l)
    ∧ holds (.sub16I32 a d) (fun l => c l - x l)
    ∧ holds (.mul16I32 a d) (fun l => c l * x l)
    ∧ holds (.and16 a d) (fun l => c l &&& x l)
    ∧ holds (.or16 a d) (fun l => c l ||| x l)
    ∧ holds (.xor16 a d) (fun l => c l ^^^ x l)
    ∧ holds (.shl16 a d) (fun l => BitVec.ofNat 32 ((c l).toNat * 2 ^ ((x l).toNat % 32)))
    ∧ holds (.shr16N32 a d) (fun l => BitVec.ofNat 32 ((c l).toNat / 2 ^ ((x l).toNat % 32)))
    ∧ holds (.shr16I32 a d) (fun l => BitVec.ofInt 32 ((c l).toInt / 2 ^ ((x l).toNat % 32)))
    ∧ holds (.min16I32 a d) (fun l => BitVec.ofInt 32 (min (c l).toInt (x l).toInt))
    ∧ holds (.max16I32 a d) (fun l => BitVec.ofInt 32 (max (c l).toInt (x l).toInt))
    ∧ holds (.neg16I32 a d) (fun l => -x l)
    ∧ holds (.not16 a d) (fun l => ~~~x l)
    ∧ holds (.addi5 a d) (fun l => c l + BitVec.ofInt 32 a.toInt)
    ∧ holds (.movi5 a d) (fun _ => BitVec.ofInt 32 a.toInt)
    ∧ holds (.s2v16 a d) (fun _ => k.sc (a.toNat + k.stepOf .va false))
    ∧ holds (.add16F32 a d) (fun l => f32r (.sum [f32v (c l), f32v (x l)]))
    ∧ holds (.sub16F32 a d) (fun l => f32r (.sum [f32v (c l), (f32v (x l)).neg]))
    ∧ holds (.mul16F32 a d) (fun l => f32r ((f32v (c l)).mul (f32v (x l))))
    ∧ holds (.min16F32 a d) (fun l => fmin (c l) (x l))
    ∧ holds (.max16F32 a d) (fun l => fmax (c l) (x l))
    ∧ holds (.neg16F32 a d) (fun l => nanOr l (x l) &&& 0x7FFFFFFF ||| (if (x l).getLsbD 31 then 0 else 0x80000000))
    ∧ holds (.abs16F32 a d) (fun l => nanOr l (x l) &&& 0x7FFFFFFF))

/-- R133, R134, R135, R138, R173: the instructions whose result is one predicate of every thread of ACTIVE. R135, R136 to R140: SHFL, REDX, the
ballot, P2V, V2P and S2V; a lane that has exited or was never launched reads 0. R141 to R144, R119: V2S, SOP, SLI, SADDI, SLIH, XSET and XADD act
once on the crew's own scalars and index registers. -/
def Obligations.PredicatesLanesScalars : Prop :=
  (∀ (s : State) (k : Crew) (b a p : BitVec 6),
    (∀ t c, s.runs k (.cmp t c b a p) →
      s.writesPred k (.cmp t c b a p) (p.toNat + k.stepOf .vd false) fun l =>
        let x := k.operand l .va a
        let y := k.operand l .vb b
        let ordered (less same : Bool) : Bool := match c with
          | .eq => same | .ne => !same | .lt => less | .le => less || same | .gt => !less && !same | .ge => !less | .nan => false | .num => true
        match t with
        | .i32 => ordered (decide (x.toInt < y.toInt)) (decide (x = y))
        | .n32 => ordered (decide (x.toNat < y.toNat)) (decide (x = y))
        | .f32 =>
          if (f32v x).isNan || (f32v y).isNan then decide (c = .ne ∨ c = .nan)
          else ordered ((f32v x).lt (f32v y)) (!(f32v x).lt (f32v y) && !(f32v y).lt (f32v x)))
    ∧ (∀ c, s.runs k (.plog c b a p) →
      s.writesPred k (.plog c b a p) (p.toNat + k.stepOf .vd false) fun l =>
        let x := (k.thread l).p.getLsbD (a.toNat + k.stepOf .va false)
        let y := (k.thread l).p.getLsbD (b.toNat + k.stepOf .vb false)
        match c with
          | .pand => x && y | .por => x || y | .pxor => x != y | .pandn => x && !y | .porn => x || !y
          | .pnand => !(x && y) | .pnor => !(x || y) | .pxnor => x == y)
    ∧ (s.runs k (.pmov a p) →
      s.writesPred k (.pmov a p) (p.toNat + k.stepOf .vd false) fun l => (k.thread l).p.getLsbD (a.toNat + k.stepOf .va false))
    ∧ (∀ v, s.runs k (.pset v p) → s.writesPred k (.pset v p) (p.toNat + k.stepOf .vd false) fun _ => decide (v = 1))
    ∧ (∀ t m, s.runs k (.fcls t m a p) →
      s.writesPred k (.fcls t m a p) (p.toNat + k.stepOf .vd false) fun l =>
        let f := match t with | .f32 => Fmt.f32 | .bf16 => Fmt.bf16 | .f16 => Fmt.f16 | .e4m3 => Fmt.e4m3 | .e5m2 => Fmt.e5m2
        m.getLsbD (f.cls ((k.operand l .va a).toNat % 2 ^ f.width)))
    ∧ (∀ t, t ≠ .ballot → s.runs k (.vote t a p) →
      s.writesPred k (.vote t a p) (p.toNat + k.stepOf .vd false) fun _ =>
        let holds (u : Nat) := (k.thread u).p.getLsbD (a.toNat + k.stepOf .va false)
        let on := (List.range 32).filter fun u => k.active.getLsbD u
        match t with
          | .all => decide (∀ u ∈ on, holds u)
          | .any => decide (∃ u ∈ on, holds u)
          | .uni => decide ((∀ u ∈ on, holds u) ∨ ∀ u ∈ on, ¬ holds u)
          | .ballot => false))
  ∧ ((∀ (s : State) (k : Crew),
      let source (u r : Nat) : Word := if (k.thread u).live then (k.thread u).val u r else 0
      (∀ la f b a d, s.runs k (.shfl la f b a d) →
        s.writesRegs k (.shfl la f b a d) k.active (k.vnum .vd d) 1 fun l _ =>
          let lane := match f with
            | .idx => (k.operand l .vb b).toNat % 32
            | .up => if l < b.toNat then l else l - b.toNat
            | .down => if 31 < l + b.toNat then l else l + b.toNat
            | .xor => l ^^^ b.toNat
          source lane (k.vnum .va a))
      ∧ (∀ la f o a d, s.runs k (.redx la f o a d) →
        s.writesRegs k (.redx la f o a d) k.active (k.vnum .vd d) 1 fun l _ =>
          let group := (List.range 32).filter fun u =>
            k.active.getLsbD u && match f with | .crew => true | .four => decide (u / 4 = l / 4) | .scan => decide (u ≤ l)
          redxOp o (group.map fun u => k.operand u .va a))
      ∧ (∀ a d, s.runs k (.vote .ballot a d) →
        s.writesRegs k (.vote .ballot a d) k.active (k.vnum .vd d) 1 fun _ _ =>
          laneSet fun u => k.active.getLsbD u && (k.thread u).p.getLsbD (a.toNat + k.stepOf .va false))
      ∧ (∀ base d, s.runs k (.p2v base d) →
        s.writesRegs k (.p2v base d) k.active (k.vnum .vd d) 1 fun l _ => (k.thread l).p.extractLsb' base.toNat 32)
      ∧ (∀ a base, s.runs k (.v2p a base) →
        s.goesTo k (.v2p a base) s.bump
          (k.mapT fun l t =>
            let w := t.val l (k.vnum .va a)
            if k.active.getLsbD l then { t with p := if base == 0 then t.p.extractLsb' 32 32 ++ w else w ++ t.p.extractLsb' 0 32 } else t))
      ∧ (∀ n sn d, s.runs k (.s2v .w n sn d) →
        s.writesRegs k (.s2v .w n sn d) k.active (k.vnum .vd d) 1 fun _ _ => k.sc sn.toNat)
      ∧ (∀ n sn d, s.runs k (.s2v .pair n sn d) →
        s.writesRegs k (.s2v .pair n sn d) k.active (k.vnum .vd d) 2 fun _ j => k.sc (sn.toNat + j))
      ∧ (∀ n sn d, s.runs k (.s2v .lane n sn d) →
        s.writesRegs k (.s2v .lane n sn d) (k.active &&& (1 <<< n.toNat)) (k.vnum .vd d) 1 fun _ _ => k.sc sn.toNat))
    ∧ (∀ (s : State) (k : Crew),
      let source (u r : Nat) : Word := if (k.thread u).live then (k.thread u).val u r else 0
      let first := ((List.range 32).filter fun u => k.active.getLsbD u).headD 0
      (∀ f n sd v, s.runs k (.v2s f n sd v) →
        s.goesTo k (.v2s f n sd v) s.bump { k with s :=
          match f with
          | .lane => k.s.set sd.toNat (source n.toNat (k.vnum .vd v))
          | .first => k.s.set sd.toNat (source first (k.vnum .vd v))
          | .pair => (k.s.set sd.toNat (source n.toNat (k.vnum .vd v))).set (sd.toNat + 1) (source n.toNat (k.vnum .vd v + 1)) })
      ∧ (∀ f sa sd, s.runs k (.sop f sa sd) →
        let c := k.sc sd.toNat
        let a := k.sc sa.toNat
        let n := a.toNat
        let word (w : Word) := k.s.set sd.toNat w
        let pairs (w : DWord) := (k.s.set (2 * (sd.toNat / 2)) (w.extractLsb' 0 32)).set (2 * (sd.toNat / 2) + 1) (w.extractLsb' 32 32)
        let dc := k.pr (sd.toNat / 2)
        let da := k.pr (sa.toNat / 2)
        s.goesTo k (.sop f sa sd) s.bump { k with s :=
          match f with
          | .smov => word a | .sadd => word (c + a) | .ssub => word (c - a) | .smul => word (c * a)
          | .smulhiI => word ((BitVec.ofInt 64 (c.toInt * a.toInt)).extractLsb' 32 32)
          | .smulhiN => word ((BitVec.ofNat 64 (c.toNat * a.toNat)).extractLsb' 32 32)
          | .sand => word (c &&& a) | .sor => word (c ||| a) | .sxor => word (c ^^^ a) | .sandn => word (c &&& ~~~a)
          | .sshl => word (if n < 32 then BitVec.ofNat 32 (c.toNat * 2 ^ n) else 0)
          | .sshr => word (if n < 32 then BitVec.ofNat 32 (c.toNat / 2 ^ n) else 0)
          | .ssar => word (BitVec.ofInt 32 (c.toInt / 2 ^ min n 31))
          | .sminI => word (BitVec.ofInt 32 (min c.toInt a.toInt)) | .smaxI => word (BitVec.ofInt 32 (max c.toInt a.toInt))
          | .sminN => word (BitVec.ofNat 32 (min c.toNat a.toNat)) | .smaxN => word (BitVec.ofNat 32 (max c.toNat a.toNat))
          | .snot => word (~~~a) | .sneg => word (-a)
          | .spopc => word (BitVec.ofNat 32 ((List.range 32).filter fun j => a.getLsbD j).length)
          | .sclz => word (BitVec.ofNat 32 ((List.range 32).findIdx fun j => a.getLsbD (31 - j)))
          | .sctz => word (BitVec.ofNat 32 ((List.range 32).findIdx fun j => a.getLsbD j))
          | .saddSat => word (BitVec.ofInt 32 (max (-2 ^ 31) (min (2 ^ 31 - 1) (c.toInt + a.toInt))))
          | .ssubSat => word (BitVec.ofInt 32 (max (-2 ^ 31) (min (2 ^ 31 - 1) (c.toInt - a.toInt))))
          | .sseq => word (if c = a then 1 else 0)
          | .ssltI => word (if c.toInt < a.toInt then 1 else 0)
          | .ssltN => word (if c.toNat < a.toNat then 1 else 0)
          | .dmov => pairs da | .dadd => pairs (dc + da) | .dsub => pairs (dc - da) })
      ∧ (∀ imm d, s.runs k (.sli imm d) → s.goesTo k (.sli imm d) s.bump { k with s := k.s.set d.toNat (BitVec.ofInt 32 imm.toInt) })
      ∧ (∀ imm d, s.runs k (.saddi imm d) →
        s.goesTo k (.saddi imm d) s.bump { k with s := k.s.set d.toNat (k.sc d.toNat + BitVec.ofInt 32 imm.toInt) })
      ∧ (∀ imm d, s.runs k (.slih imm d) →
        s.goesTo k (.slih imm d) s.bump { k with s := k.s.set d.toNat (BitVec.ofNat 32 ((k.sc d.toNat).toNat * 2 ^ 15 + imm.toNat)) })
      ∧ (∀ imm n, s.runs k (.xsetImm imm n) →
        s.goesTo k (.xsetImm imm n) s.bump { k with x := k.x.set n.toNat (imm.extractLsb' 0 8) })
      ∧ (∀ r n, s.runs k (.xsetScalar r n) →
        s.goesTo k (.xsetScalar r n) s.bump { k with x := k.x.set n.toNat ((k.sc r.toNat).extractLsb' 0 8) })
      ∧ (∀ imm n, s.runs k (.xadd imm n) →
        s.goesTo k (.xadd imm n) s.bump { k with x := k.x.set n.toNat (k.x.getD n.toNat 0 + imm.extractLsb' 0 8) })))

/-- R43, R44, R46: a REP prefix makes the REP state active at repeat 0, fixes ACTIVE and leaves everything else; the crew issues its I next. R39, R40: after a result
with lookahead n (la > 0) a thread's result stands in a window of n + 1 instructions, and a read inside an open window gives the register's value
or the one before it; outside every window it gives the register's value. -/
def Obligations.RepeatPrefixAndLookahead : Prop :=
  (∀ (s : State) (k : Crew) (step : BitVec 2) (mask : BitVec 4) (count : BitVec 6),
    s.runs k (.rep step mask count) →
      exec (.rep step mask count) s = .next
        { (s.bump.setCrew { k with rep := { active := true, i := 0, ctl := { step := 2 ^ step.toNat, mask := mask, count := count.toNat + 1 }, fixed := some k.active } })
          with issueQ := k.id :: s.issueQ })
  ∧ (∀ (t : Thread) (l r : Nat),
    (t.win.any (·.reg == r) = false → t.val l r = t.v.getD r 0)
    ∧ (∀ e, t.win.find? (·.reg == r) = some e → t.val l r = t.v.getD r 0 ∨ t.val l r = e.old)
    ∧ (∀ (key la : Nat) (w : Word), 0 < la →
      let u := (t.put l r w).opens key la [(r, w)] t
      (∃ e, u.win.find? (·.reg == r) = some e ∧ e.left = la + 1 ∧ e.old = t.v.getD r 0)
      ∧ ∀ q, q ≠ r → u.v.getD q 0 = t.v.getD q 0))

/-! ## Float, conversion and packing instructions (spec/06_float.md) -/

/-- R161, R162, R163, R170: FAR, FFMA, FUN and HOP: one rounding of the exact value. R164, R165: SFU writes the function of the exact value
rounded once (log 22), with the special values of R165 for every input the table of R165 names. -/
def Obligations.FloatArithmetic : Prop :=
  (∀ (s : State) (k : Crew) (g : Guard) (b a d : VCode),
    (∀ f, s.runs k (.far f g b a d) →
      s.writesRegs k (.far f g b a d) (k.guarded k.active g) (k.vnum .vd d) 1 fun l _ =>
        let x := k.operand l .va a
        let y := k.operand l .vb b
        match f with
          | .add => f32r (.sum [f32v x, f32v y])
          | .sub => f32r (.sum [f32v x, (f32v y).neg])
          | .mul => f32r ((f32v x).mul (f32v y))
          | .min => fmin x y
          | .max => fmax x y
          | .copysign => (if (f32v x).isNan then 0x7FC00000 else x) &&& 0x7FFFFFFF ||| (y &&& 0x80000000)
          | .adiff => f32r (Fv.sum [f32v x, (f32v y).neg]).abs)
    ∧ (∀ f, s.runs k (.ffma f g b a d) →
      s.writesRegs k (.ffma f g b a d) (k.guarded k.active g) (k.vnum .vd d) 1 fun l _ =>
        let p := (f32v (k.operand l .va a)).mul (f32v (k.operand l .vb b))
        let c := f32v (k.operand l .vd d)
        f32r <| match f with
          | .fma => .sum [p, c] | .fms => .sum [p, c.neg] | .fnma => .sum [p.neg, c] | .fnms => .sum [p.neg, c.neg])
    ∧ (∀ f, s.runs k (.fun f g a d) →
      s.writesRegs k (.fun f g a d) (k.guarded k.active g) (k.vnum .vd d) 1 fun l _ =>
        let x := k.operand l .va a
        match f, f32v x with
          | _, .nan => 0x7FC00000
          | .fract, .inf _ => 0x7FC00000
          | .sign, .inf neg => if neg then 0xBF800000 else 0x3F800000
          | _, .inf _ => x
          | .floor, .fin neg n e => f32r (.fin neg (roundDiv .rdn neg n e) 1)
          | .ceil, .fin neg n e => f32r (.fin neg (roundDiv .rup neg n e) 1)
          | .trunc, .fin neg n e => f32r (.fin neg (n / e) 1)
          | .rint, .fin neg n e => f32r (.fin neg (roundDiv .rne neg n e) 1)
          | .fract, .fin neg n e =>
            let r := f32r (.sum [.fin neg n e, .ofInt (-((Fv.fin neg n e).toInt .rdn))])
            if n = 0 then 0 else if 0x3F7FFFFF ≤ r.toNat ∧ r.toNat < 0x80000000 then 0x3F7FFFFF else r
          | .sign, .fin neg n _ => if n = 0 then x else if neg then 0xBF800000 else 0x3F800000)
    ∧ (∀ f, s.runs k (.hop f g b a d) →
      s.writesRegs k (.hop f g b a d) (k.guarded k.active g) (k.vnum .vd d) 1 fun l _ =>
        let half (j : Nat) : BitVec 16 :=
          let x := (k.operand l .va a).extractLsb' (16 * j) 16
          let y := (k.operand l .vb b).extractLsb' (16 * j) 16
          let z := (k.operand l .vd d).extractLsb' (16 * j) 16
          let of (t : Fmt) (v : Fv → Fv → Fv → Fv) : BitVec 16 :=
            BitVec.ofNat 16 (t.round .rne (v (t.decode x.toNat) (t.decode y.toNat) (t.decode z.toNat)))
          match f with
          | .addBf => of .bf16 fun x y _ => .sum [x, y] | .subBf => of .bf16 fun x y _ => .sum [x, y.neg]
          | .mulBf => of .bf16 fun x y _ => x.mul y | .fmaBf => of .bf16 fun x y z => .sum [x.mul y, z]
          | .addF16 => of .f16 fun x y _ => .sum [x, y] | .subF16 => of .f16 fun x y _ => .sum [x, y.neg]
          | .mulF16 => of .f16 fun x y _ => x.mul y | .fmaF16 => of .f16 fun x y z => .sum [x.mul y, z]
        half 1 ++ half 0))
  ∧ (∀ (s : State) (k : Crew) (la : BitVec 4) (f : SfuOp) (a d : VCode),
    (s.runs k (.sfu la f a d) →
      s.writesRegs k (.sfu la f a d) k.active (k.vnum .vd d) 1 fun l _ => sfuOp f (k.operand l .va a))
    ∧ (∀ x : Word, (f32v x).isNan → sfuOp f x = 0x7FC00000)
    ∧ (sfuOp f 0 = match f with
        | .rcp => 0x7F800000 | .rsqrt => 0x7F800000 | .sqrt => 0 | .exp2 => 0x3F800000 | .log2 => 0xFF800000 | .sinpi => 0 | .cospi => 0x3F800000
        | .tanh => 0)
    ∧ (sfuOp f 0x80000000 = match f with
        | .rcp => 0xFF800000 | .rsqrt => 0xFF800000 | .sqrt => 0x80000000 | .exp2 => 0x3F800000 | .log2 => 0xFF800000 | .sinpi => 0x80000000
        | .cospi => 0x3F800000 | .tanh => 0x80000000)
    ∧ (sfuOp f 0x7F800000 = match f with
        | .rcp => 0 | .rsqrt => 0 | .sqrt => 0x7F800000 | .exp2 => 0x7F800000 | .log2 => 0x7F800000 | .sinpi => 0x7FC00000 | .cospi => 0x7FC00000
        | .tanh => 0x3F800000)
    ∧ (sfuOp f 0xFF800000 = match f with
        | .rcp => 0x80000000 | .rsqrt => 0x7FC00000 | .sqrt => 0x7FC00000 | .exp2 => 0 | .log2 => 0x7FC00000 | .sinpi => 0x7FC00000
        | .cospi => 0x7FC00000 | .tanh => 0xBF800000)
    ∧ (∀ (x : Word) (n e : Nat), f32v x = .fin true n e → 0 < n → f = .rsqrt ∨ f = .sqrt ∨ f = .log2 → sfuOp f x = 0x7FC00000))

/-- R166 to R169, R171, R172: CVT, ICVT, PACK, UNPK, RENC and RDEC. R158: the residue decoding of an encoded value is the value, over the whole
range of a residue element (R157). -/
def Obligations.ConversionsAndPacking : Prop :=
  (∀ (s : State) (k : Crew),
    (∀ la f fs a d, s.runs k (.cvt la f fs a d) →
      s.writesRegs k (.cvt la f fs a d) k.active (k.vnum .vd d) 1 fun l _ =>
        match f with | .narrow => narrow (s.slot k fs) (k.operand l .va a) | .widen => widen (s.slot k fs) (k.operand l .va a))
    ∧ (∀ la r f a d, s.runs k (.icvt la r f a d) →
      s.writesRegs k (.icvt la r f a d) k.active (k.vnum .vd d) 1 fun l _ =>
        let x := k.operand l .va a
        let toInteger (lo hi : Int) : Word := match f32v x with
          | .nan => 0
          | .inf neg => BitVec.ofInt 32 (if neg then lo else hi)
          | .fin neg n e => BitVec.ofInt 32 (min (max (if neg then -(roundDiv r neg n e : Int) else roundDiv r neg n e) lo) hi)
        match f with
          | .i2f => BitVec.ofNat 32 (Fmt.f32.round r (.ofInt x.toInt))
          | .n2f => BitVec.ofNat 32 (Fmt.f32.round r (.ofInt x.toNat))
          | .f2i => toInteger (-2 ^ 31) (2 ^ 31 - 1)
          | .f2n => toInteger 0 (2 ^ 32 - 1))
    ∧ (∀ f g b a d, s.runs k (.pack f g b a d) →
      s.writesRegs k (.pack f g b a d) (k.guarded k.active g) (k.vnum .vd d) 1 fun l _ =>
        let x := k.operand l .va a
        let y := k.operand l .vb b
        let c := k.operand l .vd d
        let nibbles : BitVec 8 := y.extractLsb' 0 4 ++ x.extractLsb' 0 4
        match f with
          | .p16 => y.extractLsb' 0 16 ++ x.extractLsb' 0 16
          | .p8lo => c.extractLsb' 16 16 ++ y.extractLsb' 0 8 ++ x.extractLsb' 0 8
          | .p8hi => y.extractLsb' 0 8 ++ x.extractLsb' 0 8 ++ c.extractLsb' 0 16
          | .p4b0 => c.extractLsb' 8 24 ++ nibbles
          | .p4b1 => c.extractLsb' 16 16 ++ nibbles ++ c.extractLsb' 0 8
          | .p4b2 => c.extractLsb' 24 8 ++ nibbles ++ c.extractLsb' 0 16
          | .p4b3 => nibbles ++ c.extractLsb' 0 24)
    ∧ (∀ la f ix fs a d, s.runs k (.unpk la f ix fs a d) →
      s.writesRegs k (.unpk la f ix fs a d) k.active (k.vnum .vd d) 1 fun l _ =>
        let w := (slotElem (s.slot k fs)).width
        let field := (k.operand l .va a).toNat / 2 ^ (w * (ix.toNat % (32 / w))) % 2 ^ w
        match f with
          | .widen => widen (s.slot k fs) (BitVec.ofNat 32 field)
          | .raw => BitVec.ofNat 32 field
          | .raws => BitVec.ofInt 32 (if 2 * field < 2 ^ w then (field : Int) else field - 2 ^ w))
    ∧ (∀ la f a d, s.runs k (.renc la f a d) →
      s.writesRegs k (.renc la f a d) k.active (k.vnum .vd d) 1 fun l _ =>
        let x := (k.operand l .va a).toInt
        let y := match f with | .plain => x | .sat => min (max x (-8388480)) 8388479
        BitVec.ofNat 32 ((y % 255).toNat + (y % 256).toNat * 2 ^ 8 + (y % 257).toNat * 2 ^ 16))
    ∧ (∀ la f a d, s.runs k (.rdec la f a d) →
      s.writesRegs k (.rdec la f a d) k.active (k.vnum .vd d) 1 fun l _ =>
        let x := k.operand l .va a
        match f with
          | .i32 => BitVec.ofInt 32 (crt x)
          | .r255 => BitVec.ofNat 32 (x.toNat % 256 % 255)
          | .r256 => BitVec.ofNat 32 (x.toNat / 2 ^ 8 % 256)
          | .r257 => BitVec.ofNat 32 (x.toNat / 2 ^ 16 % 512 % 257)))
  ∧ (∀ x : Int, -8388480 ≤ x → x ≤ 8388479 → crt (resEnc x) = x)

/-! ## Control flow (spec/03_control.md) -/

/-- R73, R74, R75, R81: the branches, the indirect jump and SWITCH; A is the issue address. JMPV is stated for even targets and SWITCH for a table
whose words read without a fault. R76, R77, R78: CALL and CALLV push A + 4 onto the return stack of every thread that transfers, the oldest of 16
resident entries going to the spill stack; RET pops it again, refilling from the spill stack. Stated for levels inside the window on lines that are not poisoned, and even targets.
R75, R78, R79: an odd target is MISALIGN at A, RET on an empty stack RSTACK_EMPTY at A, a level beyond the spill window PROT at its address, and one
on a poisoned line POISON there; stated where every thread of ACTIVE has the cause, which then leaves every thread as it was but for the trap entry (R380). -/
def Obligations.BranchesAndCalls : Prop :=
  (∀ (s : State) (k : Crew),
    let A := k.pc
    let rel (from_ : Nat) (d : Int) : Nat := (((from_ : Int) + 2 * d) % 2 ^ 48).toNat
    (∀ d, s.runs k (.bra d) → s.transfers k (.bra d) s.bump k fun _ => rel A d.toInt)
    ∧ (∀ d n p, s.runs k (.brp d n p) →
      s.transfers k (.brp d n p) s.bump k fun l =>
        if (k.thread l).p.getLsbD p.toNat != (n == 1) then rel A d.toInt else A + 4)
    ∧ (∀ d n r, s.runs k (.brs d n r) →
      s.transfers k (.brs d n r) s.bump k fun _ => if (k.sc r.toNat != 0) != (n == 1) then rel A d.toInt else A + 4)
    ∧ (∀ g a, s.runs k (.jmpv g a) →
      let target (l : Nat) : Nat := (k.reg l (k.vnum .va a + 1)).toNat % 2 ^ 16 * 2 ^ 32 + (k.reg l (k.vnum .va a)).toNat
      (∀ l < 32, (k.guarded k.active g).getLsbD l → target l % 2 = 0) →
      s.transfers k (.jmpv g a) s.bump k fun l => if (k.guarded k.active g).getLsbD l then target l else A + 4)
    ∧ (∀ d v (h : Nat) (e : Nat → Nat), s.runs k (.switch d v) →
      let T := rel A d.toInt
      let index (l : Nat) : Nat := (k.reg l (k.vnum .vd v)).toNat
      T % 4 = 0 → s.bump.fetch32 k T = .ok h → h < 65536 →
      (∀ l < 32, k.active.getLsbD l → index l < h → s.bump.fetch32 k ((T + 4 + 4 * index l) % 2 ^ 48) = .ok (e l)) →
      s.transfers k (.switch d v) (s.bump.learn k.core k.asid T) k fun l => if index l < h then rel T (BitVec.ofNat 32 (e l)).toInt else A + 4))
  ∧ ((∀ (s : State) (k : Crew),
      let A := k.pc
      let S := k.spillLen / 256 * 256
      let back : Pc := BitVec.ofNat 48 ((A + 4) / 2 * 2)
      let bad (l level : Nat) : Bool := k.spillBad.contains ((S + 8 * l - 256 * level) / 128)
      let fits (on : Lanes) : Prop := ∀ l < 32, on.getLsbD l → 16 ≤ (k.thread l).rsd.toNat →
        256 * ((k.thread l).rsd.toNat - 15) ≤ S ∧ bad l ((k.thread l).rsd.toNat - 15) = false
      let pushed (on : Lanes) : Crew :=
        { k.mapT (fun l t => if on.getLsbD l then { t with rs := (back :: t.rs).take 16, rsd := t.rsd + 1 } else t) with
          spill := (((List.range 32).filter fun l => on.getLsbD l).filter fun l => decide (16 ≤ (k.thread l).rsd.toNat)).foldl (fun g l =>
            g.writeN (S + 8 * l - 256 * ((k.thread l).rsd.toNat - 15)) (leBytes 8 ((k.thread l).rs.getD 15 0).toNat)) k.spill }
      (∀ d, s.runs k (.call d) → fits k.active →
        s.transfers k (.call d) s.bump (pushed k.active) fun _ => (((A : Int) + 2 * d.toInt) % 2 ^ 48).toNat)
      ∧ (∀ g a, s.runs k (.callv g a) →
        let on := k.guarded k.active g
        let target (l : Nat) : Nat := (k.reg l (k.vnum .va a + 1)).toNat % 2 ^ 16 * 2 ^ 32 + (k.reg l (k.vnum .va a)).toNat
        fits on → (∀ l < 32, on.getLsbD l → target l % 2 = 0) →
        s.transfers k (.callv g a) s.bump (pushed on) fun l => if on.getLsbD l then target l else A + 4)
      ∧ (∀ g, s.runs k (.ret g) →
        let on := k.guarded k.active g
        (∀ l < 32, on.getLsbD l → (k.thread l).rsd ≠ 0) →
        (∀ l < 32, on.getLsbD l → 16 < (k.thread l).rsd.toNat →
          256 * ((k.thread l).rsd.toNat - 16) ≤ S ∧ bad l ((k.thread l).rsd.toNat - 16) = false) →
        s.transfers k (.ret g) s.bump
          (k.mapT fun l t =>
            if on.getLsbD l then
              { t with
                rs := t.rs.drop 1 ++ if 16 < t.rsd.toNat then
                  [BitVec.ofNat 48 (leNat (k.spill.readN (S + 8 * l - 256 * (t.rsd.toNat - 16)) 8))] else []
                rsd := t.rsd - 1 }
            else t)
          fun l => if on.getLsbD l then ((k.thread l).rs.getD 0 0).toNat else A + 4))
    ∧ (∀ (s : State) (k : Crew),
      let A := k.pc
      let S := k.spillLen / 256 * 256
      let lanes := (List.range 32).filter fun l => k.active.getLsbD l
      let bad (l level : Nat) : Bool := k.spillBad.contains ((S + 8 * l - 256 * level) / 128)
      let traps (i : Instr) (c : Cause) (addr : Nat → Nat) : Prop :=
        exec i s = .next ((s.entering k i).takeTrapFrom (k.entering i) A (lanes.map fun l => ⟨l, c, addr l⟩) 0)
      let pushAt (l : Nat) : Nat := 0xFFF800000000 + S + 8 * l - 256 * ((k.thread l).rsd.toNat - 15)
      let popAt (l : Nat) : Nat := 0xFFF800000000 + S + 8 * l - 256 * ((k.thread l).rsd.toNat - 16)
      (∀ a, s.runs k (.jmpv 7 a) → (∀ l ∈ lanes, (k.reg l (k.vnum .va a)).toNat % 2 = 1) → traps (.jmpv 7 a) .misalign fun _ => A)
      ∧ (∀ a, s.runs k (.callv 7 a) → (∀ l ∈ lanes, (k.reg l (k.vnum .va a)).toNat % 2 = 1) → traps (.callv 7 a) .misalign fun _ => A)
      ∧ (s.runs k (.ret 7) → (∀ l ∈ lanes, (k.thread l).rsd = 0) → traps (.ret 7) .rstackEmpty fun _ => A)
      ∧ (∀ d, s.runs k (.call d) → (∀ l ∈ lanes, 16 ≤ (k.thread l).rsd.toNat ∧ S < 256 * ((k.thread l).rsd.toNat - 15)) →
        traps (.call d) .prot pushAt)
      ∧ (s.runs k (.ret 7) → (∀ l ∈ lanes, 16 < (k.thread l).rsd.toNat ∧ S < 256 * ((k.thread l).rsd.toNat - 16)) →
        traps (.ret 7) .prot popAt)
      ∧ (∀ d, s.runs k (.call d) →
        (∀ l ∈ lanes, 16 ≤ (k.thread l).rsd.toNat ∧ 256 * ((k.thread l).rsd.toNat - 15) ≤ S ∧ bad l ((k.thread l).rsd.toNat - 15) = true) →
        traps (.call d) .poison pushAt)
      ∧ (s.runs k (.ret 7) →
        (∀ l ∈ lanes, 16 < (k.thread l).rsd.toNat ∧ 256 * ((k.thread l).rsd.toNat - 16) ≤ S ∧ bad l ((k.thread l).rsd.toNat - 16) = true) →
        traps (.ret 7) .poison popAt)))

/-- R62, R82, R83: REFUSE makes the threads of ACTIVE wait where they stand, and YIELD excludes them past it; then the state settles (R62). R62,
R82: when no thread of a crew with live threads is eligible, YEX ends in every thread, or, where none is set, the REFUSE at the lowest address
completes for the threads that wait there; no operation pends (R275). R84, R115: EXIT and TASKEND end the threads of ACTIVE: they leave LIVE,
their return stacks and region flags, and their entries of the pending table; the others advance, and then the state settles (R62, R85). -/
def Obligations.ThreadFlow : Prop :=
  ((∀ (s : State) (k : Crew),
      (s.runs k .refuse →
        ∃ k' : Crew, exec .refuse s = .next ((s.bump.setCrew k').settle k.id)
          ∧ k' = { k with
              threads := k'.threads, rep := k.repAfter, loads := (k.entering .refuse).loads, raised := 0, age := 0, passed := 0
              lastIssue := (s.cycles k.core).toNat }
          ∧ k'.threads.length = k.threads.length
          ∧ ∀ l < k.threads.length, k'.thread l =
              { k.thread l with rwait := (k.thread l).rwait || k.active.getLsbD l, yex := k.yexAfter l, win := (k'.thread l).win })
      ∧ (∀ g, s.runs k (.yield g) →
        ∃ k' : Crew, exec (.yield g) s = .next ((s.bump.setCrew k').settle k.id)
          ∧ k' = { k with
              threads := k'.threads, rep := k.repAfter, loads := k.loadsAfter (.yield g) (k.entering (.yield g)).loads, raised := 0, age := 0, passed := 0
              lastIssue := (s.cycles k.core).toNat }
          ∧ k'.threads.length = k.threads.length
          ∧ ∀ l < k.threads.length, k'.thread l =
              { k.thread l with pcv := k.pcAfter (.yield g) l, yex := (k.guarded k.active g).getLsbD l || k.yexAfter l, win := (k'.thread l).win }))
    ∧ (∀ (s : State) (k : Crew),
      s.crew? k.id = some k → k.ended = false → k.liveSet ≠ 0 → k.issueAddr = none → (∀ v ∈ k.cv, v.pend = false) → k.threads.length = 32 →
      ((∃ l < 32, (k.thread l).live ∧ (k.thread l).yex) →
        s.settle k.id = s.setCrew (k.mapT fun _ t => { t with yex := false }))
      ∧ (∀ a, (∀ l < 32, (k.thread l).live → (k.thread l).yex = false) →
        (∃ l < 32, (k.thread l).live ∧ (k.thread l).pcv.toNat = a) → (∀ l < 32, (k.thread l).live → a ≤ (k.thread l).pcv.toNat) →
        (∀ l < 32, (k.thread l).live → (k.thread l).rwait) →
        s.settle k.id = s.setCrew (k.mapT fun _ t =>
          if t.live && t.pcv.toNat == a then { t with pcv := BitVec.ofNat 48 ((a + 4) / 2 * 2), rwait := false } else t))))
  ∧ (∀ (s : State) (k : Crew),
    let leaves (i : Instr) (on : Lanes) : Prop :=
      ∃ k' : Crew,
        exec i s = .next (({ s.bump.setCrew k' with
            pending := s.pending.filter fun p => !(p.crew == k.id && on.getLsbD p.lane) } : State).settle k.id)
        ∧ k' = { k with
            threads := k'.threads, rep := k.repAfter, loads := k.loadsAfter i (k.entering i).loads, raised := 0, age := 0, passed := 0
            lastIssue := (s.cycles k.core).toNat }
        ∧ k'.threads.length = k.threads.length
        ∧ ∀ l < k.threads.length, k'.thread l =
            (if on.getLsbD l then
              { k.thread l with
                pcv := k.pcAfter i l, live := false, rs := [], rsd := 0, inreg := none, yex := k.yexAfter l, win := (k'.thread l).win }
            else { k.thread l with pcv := k.pcAfter i l, yex := k.yexAfter l, win := (k'.thread l).win })
    (∀ g, s.runs k (.exit g) → leaves (.exit g) (k.guarded k.active g))
    ∧ (s.runs k .taskend → k.task.isSome → leaves .taskend k.active))

/-- R384, R385: CREND and CREND_S end the crew with the 14 bits of their code; HALT advances, halts the crew with its code and sends event 0x11
with the code and the ASID. R84, R85, R104, R113, R236, R350, R384: what the end of a crew does: no thread lives, queues and the REP state are empty,
its grid takes the end code unless it has one, its running task drains and is normal where there is no code, its entries of the pending table go,
barriers of its squad that wait for all need one crew less, its loads still to be performed stay, and no memory changes. -/
def Obligations.CrewEndsAndHalts : Prop :=
  (∀ (s : State) (k : Crew),
    (∀ c, s.runs k (.crend c) → exec (.crend c) s = .next ((s.entering k (.crend c)).endCrew (k.entering (.crend c)) (some c)))
    ∧ (∀ d, s.runs k (.crendS d) → 
      exec (.crendS d) s = .next ((s.entering k (.crendS d)).endCrew (k.entering (.crendS d)) (some ((k.sc d.toNat).extractLsb' 0 14))))
    ∧ (∀ imm, s.runs k (.halt imm) →
      ∃ k' : Crew, exec (.halt imm) s = .next (((s.bump.setCrew { k' with haltCode := some imm }).haltCrew k.id).event 0x11 (k.core / 80) k.core 0xFFFF
          [(imm.toNat, 2), (k.asid.toNat, 2)])
        ∧ k.movedFrom (k.entering (.halt imm)) k' (.halt imm) (s.cycles k.core).toNat))
  ∧ (∀ (s : State) (k : Crew) (code : Option (BitVec 14)), s.crew? k.id = some k →
    let t := s.endCrew k code
    (∃ k', t.crew? k.id = some k' ∧ k'.ended = true ∧ k'.liveSet = 0 ∧ k'.wait = none ∧ k'.rep = Rep.idle ∧ k'.loads = k.loads ∧ k'.q = List.replicate 6 []
        ∧ k'.s = k.s ∧ k'.id = k.id)
    ∧ (∀ g ∈ s.grids, g.handle = k.grid → { g with endCode := if g.endCode = none then code else g.endCode } ∈ t.grids)
    ∧ (∀ e ∈ s.tasks, k.task = some (e.die, e.entry) → e.state = .running → { e with state := .draining, normal := decide (code = none) } ∈ t.tasks)
    ∧ (∀ e ∈ t.tasks, k.task = some (e.die, e.entry) → e.state ≠ .running)
    ∧ (∀ q ∈ s.squads, q.id = k.squad →
        { q with bars := q.bars.map fun (b : Bar) => if b.isOpen = true ∧ b.all = true then { b with need := b.need - 1 } else b } ∈ t.squads)
    ∧ (∀ p ∈ t.pending, p.crew ≠ k.id)
    ∧ s.sameMemory t ∧ t.cmds = s.cmds ∧ t.writes = s.writes)

/-! ## Work creation and the scheduler (spec/04_work.md) -/

/-- R103, R107 to R109: LAUNCH and FORK below depth 10 with an aligned record in a translated deck page: the launch is pending with the writes its
release covers; LAUNCH goes on with its reply outstanding, and FORK, in an E7COMPAT grid, waits. The pending launch is read once its lines are present
and those writes performed: a refusal is the reply, at which a FORK goes on; else the grid goes to the hub. JOIN replies 0 at once without children in
flight and no launch of the squad pending, and waits otherwise. A squad with a crew in FORK or JOIN whose boat is done and whose launches are resolved
is swapped out while it has children, one suspension for all crews that wait so. R91, R93, R94, R103: a launch that passes its checks takes the next
sequence number; its grid stands in the grid table under that handle, the hardware fields are written into its record, and the crew gets the handle
as its reply; a full table holds the launch. A launch at depth 10 raises DEPTH_LIMIT, a misaligned record MISALIGN, an address outside the deck
FAR_ACCESS, and a record that may not be loaded the trap of its page. What a launch waits for before its record is read, and the handles' start at 1,
are the model's readings (log 24, 17). -/
def Obligations.LaunchForkJoin : Prop :=
  (∀ (s : State) (k : Crew) (r : Reply) (a : BitVec 6) (off : Nat),
    let t := s.bump
    let va := (k.pr a.toNat).toNat
    let now := (s.cycles k.core).toNat
    let launch (fork : Bool) : PendingLaunch :=
      { crew := k.id, squad := k.squad, core := k.core, asid := k.asid, off := off, depth := (k.sc 7 + 1).toNat % 256, parent := k.grid, reply := r
        fork := fork, after := t.orderedIds k.id }
    let pending (fork : Bool) (k' : Crew) : State :=
      ({ (t.releases k false).setCrew k' with launches := s.launches ++ [launch fork] } : State).resolveLaunch (launch fork)
    let readable : Prop := k.sc 7 ≠ 10 ∧ va % 256 = 0 ∧ va < 2 ^ 47 ∧ t.checkPage k .load va = .ok (.deck off)
    let traps (i : Instr) : Prop :=
      let trap (c : Cause) : State := (s.entering k i).trapAt (k.entering i) c k.active va
      (k.sc 7 = 10 → exec i s = .next ((s.entering k i).trapAll (k.entering i) .depthLimit k.active))
      ∧ (k.sc 7 ≠ 10 → va % 256 ≠ 0 → exec i s = .next (trap .misalign))
      ∧ (k.sc 7 ≠ 10 → va % 256 = 0 → 2 ^ 47 ≤ va → exec i s = .next (trap .farAccess))
      ∧ (k.sc 7 ≠ 10 → va % 256 = 0 → va < 2 ^ 47 → ∀ c, t.checkPage k .load va = .error c → exec i s = .next (trap c))
    (s.runs k (.launch r a) → traps (.launch r a)) ∧ (s.runs k (.fork r a) → s.e7 k = true → traps (.fork r a))
    ∧ (s.runs k (.launch r a) → readable →
      ∃ k', exec (.launch r a) s = .next (pending false k') ∧ k.movedFrom (k.await r) k' (.launch r a) now)
    ∧ (s.runs k (.fork r a) → s.e7 k = true → readable →
      ∃ k', exec (.fork r a) s = .next (pending true k') ∧ (k.await r).stopped k' (.fork r a) k.active (.join r 0 none) now)
    ∧ (s.runs k (.join r) → s.e7 k = true →
      (s.childrenOf k.squad = 0 → (∀ p ∈ s.launches, p.squad ≠ k.squad) →
        ∃ k', exec (.join r) s = .next ((t.setCrew k').replyTo k.id r 0) ∧ k.movedFrom k k' (.join r) now)
      ∧ (s.childrenOf k.squad ≠ 0 ∨ (∃ p ∈ s.launches, p.squad = k.squad) → s.stops k (.join r) t (k.await r) (.join r 0 none))))
  ∧ (∀ (s : State) (p : PendingLaunch),
    let ready : Prop := s.present (p.off / 128) = true ∧ s.present (p.off / 128 + 1) = true ∧ ∀ w ∈ s.writes, w.id ∈ p.after → w.done = true
    let u : State := { s with launches := s.launches.erase p }
    let record := s.deck.readN p.off 256
    let refused := u.refusal p.core p.asid record (u.poisoned (p.off / 128) || u.poisoned (p.off / 128 + 1))
    (¬ ready → s.resolveLaunch p = s)
    ∧ (ready → ∀ code, refused = some code →
      let reply : DWord := BitVec.ofNat 64 (2 ^ 63 + code)
      (p.fork = false → s.resolveLaunch p = u.replyTo p.crew p.reply reply)
      ∧ (∀ c, p.fork = true → s.crew? p.crew = some c → s.resolveLaunch p = u.wakes (c.reply p.reply reply)))
    ∧ (ready → refused = none →
      s.resolveLaunch p = u.launchGrid (u.mkGrid p.core p.asid record p.off p.depth p.parent (some p.squad)) (some p.crew) p.reply p.fork))
  ∧ (∀ (s : State) (q : Squad),
    let crews := s.crews.filter fun c => c.squad == q.id && !c.ended
    (∃ c ∈ crews, c.inJoin = true) → (∀ p ∈ s.launches, p.squad ≠ q.id) → (∀ c ∈ crews, c.performing = false ∧ c.id ∉ s.issueQ) →
    s.childrenOf q.id ≠ 0 →
      s.suspendSquad q
        = ({ s with crews := s.crews.map fun (c : Crew) => if c.squad == q.id then c.joins (s.childrenOf q.id) else c } : State).swapOut q.id)
  ∧ (∀ (s : State) (g : Grid) (id : Nat) (r : Reply),
    (s.grids.length < 4096 →
      let h : DWord := BitVec.ofNat 64 (s.gridIndex + 4096 * ((s.gridSeq + 1) % 2 ^ 51))
      let t := s.launchGrid g (some id) r false
      let written := (s.agentWriteN (g.recOff + 0xC1) (leBytes 1 g.depth)).agentWriteN (g.recOff + 0xC8) (leBytes 8 g.parent.toNat)
      t = ({ written with
          gridSeq := s.gridSeq + 1, lqCount := s.lqCount + 1, grids := s.grids ++ [{ g with handle := h, since := s.time.toNat }] } : State).replyTo id r h
        ∧ (∀ c ∈ s.grids, c.handle.toNat % 4096 ≠ s.gridIndex))
    ∧ (4096 ≤ s.grids.length →
      s.launchGrid g (some id) r false = { s with held := s.held ++ [{ grid := g, crew := some id, reply := r, fork := false }] }))

/-- R33, R104: WAITC runs to its end at once: its crew goes on with the reply pair scoreboarded and the wait pending, in the counter form for every
8-aligned address in squad memory, the deck or stroke memory that passes the checks of a load (R196), in the handle form for every handle. The counter
form takes the trap of its checks for any other address, and FAR_ACCESS for an address in the spill window. That it goes on although the counter's
line is poisoned, or its stroke memory in FAULT, is the model's choice (log 71). -/
def Obligations.WaitcCompletes : Prop := ∀ (s : State) (k : Crew) (r : Reply) (b a : BitVec 6),
  let va := (k.pr a.toNat).toNat
  let target := (k.pr b.toNat).toNat
  let now := (s.cycles k.core).toNat
  let spill : Prop := va % 8 = 0 ∧ 0xFFF800000000 ≤ va ∧ va < 0xFFFC00000000
  let pending (on : WaitcOn) : Crew := { k.await r with waitc := k.waitc ++ [⟨on, r⟩] }
  let traps (c : Cause) : State := (s.entering k (.waitcCounter r b a)).trapAt (k.entering (.waitcCounter r b a)) c k.active va
  (s.runs k (.waitcCounter r b a) →
    (∀ off, s.bump.check k .load 8 8 va = .ok (.deck off) →
      ∃ k', exec (.waitcCounter r b a) s = .next (s.bump.setCrew k').pollWaitc
        ∧ k.movedFrom (pending (.deck off target)) k' (.waitcCounter r b a) now)
    ∧ (∀ off, s.bump.check k .load 8 8 va = .ok (.squad off) →
      ∃ k', exec (.waitcCounter r b a) s = .next (s.bump.setCrew k').pollWaitc
        ∧ k.movedFrom (pending (.squad off target)) k' (.waitcCounter r b a) now)
    ∧ (∀ off, s.bump.check k .load 8 8 va = .ok (.skm off) →
      ∃ k', exec (.waitcCounter r b a) s = .next (s.bump.setCrew k').pollWaitc
        ∧ k.movedFrom (pending (.skm off target)) k' (.waitcCounter r b a) now)
    ∧ (∀ c, ¬ spill → s.bump.check k .load 8 8 va = .error c → exec (.waitcCounter r b a) s = .next (traps c))
    ∧ (spill → exec (.waitcCounter r b a) s = .next (traps .farAccess)))
  ∧ (s.runs k (.waitcHandle r a) →
    ∃ k', exec (.waitcHandle r a) s = .next (s.bump.setCrew k').pollWaitc
      ∧ k.movedFrom (pending (.handle (k.pr a.toNat))) k' (.waitcHandle r a) now)

/-- R104: a pending WAITC is met as soon as its counter, read as a load of its crew reads it, reaches the target, and the reply is the value; a handle
is met with 0 once no grid in flight of the crew's context has it. A counter on an absent line is not read. That a counter on a poisoned line is read as
its bytes stand is the model's choice (log 71). -/
def Obligations.WaitForCounterOrGrid : Prop :=
  (∀ (u : State) (c : Crew) (r : Reply) (off n : Nat),
    let value := leNat (u.overlay false c 32 off (u.deck.readN off 8))
    u.waitcMet c ⟨.deck off n, r⟩ = if u.present (off / 128) = true ∧ n ≤ value then some (BitVec.ofNat 64 value) else none)
  ∧ (∀ (u : State) (c : Crew) (r : Reply) (off n : Nat) (q : Squad), u.squad? c.squad = some q →
    let value := leNat (q.mem.readN off 8)
    u.waitcMet c ⟨.squad off n, r⟩ = if n ≤ value then some (BitVec.ofNat 64 value) else none)
  ∧ (∀ (u : State) (c : Crew) (r : Reply) (off n : Nat),
    let value := leNat (u.skm.readN off 8)
    u.waitcMet c ⟨.skm off n, r⟩ = if n ≤ value then some (BitVec.ofNat 64 value) else none)
  ∧ (∀ (u : State) (c : Crew) (r : Reply) (h : DWord),
    ((∀ g ∈ u.grids, g.handle = h → g.asid ≠ c.asid) → u.waitcMet c ⟨.handle h, r⟩ = some 0)
    ∧ ((∃ g ∈ u.grids, g.handle = h ∧ g.asid = c.asid) → u.waitcMet c ⟨.handle h, r⟩ = none))
  ∧ (∀ (u : State) (c : Crew) (w : Waitc) (v : DWord), c.waitc = [w] → u.waitcMet c w = some v →
    u.answered c = { c.reply w.reply v with waitc := [] })

/-- R105, R106: SPAWN starts as many crews as the pool has free contexts and the core free tile slots for (log 72), at most 16 and at most the
count asked, at the entry the table before the launch entry names, and replies with their number; it is a release, and the start of a crew an acquire. An entry table that may not be fetched raises the trap of the fetch. R24, R25, R265, R356: a crew as it starts: 32 live threads at the entry with their
lane in v0, their thread number in v1 and 0 elsewhere, the scalars as given and 0 above, idle REP, convergence, queue and index state, and its
tiles empty unless another context's tag stands on them. That none of its spill cells is poisoned, and that its time since the last issue counts from
its start, are the model's choices (log 68, 11). -/
def Obligations.SpawnCrews : Prop :=
  (∀ (s : State) (k : Crew) (r : Reply) (b a : BitVec 6) (e : BitVec 7) (g : Grid) (entry : Nat),
    let t := s.bump
    s.runs k (.spawn r b a e) → s.spawnIllegal k e = false → s.grid? k.grid = some g → t.spawnEntry k g.entry.toNat e.toNat = .ok (some entry) →
    let contexts := t.poolFree k.core g.n (min (min (k.sc (2 * b.toNat)).toNat 16) (t.tileCrews k.core g.tiles (t.tagOf k)))
    let index := ((s.squad? k.squad).map (·.index)).getD 0
    let scalars (i pc : Nat) : List Word :=
      [k.sc (2 * a.toNat), k.sc (2 * a.toNat + 1), k.sc 2, k.sc 3, k.sc 4, BitVec.ofNat 32 (32 + pc), k.sc 6, k.sc 7
        , BitVec.ofNat 32 i, BitVec.ofNat 32 contexts.length] ++ (List.range 6).map fun j => g.args.getD (2 + j) 0
    let u := contexts.zipIdx.foldl (fun (u : State) p => u.startCrew g k.core (p.1 % 4) (64 + p.1) k.squad (32 + p.1)
      (BitVec.ofNat 48 (entry / 2 * 2)) (scalars p.2 p.1) g.cls index none false) (t.releases k false)
    let v := (u.crews.filter fun c => c.squad == k.squad && c.pool).foldl (fun (v : State) c => v.acquires c) u
    ∃ k', k.movedFrom k k' (.spawn r b a e) (v.cycles k.core).toNat
      ∧ exec (.spawn r b a e) s = .next ((v.setCrew k').replyTo k.id r (BitVec.ofNat 64 contexts.length)))
  ∧ (∀ (s : State) (k : Crew) (r : Reply) (b a : BitVec 6) (e : BitVec 7) (g : Grid) (c : Cause),
    s.runs k (.spawn r b a e) → s.grid? k.grid = some g → s.bump.spawnEntry k g.entry.toNat e.toNat = .error c →
    exec (.spawn r b a e) s = .next ((s.entering k (.spawn r b a e)).trapAll (k.entering (.spawn r b a e)) c k.active))
  ∧ (∀ (s : State) (g : Grid) (core part slot sq idx : Nat) (entry : Pc) (scal : List Word) (cls : RoleClass)
      (cidBase : Nat) (task : Option (Nat × Nat)) (idem : Bool),
    let t := s.startCrew g core part slot sq idx entry scal cls cidBase task idem
    ∃ c : Crew, t.crews = s.crews ++ [c] ∧ c.core = core ∧ c.part = part ∧ c.slot = slot ∧ c.squad = sq ∧ c.asid = g.asid ∧ c.role = cls
      ∧ c.threads.length = 32
      ∧ (∀ l < 32, (c.thread l).live = true ∧ (c.thread l).yex = false ∧ (c.thread l).rwait = false ∧ (c.thread l).pcv = entry
          ∧ (c.thread l).p = 0 ∧ (c.thread l).rsd = 0 ∧ (c.thread l).v.length = g.n
          ∧ ∀ j < g.n, c.reg l j = if j = 0 then BitVec.ofNat 32 l else if j = 1 then BitVec.ofNat 32 (32 * idx + l) else 0)
      ∧ (∀ j < g.m, c.sc j = scal.getD j 0) ∧ c.x = [0, 0, 0, 0] ∧ c.rep = Rep.idle ∧ c.loads = [] ∧ c.spillBad = []
      ∧ c.lastIssue = (s.cycles core).toNat ∧ c.q = List.replicate 6 [] ∧ c.wait = none
      ∧ (∀ n, (c.cvN n).pend = false ∧ (c.cvN n).signed = 0)
      ∧ c.cid = BitVec.ofNat 32 (cidBase % 2 ^ 24 * 256 + (scal.getD 5 0).toNat % 256)
      ∧ (∀ j ∈ c.tileSlots, s.foreign c j = false → t.tile core j = Tile.zero core j (some (g.asid, (s.ctx g.asid).key)))
      ∧ s.sameMemory t)

/-- R110 to R112: TASKQ with an aligned record in a translated deck page, its line present and the writes it releases performed: a record with a
bad FLAGS word is refused with code 4, a full range table holds the crew until an entry frees, and else the task enters the table, READY unless its ranges
conflict with those of an entry of its context, and its id is the reply. A misaligned record raises MISALIGN, an address outside the deck FAR_ACCESS, and
a record that may not be loaded the trap of its page. R113, R114, R386: a READY task of a grid in flight starts on a core of its
die that has room; a drained task whose crew's accesses are performed leaves the table once its counter has been raised, after a normal end, and not
before; then crews held for room go on, and a held entry that conflicts with nothing else becomes READY; TASK_READY moves the PAGEWAIT entry of that id
to READY. The wait for the record and the crew's writes, and the choice of the core, are the model's (log 24, 16), and so are the entry address stored
without bit 0 and bits 63 to 48 and the record read as it stands on a poisoned line (log 69). -/
def Obligations.TaskQueue : Prop :=
  (∀ (s : State) (k : Crew) (r : Reply) (a : BitVec 6) (off : Nat),
    let t := s.bump
    let va := (k.pr a.toNat).toNat
    let die := k.core / 80
    let word (o n : Nat) := leNat (((t.deck.readN off 64).drop o).take n)
    let flags := word 0x38 4
    let bad : Prop := flags % 4 = 3 ∨ 512 ≤ flags ∨ flags / 4 % 64 ≠ 0
    let used := t.tasks.filter (·.die == die)
    let entry := ((List.range 256).find? fun j => !used.any (·.entry == j)).getD 0
    let overlap (b l c m : Nat) : Bool := l != 0 && m != 0 && decide (b < c + m) && decide (c < b + l)
    let conflicts := (t.tasks.filter fun e => e.die == die && e.asid == k.asid
      && (overlap (word 0x20 8) (word 0x28 4) e.wBase e.wLen || overlap (word 0x2C 8) (word 0x34 4) e.rBase e.rLen
        || overlap (word 0x2C 8) (word 0x34 4) e.wBase e.wLen)).map (·.entry)
    let id : DWord := BitVec.ofNat 64 (entry + 256 * die + 1024 * ((s.taskSeq + 1) % 2 ^ 54))
    let trap (c : Cause) : State := (s.entering k (.taskq r a)).trapAt (k.entering (.taskq r a)) c k.active va
    s.runs k (.taskq r a) →
    (va % 64 ≠ 0 → exec (.taskq r a) s = .next (trap .misalign))
    ∧ (va % 64 = 0 → 2 ^ 47 ≤ va → exec (.taskq r a) s = .next (trap .farAccess))
    ∧ (va % 64 = 0 → va < 2 ^ 47 → ∀ c, t.checkPage k .load va = .error c → exec (.taskq r a) s = .next (trap c))
    ∧ (va % 64 = 0 → va < 2 ^ 47 → t.checkPage k .load va = .ok (.deck off) → t.present (off / 128) = true →
    t.coveredDone k.id = true →
      (bad → ∃ k', k.movedFrom k k' (.taskq r a) (s.cycles k.core).toNat
        ∧ exec (.taskq r a) s = .next ((t.setCrew k').replyTo k.id r (BitVec.ofNat 64 (2 ^ 63 + 4))))
    ∧ (¬ bad → 256 ≤ used.length → s.stops k (.taskq r a) t k (.room (.rangeTable die)))
    ∧ (¬ bad → used.length < 256 → ∃ k', k.movedFrom k k' (.taskq r a) (s.cycles k.core).toNat
      ∧ exec (.taskq r a) s = .next
        ((({ t with
            tasks := t.tasks ++ [{
              die := die, entry := entry, id := id, asid := k.asid, grid := k.grid, state := if conflicts.isEmpty then .ready else .held
              conflicts := conflicts, code := BitVec.ofNat 48 (word 0 8 / 2 * 2), arg := BitVec.ofNat 64 (word 0x08 8)
              tile := BitVec.ofNat 64 (word 0x10 8), counter := BitVec.ofNat 64 (word 0x18 8), rBase := word 0x20 8, rLen := word 0x28 4
              wBase := word 0x2C 8, wLen := word 0x34 4, flags := BitVec.ofNat 32 flags, recVa := BitVec.ofNat 64 va, crew := 0
              normal := false, add := none }]
            taskSeq := s.taskSeq + 1 } : State).setCrew k').replyTo k.id r id))))
  ∧ (∀ (s : State) (die entry core : Nat) (e : Task),
    (∀ g part slot, s.tasks.find? (fun (x : Task) => x.die == die && x.entry == entry && x.state == .ready) = some e →
      s.grid? e.grid = some g → core / 80 = die → s.coresUp.contains core = true → s.fits g core 1 = some [(part, slot)] →
      let q := newSquad g s.fresh core 0 true false
      let u := ({ s.bump with squads := s.squads ++ [q] } : State).startCrew g core part slot s.fresh 0 e.code (taskScalars g e)
        (classOf (e.flags.toNat % 4)) (e.tile.toNat % 2 ^ 16) (some (die, entry)) (g.idempotent || e.flags.getLsbD 8)
      exec (.taskStart die entry core) s = .next { u with
        tasks := u.tasks.map fun (x : Task) =>
          if x.die == die && x.entry == entry then { x with state := .running, crew := s.fresh + 1, normal := true } else x })
    ∧ (∀ u raised x, s.tasks.find? (fun (x : Task) => x.die == die && x.entry == entry && x.state == .draining) = some e →
      s.crewWritesDone e.crew = true → s.coveredDone e.crew = true → (s.crew? e.crew).any s.owesAccess = false →
      (if e.normal then s.counterAdd e.asid e.counter.toNat e.add else (s, true, none)) = (u, raised, x) →
      (raised = false → exec (.taskDrained die entry) s = .next { u with
        tasks := u.tasks.map fun (y : Task) => if y.die == die && y.entry == entry then { y with add := x } else y })
      ∧ (raised = true → ∃ t : State, exec (.taskDrained die entry) s = .next t ∧ t = { u.freeRoom (· == .rangeTable die) with tasks := t.tasks }
        ∧ (∀ x ∈ t.tasks, ¬ (x.die = die ∧ x.entry = entry))
        ∧ (∀ x ∈ u.tasks, ¬ (x.die = die ∧ x.entry = entry) →
          (if x.die = die then
            { x with conflicts := x.conflicts.filter (· != entry)
                     state := if x.state = .held ∧ x.conflicts.all (· == entry) = true then .ready else x.state }
          else x) ∈ t.tasks)))
    ∧ (∀ id, exec (.taskReady id) s = .next { s with
        tasks := s.tasks.map fun (x : Task) => if x.id == id && x.state == .pageWait then { x with state := .ready } else x }))

/-- R94, R98, R402, R405: a push into a full launch queue waits until an entry frees; the hub takes the queue's oldest entry, refusing it with event
0x02 or accepting its grid; a launch held for the grid table is accepted when the table has room. R95, R96: the next squad of a grid is admitted onto an
enabled core that has room for its crews, squad memory and tiles, when no producer is in flight; with EARLY also when its producer is wholly admitted.
The choice of the core is the model's (log 16), and so are the order in which held launches are accepted and that their records are read before they
are held (log 70). -/
def Obligations.LaunchArrivals : Prop :=
  (∀ s : State,
    (∀ va asid, exec (.lqPush va asid) s = 
      .next (if s.dev = .failed ∧ s.fwOk = false then s
        else if s.lq.length < 256 then { s with lq := s.lq ++ [(va, asid)] }
        else { s with lqWait := s.lqWait ++ [(va, asid)] }))
    ∧ (∀ va asid rest, s.lq = (va, asid) :: rest →
      let freed (u : State) : State := ({ u with lq := rest ++ u.lqWait.take 1, lqWait := u.lqWait.drop 1 } : State).freeRoom (· == .lq)
      (∀ off, va.toNat % 256 = 0 → s.deckByte 0 asid va.toNat = some off →
        s.present (off / 128) = true → s.present (off / 128 + 1) = true →
        let record := s.deck.readN off 256
        let refused := s.refusal 0 asid record (s.poisoned (off / 128) || s.poisoned (off / 128 + 1))
        (∀ code, refused = some code →
          exec .hostLaunchArrival s = .next (freed (s.event 0x02 4 0 0xFFFF [(va.toNat, 8), (code, 1)])))
        ∧ (refused = none →
          exec .hostLaunchArrival s = .next (freed (s.launchGrid (s.mkGrid 0 asid record off 0 0 none) none 31 false))))
      ∧ (va.toNat % 256 ≠ 0 ∨ s.deckByte 0 asid va.toNat = none →
        exec .hostLaunchArrival s = .next (freed (s.event 0x02 4 0 0xFFFF [(va.toNat, 8), (8, 1)]))))
    ∧ (∀ h rest, s.held = h :: rest → s.grids.length < 4096 →
      let x := ({ s with held := rest } : State).acceptGrid h.grid
      (h.crew = none → exec .gridTableWaitEnd s = .next x.1)
      ∧ (∀ id, h.crew = some id → h.fork = false → exec .gridTableWaitEnd s = .next (x.1.replyTo id h.reply x.2))))
  ∧ (∀ (s : State) (core : Nat) (g : Grid) (places : List (Nat × Nat)) (h : BitVec 64),
    s.grid? h = some g → g.next < g.dimX * g.dimY * g.dimZ → s.coresUp.contains core = true → s.fits g core g.crewsPer = some places →
    ((∀ p ∈ s.grids, p.handle = g.waitOn → p.asid = g.asid → g.waitOn = 0) →
      exec (.squadAdmission h.toNat core) s = .next (s.startSquad g core false places))
    ∧ (∀ p, s.grids.find? (fun p => p.handle == g.waitOn && p.asid == g.asid && g.waitOn != 0) = some p →
      (g.early = false → exec (.squadAdmission h.toNat core) s = .next s)
      ∧ (g.early = true → p.dimX * p.dimY * p.dimZ ≤ p.next →
        exec (.squadAdmission h.toNat core) s = .next (s.startSquad g core false places))))

/-- R85, R89, R90, R97, R108: an ended crew with nothing outstanding leaves its slot, and its squad ends when it was the last; a grid with nothing
left raises its counter and, once that is done, answers its waiters and leaves the table; a squad whose crews are all stopped in WAITC, in a context with a swap area, goes
out while a launch has waited 10 us; a swapped-out squad without children comes back on a core with room. R67 to R69, R117: at a cycle that is a
multiple of 4 a partition's boats are formed anew, every member ready and in one boat, and any two members of a boat have one context, issue address and
REP state and occupy no slice both; a partition issues a boat of the highest class whose members are
all ready, in it first one passed over 16 times, then the one that issued least recently, and the others of the class are passed over; after its
issue a boat keeps the members that are ready at its first member's address; a ready crew that has not issued for AGE_LIMIT cycles rises one class;
ROLE sets the class. The choice of the core, the order of members and of boats that have not issued, when a crew's age counts, and that a squad waits to come
back until its writes are performed, are the model's (log 16, 11, 35, 77). -/
def Obligations.EndsSwapsBoats : Prop :=
  (∀ s : State,
    (∀ id c, s.crew? id = some c → c.ended = true → s.crewWritesDone id = true → s.owesAccess c = false → c.sb = [] →
      (∀ m ∈ s.cmds, m.crew = id → m.number ≠ 0) → (∀ o ∈ s.matops, o.crew ≠ id) →
      ∃ t, exec (.crewResourcesFreed id) s = .next t ∧ t.crews = s.crews.filter (·.id != id)
        ∧ (∀ b ∈ t.boats, id ∉ b.members) ∧ id ∉ t.issueQ ∧ (∀ q ∈ s.squads, q.id ≠ c.squad → q ∈ t.squads)
        ∧ (∀ q ∈ s.squads, q.id = c.squad → q.swapped = [] → (∀ x ∈ s.saved, x.crew.squad ≠ q.id) →
          (∀ x ∈ s.crews, x.squad = q.id → x.id = id) → ∃ q' ∈ t.squads, q'.id = q.id ∧ q'.ended = true)
        ∧ s.sameMemory t ∧ t.grids = s.grids ∧ t.cmds = s.cmds)
    ∧ (∀ (h : BitVec 64) g u x, s.grid? h = some g → s.canRetire g = true → s.counterAdd g.asid g.counter.toNat g.add = (u, false, x) →
      exec (.gridRetirement h.toNat) s = .next (u.setGrid { g with add := x }))
    ∧ (∀ (h : BitVec 64) g u x, s.grid? h = some g → s.canRetire g = true → s.counterAdd g.asid g.counter.toNat g.add = (u, true, x) →
      exec (.gridRetirement h.toNat) s = .next { (u.releaseWaiters g) with
        grids := (u.releaseWaiters g).grids.filter (·.handle != g.handle), squads := (u.releaseWaiters g).squads.filter (·.grid != g.handle) })
    ∧ (∀ sq, (∃ c ∈ s.crews, c.squad = sq ∧ c.ended = false) →
      (∀ c ∈ s.crews, c.squad = sq → c.ended = false → (s.ctx c.asid).swap = true ∧ s.stoppedInWaitc c = true) →
      (∃ g ∈ s.grids, g.next < g.dimX * g.dimY * g.dimZ ∧ g.since + 10000 ≤ s.time.toNat) → exec (.swapOutForRoom sq) s = .next (s.swapOut sq))
    ∧ (∀ sq core q places,
      let normal := q.swapped.filter (!·.pool)
      let pool := q.swapped.filter (·.pool)
      let n := (q.swapped.map (·.n)).getD 0 8
      let contexts := s.poolFree core n pool.length
      s.squad? sq = some q → q.swapped ≠ [] → (∀ c ∈ q.swapped, ∀ w ∈ s.writes, w.crew = some c.id → w.done = true) → s.childrenOf sq = 0 → s.coresUp.contains core = true → q.memLen ≤ s.memFree core →
      (q.swapped.map (·.tileSlots.length)).sum ≤ (s.freeTiles core (q.asid, (s.ctx q.asid).key)).length → s.subsFit core q = true →
      s.placement core n normal.length [] = some places → pool.length ≤ contexts.length →
      let t1 := (normal.zip places).foldl (fun (u : State) x => u.swapCrewIn x.1 core x.2.1 x.2.2) (s.setSquad { q with swapped := [], core := core })
      let t2 := (pool.zip contexts).foldl (fun (u : State) x => u.swapCrewIn x.1 core (x.2 % 4) (64 + x.2)) t1
      exec (.joinResume sq core) s = .next t2.pollWaitc))
  ∧ (∀ s : State,
    (∀ core part, (s.cycles core).toNat % 4 = 0 →
      ∃ bs, exec (.boatFormation core part) s = .next { s with boats := bs ++ s.boats.filter fun b => !(b.core == core && b.part == part) }
        ∧ (∀ b ∈ bs, b.core = core ∧ b.part = part ∧ b.members ≠ [])
        ∧ (∀ id, (∃ b ∈ bs, id ∈ b.members) ↔ ∃ c ∈ s.crews, c.id = id ∧ c.core = core ∧ c.part = part ∧ s.ready c = true)
        ∧ ∀ b ∈ bs, ∃ cs : List Crew, b.members = cs.map (·.id) ∧ (∀ c ∈ cs, c ∈ s.crews)
          ∧ cs.Pairwise fun o c => ∀ x, s.crew? o.id = some x →
              let slice (y : Crew) (n : Nat) : Prop := ∃ j < 4, (s.issuePoint y).1.active.getLsbD (4 * n + j) = true
              x.asid = c.asid ∧ (s.issuePoint x).1.issueAddr = (s.issuePoint c).1.issueAddr ∧ x.rep.active = c.rep.active ∧ x.rep.i = c.rep.i
              ∧ ∀ n < 8, ¬ (slice x n ∧ slice c n))
    ∧ (∀ core part,
      let can := (s.boats.filter fun b => b.core == core && b.part == part).filter fun b =>
        !b.members.isEmpty && b.members.all fun id => ((s.crew? id).map s.ready).getD false
      can ≠ [] → ∃ b ∈ can,
        (∀ c ∈ can, b.cls ≤ c.cls)
        ∧ (∀ c ∈ can, c.cls = b.cls → 16 ≤ s.passes c → 16 ≤ s.passes b)
        ∧ (∀ c ∈ can, c.cls = b.cls → (16 ≤ s.passes c ↔ 16 ≤ s.passes b) → b.issued ≤ c.issued)
        ∧ ∃ t, exec (.boatIssue core part) s = .next t
          ∧ t = { s.bump with crews := t.crews, boats := t.boats, boatOut := s.boatOut ++ [(core, part)], issueQ := t.issueQ }
          ∧ t.crews = (s.crews.map fun (c : Crew) =>
              if can.any fun x => x.cls == b.cls && x != b && x.members.contains c.id then { c with passed := c.passed + 1 } else c)
          ∧ ∃ order, t.issueQ = s.issueQ ++ order ∧ order.Perm b.members)
    ∧ (let address (id : Nat) : Option Nat := (s.crew? id).bind fun c => (s.issuePoint c).1.issueAddr
      ∃ t : State, s.boatDone = t ∧ t = { s with boatOut := [], boats := t.boats }
        ∧ (∀ b ∈ s.boats, b.ran = false → b.members ≠ [] → b ∈ t.boats)
        ∧ ∀ b ∈ s.boats, b.ran = true → ∀ first rest, b.members = first :: rest →
          let kept := b.members.filter fun id => ((s.crew? id).map s.ready).getD false && address id == address first
          kept ≠ [] → { b with ran := false, members := kept } ∈ t.boats)
    ∧ (∀ c ∈ s.crews, (s.region (c.core / 20)).stopped = false → { c with age := if s.ready c then c.age + 1 else 0 } ∈ s.ages.crews)
    ∧ (∀ id c, s.crew? id = some c → s.ready c = true → s.schedAge ≤ c.age →
      c.raised < (match c.role with | .loader => 0 | .storer => 1 | .computer => 2) →
      exec (.agePromotion id) s = .next (s.setCrew { c with raised := c.raised + 1, age := 0 }))
    ∧ (∀ k imm, s.runs k (.role imm) → s.goesTo k (.role imm) s.bump { k with role := imm }))

/-! ## System registers, service calls, pre-emption, clocks and start-up (spec/14_system.md) -/

/-- R374, R375, R377, R379, R397: GSR and CYC write the register's 64 bits, by its fields, to a scalar pair once per crew, or for a thread register
to a vector pair of every thread of ACTIVE; a write-only register reads 0. R374, R390, R400: SSR passes its instruction and writes the register as
its row says: SCHED_AGE clamped, a CTX_ROOT or SKM_WIN outside its limits ignored, TRAP_BASE without its low ten bits, requests acted on, read-only
registers left. A push into a full launch queue waits (R402). FW_STATE, fused values and TIME are as logs 7, 8 and 19 say; that PCV_SAVE keeps all 64
bits written is log 74, and that DEV_STATE's FREQ is that of the reading core's region log 55. -/
def Obligations.SystemRegisters : Prop :=
  (∀ (s : State) (k : Crew),
    let bit (b : Bool) : Nat := if b then 1 else 0
    let x := s.ctx k.asid
    let toPair (i : Instr) (d : Nat) (w : DWord) : Prop :=
      s.goesTo k i s.bump { k with s := (k.s.set d (w.extractLsb' 0 32)).set (d + 1) (w.extractLsb' 32 32) }
    let value (r : SysReg) : DWord := match r with
      | .devState => BitVec.ofNat 64 ((match s.dev with | .starting => 0 | .reduced => 1 | .full => 2 | .failed => 3) + bit s.spared * 2 ^ 2
          + bit s.fwOk * 2 ^ 3 + s.coresUp.length * 2 ^ 8 + s.hbmUp.toNat * 2 ^ 17 + (s.region (k.core / 20)).freq.toNat * 2 ^ 32)
      | .devId => BitVec.ofNat 64 (0x0940 + Config.stepping.toNat * 2 ^ 16 + Config.packageId.toNat * 2 ^ 24)
      | .coreId => BitVec.ofNat 64 (k.core + k.part * 2 ^ 9 + k.slot * 2 ^ 11)
      | .schedAge => BitVec.ofNat 64 s.schedAge
      | .genRaise | .preemptReq | .lqPush | .taskReady => 0
      | .lqStat => BitVec.ofNat 64 (s.lq.length + s.lqCount.toNat * 2 ^ 32)
      | .clkCtl => s.clkCtl.zeroExtend 64
      | .fwState => BitVec.ofNat 64 (bit s.fwEcdsa + bit s.fwLms * 2 + bit s.fwAcc * 4 + s.fwVer.toNat * 2 ^ 16)
      | .trapCause => BitVec.ofNat 64 (k.cause.toNat + bit k.privSave * 2 ^ 8 + bit k.inh * 2 ^ 9)
      | .trapMask => k.trapMask.zeroExtend 64
      | .trapInfo => k.trapInfo.zeroExtend 64
      | .repSave => k.repSave.zeroExtend 64
      | .trapScr0 => k.scr.getD 0 0 | .trapScr1 => k.scr.getD 1 0 | .trapScr2 => k.scr.getD 2 0 | .trapScr3 => k.scr.getD 3 0
      | .tankInfo => k.tankInfo
      | .ctxAsid => k.asid.zeroExtend 64
      | .ctxRoot => x.root | .trapBase => x.trapBase | .skmWin => x.skmWin | .ctxKey => x.key.zeroExtend 64
      | .ctxFlags => BitVec.ofNat 64 (bit x.priv + bit x.swap * 2)
      | .pcvSave | .trapAddr | .trapTcause | .trapTstate => 0
    (∀ r d, s.runs k (.gsr r d) → toPair (.gsr r d) d.toNat (value r))
    ∧ (∀ d, s.runs k (.cyc d) → toPair (.cyc d) d.toNat (s.region (k.core / 20)).cycles)
    ∧ (∀ d, s.runs k (.cycTime d) → toPair (.cycTime d) d.toNat s.time)
    ∧ (∀ r v, s.runs k (.gsrV r v) →
      s.writesRegs k (.gsrV r v) k.active (k.vnum .vd v) 2 fun l j =>
        let t := k.thread l
        let w : DWord := match r with
          | .pcvSave => t.pcvSave | .trapAddr => t.trapAddr | .trapTcause => t.trapTcause.zeroExtend 64
          | .trapTstate => t.trapTstate.zeroExtend 64 | _ => 0
        w.extractLsb' (32 * j) 32))
  ∧ (∀ (s : State) (k : Crew),
    (∀ r d, s.runs k (.ssr r d) → r ≠ .lqPush ∨ s.lq.length < 256 →
      ∃ k', k.movedFrom k k' (.ssr r d) (s.cycles k.core).toNat ∧
        let u := s.bump.setCrew k'
        let v : DWord := k.sc (d.toNat + 1) ++ k.sc d.toNat
        let n := v.toNat
        let x := u.ctx k.asid
        exec (.ssr r d) s = .next (match r with
          | .schedAge => { u with schedAge := min 1023 (max 8 n) }
          | .genRaise => if n < 2 ^ 12 then u.raiseGen (BitVec.ofNat 12 n) else u
          | .preemptReq =>
            if 2 ^ 18 ≤ n ∨ 320 ≤ n % 2 ^ 9 then u
            else if n / 2 ^ 16 = 0 then u.preempt (n % 2 ^ 9) (n / 2 ^ 9 % 2 ^ 7)
            else if n / 2 ^ 16 = 1 then u.release (n % 2 ^ 9) (n / 2 ^ 9 % 2 ^ 7)
            else u
          | .lqPush => { u with lq := u.lq ++ [(v.extractLsb' 0 48, v.extractLsb' 48 12)] }
          | .clkCtl => if 1200 ≤ n % 2 ^ 16 ∧ n % 2 ^ 16 ≤ 2100 ∧ n % 2 ^ 16 % 100 = 0 then { u with clkCtl := v.extractLsb' 0 16 } else u
          | .taskReady => { u with
              tasks := u.tasks.map fun (e : Task) => if e.id == v && e.state == .pageWait then { e with state := .ready } else e }
          | .repSave => (match u.crew? k.id with | none => u | some c => u.setCrew { c with repSave := v.extractLsb' 0 7 })
          | .trapScr0 => u.setScr k.id 0 v | .trapScr1 => u.setScr k.id 1 v | .trapScr2 => u.setScr k.id 2 v | .trapScr3 => u.setScr k.id 3 v
          | .ctxRoot => if n % 2 ^ 16 = 0 then u.setCtx { x with root := v } else u
          | .trapBase => u.setCtx { x with trapBase := BitVec.ofNat 64 (n / 1024 * 1024) }
          | .skmWin => if n < 2 ^ 45 ∧ n / 2 ^ 22 ≤ 2 ^ 22 - n % 2 ^ 22 then u.setCtx { x with skmWin := v } else u
          | .ctxKey => u.setCtx { x with key := v.extractLsb' 0 42 }
          | .ctxFlags => u.setCtx { x with priv := v.getLsbD 0, swap := v.getLsbD 1 }
          | .devState | .devId | .coreId | .lqStat | .fwState | .trapCause | .trapMask | .trapInfo | .tankInfo | .ctxAsid | .pcvSave
          | .trapAddr | .trapTcause | .trapTstate => u))
    ∧ (∀ d, s.runs k (.ssr .lqPush d) → 256 ≤ s.lq.length → s.stops k (.ssr .lqPush d) s.bump k (.room .lq))
    ∧ (∀ r v, s.runs k (.ssrV r v) →
      s.goesTo k (.ssrV r v) s.bump (k.mapT fun l t =>
        let w : DWord := k.reg l (k.vnum .vd v + 1) ++ k.reg l (k.vnum .vd v)
        if k.active.getLsbD l then
          match r with
          | .pcvSave => { t with pcvSave := w }
          | .trapTstate => { t with trapTstate := w.extractLsb' 0 3 }
          | _ => t
        else t)))

/-- R387, R388: SVCALL with a 128-aligned reply line in a translated deck page and room in the queue queues its request and replies with its
sequence number; that what it releases is performed before it issues is the model's reading (log 24). A full queue holds it until the service kernel has
taken a request. SVWAIT replies with word 0 at once when DONE is set, and else waits for a write of the line; woken, it replies with word 0 as it then
reads. Each raises the trap of its line's check, and SVWAIT POISON on a poisoned line; on an absent line SVWAIT waits. The service kernel takes
the oldest request, whose room page requests that wait take first (R386). R66, R73, R218: a waiting crew whose instruction completes: its waiting
threads pass it, 4 bytes further, their lookahead windows count it, the crew waits no more, and the end of its wait is an acquire. -/
def Obligations.ServiceCalls : Prop :=
  (∀ (s : State) (k : Crew) (r : Reply) (off : Nat),
    let t := s.bump
    let traps (i : Instr) (c : Cause) (va : Nat) : Prop := exec i s = .next ((s.entering k i).trapAt (k.entering i) c k.active va)
    (∀ b a svc c, s.runs k (.svcall r b a svc) → t.cmdHeld k = false → t.checkLine k .rmw (k.pr b.toNat).toNat = .error c →
      traps (.svcall r b a svc) c (k.pr b.toNat).toNat)
    ∧ (∀ a c, s.runs k (.svwait r a) → t.memHeld k = false → t.checkLine k .load (k.pr a.toNat).toNat = .error c →
      traps (.svwait r a) c (k.pr a.toNat).toNat)
    ∧ (∀ a, s.runs k (.svwait r a) → t.memHeld k = false → t.checkLine k .load (k.pr a.toNat).toNat = .ok off →
      (t.present (off / 128) = true → t.poisoned (off / 128) = true → traps (.svwait r a) .poison (k.pr a.toNat).toNat)
      ∧ (t.present (off / 128) = false → s.stops k (.svwait r a) t k (.park [off / 128])))
    ∧ (∀ va, (va % 128 ≠ 0 → t.checkLine k .load va = .error .misalign ∧ t.checkLine k .rmw va = .error .misalign)
      ∧ (va % 128 = 0 → 2 ^ 47 ≤ va → t.checkLine k .load va = .error .farAccess ∧ t.checkLine k .rmw va = .error .farAccess)
      ∧ (va % 128 = 0 → va < 2 ^ 47 → ∀ a c, t.checkPage k a va = .error c → t.checkLine k a va = .error c))
    ∧ (∀ b a svc, s.runs k (.svcall r b a svc) → t.cmdHeld k = false → t.checkLine k .rmw (k.pr b.toNat).toNat = .ok off →
      s.coveredDone k.id = true
      ∧ (s.requests.length < 4096 →
        s.goesTo k (.svcall r b a svc)
          { t with
            requests := s.requests ++ [[BitVec.ofNat 64 (s.reqSeq.toNat + svc.toNat * 2 ^ 48), k.pr a.toNat, k.pr b.toNat
              , BitVec.ofNat 64 (k.asid.toNat + k.core * 2 ^ 12 + k.slot * 2 ^ 21 + if s.privileged k then 2 ^ 28 else 0), 0, 0, 0, 0]]
            reqSeq := s.reqSeq + 1 }
          (k.reply r (s.reqSeq.zeroExtend 64)))
      ∧ (4096 ≤ s.requests.length → s.stops k (.svcall r b a svc) t k (.room .requests)))
    ∧ (∀ a c, s.runs k (.svwait r a) → t.memHeld k = false → t.checkLine k .load (k.pr a.toNat).toNat = .ok off →
      t.present (off / 128) = true → t.poisoned (off / 128) = false → t.shutAt k .load [(.deck off, 8)] = [] →
      let u := (t.learnAll k [(k.pr a.toNat).toNat]).reads .exact k 32 (.deck off) 8
      let w := BitVec.ofNat 64 (u.locRead k (.deck off) 8)
      u.crew? k.id = some c →
      (w.getLsbD 63 = true →
        ∃ k', exec (.svwait r a) s = .next ((u.setCrew k').acquires k) ∧ k.movedFrom (c.reply r w) k' (.svwait r a) (s.cycles k.core).toNat)
      ∧ (w.getLsbD 63 = false → s.stops k (.svwait r a) u c (.svwait r off false)))
    ∧ (∀ id c c', s.crew? id = some c → c.wait = some (.svwait r off true) →
      let u := s.reads .exact c 32 (.deck off) 8
      u.crew? id = some c' → exec (.svwaitWake id) s = .next (u.wakes (c'.reply r (BitVec.ofNat 64 (u.locRead c (.deck off) 8)))))
    ∧ exec .requestQueueTake s
        = .next ((State.placePages s.pageReqs { s with requests := s.requests.tail }).freeRoom (· == .requests)))
  ∧ (∀ (s : State) (c : Crew),
    ∃ c' : Crew, s.wakes c = (s.setCrew c').acquires c
      ∧ c' = { c with
          threads := c'.threads, wait := none, waitLanes := 0
          loads := c.loads.map fun (p : PendLoad) => if c.waitLanes.getLsbD p.lane then { p with left := p.left - 1 } else p }
      ∧ c'.threads.length = c.threads.length
      ∧ ∀ l < c.threads.length, c'.thread l =
          if c.waitLanes.getLsbD l then
            { c.thread l with
              pcv := BitVec.ofNat 48 (((c.thread l).pcv.toNat + 4) / 2 * 2)
              win := (c.thread l).countWin.win }
          else c.thread l)

/-- R389 to R391: a halt request marks the crews it names, all but the context of R373 under slot 0x7F; a release lets halted crews issue again; the
halt is complete when no named crew stands in an issued boat and no clock stop delays it. R389: a crew at its halt abandons its wait unless it stands
in a BAR or JOIN, keeps its registers, and its threads stop recording; its loads stay to be performed, and a store of it that leaves the writes on their way
is kept for its resumption. R212, R226: a crew that goes on sends out again the stores its halt dropped, and its monitor entries have triggered. What a halt
drops of an instruction of which another thread may have seen a part is the model's reading (log 77). R191, R192: raising a generation adds 1 to it
modulo 2^20, after which only cached translations and walk entries of the new generation match, and at the wrap none; at the wrap the cached ones go. R423:
an event record goes to the next place of the host's ring, 32 bytes with its fields, TIME and the dropped mark, behind the record of a narrowing under way
that precedes it; a full ring drops it. Where the ring stands and how many records it holds are free values (log 8). -/
def Obligations.PreemptionRequests : Prop :=
  (∀ (s : State) (core slot : Nat),
    (core < 320 → exec (.preemptHalt core slot) s = .next { s with crews := s.crews.map fun c =>
      if (c.core == core && !c.ended && (c.slot == slot || (slot == 0x7F && c.slot != 80))) && !c.halted then { c with haltReq := true } else c })
    ∧ (core < 320 → exec (.preemptRelease core slot) s
      = .next ((s.crews.filter fun c => c.core == core && !c.ended && (c.slot == slot || slot == 0x7F)).foldl (fun u c => u.goOn c) s))
    ∧ (320 ≤ core → exec (.preemptHalt core slot) s = .next s ∧ exec (.preemptRelease core slot) s = .next s)
    ∧ ((s.region (core / 20)).stopped = false →
      (∀ c ∈ s.crews, c.core = core → c.haltReq = true → c.ended = false → c.id ∉ s.issueQ ∧ c.performing = false) →
      exec (.preemptionHaltComplete core) s
        = .next ((s.crews.filter fun c => c.core == core && c.haltReq && !c.ended).foldl (fun u c => u.haltCrew c.id) s)))
  ∧ (∀ (s : State) (c : Crew),
    (c.halted = true → s.goOn c =
      c.replay.foldl (fun (u : State) (w : Write) => u.dropShort c.core w.off w.bytes.length)
        { s.setCrew { c with
            haltReq := false, halted := false, haltCode := none, mon := c.mon.map fun (m : MonEntry) => { m with triggered := true }
            replay := [], bankOut := [] } with
          writes := s.writes ++ c.replay.map fun (w : Write) => { w with core := some c.core }
          squads := s.squads.map fun (q : Squad) => if q.id == c.squad then { q with bank := q.bank ++ c.bankOut } else q })
    ∧ (c.halted = false → s.goOn c = s.setCrew { c with haltReq := false }))
  ∧ (∀ (s : State) (id : Nat) (c : Crew), s.crew? id = some c →
    ∃ c', (s.haltCrew id).crew? id = some c' ∧ c'.halted = true
      ∧ c'.loads = c.loads.map (fun (p : PendLoad) => { p with age := 0 })
      ∧ (∀ w ∈ s.writes, w ∈ (s.haltCrew id).writes ∨ w ∈ c'.replay) ∧ (∀ w ∈ (s.haltCrew id).writes, w ∈ s.writes)
      ∧ (∀ w ∈ s.writes, w.crew ≠ some id ∨ w.applied = true → w ∈ (s.haltCrew id).writes)
      ∧ s.sameMemory (s.haltCrew id))
  ∧ (∀ c : Crew,
    ∃ c' : Crew, c.halt = c' ∧ c' = { c with threads := c'.threads, haltReq := false, halted := true, wait := c'.wait, waitLanes := c'.waitLanes }
      ∧ c'.threads.length = c.threads.length
      ∧ (∀ l < c.threads.length, c'.thread l = { c.thread l with inreg := (c.thread l).inreg.map fun r => { r with recd := false } })
      ∧ ((∃ j d, c.wait = some (.bar j d)) ∨ (∃ r n h, c.wait = some (.join r n h)) → c'.wait = c.wait ∧ c'.waitLanes = c.waitLanes)
      ∧ ((∀ j d, c.wait ≠ some (.bar j d)) → (∀ r n h, c.wait ≠ some (.join r n h)) → c'.wait = none ∧ c'.waitLanes = 0))
  ∧ (∀ (s : State) (asid : BitVec 12),
    ∃ t, exec (.genRaise asid) s = .next t ∧ (t.ctx asid).gen = (s.ctx asid).gen + 1 ∧ (t.ctx asid).root = (s.ctx asid).root
      ∧ (∀ b, b ≠ asid → t.ctx b = s.ctx b)
      ∧ ((s.ctx asid).gen = 0xFFFFF → ∀ e ∈ t.tlb, e.asid ≠ asid)
      ∧ ((s.ctx asid).gen ≠ 0xFFFFF → t.tlb = s.tlb)
      ∧ ((s.ctx asid).gen = 0xFFFFF → ∀ e ∈ t.walkCache, e.asid ≠ asid)
      ∧ ((s.ctx asid).gen ≠ 0xFFFFF → t.walkCache = s.walkCache)
      ∧ (∀ core va e, t.tlbHit core asid va = some e → e ∈ s.tlb ∧ (s.ctx asid).gen ≠ 0xFFFFF ∧ e.gen = (s.ctx asid).gen + 1)
      ∧ (∀ die level key x, t.walkHeld die asid level key = some x →
        (s.ctx asid).gen ≠ 0xFFFFF ∧ ∃ e ∈ s.walkCache, e.asid = asid ∧ e.level = level ∧ e.key = key ∧ e.gen = (s.ctx asid).gen + 1)
      ∧ s.sameMemory t)
  ∧ (∀ (s : State) (type die unit link : Nat) (detail : List (Nat × Nat)), s.eventWait = [] →
    let e : HostEvent := {
      type := BitVec.ofNat 8 type, flag := false, die := BitVec.ofNat 3 die, unit := BitVec.ofNat 9 unit, link := BitVec.ofNat 16 link
      time := s.time, detail := BitVec.ofNat 128 (leNat (detail.flatMap fun f => leBytes f.2 f.1)) }
    let here : HostEvent := { e with flag := s.dropped }
    ((∃ t ∈ s.owedTimes, t < s.time.toNat) → s.event type die unit link detail = { s with eventWait := [e] })
    ∧ ((∀ t ∈ s.owedTimes, s.time.toNat ≤ t) →
      s.event type die unit link detail =
        if s.events.length < Config.eventRoom then { s with
          events := s.events ++ [here], eventNo := s.eventNo + 1, dropped := false
          host := s.host.writeN (Config.eventBase + 32 * (s.eventNo % Config.eventRoom)) here.bytes }
        else { s with dropped := true }))
  ∧ (∀ e : HostEvent, e.bytes.length = 32 ∧ e.bytes.getD 0 0 = e.type ∧ e.bytes.getD 1 0 = (if e.flag then 1 else 0)
    ∧ leNat ((e.bytes.drop 2).take 2) = e.die.toNat + 8 * e.unit.toNat ∧ leNat ((e.bytes.drop 4).take 2) = e.link.toNat
    ∧ leNat ((e.bytes.drop 6).take 2) = 0 ∧ leNat ((e.bytes.drop 8).take 8) = e.time.toNat ∧ leNat (e.bytes.drop 16) = e.detail.toNat)

/-- R375, R401, R404, R405: FW_STATE reports the checks of an image, which is accepted when both signatures verify and its version is not below the
fuse; a reset leaves the reset state with that image checked, FAILED without an accepted one, and then neither sweeps nor the ring answer; a part that passes
counts, a part that fails while no spare of it is left makes the device FAILED; a takeover sets SPARED and sends event 0x40, a die takes 4 cores and a stack
one channel at most, and a failed HBM channel leaves the lines poisoned whose data it had not written back. R396 to R400: CLK_CTL takes a multiple of 100
from 1,200 to 2,100 and ignores every other value; in service a region that differs from the request stops, one at a time, and goes on at the requested
frequency; a stretched region runs on. Whether a signature verifies is a free value (log 19), and so are the lines that a channel holds and has not written
back (log 26) and the deck's spare lines (log 82); that a link has no spare (log 82), that host and pool memory outlive a reset (log 54) and the mark
of a stretched period (log 55) are the model's. -/
def Obligations.StartUp : Prop :=
  (∀ (s : State),
    (∀ f : FirmwareImage,
      let ok := Config.ecdsaOk f.bytes && Config.lmsOk f.bytes && decide (Config.rollback.toNat ≤ f.version.toNat)
      exec (.firmwareImage f) s = .next { s with
        fwEcdsa := Config.ecdsaOk f.bytes, fwLms := Config.lmsOk f.bytes, fwAcc := ok, fwVer := if ok then f.version else s.fwVer
        fwOk := s.fwOk || ok })
    ∧ (∀ f : FirmwareImage, ∃ t, exec (.deviceReset f) s = .next t ∧ t.crews = [] ∧ t.squads = [] ∧ t.grids = [] ∧ t.cmds = [] ∧ t.deck = []
        ∧ t.hbm = [] ∧ t.skm = [] ∧ (t.fwOk = true → t.host = s.host) ∧ t.pool = s.pool ∧ t.clkCtl = 1200 ∧ t.ring = State.reset.ring ∧ t.links = State.reset.links
        ∧ (t.fwOk = true ↔ t.dev = .starting) ∧ (t.fwOk = false ↔ t.dev = .failed) ∧ t.fwOk = t.fwAcc)
    ∧ (s.dev = .failed → s.fwOk = false →
      (∀ p, exec (.sweepPacket p) s = .next s) ∧ (∀ n burst alone, exec (.ringInitialisation n burst alone) s = .next s))
    ∧ (s.fwOk = true → s.dev = .starting ∨ s.dev = .reduced →
      let fails (p : TestedPart) : Prop := ∃ t, exec (.partTestComplete p false) s = .next t ∧ t.dev = .failed
      let spared (p : TestedPart) : Prop := exec (.partTestComplete p false) s = .next s.bump
      let onDie (c : Nat) : Nat := (s.spares.filter fun p => match p with
        | .core d => d / 80 == c / 80
        | .deckLine _ | .hbmChannel _ | .laser _ | .coxWaveguide => false).length
      (∀ c, (c < 320 → onDie c < 4 → spared (.core c)) ∧ (320 ≤ c ∨ 4 ≤ onDie c → fails (.core c)))
      ∧ (∀ j, ((∀ n, .hbmChannel n ∈ s.spares → (Config.channelStack n).val ≠ j) → spared (.stack j))
        ∧ (∀ n, .hbmChannel n ∈ s.spares → (Config.channelStack n).val = j → fails (.stack j)))
      ∧ (if Config.deckSpareLeft s.fresh then spared .deck else fails .deck)
      ∧ (if s.ring.standby then fails .ring else spared .ring)
      ∧ (∀ l, fails (.link l)) ∧ fails .last)
    ∧ (∀ c, s.fwOk = true → s.dev = .starting ∨ s.dev = .reduced → c < 320 →
      ∃ t, exec (.partTestComplete (.core c) true) s = .next t ∧ (∀ j, j ∈ t.coresUp ↔ j ∈ s.coresUp ∨ j = c)
        ∧ (s.dev = .starting →
          (t.dev = .reduced ↔ s.hbmUp ≠ 0 ∧ ∃ r < 16, ∀ j < 20, 20 * r + j ∈ t.coresUp)))
    ∧ (let taken (p : SparePart) (number : Nat) : State :=
        ({ s with spared := true, spares := s.spares ++ [p] } : State).event 0x40 4 0 0xFFFF
          [(number, 2), ((match s.dev with | .starting => 0 | .reduced => 1 | .full => 2 | .failed => 3), 1)]
      (∀ j, exec (.spareTakeover (.deckLine j)) s = .next (taken (.deckLine j) (0x2000 + j % 4096)))
      ∧ (∀ j, exec (.spareTakeover (.laser j)) s = .next (if j ∈ s.lasers ∨ .laser j ∈ s.spares then s else taken (.laser j) (0x4000 + j % 4096)))
      ∧ (∀ j,
        ((∃ n, .hbmChannel n ∈ s.spares ∧ Config.channelStack n = Config.channelStack j) → exec (.spareTakeover (.hbmChannel j)) s = .next s)
        ∧ ((∀ n, .hbmChannel n ∈ s.spares → Config.channelStack n ≠ Config.channelStack j) →
          ∃ t : State, exec (.spareTakeover (.hbmChannel j)) s = .next t
            ∧ t = { (taken (.hbmChannel j) (0x3000 + j % 4096)).bump with hbmPoison := t.hbmPoison }
            ∧ ∀ a, a ∈ t.hbmPoison ↔ a ∈ s.hbmPoison ∨ (a / 64 ∈ Config.hbmUnwritten s.fresh j ∧ Config.hbmChannel (a / 64) = j)))
      ∧ (∀ c,
        let onDie := s.spares.filter fun p => match p with
          | .core d => d / 80 == c / 80
          | .deckLine _ | .hbmChannel _ | .laser _ | .coxWaveguide => false
        let u := taken (.core c) (0x1000 + c % 4096)
        (320 ≤ c ∨ 4 ≤ onDie.length → exec (.spareTakeover (.core c)) s = .next s)
        ∧ (c < 320 → onDie.length < 4 →
          exec (.spareTakeover (.core c)) s = .next ((u.crews.filter fun k => k.core == c && !k.ended).foldl (fun u k => u.endCrew k (some 0x3F0A)) u)))))
  ∧ (∀ s : State,
    (∀ mhz : BitVec 64, exec (.clkCtl mhz) s = .next
      (if 1200 ≤ mhz.toNat % 2 ^ 16 ∧ mhz.toNat % 2 ^ 16 ≤ 2100 ∧ mhz.toNat % 2 ^ 16 % 100 = 0 then { s with clkCtl := mhz.extractLsb' 0 16 } else s))
    ∧ (∀ j, s.dev = .full → (s.region j).freq ≠ s.clkCtl → (∀ r ∈ s.regions, r.stopped = false) →
      exec (.regionFrequencyChange j) s = .next { s with regions := s.regions.set j { s.region j with stopped := true } })
    ∧ (∀ j, (s.region j).stopped = true →
      exec (.regionStopEnd j) s = .next { s with regions := s.regions.set j { s.region j with stopped := false, freq := s.clkCtl } })
    ∧ (∀ j, exec (.clockStretch j) s = .next { s with regions := s.regions.set j { s.region j with stretched := true } }))

/-! ## Memory access (spec/07_memory.md R175 to R212, spec/08_ordering.md R232 to R239) -/

/-- R175, R189, R196: what the checks of an access of n bytes (aligned to n) at a virtual address answer, step by step: alignment, the address
space, then the page or the window it lies in. The translation a cached entry gives is a free value (log 6). -/
def Obligations.AccessChecks : Prop := ∀ (s : State) (k : Crew) (a : Acc) (n va : Nat),
  let reads : Bool := a != .store
  let writes : Bool := a == .store || a == .rmw
  let squad := ((s.squad? k.squad).map (·.memLen)).getD 0
  (a ≠ .pres → va % n ≠ 0 → s.check k a n n va = .error .misalign)
  ∧ (a = .pres ∨ va % n = 0 →
    (2 ^ 48 ≤ va ∨ 2 ^ 47 ≤ va ∧ va < 0xFFF000000000 → s.check k a n n va = .error .farAccess)
    ∧ (va < 2 ^ 47 → s.translate k.core k.asid va = none → s.check k a n n va = .error .page)
    ∧ (∀ l, va < 2 ^ 47 → s.translate k.core k.asid va = some l → s.check k a n n va =
        if (l.p = true ∧ s.privileged k = false) ∨ (reads = true ∧ l.r = false) ∨ (writes = true ∧ l.w = false) then .error .prot
        else if l.tgt ≠ 0 then .error .farAccess
        else .ok (.deck (l.frame + va % 2 ^ l.bits)))
    ∧ (0xFFF000000000 ≤ va → va < 0xFFF800000000 → s.check k a n n va =
        if va - 0xFFF000000000 + n ≤ squad then .ok (.squad (va - 0xFFF000000000)) else .error .prot)
    ∧ (0xFFF800000000 ≤ va → va < 0xFFFC00000000 → s.check k a n n va =
        if a ≠ .mon ∧ va - 0xFFF800000000 + n ≤ k.spillLen then .ok (.spill (va - 0xFFF800000000)) else .error .prot)
    ∧ (0xFFFC00000000 ≤ va → va < 2 ^ 48 → s.check k a n n va =
        if writes = false ∧ va - 0xFFFC00000000 + n ≤ 2 ^ 22 then .ok (.skm (va - 0xFFFC00000000)) else .error .prot))
  ∧ (∀ off : Int, s.checkSquad k n off =
      if off % n ≠ 0 then .error .misalign
      else if 0 ≤ off ∧ off + n ≤ squad then .ok (.squad off.toNat) else .error .prot)

/-- R181, R196, R201, R202, R218: an LD or LDS whose threads' accesses are all checked, present and not poisoned, with nothing that home must do first,
has issued: its crew goes on with a pending load in every thread of ACTIVE, which remembers its registers, its location, its lookahead window and the
format asked for. LDA, and any load of the spill window, is performed at its issue. A pending load that is performed writes its bytes, extended to 32
bits by its size, or the words of 8 or 16 bytes, to its registers; where other results stand in the windows of a register it may keep one of those
(log 5). R196: a cause of steps 1 to 6 in some thread traps, with the threads that meet a
poisoned line beside it; an absent line parks the crew; POISON alone traps. R202, R247, R255, R256: what a load of n aligned bytes of the deck gives
a core that has no write of its own under way: the deck's bytes where it holds an EXACT copy that agrees with home, or no copy that serves it and asks no
other format, the rounded word where it asks one, and the widened encoding for a word of a reduced copy that serves it. When a pending load is performed is a free choice (log 9). -/
def Obligations.Loads : Prop :=
  (∀ (s : State) (k : Crew) (z : MSize) (b : BitVec 5) (o v : VCode) (at_ : Nat → Loc),
    let t := s.bump
    let now := (s.cycles k.core).toNat
    let lanes := (List.range 32).filter fun l => k.active.getLsbD l
    let bytes : Nat := match z with | .s8 => 1 | .n8 => 1 | .s16 => 2 | .n16 => 2 | .w32 => 4 | .w64 => 8 | .w128 => 16
    let regs : Nat := match z with | .w64 => 2 | .w128 => 4 | _ => 1
    let ea (l : Nat) : Nat := (k.pr b.toNat + (k.operand l .va o).signExtend 64).toNat
    let off (l : Nat) : Int := (k.pr b.toNat + (k.operand l .va o).signExtend 64).toInt
    let bank (l : Nat) : Nat := ((0xFFF000000000 + off l) % 2 ^ 64).toNat
    let poisoned (x : Loc) : Bool := match x with
      | .deck p => t.poisoned (p / 128) && t.present (p / 128)
      | .skm _ => t.ring.faulted
      | .spill p => k.spillBad.contains (p / 128)
      | .squad _ => false
    let good (addr : Nat → Nat) (chk : Nat → Except Cause Loc) : Prop :=
      t.memHeld k = false ∧ t.shutLines k addr (lanes.map fun l => (l, at_ l)) bytes = []
        ∧ ∀ l ∈ lanes, chk l = .ok (at_ l) ∧ k.collides bytes (l, at_ l) = false ∧ poisoned (at_ l) = false
          ∧ ∀ p, at_ l = .deck p → t.present (p / 128) = true
    let word (x j : Nat) : Word := match z with
      | .s8 => (BitVec.ofNat 8 x).signExtend 32
      | .n8 => (BitVec.ofNat 8 x).zeroExtend 32
      | .s16 => (BitVec.ofNat 16 x).signExtend 32
      | .n16 => (BitVec.ofNat 16 x).zeroExtend 32
      | _ => BitVec.ofNat 32 (x / 2 ^ (32 * j))
    let frame (u : State) : Prop :=
      u = { s with
        crews := u.crews, tlb := u.tlb, walkCache := u.walkCache, dir := u.dir, copies := u.copies, plain := u.plain, notices := u.notices
        msgs := u.msgs, acks := u.acks, counts := u.counts, writes := u.writes, fresh := u.fresh }
      ∧ (∀ line, u.present line = s.present line ∧ u.poisoned line = s.poisoned line)
      ∧ ((u.writes.map fun (w : Write) => { w with known := [], ordered := [], seen := [] })
          = s.writes.map fun (w : Write) => { w with known := [], ordered := [], seen := [] })
      ∧ (u.crews.map fun (c : Crew) => { c with mon := [], wait := none }) = s.crews.map fun (c : Crew) => { c with mon := [], wait := none }
    let pending (i : Instr) (la : Nat) (addr : Nat → Nat) : Prop := ∃ (u : State) (k' : Crew) (key : Nat),
      let ps : List PendLoad := lanes.map fun l => {
        key := key, lane := l, reg := k.vnum .vd v, size := z, loc := at_ l, va := addr l, fmt := (t.asked k (addr l)).1
        upd := (t.asked k (addr l)).2, left := if la = 0 then 0 else la + 1, age := 0 }
      exec i s = .next (u.setCrew k') ∧ frame u ∧ k.movedFrom { k with mon := k'.mon, loads := k.loads ++ ps } k' i now
    let performed (i : Instr) (acquire : Bool) : Prop := ∃ (u : State) (c k' : Crew),
      exec i s = .next (if acquire then (u.setCrew k').acquires k else u.setCrew k') ∧ frame u
        ∧ c = { k with threads := c.threads, mon := c.mon } ∧ k.movedFrom c k' i now
        ∧ k.gets c k.active (k.vnum .vd v) regs fun l => word (u.locReadAt (t.asked k (ea l)).1 k l (at_ l) bytes)
    let spill : Prop := ∃ l ∈ lanes, ∃ p, at_ l = .spill p
    (∀ la, s.runs k (.ld la z b o v) → good ea (fun l => t.check k .load bytes bytes (ea l)) →
      (¬ spill → pending (.ld la z b o v) la.toNat ea) ∧ (spill → performed (.ld la z b o v) false))
    ∧ (∀ c, s.runs k (.lda c z b o v) → good ea (fun l => t.check k .load bytes bytes (ea l)) → performed (.lda c z b o v) true)
    ∧ (∀ la, s.runs k (.lds la z b o v) → good bank (fun l => t.checkSquad k bytes (off l)) → pending (.lds la z b o v) la.toNat bank)
    ∧ (∀ la, s.accessStops k (.ld la z b o v) false ea fun l => t.check k .load bytes bytes (ea l))
    ∧ (∀ c, s.accessStops k (.lda c z b o v) false ea fun l => t.check k .load bytes bytes (ea l))
    ∧ (∀ la, s.accessStops k (.lds la z b o v) false bank fun l => t.checkSquad k bytes (off l))
    ∧ (∀ (u : State) (id : Nat) (p : PendLoad) (x c : Crew), u.crew? id = some x → p.size = z →
      let w := u.reads p.fmt x p.lane p.loc bytes
      let result (j : Nat) : Word := word (w.locReadAt p.fmt x p.lane p.loc bytes) j
      w.crew? id = some c → p.lane < 32 → p.lane < c.threads.length →
      ∃ c', u.performLoad id p = (w.setCrew c').bump
        ∧ c' = { c with threads := c'.threads, loads := c.loads.filter fun y => !(y.key == p.key && y.lane == p.lane) }
        ∧ c'.threads.length = c.threads.length
        ∧ (∀ l < c.threads.length, c'.thread l = { c.thread l with v := (c'.thread l).v, win := (c'.thread l).win })
        ∧ (∀ l r, l ≠ p.lane ∨ r < p.reg ∨ p.reg + regs ≤ r → c'.reg l r = c.reg l r)
        ∧ (∀ j < regs, c'.reg p.lane (p.reg + j) ∈ [result j, c.reg p.lane (p.reg + j)]
          ∨ ∃ e ∈ (c.thread p.lane).win, e.reg = p.reg + j ∧ e.new = some (c'.reg p.lane (p.reg + j)))
        ∧ ∀ j < regs, p.reg + j < (c.thread p.lane).v.length →
          (∀ e ∈ (c.thread p.lane).win, e.reg = p.reg + j → e.key = p.key ∧ e.wrote = false ∧ e.new = none) →
          c'.reg p.lane (p.reg + j) = result j))
  ∧ (∀ (s : State) (k : Crew) (f : SubFmt) (lane p n : Nat), n ∈ [1, 2, 4, 8, 16] → p % n = 0 → (∀ w ∈ s.writes, w.core ≠ some k.core) →
    let home : Prop :=
      (f = .exact ∨ n ≠ 4 ∧ n ≠ 16 → s.loadDeck f k lane p n = leNat (s.deck.readN p n))
      ∧ (f ≠ .exact → n = 4 → s.loadDeck f k lane p 4 = (subWiden f (subRound f (BitVec.ofNat 32 (leNat (s.deck.readN (p / 4 * 4) 4))))).toNat)
    (s.copyOf k.core (p / 128) = none → home)
    ∧ ∀ c, s.copyOf k.core (p / 128) = some c →
      (c.fmt = .exact → c.words = ((List.range 32).map fun j => BitVec.ofNat 32 (leNat (s.deck.readN (p / 128 * 128 + 4 * j) 4))) →
        s.loadDeck f k lane p n = leNat (s.deck.readN p n))
      ∧ (c.fmt ≠ .exact → n = 4 → subRank f ≤ subRank c.fmt → s.loadDeck f k lane p 4 = (subWiden c.fmt (c.words.getD (p / 4 % 32) 0)).toNat)
      ∧ (c.fmt ≠ .exact → subRank c.fmt < subRank f → home)
      ∧ (c.fmt ≠ .exact → n ≠ 4 → n ≠ 16 → s.loadDeck f k lane p n = leNat (s.deck.readN p n)))

/-- R178, R195, R203, R219: a store whose threads' accesses are all checked and present advances its crew, and then puts the low bytes of vt of every
thread of ACTIVE, in lane order, at the address of the thread: a write on its way to home for the deck, a store on its way to the banks in squad
memory, the bytes themselves in the crew's spill. No byte of the deck, HBM, host or pool memory or stroke memory changes. A release lets every thread
of its core read what it covers, at CREW scope those of its crew, and at PKG and POD scope its writes wait at home for those writes. A cause of R196 traps,
and an absent line parks the crew. R178, R181, R182, R183, R203: where a store of
bytes at a checked location goes: a deck store is the last write on its way to home and changes no memory (log 9); a store of a thread to squad memory
stands last on the way to the banks, where it then changes those bytes of the squad's memory alone; a spill store those of the crew's own spill. -/
def Obligations.Stores : Prop :=
  (∀ (s : State) (k : Crew) (z : MSize) (b : BitVec 5) (o v : VCode) (at_ : Nat → Loc),
    let t := s.bump
    let lanes := (List.range 32).filter fun l => k.active.getLsbD l
    let bytes : Nat := match z with | .s8 => 1 | .n8 => 1 | .s16 => 2 | .n16 => 2 | .w32 => 4 | .w64 => 8 | .w128 => 16
    let regs : Nat := match z with | .w64 => 2 | .w128 => 4 | _ => 1
    let ea (l : Nat) : Nat := (k.pr b.toNat + (k.operand l .va o).signExtend 64).toNat
    let off (l : Nat) : Int := (k.pr b.toNat + (k.operand l .va o).signExtend 64).toInt
    let data (l : Nat) : List Byte := ((List.range regs).flatMap fun j => leBytes 4 ((k.thread l).val l (k.vnum .vd v + j)).toNat).take bytes
    let free (x : Loc) : Prop := match x with
      | .deck p => t.present (p / 128) = true ∧ t.poisoned (p / 128) = false
      | .skm _ => False
      | .spill p => p / 128 ∉ k.spillBad
      | .squad _ => True
    let good (chk : Nat → Except Cause Loc) : Prop :=
      t.memHeld k = false ∧ ∀ l ∈ lanes, chk l = .ok (at_ l) ∧ free (at_ l) ∧ k.collides bytes (l, at_ l) = false
    let stores (i : Instr) (release : Option Scope) : Prop := ∃ (u x : State) (c k' : Crew),
      let u' := match release with
        | none => u
        | some sc => u.releases k (sc == Scope.crew)
      let after := if release = some .pkg ∨ release = some .pod then t.orderedIds k.id else []
      u = { t with tlb := u.tlb, walkCache := u.walkCache } ∧ u'.bump.impure k k.active = (x, c)
        ∧ k.movedFrom c k' i (s.cycles k.core).toNat
        ∧ ((∀ l ∈ lanes, (k.thread l).inreg = none) → x = u'.bump ∧ c = k)
        ∧ ∃ w, exec i s = .next w ∧ s.sameMemory w
          ∧ w = lanes.foldl (fun u l => u.locWrite k l (at_ l) (data l) after release.isSome t.fresh) (x.setCrew k')
    (s.runs k (.st z b o v) → good (fun l => t.check k .store bytes bytes (ea l)) → stores (.st z b o v) none)
    ∧ (∀ c, s.runs k (.stl c z b o v) → good (fun l => t.check k .store bytes bytes (ea l)) →
      stores (.stl c z b o v) (some c))
    ∧ (s.runs k (.sts z b o v) → good (fun l => t.checkSquad k bytes (off l)) → stores (.sts z b o v) none)
    ∧ s.accessStops k (.st z b o v) true ea (fun l => t.check k .store bytes bytes (ea l))
    ∧ (∀ c, s.accessStops k (.stl c z b o v) true ea fun l => t.check k .store bytes bytes (ea l))
    ∧ s.accessStops k (.sts z b o v) true (fun l => ((0xFFF000000000 + off l) % 2 ^ 64).toNat) fun l => t.checkSquad k bytes (off l))
  ∧ (∀ (s : State) (k : Crew) (lane p : Nat) (bs : List Byte) (after : List Nat) (rel : Bool) (key : Nat),
    (∃ copies, s.locWrite k lane (.deck p) bs after rel key = { s with
      fresh := s.fresh + 1, copies := copies
      writes := s.writes ++ [{ id := s.fresh, core := some k.core, crew := some k.id, lane := lane, instr := key, off := p, bytes := bs, plus := false
                               after := after, before := s.beforeOf k rel p bs.length key, known := [k.id], ordered := [], shown := false, seen := []
                               bcast := false, applied := false, acks := 0, done := false, turn := 0, old := [] }] })
    ∧ (lane ≠ 32 → s.locWrite k lane (.squad p) bs after rel key = { s with
      fresh := s.fresh + 1
      squads := s.squads.map fun (q : Squad) =>
        if q.id = k.squad then { q with bank := q.bank ++ [{ key := s.fresh, crew := k.id, lane := lane, instr := key, off := p, bytes := bs, age := 0 }] } else q })
    ∧ (∃ crews writes, s.locWrite k 32 (.squad p) bs after rel key = { s with
      crews := crews, writes := writes
      squads := s.squads.map fun (q : Squad) => if q.id = k.squad then { q with mem := q.mem.writeN p bs } else q })
    ∧ (∀ c, s.crew? k.id = some c → s.locWrite k lane (.spill p) bs after rel key = s.setCrew { c with spill := c.spill.writeN p bs })
    ∧ (∀ (sq : Nat) (w : BankWrite), ∃ crews writes, s.performBank sq w = { s with
      crews := crews, writes := writes
      squads := s.squads.map fun (q : Squad) =>
        if q.id = sq then { q with bank := q.bank.filter (·.key != w.key), mem := q.mem.writeN w.off w.bytes } else q })
    ∧ ∀ (g : Region) (a : Nat), (g.writeN p bs).read a = if p ≤ a ∧ a < p + bs.length then bs.getD (a - p) 0 else g.read a)

/-- R195, R204 to R207: ATOM and CAS whose threads' accesses are all checked and present, with nothing of their core before them on the way to their
slices, no BCAST on their lines, no store of their crew on its way to the banks, and for a release the writes it covers performed: the threads'
operations happen one after another in some order (free, log 10), at once where they stand (log 9); each writes OP(old, b), or the new value where
the compare value matches, and the old value goes to vt. A cause of R196 traps, and an absent line parks the crew. -/
def Obligations.Atomics : Prop := ∀ (s : State) (k : Crew) (b : BitVec 5) (o v : VCode) (r : Order) (at_ : Nat → Loc),
  let t := s.bump
  let ea (l : Nat) : Nat := (k.pr b.toNat + (k.operand l .va o).signExtend 64).toNat
  let lanes := (List.range 32).filter fun l => k.active.getLsbD l
  let acquire : Bool := r == .acquire || r == .acqrel
  let release : Bool := r == .release || r == .acqrel
  let register (l j n : Nat) : Nat := leNat ((List.range n).flatMap fun m => leBytes 4 ((k.thread l).val l (k.vnum .vd v + j + m)).toNat)
  let good (n : Nat) : Prop := t.memHeld k = false ∧ (release = true → t.coveredDone k.id = true)
    ∧ (∀ q, t.squad? k.squad = some q → ∀ w ∈ q.bank, w.crew ≠ k.id) ∧ ∀ l ∈ lanes,
      t.check k .rmw n n (ea l) = .ok (at_ l) ∧ k.collides n (l, at_ l) = false
        ∧ (∀ p, at_ l = .spill p → p / 128 ∉ k.spillBad)
        ∧ ∀ p, at_ l = .deck p → t.present (p / 128) = true ∧ t.poisoned (p / 128) = false ∧ (t.dirOf (p / 128)).bcast = false
          ∧ ((t.dirOf (p / 128)).hold = some k.id ∨ (t.dirOf (p / 128)).busy = false ∧ t.sliceWaits k.core (p / 128 * 128) = false)
  let works (i : Instr) (n : Nat) (new : Nat → Nat → Option Nat) : Prop := ∃ (u x : State) (m : Crew) (xs : List Nat) (c c' k' : Crew),
    let u' := if release then (u.dropHold k.id).releases k false else u.dropHold k.id
    let start : State × List (Nat × Nat) := (x.setCrew m, [])
    let done := xs.foldl (fun p l =>
      let w := p.1.readsHome m l (at_ l) n
      let old := w.atomRead m (at_ l) n
      match new l old with
      | some y => (w.atomWrite m l (at_ l) (leBytes n y), (l, old) :: p.2)
      | none => (w.failDrop m (at_ l), (l, old) :: p.2)) start
    u = { t with tlb := u.tlb, walkCache := u.walkCache } ∧ u'.impure k k.active = (x, m) ∧ xs.Perm lanes
      ∧ done.1.crew? k.id = some c ∧ exec i s = .next (if acquire then (done.1.setCrew k').acquires k else done.1.setCrew k')
      ∧ c' = { c with threads := c'.threads } ∧ k.movedFrom c' k' i (s.cycles k.core).toNat
      ∧ c.gets c' k.active (k.vnum .vd v) (n / 4) fun l j => BitVec.ofNat 32 (((done.2.find? (·.1 == l)).map (·.2)).getD 0 / 2 ^ (32 * j))
  (∀ w p, s.runs k (.atom w r p b o v) → good (4 * (w.toNat + 1)) →
    works (.atom w r p b o v) (4 * (w.toNat + 1)) fun l old =>
      let n := 4 * (w.toNat + 1)
      let x := register l 0 (n / 4)
      let signed (y : Nat) : Int := if y < 2 ^ (8 * n - 1) then y else y - 2 ^ (8 * n)
      some (match p with
        | .swap => x
        | .add => (old + x) % 2 ^ (8 * n)
        | .and => old &&& x | .or => old ||| x | .xor => old ^^^ x
        | .minI => if signed x < signed old then x else old
        | .maxI => if signed old < signed x then x else old
        | .minN => if x < old then x else old
        | .maxN => if old < x then x else old
        | .inc => if x ≤ old then 0 else old + 1
        | .dec => if old = 0 ∨ x < old then x else old - 1
        | .addF => (farOp .add (BitVec.ofNat 32 old) (BitVec.ofNat 32 x)).toNat))
  ∧ (∀ z, s.runs k (.cas r z b o v) →
    let n := match z with | .c32 => 4 | .c64 => 8 | .c128 => 16
    good n → works (.cas r z b o v) n fun l old => if old = register l 0 (n / 4) then some (register l (n / 4) (n / 4)) else none)
  ∧ (∀ w p, s.accessStops k (.atom w r p b o v) true ea fun l => t.check k .rmw (4 * (w.toNat + 1)) (4 * (w.toNat + 1)) (ea l))
  ∧ (∀ z, let n := match z with | .c32 => 4 | .c64 => 8 | .c128 => 16
    s.accessStops k (.cas r z b o v) true ea fun l => t.check k .rmw n n (ea l))
  ∧ ∀ (u : State) (lane p : Nat) (bs : List Byte) (n : Nat),
    u.atomRead k (.deck p) n = leNat (u.deck.readN p n)
    ∧ (u.atomWrite k lane (.deck p) bs).deck = u.deck.writeN p bs ∧ (u.atomWrite k lane (.deck p) bs).squads = u.squads
    ∧ (u.atomWrite k lane (.squad p) bs).squads
        = u.squads.map (fun (q : Squad) => if q.id = k.squad then { q with mem := q.mem.writeN p bs } else q)
    ∧ u.sameMemory (u.atomWrite k lane (.squad p) bs) ∧ u.sameMemory (u.atomWrite k lane (.spill p) bs)
    ∧ u.sameMemory (u.failDrop k (.deck p)) ∧ (u.failDrop k (.deck p)).squads = u.squads
    ∧ u.sameMemory (u.readsHome k lane (.deck p) n) ∧ (u.readsHome k lane (.deck p) n).squads = u.squads

/-- R179, R208 to R211: PRES tells present lines and poisoned ones; MON arms the lines of its threads, four at most, else the overflow mark, and
loads the word; MWAIT, with no WAITC pending and no engine command waiting for acceptance, ends at once with 2 on an empty table, 3 after an overflow,
0 when an entry has triggered, and else waits; the crew wakes with 0 on a trigger and with 1 after 16 x imm cycles, and no wake is an acquire; a parked access goes on when its
lines are present and home may handle them. R210: a write that lands triggers the monitors of its line in every crew, and no other. -/
def Obligations.Monitors : Prop :=
  (∀ (s : State) (k : Crew),
    let t := s.bump
    let now := (s.cycles k.core).toNat
    let ea (b : BitVec 5) (o : VCode) (l : Nat) : Nat := (k.pr b.toNat + (k.operand l .va o).signExtend 64).toNat
    (∀ la b o v (at_ : Nat → Loc), s.runs k (.pres la b o v) → t.memHeld k = false →
      (∀ l < 32, k.active.getLsbD l = true → t.check k .pres 1 1 (ea b o l) = .ok (at_ l)) →
      ∃ (u : State) (k' : Crew), u = { t with tlb := u.tlb, walkCache := u.walkCache } ∧ exec (.pres la b o v) s = .next (u.setCrew k')
        ∧ k.moved k' (.pres la b o v) now
        ∧ k.gets k' k.active (k.vnum .vd v) 1 fun l _ => match at_ l with
            | .deck p => (if s.present (p / 128) then 1 else 0) + (if s.poisoned (p / 128) then 2 else 0)
            | _ => 1)
    ∧ (∀ la b o v p l, s.runs k (.mon la b o v) → t.memHeld k = false → k.active = 1#32 <<< l → l < 32 →
      t.check k .mon 4 4 (ea b o l) = .ok (.deck p) → t.present (p / 128) = true → t.poisoned (p / 128) = false →
      k.collides 4 (l, .deck p) = false → t.shutLines k (ea b o) [(l, .deck p)] 4 = [] →
      let armed : Crew :=
        if k.mon.any fun e => e.space == .deck && e.line == p / 128 then k
        else if k.mon.length < 4 then
          { k with mon := k.mon ++ [{ space := .deck, line := p / 128, va := ea b o l / 128 * 128, triggered := false }] }
        else { k with monOvf := true }
      ∃ (u : State) (c k' : Crew), exec (.mon la b o v) s = .next (u.setCrew k') ∧ s.sameMemory u ∧ u.squads = s.squads
        ∧ k.movedFrom c k' (.mon la b o v) now ∧ c = { armed with threads := c.threads, mon := c.mon }
        ∧ ((c.mon.map fun (m : MonEntry) => { m with triggered := false }) = armed.mon.map fun (m : MonEntry) => { m with triggered := false })
        ∧ k.gets c k.active (k.vnum .vd v) 1 (fun _ _ => BitVec.ofNat 32 (u.locReadAt (t.asked k (ea b o l)).1 k l (.deck p) 4)))
    ∧ (∀ la b o v, s.accessStops k (.mon la b o v) false (ea b o) fun l => t.check k .mon 4 4 (ea b o l))
    ∧ (∀ imm d, s.runs k (.mwait imm d) → t.memHeld k = false →
      let ends (code : Word) : Prop := s.goesTo k (.mwait imm d) t { k with s := k.s.set d.toNat code, mon := [], monOvf := false }
      (k.mon = [] → ends 2)
      ∧ (k.mon ≠ [] → k.monOvf = true → ends 3)
      ∧ (k.mon ≠ [] → k.monOvf = false → (∃ m ∈ k.mon, m.triggered = true) → ends 0)
      ∧ (k.mon ≠ [] → k.monOvf = false → (∀ m ∈ k.mon, m.triggered = false) →
        s.stops k (.mwait imm d) t k (.mwait d.toNat (if imm = 0 then none else some (now + 16 * imm.toNat)))))
    ∧ (∀ id c d lim, s.crew? id = some c → c.wait = some (.mwait d lim) →
      ((∃ m ∈ c.mon, m.triggered = true) →
        exec (.mwaitWake id) s = .next (s.setCrew ({ c with s := c.s.set d 0, mon := [], monOvf := false } : Crew).wake))
      ∧ (∀ n, lim = some n → n ≤ (s.cycles c.core).toNat → (∀ m ∈ c.mon, m.triggered = false) →
        exec (.mwaitTimeout id) s = .next (s.setCrew ({ c with s := c.s.set d 1, mon := [], monOvf := false } : Crew).wake)))
    ∧ (∀ id c lines, s.crew? id = some c → c.wait = some (.park lines) → (∀ j ∈ lines, s.lineOpen c.core c.id j = true) →
      exec (.accessUnpark id) s = .next (s.setCrew { c with wait := none, waitLanes := 0 })))
  ∧ (∀ (s : State) (w : Write) (c : Crew), c ∈ s.crews →
    ∃ c' ∈ (s.applyWrite w).crews, c'.id = c.id ∧ c'.mon = c.mon.map fun m =>
      if m.space = .deck ∧ m.line = w.off / 128 then { m with triggered := true } else m)

/-- R232 to R234: a fence with no engine command of its crew waiting for acceptance passes at once when what it waits for has happened: nothing for
an acquire fence; else the writes its crew has issued, read from or acquired globally performed (R220), and at POD scope its copies to other packages
acknowledged (that these are the COPYRs of its crew is log 35); otherwise the crew waits until then. One that orders reads is an acquire (R219). R235,
R236: BAR opens its barrier or joins the open phase, which is a release and orders what its crew has issued before what follows, and waits; a phase
completes with 0 when its count has arrived, and with 1 for the lowest barrier waited on when every crew of the squad stands in a BAR; its crews get the
code and pass, which is their acquire, and the barrier is idle. That crews swapped out or saved count among the squad's, and get the code, is the model's
reading (log 18). R237 to R239: BBAR on a 16-aligned record that lies in squad memory: ARM adds to EXPECT and replies with the sum; WAIT replies with
LANDED once EXPECT has landed; TAKE then also replaces the record by EXPECT 0 and LANDED less EXPECT, and replies with EXPECT; until then the crew waits.
A record that is misaligned, outside the squad window or beyond the squad's memory raises MISALIGN, FAR_ACCESS or PROT. -/
def Obligations.FencesAndBarriers : Prop :=
  (∀ (s : State) (k : Crew) (c : Scope), s.bump.cmdHeld k = false →
    let met (all pod : Bool) (id : Nat) : Prop := all = true →
      (∀ w ∈ s.writes, id ∉ w.known) ∧ (pod = true → ∀ m ∈ s.cmds, m.crew = id → m.fn = .copyr → m.out = true → m.complete = true)
    let acquired (i : Instr) : Prop := ∃ k', exec i s = .next ((s.bump.setCrew k').acquires k) ∧ k.movedFrom k k' i (s.cycles k.core).toNat
    let waits (i : Instr) (reads : Bool) : Prop := s.stops k i s.bump k (.fence reads true (c == .pod))
    (s.runs k (.fence c) → (met true (c == .pod) k.id → acquired (.fence c)) ∧ (¬ met true (c == .pod) k.id → waits (.fence c) true))
    ∧ (s.runs k (.fenceAcq c) → acquired (.fenceAcq c))
    ∧ (s.runs k (.fenceRel c) →
      (met true (c == .pod) k.id → s.goesTo k (.fenceRel c) s.bump k) ∧ (¬ met true (c == .pod) k.id → waits (.fenceRel c) false))
    ∧ (∀ id (x : Crew) reads all pod, s.crew? id = some x → x.wait = some (.fence reads all pod) →
      (met all pod id → exec (.fenceWaitEnd id) s = .next (if reads then s.wakes x else s.setCrew x.wake))
      ∧ (¬ met all pod id → exec (.fenceWaitEnd id) s = .next s))
    ∧ (∀ id (x : Crew) r d, s.crew? id = some x → x.wait = some (.perform r d) → (∀ w ∈ s.writes, w.crew = some id → w.done = true) → x.replay = [] → x.bankOut = [] →
      exec (.fenceWaitEnd id) s = .next (s.wakes (x.reply r d))))
  ∧ (∀ (s : State) (q : Squad),
    let members := s.squadCrews q.id
    (∀ k n id d, s.runs k (.bar n id d) → s.squad? k.squad = some q → k.squad = q.id → s.bump.cmdHeld k = false →
      let b := q.bars.getD id.toNat Bar.idle
      let b' : Bar :=
        if b.isOpen then { b with arrived := b.arrived + 1 }
        else { isOpen := true, need := BitVec.ofNat 6 (if n = 0 then members.length else n.toNat), arrived := 1, all := n == 0 }
      s.stops k (.bar n id d) (((s.bump.releases k false).ordersAll k).setSquad { q with bars := q.bars.set id.toNat b' }) k (.bar id.toNat d.toNat))
    ∧ (∀ j code, s.squad? q.id = some q → (q.bars.getD j Bar.idle).isOpen = true →
      let b := q.bars.getD j Bar.idle
      let inBar (c : Crew) (i : Nat) : Prop := ∃ d, c.wait = some (.bar i d)
      (code = 0 ∧ b.need ≤ b.arrived
        ∨ code = 1 ∧ b.arrived < b.need ∧ (∀ c ∈ members, ∃ i, inBar c i) ∧ (∃ c ∈ members, inBar c j)
          ∧ ∀ c ∈ members, ∀ i, inBar c i → j ≤ i) →
      (∀ x ∈ s.saved, x.crew.squad ≠ q.id) →
      let up (c : Crew) : Crew :=
        if c.squad = q.id then
          match c.wait with
          | some (.bar i d) => if i = j then ({ c with s := c.s.set d code } : Crew).wake else c
          | _ => c
        else c
      let u := (members.filter (·.waitsBar j)).foldl (fun (u : State) c => u.acquires c) s
      exec (.barPhaseComplete q.id j) s = .next { u with
        crews := s.crews.map up
        squads := s.squads.map fun (x : Squad) => if x.id = q.id then { x with bars := x.bars.set j Bar.idle, swapped := x.swapped.map up } else x }))
  ∧ (∀ (s : State) (k : Crew) (q : Squad) (r : Reply) (b a : BitVec 6) (off : Nat),
    let t := s.bump
    let now := (s.cycles k.core).toNat
    let e := leNat (q.mem.readN off 8)
    let l := leNat (q.mem.readN (off + 8) 8)
    let sum := (e + (k.pr b.toNat).toNat) % 2 ^ 64
    let taken := leBytes 8 0 ++ leBytes 8 (l - e)
    t.cmdHeld k = false → s.squad? k.squad = some q →
    (∀ i ∈ [Instr.bbarArm r b a, .bbarWait r a, .bbarTake r a], s.runs k i →
      let va := (k.pr a.toNat).toNat
      let trap (c : Cause) : Prop := exec i s = .next ((s.entering k i).trapAt (k.entering i) c k.active va)
      (va % 16 ≠ 0 → trap .misalign)
      ∧ (va % 16 = 0 → va < 0xFFF000000000 ∨ 0xFFF800000000 ≤ va → trap .farAccess)
      ∧ (va % 16 = 0 → 0xFFF000000000 ≤ va → va < 0xFFF800000000 → q.memLen < va - 0xFFF000000000 + 16 → trap .prot)) ∧
    ((k.pr a.toNat).toNat = 0xFFF000000000 + off → off % 16 = 0 → off < 2 ^ 35 → off + 16 ≤ q.memLen →
    (s.runs k (.bbarArm r b a) → ∃ k', k.movedFrom (k.reply r (BitVec.ofNat 64 sum)) k' (.bbarArm r b a) now
      ∧ exec (.bbarArm r b a) s = .next ((t.setCrew k').squadWrite k.squad off (leBytes 8 sum)))
    ∧ (s.runs k (.bbarWait r a) →
      (e ≤ l → ∃ k', k.movedFrom (k.reply r (BitVec.ofNat 64 l)) k' (.bbarWait r a) now
        ∧ exec (.bbarWait r a) s = .next ((t.setCrew k').acquires k))
      ∧ (l < e → s.stops k (.bbarWait r a) t k (.bbar false r off)))
    ∧ (s.runs k (.bbarTake r a) →
      (e ≤ l → ∃ k', k.movedFrom (k.reply r (BitVec.ofNat 64 e)) k' (.bbarTake r a) now
        ∧ exec (.bbarTake r a) s = .next (((t.setCrew k').acquires k).squadWrite k.squad off taken))
      ∧ (l < e → s.stops k (.bbarTake r a) t k (.bbar true r off)))
    ∧ (∀ c take, s.crew? c.id = some c → c.squad = k.squad → c.wait = some (.bbar take r off) →
      (l < e → exec (.bbarConditionMet c.id) s = .next s)
      ∧ (e ≤ l → take = false → exec (.bbarConditionMet c.id) s = .next (s.wakes (c.reply r (BitVec.ofNat 64 l))))
      ∧ (e ≤ l → take = true →
        exec (.bbarConditionMet c.id) s = .next ((s.wakes (c.reply r (BitVec.ofNat 64 e))).squadWrite k.squad off taken)))))

/-! ## Barriers, subscriptions and the home slices (spec/08_ordering.md R235 to R239, spec/09_subscribe.md R240 to R263) -/

/-- R242, R258 to R263: SUBS takes the squad's least free slot for a range of 1 to 65,536 lines, and the core drops its copies of those lines;
UNSUB frees the slot of a current handle and drops the copies; SUBUP raises its format and upgrades the copies held below it, once home can take
the upgrades; SUBQ replies with the words of R263, SUBQ.line once home has handled what the core has sent before. SUBS and SUBQ.line raise the traps of
their address. That a handle with a bit of [63:20] set is not current is the model's choice (log 73). A refused instruction replies with bit 63 and its
code. -/
def Obligations.Subscriptions : Prop := ∀ (s : State) (k : Crew) (q : Squad) (r : Reply) (b a : BitVec 6), s.squad? k.squad = some q →
  let t := s.bump
  let va := (k.pr a.toNat).toNat
  let len := (k.pr b.toNat).toNat
  let sub (j : Nat) : SubSlot := q.subs.getD j SubSlot.empty
  let no (code : Nat) : Crew := k.reply r (BitVec.ofNat 64 (2 ^ 63 + code))
  let code (f : SubFmt) : Nat := match f with | .exact => 0 | .bf16 => 1 | .f16 => 2 | .e4m3 => 3 | .e5m2 => 4
  let one (x : Bool) (n : Nat) : Nat := if x then 2 ^ n else 0
  let current (j : Nat) : Prop := va < 2 ^ 20 ∧ va % 16 = j ∧ (sub j).valid = true ∧ (sub j).seq.toNat = va / 16 % 65536
  let stale : Prop := ∀ j, ¬ current j
  let held (first last : Nat) : List Copy :=
    s.copies.filter fun c => c.core == k.core && c.asid == k.asid && decide (first ≤ c.va / 128) && decide (c.va / 128 ≤ last)
  let dropped (u : State) (cs : List Copy) : State := cs.foldl (fun u c => u.evict c.core c.line) u
  (∀ m f x, s.runs k (.subs r b a m f) → t.check k .load 1 1 va = .ok x →
    let i : Instr := .subs r b a m f
    let first := va / 128
    let last := (va + len - 1) / 128
    let fits : Prop := len ≠ 0 ∧ last - first < 65536 ∧ va + len ≤ 2 ^ 47
    (¬ fits → s.goesTo k i t (no 2))
    ∧ (fits → (∀ j < 16, (sub j).valid = true) ∨ 128 ≤ t.subEntries k.core → s.goesTo k i t (no 1))
    ∧ (∀ j < 16, fits → t.subEntries k.core < 128 → (sub j).valid = false → (∀ h < j, (sub h).valid = true) →
      s.goesTo k i
        (dropped (t.setSquad { q with subs := q.subs.set j {
          valid := true, fmt := f, upd := m == 1, count := last - first, base := first, seq := (sub j).seq + 1 } }) (held first last))
        (k.reply r (BitVec.ofNat 64 (j + 16 * ((sub j).seq + 1).toNat)))))
  ∧ (s.runs k (.unsub r a) →
    (stale → s.goesTo k (.unsub r a) t (no 3))
    ∧ ∀ j, current j →
      let cs := held (sub j).base ((sub j).base + (sub j).count)
      s.goesTo k (.unsub r a) (dropped (t.setSquad { q with subs := q.subs.set j { SubSlot.empty with seq := (sub j).seq } }) cs)
        (k.reply r (BitVec.ofNat 64 cs.length)))
  ∧ (∀ f, s.runs k (.subup r a f) →
    (stale → s.goesTo k (.subup r a f) t (no 3))
    ∧ ∀ j, current j →
      (subRank f ≤ subRank (sub j).fmt → s.goesTo k (.subup r a f) t (no 4))
      ∧ (subRank (sub j).fmt < subRank f →
        let u := t.setSquad { q with subs := q.subs.set j { sub j with fmt := f } }
        let low := (held (sub j).base ((sub j).base + (sub j).count)).filter fun c => decide (subRank c.fmt < subRank f)
        let w := low.foldl (fun u c => u.fetchLine c.core c.line c.va c.asid f (u.asked k c.va).2) u
        ((∃ c ∈ low, t.lineOpen k.core k.id c.line = false) → exec (.subup r a f) s = .next t)
        ∧ ((∀ c ∈ low, t.lineOpen k.core k.id c.line = true) →
          ∃ (c k' : Crew), w.crew? k.id = some c ∧ ({ c with mon := [], wait := none } : Crew) = { k with mon := [], wait := none }
            ∧ exec (.subup r a f) s = .next (w.setCrew k')
            ∧ c.movedFrom (c.reply r (BitVec.ofNat 64 low.length)) k' (.subup r a f) (w.cycles k.core).toNat)))
  ∧ (let traps (i : Instr) (c : Cause) : Prop := exec i s = .next ((s.entering k i).trapAt (k.entering i) c k.active va)
    (∀ m f c, s.runs k (.subs r b a m f) → t.check k .load 1 1 va = .error c → traps (.subs r b a m f) c)
    ∧ ∀ c, s.runs k (.subqLine r a) → t.check k .pres 1 1 va = .error c → traps (.subqLine r a) c)
  ∧ (∀ off, s.runs k (.subqLine r a) → t.check k .pres 1 1 va = .ok (.deck off) →
    let u := (t.takeNotices k.core off).deliver k.core off
    let d := u.dirOf (off / 128)
    let asked := s.asked k va
    let word : DWord := BitVec.ofNat 64
      ((match u.copyOf k.core (off / 128) with | none => 0 | some c => code c.fmt + 2 ^ 3 + one c.upd 8) + code asked.1 * 2 ^ 4
        + one (q.subs.any (·.covers va)) 7 + one d.bcast 9 + d.ptrs.length * 2 ^ 10 + d.watch.toNat * 2 ^ 14
        + one d.absentBy.isEmpty 18 + one d.poison 19)
    (t.sliceWaits k.core off = true → exec (.subqLine r a) s = .next t)
    ∧ (t.sliceWaits k.core off = false →
      ∃ (c k' : Crew), u.crew? k.id = some c ∧ ({ c with mon := [], wait := none } : Crew) = { k with mon := [], wait := none }
        ∧ exec (.subqLine r a) s = .next (u.setCrew k') ∧ c.movedFrom (c.reply r word) k' (.subqLine r a) (u.cycles k.core).toNat))
  ∧ (∀ x, s.runs k (.subqLine r a) → t.check k .pres 1 1 va = .ok x → (∀ off, x ≠ .deck off) →
    s.goesTo k (.subqLine r a) t (k.reply r 0x40000))
  ∧ (s.runs k (.subqSlot r a) → s.goesTo k (.subqSlot r a) t (k.reply r (
      let x := sub (va % 16)
      if x.valid then BitVec.ofNat 64 (1 + code x.fmt * 2 + one x.upd 4 + x.count * 2 ^ 6 + x.base * 2 ^ 22) else 0)))
  ∧ (s.runs k (.subqCnt r) → s.goesTo k (.subqCnt r) t
      (k.reply r (BitVec.ofNat 64 ((s.count k.core).inval.toNat + 2 ^ 32 * (s.count k.core).upd.toNat))))

/-- R247 to R254: a fetch, behind what the core has sent to the slice and the slice to the core, gives its core a copy of the line at the asked
format, and the line a pointer, or BCAST for a ninth sharer. A write whose turn it is changes its bytes at home, and each other sharer whose rounding
it changes, or an EXACT one, gets an UPD or loses its pointer with an INVAL; under BCAST every other core of the package gets an INVAL first. INVAL
drops the copy, UPD replaces its words, each triggers the core's monitors and is acknowledged; the last acknowledgement ends the write, or ends the
clear, with BCAST and the pointers gone and the write applied in the same moment. R256: words that an UPD brings beneath a store of the core that is not
globally performed take effect once it is. R248, R252, R260: home hears an eviction notice, or of a drop that was asked for, behind what the core has sent
before, and removes the pointer, which BCAST keeps after an eviction. When each of these happens is an event of the model (log 2); that an INVAL or UPD
triggers the monitors of its core is log 53, and where a core has a line mapped log 36. -/
def Obligations.HomeSlices : Prop := ∀ (s : State),
  (∀ core line f upd va asid, s.present line = true → s.poisoned line = false → (s.dirOf line).busy = false →
    s.sliceWaits core (line * 128) = false → s.copyOf core line = none → s.mappedAt core line = some (va, asid) →
    let u := (s.takeNotices core (line * 128)).deliver core (line * 128)
    ∃ t, exec (.lineFetch core line f upd) s = .next t
      ∧ t = { u with copies := t.copies, dir := t.dir, plain := t.plain, notices := t.notices, fresh := t.fresh }
      ∧ t.copyOf core line = some {
          core := core, line := line, va := va / 128 * 128, asid := asid, fmt := f, upd := upd
          words := (List.range 32).map fun j => subRound f (BitVec.ofNat 32 (leNat (s.deck.readN (line * 128 + 4 * j) 4))), under := [] }
      ∧ (let others := (u.dirOf line).ptrs.filter fun p => p.core != core
         (t.dirOf line) = if (u.dirOf line).bcast then u.dirOf line
           else if 8 ≤ others.length then { u.dirOf line with bcast := true }
           else { u.dirOf line with ptrs := others ++ [⟨core, f, upd⟩] }))
  ∧ (∀ w, s.writes.find? (fun w' => w'.id == w.id && !w'.applied) = some w → s.mayApply w = true →
    let line := w.off / 128
    let d := s.dirOf line
    let bytes := if w.plus then leBytes 8 (leNat (s.deck.readN w.off 8) + 1) else w.bytes
    let deck := s.deck.writeN w.off bytes
    let word (m : Memory) (j : Nat) : Word := BitVec.ofNat 32 (leNat (m.readN (line * 128 + 4 * j) 4))
    let touched := (List.range 32).filter fun j => decide (w.off < line * 128 + 4 * j + 4) && decide (line * 128 + 4 * j < w.off + bytes.length)
    let changed (f : SubFmt) := touched.filter fun j => subRound f (word s.deck j) != subRound f (word deck j)
    (d.bcast = false → ∃ t, exec (.homeWriteApply w.id) s = .next t
      ∧ t.deck = deck ∧ t.hbm = s.hbm ∧ t.host = s.host ∧ t.pool = s.pool ∧ t.skm = s.skm ∧ t.squads = s.squads
      ∧ ∃ ms, (∃ old, t.msgs = old ++ ms ∧ old.length = s.msgs.length)
        ∧ (∀ p ∈ d.ptrs, some p.core ≠ w.core →
          (p.upd = true → changed p.fmt ≠ [] → ∃ m ∈ ms, m.core = p.core ∧ m.line = line ∧ m.upd = true
            ∧ m.words = (changed p.fmt).map fun j => (j, subRound p.fmt (word deck j)))
          ∧ (p.upd = false → p.fmt = .exact ∨ changed p.fmt ≠ [] → (∃ m ∈ ms, m.core = p.core ∧ m.line = line ∧ m.upd = false)
            ∧ ∀ p' ∈ (t.dirOf line).ptrs, p'.core ≠ p.core))
        ∧ (∀ m ∈ ms, ∃ p ∈ d.ptrs, p.core = m.core ∧ some p.core ≠ w.core ∧ p.upd = m.upd ∧ (p.upd = true ∨ p.fmt ≠ .exact → changed p.fmt ≠ []))
        ∧ (ms = [] → d.watch = 0 → (∀ x ∈ t.writes, x.id = w.id → x.done = true)
          ∧ ((∀ x ∈ s.writes, x.id ∈ w.before → x.id = w.id ∨ x.done = true) → ∀ x ∈ t.writes, x.id ≠ w.id)))
    ∧ (d.bcast = true → ∃ t, exec (.homeWriteApply w.id) s = .next t
      ∧ t = { s with dir := t.dir, msgs := t.msgs, writes := t.writes, fresh := t.fresh }
      ∧ ∃ c, (t.dirOf line) = { d with clears := d.clears ++ [c] } ∧ c.bcast = true ∧ c.but = w.core ∧ c.write = some w.id
        ∧ ∀ n < 320, some n ≠ w.core → ∃ m ∈ t.msgs, m.core = n ∧ m.line = line ∧ m.upd = false ∧ m.ackTo = .clear line c.id))
  ∧ (∀ m : Msg, s.firstMsg m = true →
    let n := s.count m.core
    let ack : Ack := { id := s.fresh, ackTo := m.ackTo }
    let beneath (j : Nat) : Bool := s.writes.any fun w => w.core == some m.core && w.applied && !w.done && w.covers (m.line * 128 + 4 * j) 4
    (s.msgs.find? (fun x => x.id == m.id && !x.upd) = some m → ∃ t, exec (.inval m.id) s = .next t
      ∧ t = { s with
          copies := s.copies.filter fun c => !(c.core == m.core && c.line == m.line)
          counts := t.counts, crews := (s.triggerCore m.core m.line).crews, msgs := s.msgs.filter fun x => x.id != m.id
          acks := s.acks ++ [ack], fresh := s.fresh + 1 }
      ∧ t.count m.core = (if m.silent = false ∨ (s.copyOf m.core m.line).isSome = true then { n with inval := n.inval + 1 } else n))
    ∧ (s.msgs.find? (fun x => x.id == m.id && x.upd) = some m → ∃ t, exec (.upd m.id) s = .next t
      ∧ t = { s with
          copies := s.copies.map fun (c : Copy) =>
            if c.core == m.core && c.line == m.line then
              { c with
                words := c.words.mapIdx fun j e => if beneath j then e else ((m.words.find? fun x => x.1 == j).map fun x => x.2).getD e
                under := m.words.filter (fun x => beneath x.1) ++ c.under.filter fun x => !m.words.any fun y => y.1 == x.1 }
            else c
          counts := t.counts, crews := (s.triggerCore m.core m.line).crews, msgs := s.msgs.filter fun x => x.id != m.id
          acks := s.acks ++ [ack], fresh := s.fresh + 1 }
      ∧ t.count m.core = { n with upd := n.upd + 1 }))
  ∧ (∀ core line c, c ∈ (s.triggerCore core line).crews → ∃ c₀ ∈ s.crews, c₀.id = c.id ∧
      (c₀.core ≠ core → c = c₀)
      ∧ (c₀.core = core → c.mon = c₀.mon.map fun (m : MonEntry) => { m with triggered := m.triggered || (m.space == .deck && m.line == line) }))
  ∧ (∀ a, s.acks.find? (fun x => x.id == a.id) = some a →
    let u : State := { s with acks := s.acks.filter fun x => x.id != a.id }
    (∀ id w, a.ackTo = .write id → s.writes.find? (fun x => x.id == id) = some w →
      (w.applied = false ∨ 1 < w.acks → exec (.sharerAcknowledgement a.id) s = .next { u with
        writes := s.writes.map fun (x : Write) => if x.id == id then { x with acks := x.acks - 1 } else x })
      ∧ (w.applied = true → w.acks ≤ 1 →
        let shown (c : Copy) (j : Nat) : Bool := !s.writes.any fun x =>
          x.id != id && x.core == w.core && x.applied && !x.done && x.covers (c.line * 128 + 4 * j) 4
        ∃ t : State, exec (.sharerAcknowledgement a.id) s = .next t
          ∧ t = { u with
              writes := t.writes
              copies := s.copies.map fun (c : Copy) =>
                if some c.core == w.core && c.line == w.off / 128 then
                  { c with
                    words := c.words.mapIdx fun j e => if shown c j then ((c.under.find? fun x => x.1 == j).map fun x => x.2).getD e else e
                    under := c.under.filter fun x => !shown c x.1 }
                else c }
          ∧ (∀ x ∈ t.writes, x.id = id → x.done = true)
          ∧ ((∀ x ∈ s.writes, x.id ∈ w.before → x.id = id ∨ x.done = true) → (∀ x ∈ s.writes, x.id = id → x = w) → ∀ x ∈ t.writes, x.id ≠ id)))
    ∧ (∀ line id c, a.ackTo = .clear line id → (s.dirOf line).clears.find? (fun x => x.id == id) = some c →
      let d := s.dirOf line
      (1 < c.acks → exec (.sharerAcknowledgement a.id) s = .next (u.setDir { d with
        clears := d.clears.map fun (x : LineClear) => if x.id == id then { x with acks := x.acks - 1 } else x }))
      ∧ (c.acks ≤ 1 → ∃ t, exec (.sharerAcknowledgement a.id) s = .next t ∧ t.hbm = s.hbm ∧ t.host = s.host ∧ t.skm = s.skm
        ∧ (∀ x ∈ (t.dirOf line).clears, x.id ≠ id)
        ∧ (c.bcast = true → (t.dirOf line).bcast = false ∧ (t.dirOf line).ptrs = [])
        ∧ (c.write = none → t.deck = s.deck ∧ (t.dirOf line) = { d with
            clears := d.clears.filter fun x => x.id != id, absentBy := d.absentBy.filter fun x => x != id
            ptrs := if c.bcast then [] else d.ptrs, bcast := d.bcast && !c.bcast })
        ∧ (∀ w, c.write = some w.id → w.plus = false → s.writes.find? (fun x => x.id == w.id && !x.applied) = some w →
          t.deck = s.deck.writeN w.off w.bytes))))
  ∧ (∀ core line n, s.notices.find? (fun n => n.core == core && n.line == line) = some n →
    let d := s.dirOf line
    (s.sliceWaits core (line * 128) = true → exec (.evictionNotice core line) s = .next s)
    ∧ (s.sliceWaits core (line * 128) = false → exec (.evictionNotice core line) s = .next {
        (if d.bcast = true ∧ n.asked = false then s else s.setDir { d with ptrs := d.ptrs.filter fun p => p.core != core }) with
      notices := s.notices.erase n }))
  ∧ (∀ core line,
    let d := s.dirOf line
    let dropped : List Copy := s.copies.filter fun c => !(c.core == core && c.line == line)
    s.evict core line = if s.sliceWaits core (line * 128) then
        { s with copies := dropped, notices := s.notices ++ [{ core := core, line := line, asked := true }] }
      else ({ s with copies := dropped } : State).setDir { d with ptrs := d.ptrs.filter fun p => p.core != core })

/-! ## The tanks (spec/10_matrix.md R265 to R289) -/

/-- R270 to R273, R279: CVSET writes DECL and clears SIGNED, after it has issued a pending operation. The threads of ACTIVE that are declared and
have not signed sign a legal MMA or MMR on a tile that is not foreign, with the eight registers of each fragment; the pending operation takes
the instruction's word; then a complete set issues. R289: on a foreign tile they take TANK_OWNED. -/
def Obligations.Signatures : Prop := ∀ (s : State) (k : Crew) (c : BitVec 4) (fs b a x : BitVec 3),
  let t := s.bump
  let now := (s.cycles k.core).toNat
  let v := k.cvN c.toNat
  let fours : BitVec 8 := BitVec.ofNat 8 (((List.range 8).map fun f =>
    if (List.range 4).any fun j => (k.thread (4 * f + j)).live then 2 ^ f else 0).sum)
  let set (i : Instr) (mask : BitVec 8) : Prop :=
    (v.pend = false → ∃ k', k.movedFrom { k with cv := k.cv.set c.toNat { v with decl := mask, signed := 0 } } k' i now
      ∧ exec i s = .next ((t.setCrew k').settle k.id))
    ∧ (∀ k1, v.pend = true → (t.issueConv k.id c.toNat).crew? k.id = some k1 → k1.ended = false → k1.inh = k.inh → k1.rep = k.rep →
      k1.core = k.core → (∀ l, (k1.thread l).pcv = (k.thread l).pcv) →
      ∃ k', k.movedFrom { k1 with cv := k1.cv.set c.toNat { k1.cvN c.toNat with decl := mask, signed := 0 } } k' i now
        ∧ exec i s = .next (((t.issueConv k.id c.toNat).setCrew k').settle k.id))
  let decl := if v.decl = 0 then fours else v.decl
  let signer (l : Nat) : Bool := k.active.getLsbD l && !v.signed.getLsbD l && decl.getLsbD (l / 4)
  let signers := (List.range 32).filter signer
  let regs (f : BitVec 3) (l : Nat) : List Word := (List.range 8).map fun j => (k.thread l).val l (8 * f.toNat + j)
  let pair (resid : Bool) : Prop := match slotElem (s.slot k fs), slotElem (s.slot k (fs + 1)) with
    | .flt f, .flt g => resid = false ∧ (f.width = 16 ∧ g.width = 16 ∨ f.width = 8 ∧ g.width = 8)
    | .int m, .int n => resid = true ∧ m = n ∧ (m = 8 ∨ m = 4)
    | _, _ => False
  let signs (i : Instr) (resid isSet : Bool) : Prop :=
    s.runs k i → k.rep.active = false → x.toNat < k.tileSlots.length → signers ≠ [] → pair resid →
    (v.pend = true → v.opword = BitVec.ofNat 32 (encodeNat i) &&& 0xF0FE07FF) →
    (s.foreign k (k.tileSlot x) = true →
      exec i s = .next (t.trapAll { k with tankInfo := s.tankInfoOf k x } .tankOwned k.active))
    ∧ ((isSet = false → s.kindAfter k.core (k.tileSlot x) ≠ if resid then .f32 else .res) →
    s.foreign k (k.tileSlot x) = false →
    ∃ (k' : Crew) (v' : Cv), exec i s = .next ((t.setCrew k').settle k.id)
      ∧ k' = { k with
          threads := k'.threads, cv := k.cv.set c.toNat v', rep := Rep.idle, raised := 0, age := 0, passed := 0, lastIssue := now
          loads := k.loads.map fun (p : PendLoad) =>
            if k.active.getLsbD p.lane && !v.signed.getLsbD p.lane then { p with left := p.left - 1 } else p }
      ∧ k'.threads.length = k.threads.length
      ∧ (∀ l < k.threads.length, k'.thread l = { k.thread l with
          yex := false, win := (k'.thread l).win
          pcv := if k.active.getLsbD l && !v.signed.getLsbD l then BitVec.ofNat 48 (((k.thread l).pcv.toNat + 4) / 2 * 2) else (k.thread l).pcv })
      ∧ v'.decl = decl ∧ v'.pend = true ∧ v'.opword = BitVec.ofNat 32 (encodeNat i) &&& 0xF0FE07FF
      ∧ (∀ l < 32, v'.signed.getLsbD l = (v.signed.getLsbD l || signer l))
      ∧ v'.sigs = (signers.map fun l =>
          { lane := l, at_ := (k.thread l).pcv, a := 8 * a.toNat, b := 8 * b.toNat, wa := regs a l, wb := regs b l : Signature }).reverse ++ v.sigs)
  (∀ m, s.runs k (.cvset m c) → set (.cvset m c) ((k.sc m.toNat).extractLsb' 0 8))
  ∧ (s.runs k (.cvsetLive c) → set (.cvsetLive c) fours)
  ∧ (∀ m, s.runs k (.cvsetImm m c) → set (.cvsetImm m c) m)
  ∧ signs (.mma c fs b a x) false false ∧ signs (.mmaSet c fs b a x) false true
  ∧ signs (.mmr c fs b a x) true false ∧ signs (.mmrSet c fs b a x) true true

/-- R267 to R269, R273, R276, R280, R281: the issue of a pending operation on a tile that is not foreign puts it last in the core's operations with
its signers' fragments and clears SIGNED and PEND; the oldest operation takes effect on its tile: each element is the rounded exact sum of products,
or each residue channel the sum modulo its base, after a fold at the depth limit, which adds to each FOLD the value of its triple, clamped to 32 bits and
counted where it clamps, and zeroes the triple; a discarded one sets LOST. When the oldest operation takes effect
is an event of the model (log 2). -/
def Obligations.MatrixOperations : Prop := ∀ (s : State),
  (∀ (k : Crew) (n : Nat) (resid isSet : Bool) (fs x : BitVec 3), s.crew? k.id = some k → opOf (k.cvN n).opword = some (resid, isSet, fs, x) →
    s.foreign k (k.tileSlot x) = false →
    let kind := s.kindAfter k.core (k.tileSlot x)
    ∃ t, s.issueConv k.id n = t ∧ t = { s with crews := t.crews, matops := t.matops }
      ∧ t.crews = (s.setCrew { k with cv := k.cv.set n { k.cvN n with signed := 0, pend := false, sigs := [] }, held := 0 }).crews
      ∧ t.matops = s.matops ++ [{
          core := k.core, crew := k.id, slot := k.tileSlot x, isSet := isSet, resid := resid, fa := s.slot k fs, fb := s.slot k (fs + 1)
          lost := !isSet && (kind == if resid then .f32 else .res)
          frags := (List.range 32).map fun l => (((k.cvN n).sigs.find? (·.lane == l)).map fun g => (g.wa, g.wb)).getD ([], []) }])
  ∧ ∀ (o : MatOp) (core : Nat), s.matops.find? (·.core == core) = some o →
    let x := s.tile o.core o.slot
    let w := (slotElem o.fa).width
    let depth := 512 / w
    let elem (f : List Word) (e : Nat) : Nat := (f.getD (e * w / 32) 0).toNat / 2 ^ (w * (e % (32 / w))) % 2 ^ w
    let A (i j : Nat) : Nat := elem (o.frags.getD (2 * i + j / (depth / 2)) ([], [])).1 (j % (depth / 2))
    let B (i j : Nat) : Nat := elem (o.frags.getD (2 * j + i / (depth / 2)) ([], [])).2 (i % (depth / 2))
    let signed (fs : DWord) (y : Nat) : Int := if slotSym fs = true ∧ w = 8 ∧ y = 0x80 then -127 else if y < 2 ^ (w - 1) then y else y - 2 ^ w
    let product (i j : Nat) : Int := ((List.range depth).map fun m => signed o.fa (A i m) * signed o.fb (B m j)).sum
    let terms (i j : Nat) : List Fv := (List.range depth).map fun m =>
      (elemValue o.fa (BitVec.ofNat 32 (A i m))).mul (elemValue o.fb (BitVec.ofNat 32 (B m j)))
    let chan (e : Word) (p : Int) : Int × Int × Int := (((r255 e : Int) + p) % 255, ((r256 e : Int) + p) % 256, ((r257 e : Int) + p) % 257)
    ∃ x', exec (.matrixOperationComplete core) s = .next (({ s with matops := s.matops.erase o } : State).setTile x')
      ∧ (o.lost = true → x' = { x with lost := true })
      ∧ (o.lost = false → x'.core = x.core ∧ x'.slot = x.slot ∧ x'.tag = x.tag ∧ x'.elems.length = 256)
      ∧ (o.lost = false → o.resid = false →
        x'.kind = .f32 ∧ (o.isSet = true → x'.ovf = 0 ∧ x'.lost = false ∧ x'.depth = 0) ∧ (o.isSet = false → x'.ovf = x.ovf ∧ x'.lost = x.lost)
        ∧ ∀ i < 16, ∀ j < 16, x'.elem (16 * i + j) =
            (f32r (.sum (terms i j ++ if o.isSet = false ∧ x.kind = .f32 then [f32v (lo32 (x.elem (16 * i + j)))] else []))).zeroExtend 64)
      ∧ (o.lost = false → o.resid = true →
        let start := if o.isSet then Tile.zero x.core x.slot x.tag else x
        let limit := if slotSym o.fa || slotSym o.fb then 8 else 7
        let folds : Prop := start.kind = .res ∧ limit ≤ start.depth.toNat
        let sum (e : DWord) : Int := (up32 e).toInt + crt (lo32 e)
        let clamps := start.elems.filter fun e => decide (sum e < -2147483648) || decide (2147483647 < sum e)
        let fold (n : Nat) : Word := if folds then BitVec.ofInt 32 (max (-2147483648) (min 2147483647 (sum (start.elem n)))) else up32 (start.elem n)
        let triple (n : Nat) : Word := if folds then 0 else lo32 (start.elem n)
        x'.kind = .res ∧ x'.depth = (if folds then 0 else start.depth) + 1 ∧ x'.lost = start.lost
        ∧ x'.ovf = (if folds then BitVec.ofNat 16 (min (start.ovf.toNat + clamps.length) 0xFFFF) else start.ovf)
        ∧ ∀ i < 16, ∀ j < 16, up32 (x'.elem (16 * i + j)) = fold (16 * i + j)
          ∧ ((r255 (lo32 (x'.elem (16 * i + j))) : Int), (r256 (lo32 (x'.elem (16 * i + j))) : Int), (r257 (lo32 (x'.elem (16 * i + j))) : Int))
            = chan (triple (16 * i + j)) (product i j))

/-- R267, R282 to R284, R288: on a tile that is not foreign and has no operation outstanding, MZERO empties the tile; MEPI packs each thread's eight
elements, converted, into registers from vD and counts overflows; MOVF gets the eight raw elements, or replaces them in the threads of ACTIVE. R289: on a
foreign tile each raises TANK_OWNED. R155, R282: what the conversion gives: the element's exact value times the scale, a float by R149 and never made
infinite, an integer or residue rounded and clamped to the element's limits, with 1 counted where it clamps or overflows and 1 where a RES value did. -/
def Obligations.TileRegisters : Prop := ∀ (s : State) (k : Crew) (x : BitVec 3),
  let t := s.bump
  let old := s.tileOf k x
  let tile : Tile := { old with tag := some (k.asid, (s.ctx k.asid).key) }
  let lanes := (List.range 32).filter fun l => k.active.getLsbD l
  let at_ (l c : Nat) : Nat := 16 * (l / 2) + 8 * (l % 2) + c
  let counted (n : Nat) : Tile := { tile with ovf := BitVec.ofNat 16 (min (old.ovf.toNat + n) 0xFFFF) }
  let value (j : Nat) : Int := (up32 (old.elem j)).toInt + crt (lo32 (old.elem j))
  let clamps (z : Int) : Bool := decide (z < -2147483648) || decide (2147483647 < z)
  let reads (i : Instr) (u : Tile) (d n : Nat) (f : Nat → Nat → Word) : Prop :=
    ∃ k', exec i s = .next ((t.setTile u).setCrew k') ∧ k.moved k' i (s.cycles k.core).toNat ∧ k.gets k' k.active d n f
  (s.foreign k (k.tileSlot x) = true →
    let traps (i : Instr) : Prop :=
      s.runs k i → exec i s = .next (t.trapAll { k with tankInfo := s.tankInfoOf k x } .tankOwned k.active)
    traps (.mzero x) ∧ (∀ la fs d, traps (.mepi la fs d x)) ∧ (∀ la d, traps (.movfGet la x d)) ∧ (∀ la a, traps (.movfPutF32 la x a))
    ∧ (∀ la a, traps (.movfPutI32 la x a)) ∧ ∀ g, old.tag = some g → s.tankInfoOf k x = g.2 ++ g.1 ++ (0#7) ++ x) ∧
  (∀ (u : Tile) (g : DWord) (j : Nat),
    let z : Int := (up32 (u.elem j)).toInt + crt (lo32 (u.elem j))
    let v : Fv := match u.kind with
      | .empty => .fin false 0 1
      | .f32 => f32v (lo32 (u.elem j))
      | .res => .ofInt (max (-2147483648) (min 2147483647 z))
    let one : Nat := if u.kind = .res ∧ clamps z = true then 1 else 0
    let y := v.mul (slotScale g)
    let clamped (lo hi : Int) (enc : Int → Word) : Prop :=
      (y = .nan → u.epi g j = (enc 0, one)) ∧ (∀ neg, y = .inf neg → u.epi g j = (enc (if neg then lo else hi), one))
      ∧ ∀ neg m d, y = .fin neg m d →
        let q := y.toInt (slotRnd g)
        u.epi g j = (enc (max lo (min hi q)), one + if q < lo ∨ hi < q then 1 else 0)
    (∀ w ∈ [4, 8, 16, 32], slotElem g = .int w →
      clamped (if w = 8 ∧ slotSym g = true then -127 else -(2 ^ (w - 1))) (2 ^ (w - 1) - 1) (BitVec.ofInt 32))
    ∧ (slotElem g = .res → clamped (-8388480) 8388479 resEnc)
    ∧ ∀ f, slotElem g = .flt f →
      (y = .nan → u.epi g j = (BitVec.ofNat 32 f.cnan, one))
      ∧ (∀ neg, y = .inf neg → u.epi g j = (BitVec.ofNat 32 (f.sign neg + if slotSat g = true ∨ f.infs = false then f.top else f.infEnc), one))
      ∧ ∀ neg m d, y = .fin neg m d →
        u.epi g j = if f.overflows (slotRnd g) y then (BitVec.ofNat 32 (f.sign neg + f.top), one + 1) else (BitVec.ofNat 32 (f.round (slotRnd g) y), one)) ∧
  (s.foreign k (k.tileSlot x) = false → s.tileBusy k.core (k.tileSlot x) = false →
  (s.runs k (.mzero x) → s.goesTo k (.mzero x) (t.setTile {
    core := tile.core, slot := tile.slot, tag := tile.tag, elems := List.replicate 256 0, kind := .empty, depth := 0, lost := false, ovf := 0 }) k)
  ∧ (∀ la fs d, s.runs k (.mepi la fs d x) →
    let g := s.slot k fs
    let w := (slotElem g).width
    reads (.mepi la fs d x) (counted ((lanes.map fun l => ((List.range 8).map fun c => (tile.epi g (at_ l c)).2).sum).sum)) (8 * d.toNat) (w / 4)
      fun l j => BitVec.ofNat 32 (((List.range 8).map fun c => (tile.epi g (at_ l c)).1.toNat % 2 ^ w * 2 ^ (w * c)).sum / 2 ^ (32 * j)))
  ∧ (∀ la d, s.runs k (.movfGet la x d) →
    let excess (j : Nat) : Nat := if old.kind = .res ∧ clamps (value j) = true then 1 else 0
    reads (.movfGet la x d) (counted ((lanes.map fun l => ((List.range 8).map fun c => excess (at_ l c)).sum).sum)) (k.vnum .vd d) 8
      fun l c => match old.kind with
        | .empty => 0
        | .f32 => lo32 (old.elem (at_ l c))
        | .res => BitVec.ofInt 32 (max (-2147483648) (min 2147483647 (value (at_ l c)))))
  ∧ (∀ la a, s.runs k (.movfPutF32 la x a) → s.kindAfter k.core (k.tileSlot x) ≠ .res →
    ∃ u : Tile, s.goesTo k (.movfPutF32 la x a) (t.setTile u) k ∧ u = { tile with elems := u.elems, kind := .f32 } ∧ u.elems.length = old.elems.length
      ∧ ∀ l < 32, ∀ c < 8, at_ l c < old.elems.length →
        u.elem (at_ l c) = if k.active.getLsbD l then ((k.thread l).val l (k.vnum .va a + c)).zeroExtend 64 else old.elem (at_ l c))
  ∧ (∀ la a, s.runs k (.movfPutI32 la x a) → s.kindAfter k.core (k.tileSlot x) ≠ .f32 →
    ∃ u : Tile, s.goesTo k (.movfPutI32 la x a) (t.setTile u) k ∧ u = { tile with elems := u.elems, kind := .res } ∧ u.elems.length = old.elems.length
      ∧ ∀ l < 32, ∀ c < 8, at_ l c < old.elems.length →
        u.elem (at_ l c) = if k.active.getLsbD l then (k.thread l).val l (k.vnum .va a + c) ++ (0#32) else old.elem (at_ l c)))

/-- R285 to R287: MST and MLD on a tile as above, whose base and stride are aligned and whose every piece is checked, present and not poisoned: MST
writes the sixteen rows in order and then the trailer with the overflow count after its conversions; MLD reads sixteen rows, makes the tile of the
kind it loads, and clears OVF and LOST. That MLD reads exact data at once, having fetched or upgraded its core's copies, is the model's reading (log 9,
80); it does so once home can handle what is not held at EXACT. R286, R289: a misaligned base or stride raises MISALIGN at its row, the first byte that a
check refuses its cause, a poisoned line POISON at the first piece that meets it, and a foreign tile TANK_OWNED; an absent line parks the crew. -/
def Obligations.TileMemory : Prop := ∀ (s : State) (k : Crew) (b : BitVec 5) (sp : BitVec 6) (x : BitVec 3) (at_ : Nat → Loc),
  let t := s.bump
  let now := (s.cycles k.core).toNat
  let old := s.tileOf k x
  let tile : Tile := { old with tag := some (k.asid, (s.ctx k.asid).key) }
  let row (i : Nat) : Nat := ((k.pr b.toNat).toNat + i * (k.pr sp.toNat).toNat) % 2 ^ 64
  let piece (w : Nat) : Nat := min 16 (2 * w)
  let addrs (w : Nat) : List (Nat × Nat) :=
    (List.range 16).flatMap fun i => (List.range (2 * w / piece w)).map fun j => ((row i + j * piece w) % 2 ^ 64, piece w)
  let free (y : Loc) : Prop := match y with
    | .deck p => t.present (p / 128) = true ∧ t.poisoned (p / 128) = false
    | .skm _ => t.ring.faulted = false
    | .spill p => p / 128 ∉ k.spillBad
    | .squad _ => True
  let good (acc : Acc) (w : Nat) (ps : List (Nat × Nat)) : Prop :=
    t.memHeld k = false ∧ (k.pr b.toNat).toNat % piece w = 0 ∧ (k.pr sp.toNat).toNat % piece w = 0
      ∧ ∀ j (h : j < ps.length), t.check k acc 1 ps[j].2 ps[j].1 = .ok (at_ j) ∧ free (at_ j)
  let stores (i : Instr) (u : Tile) (w : Nat) (es : List Nat) (flags : Nat) : Prop :=
    let ps := addrs w ++ [(row 16, 4)]
    let image : List Byte := ((List.range 16).flatMap fun n => leBytes (2 * w) ((List.range 16).map fun j => es.getD (16 * n + j) 0 % 2 ^ w * 2 ^ (w * j)).sum)
      ++ leBytes 4 (u.ovf.toNat + flags)
    good .store w ps → (∀ l < 32, k.active.getLsbD l = true → (k.thread l).inreg = none) →
    ∃ (v : State) (k' : Crew), v = { t with tlb := v.tlb, walkCache := v.walkCache } ∧ k.movedFrom k k' i now
      ∧ exec i s = .next ((List.range ps.length).foldl
          (fun y j => y.locWrite k 32 (at_ j) ((image.drop (j * piece w)).take (if j + 1 = ps.length then 4 else piece w)) [] false t.fresh)
          ((v.setTile u).setCrew k'))
  let kindFlags : Nat := (if old.kind = .res then 2 ^ 16 else 0) + (if old.kind = .empty then 2 ^ 19 else 0) + (if old.lost then 2 ^ 20 else 0)
  let loads (i : Instr) (w : Nat) (kind : TileKind) (depth : BitVec 4) (f : Nat → DWord) : Prop := good .load w (addrs w) →
    (∀ j < (addrs w).length, ∀ p, at_ j = .deck p →
      (∃ c, t.copyOf k.core (p / 128) = some c ∧ c.fmt = .exact) ∨ t.lineOpen k.core k.id (p / 128) = true) →
    ∃ (v : State) (u : Tile) (k' : Crew),
      v = { t with
        tlb := v.tlb, walkCache := v.walkCache, dir := v.dir, copies := v.copies, plain := v.plain, notices := v.notices, counts := v.counts
        crews := v.crews, msgs := v.msgs, acks := v.acks, writes := v.writes, fresh := v.fresh }
      ∧ (v.crews.map fun (c : Crew) => { c with mon := [], wait := none }) = (s.crews.map fun (c : Crew) => { c with mon := [], wait := none })
      ∧ ({ k with mon := k'.mon } : Crew).movedFrom { k with mon := k'.mon } k' i now ∧ exec i s = .next ((v.setTile u).setCrew k')
      ∧ u = { tile with elems := u.elems, kind := kind, depth := depth, ovf := 0, lost := false } ∧ u.elems.length = 256
      ∧ (let byte (y : Loc) (j : Nat) : Byte := BitVec.ofNat 8 (match y with
          | .deck p => v.loadDeck .exact k 32 (p + j) 1
          | .squad p => ((s.squad? k.squad).map fun q => leNat (q.mem.readN (p + j) 1)).getD 0
          | .spill p => leNat (k.spill.readN (p + j) 1)
          | .skm p => leNat (s.skm.readN (p + j) 1))
         let image : List Byte := (List.range (addrs w).length).flatMap fun n => (List.range (piece w)).map (byte (at_ n))
         ∀ n < 16, ∀ j < 16, u.elem (16 * n + j) = f (leNat ((image.drop (2 * w * n)).take (2 * w)) / 2 ^ (w * j) % 2 ^ w))
  let access (i : Instr) (acc : Acc) (w : Nat) (ps : List (Nat × Nat)) : Prop := s.runs k i →
    let traps (c : Cause) (e : Nat) : Prop := exec i s = .next (t.trapAt k c k.active e)
    let base := (k.pr b.toNat).toNat % piece w
    let stride := (k.pr sp.toNat).toNat % piece w
    let ok (n : Nat) : Prop := ∀ h : n < ps.length, t.check k acc 1 ps[n].2 ps[n].1 = .ok (at_ n)
    let poisoned (y : Loc) : Prop := match y with
      | .deck p => t.poisoned (p / 128) = true
      | .skm _ => t.ring.faulted = true
      | .spill p => p / 128 ∈ k.spillBad
      | .squad _ => False
    let absent (line : Nat) : Prop := t.present line = false ∧ ∃ n < ps.length, ∃ p, at_ n = .deck p ∧ p / 128 = line
    (s.foreign k (k.tileSlot x) = true → exec i s = .next (t.trapAll { k with tankInfo := s.tankInfoOf k x } .tankOwned k.active))
    ∧ (s.foreign k (k.tileSlot x) = false → s.tileBusy k.core (k.tileSlot x) = false → t.memHeld k = false →
      (base ≠ 0 → traps .misalign (row 0)) ∧ (base = 0 → stride ≠ 0 → traps .misalign (row 1))
      ∧ (base = 0 → stride = 0 →
        (∀ j m c, ∀ h : j < ps.length, (∀ n < j, ok n) → (∃ d, t.check k acc 1 ps[j].2 ps[j].1 = .error d) → m < ps[j].2 →
          (∀ n < m, ∃ y, t.check k acc 1 1 (ps[j].1 + n) = .ok y) → t.check k acc 1 1 (ps[j].1 + m) = .error c → traps c (ps[j].1 + m))
        ∧ ((∀ n, ok n) → (∃ line, absent line) → s.parksOn k i acc.writes absent)
        ∧ ∀ j, ∀ h : j < ps.length, (∀ n, ok n) → (∀ line, ¬ absent line) → poisoned (at_ j) → (∀ n < j, ¬ poisoned (at_ n)) →
          traps .poison ps[j].1))
  ((∀ f, access (.mstConv b sp f x) .store (slotElem (s.slot k f)).width (addrs (slotElem (s.slot k f)).width ++ [(row 16, 4)]))
    ∧ (let w := if old.kind = .res then 64 else 32
       access (.mstRaw b sp x) .store w (addrs w ++ [(row 16, 4)]))
    ∧ (∀ f, access (.mldConv b sp f x) .load (slotElem (s.slot k f)).width (addrs (slotElem (s.slot k f)).width))
    ∧ access (.mldRawF32 b sp x) .load 32 (addrs 32) ∧ access (.mldRawRes b sp x) .load 64 (addrs 64)) ∧
  (s.foreign k (k.tileSlot x) = false → s.tileBusy k.core (k.tileSlot x) = false →
  (∀ f, s.runs k (.mstConv b sp f x) →
    let g := s.slot k f
    let es := (List.range 256).map fun j => tile.epi g j
    let u : Tile := { tile with ovf := BitVec.ofNat 16 (min (old.ovf.toNat + (es.map (·.2)).sum) 0xFFFF) }
    stores (.mstConv b sp f x) u (slotElem g).width (es.map fun e => e.1.toNat)
      (kindFlags + (if u.ovf = 0xFFFF then 2 ^ 18 else 0) + f.toNat * 2 ^ 24))
  ∧ (s.runs k (.mstRaw b sp x) → old.elems.length = 256 →
    stores (.mstRaw b sp x) tile (if old.kind = .res then 64 else 32) (old.elems.map fun e => e.toNat)
      (kindFlags + 2 ^ 17 + (if old.ovf = 0xFFFF then 2 ^ 18 else 0) + 0xFF * 2 ^ 24))
  ∧ (∀ f, s.runs k (.mldConv b sp f x) →
    let g := s.slot k f
    loads (.mldConv b sp f x) (slotElem g).width .f32 0 fun e => (widen g (BitVec.ofNat 32 e)).zeroExtend 64)
  ∧ (s.runs k (.mldRawF32 b sp x) → loads (.mldRawF32 b sp x) 32 .f32 0 fun e => BitVec.ofNat 64 e)
  ∧ (s.runs k (.mldRawRes b sp x) → loads (.mldRawRes b sp x) 64 .res 8 fun e =>
      let w := BitVec.ofNat 32 e
      BitVec.ofNat 64 (r255 w % 255 + r256 w % 256 * 256 + r257 w % 257 * 65536 + e / 2 ^ 32 * 2 ^ 32)))

/-! ## Engine commands, queues and timelines (spec/11_engines.md R291 to R310) -/

/-- R57, R228, R293, R303, R305, R308, R421: an engine command whose queue holds its entries takes them and enters its engine with its operands, and
its reply pair waits for its number; too few entries are QUEUE_FAULT; a command of the crew not yet accepted holds it back, and while the engine's
input buffer is full the crew is not ready. R15: a copy or gather command goes to its core's die, a collective to the hub, an easing or waking command to
the link engine of the link it names. A release form keeps the writes it covers, which are to be performed before its acceptance. The tag of a command in
its engine and the room of the buffer are free values, and a link beyond 31 counts modulo 32 (log 20). -/
def Obligations.EngineCommands : Prop := ∀ (s : State) (k : Crew) (r : Reply) (b a : BitVec 6) (e : BitVec 1) (l : BitVec 3),
  let t := s.bump
  let A := k.pr a.toNat
  let B := k.pr b.toNat
  let place (fn : EngFn) (x : DWord) : Nat :=
    if fn ∈ [EngFn.ease, .wake] then 5 + x.toNat % 32 else if fn ∈ [EngFn.allred, .redscat, .allgath, .barrier] then 4 else k.core / 80
  let issues (i : Instr) (fn : EngFn) (rel : Bool) (x y : DWord) (q n : Nat) : Prop := s.runs k i →
    let es := k.q.getD q []
    (t.cmdHeld k = true → exec i s = .next t)
    ∧ (t.cmdHeld k = false → es.length < n → exec i s = .next (t.takeTrapFrom k k.pc
        (((List.range 32).filter fun l => k.active.getLsbD l).map fun l => ⟨l, .queueFault, k.instrAddr⟩) 0))
    ∧ (t.cmdHeld k = false → n ≤ es.length → t.bufferFull fn k.core x = true →
      s.stops k i t k (.room (.engine (place fn x) fn.unit)))
    ∧ (t.cmdHeld k = false → n ≤ es.length → t.bufferFull fn k.core x = false → ∃ (u : State) (m k' : Crew),
      let v := if rel then t.releases k false else t
      v.impure k k.active = (u, m)
      ∧ ((∀ l < 32, k.active.getLsbD l = true → (k.thread l).inreg = none) → u = v ∧ m = k)
      ∧ k.movedFrom { m.await r with q := k.q.set q (es.drop n) } k' i (s.cycles k.core).toNat
      ∧ ∃ w, exec i s = .next w ∧ w = { u.setCrew k' with
          fresh := u.fresh + 1
          cmds := u.cmds ++ [{
            id := t.fresh, fn := fn, rel := rel, after := if rel then t.orderedIds k.id else [], crew := k.id, squad := k.squad, grid := k.grid, asid := k.asid, priv := s.privileged k
            core := k.core, tl := l.toNat, reply := r, opA := x, opB := y, args := es.take n, number := 0, delivered := 0, landed := 0, status := none
            since := 0, timeout := 0, early := [], cleared := [], waitLines := [], before := [], link := none, out := false, peers := [], ranks := 1, inbuf := []
            tag := Config.commandTag t.fresh, sent := false, acked := false, again := none }] })
  issues (.copy1 r b a e l) .copy1 (e == 1) A B 0 2 ∧ issues (.copy2 r b a e l) .copy2 (e == 1) A B 0 3
  ∧ issues (.copyt r b a e l) .copyt (e == 1) A B 0 4 ∧ issues (.fill r b a e l) .fill (e == 1) A B 0 3
  ∧ issues (.copyr r b a e l) .copyr (e == 1) A B 0 3 ∧ issues (.copyh r b a e l) .copyh (e == 1) A B 0 2
  ∧ issues (.gather r b a e l) .gather (e == 1) A B 1 3 ∧ issues (.scatter r b a e l) .scatter (e == 1) A B 1 3
  ∧ issues (.scatadd r b a e l) .scatadd (e == 1) A B 1 3 ∧ issues (.gatherq r b e l) .gatherq (e == 1) 0 B 1 3
  ∧ issues (.allred r b a e l) .allred (e == 1) A B 3 3 ∧ issues (.redscat r b a e l) .redscat (e == 1) A B 3 3
  ∧ issues (.allgath r b a e l) .allgath (e == 1) A B 3 3 ∧ issues (.barrier r a e l) .barrier (e == 1) A 0 3 1
  ∧ issues (.ease r b a l) .ease false A B 4 1 ∧ issues (.wake r b a l) .wake false A B 4 0

/-- R228, R294, R296, R297, R298, R302 to R310: acceptance, for a release form once the writes it covers are performed, numbers the command, makes its
destination lines absent, replies and frees its room; an accepted command moves its bytes unit by unit; a complete command whose bytes home has written
leaves with its status word in its timeline, its lines present, poisoned if it failed, DONE behind the commands still in flight and FAILS counted; one whose
read starts again reads once more what it has used (R313, log 41); a timeout, a peer that leaves, a link that carries nothing and the teardown of its context end it with a status. Overlapping moves, undelivered bytes and
the order of a scatter are free (log 13, 14, 15); that bytes move in units of at most 16, and that a release form waits at its acceptance, are the model's
readings (log 39, 24); what a peer package answers is an input (log 1). -/
def Obligations.EngineProgress : Prop := ∀ (s : State) (c : Cmd), s.cmd? c.id = some c →
  (∀ d, c.number = 0 → s.orderedDone c.after = true → s.prepare { c with waitLines := s.absentNow } = .ready d → d.id = c.id →
    let tl := s.timeline d.squad d.tl
    let n := tl.issued + 1
    let lines := if d.fn ∈ [EngFn.gatherq, .ease, .wake] ∨ (d.fn = .copyr ∧ d.out = true) then [] else s.dstLines d d.order 0 d.total
    let d' : Cmd := { d with number := n.toNat, cleared := lines, since := s.time.toNat }
    ∃ u, exec (.engineAcceptance c.id) s = .next ((u.replyTo d.crew d.reply n).freeRoom fun h =>
        h == .engine (if d.fn ∈ [EngFn.ease, .wake] then 5 + d.opA.toNat % 32
          else if d.fn ∈ [EngFn.allred, .redscat, .allgath, .barrier] then 4 else d.core / 80) d.fn.unit)
      ∧ u = ((lines.foldl (fun v j => v.clearLine j d.id)
          ((s.setTimeline d.squad d.tl { tl with issued := n, window := tl.window.filter fun w => decide (n.toNat < w.1 + 64) }).setCmd d')).queueLink d')
      ∧ (d.fn ≠ .ease → d.fn ≠ .wake → ∀ j ∈ lines, u.present j = false))
  ∧ (c.number = 0 → s.orderedDone c.after = false → exec (.engineAcceptance c.id) s = .next s)
  ∧ (∀ from_ len peers, c.number ≠ 0 → c.status = none → c.acked = false → c.again = some from_ →
    exec (.engineChunkDelivered c.id len peers) s = .next (s.bump.reread c from_))
  ∧ (c.number ≠ 0 → c.status = none → c.acked = false → c.again = none → ∀ len peers,
    let t := s.bump
    let ends (u : State) : Prop := exec (.engineChunkDelivered c.id len peers) s = .next u
    (c.fn ∈ [EngFn.copy1, .copy2, .copyt, .fill, .copyh, .gather, .scatter, .scatadd] → ends (t.moveChunk c len))
    ∧ (c.fn = .gatherq → ends ((t.pushWords c (min 16 len)).markedBy c))
    ∧ (c.fn = .copyr → c.out = true → ends ((t.sendPiece c).markedBy c))
    ∧ (c.fn = .copyr → c.out = false → c.peers ≠ [] → ends (if c.sent then t.moveChunk c len else t.sendRequests c))
    ∧ (c.fn ∈ [EngFn.allred, .redscat, .allgath, .barrier] → ends (t.collect c peers)
      ∧ (let others := peers.eraseIdx (c.peers.idxOf Config.packageId)
         let agrees (p : PeerCommand) : Prop := p.ok = true ∧ p.peers = c.peers ∧ (c.fn = .barrier ∨ p.e.toNat = c.arg 1)
           ∧ p.fn = match c.fn with | .allred => 1 | .redscat => 2 | .allgath => 3 | _ => 4
         peers.length = c.ranks → (∀ p ∈ others, p.tag.zeroExtend 64 = c.tag) →
         ((∃ p ∈ others, ¬ agrees p) → ends (t.failCmd c.id 5 4))
         ∧ ((∀ p ∈ others, agrees p) → c.fn = .barrier → ends (t.setCmd { c with acked := true })))))
  ∧ (∀ (x : Chunk) (order : List Nat) (d p : Nat → Nat), x.c.fn = .copy1 ∨ x.c.fn = .copyh → x.c.delivered < x.c.total →
    let k := x.c.delivered
    let dva := ((x.c.opA.toNat + k) % 2 ^ 64)
    let m := min (16 - dva % 16) (x.c.total - k)
    (∀ j < m, x.s.dstPlace x.c order (k + j) = .ok (d j) ∧ x.s.writeStop (d j) = none
      ∧ x.s.srcPlace x.c order (k + j) = .ok (p j) ∧ x.s.readStop x.c (p j) = none) →
    let y := x.unit order
    y.stop = x.stop ∧ y.c.delivered = k + m
      ∧ y.pend = ((List.range m).map fun j => (d j, x.source (p j) (k + j))).reverse ++ x.pend)
  ∧ (c.complete = true → s.owesWrites c = false →
    let code := c.status.getD (0, 0)
    let word : DWord := BitVec.ofNat 64 (code.1.toNat + 256 * code.2.toNat + 2 ^ 32 * min c.bytes 0xFFFFFFFF)
    let u := if code.1 = 0 then s else (s.land c (c.total - c.landed)).spoil c
    let v := c.cleared.foldl (fun x j => x.settleLine j c.id (code.1 != 0) false) (u.awaitLate c)
    let tl := v.timeline c.squad c.tl
    let w : State := { v with cmds := v.cmds.filter fun x => x.id != c.id, reading := v.reading.filter fun x => x.2 != c.id }
    exec (.commandCompletion c.id) s = .next (((w.setTimeline c.squad c.tl { tl with
      window := if tl.issued.toNat < c.number + 64 then tl.window ++ [(c.number, word)] else tl.window
      fails := if code.1 = 0 then tl.fails else tl.fails + 1
      done := match ((w.cmds.filter fun x => x.squad == c.squad && x.tl == c.tl && x.number != 0).map fun x => x.number).min? with
        | none => tl.issued
        | some n => BitVec.ofNat 64 (n - 1) }).atsEnd c.id).doFlips.pollWaitc))
  ∧ (let fails (i : Instr) (hit : Cmd → Prop) (status : Cmd → BitVec 8 × BitVec 8) : Prop :=
       ∃ t, exec i s = .next t ∧ t = { s with cmds := t.cmds } ∧ t.cmds.length = s.cmds.length
         ∧ ∀ j (h : j < s.cmds.length) (h' : j < t.cmds.length),
           (hit s.cmds[j] → s.cmds[j].status = none → t.cmds[j] = { s.cmds[j] with status := some (status s.cmds[j]) })
           ∧ (¬ hit s.cmds[j] → t.cmds[j] = s.cmds[j])
     (s.cmds.map fun x => x.id).Nodup →
     (∀ first, c.fn ∈ [EngFn.allred, .redscat, .allgath, .barrier] → c.number ≠ 0 → c.acked = false → first ≤ c.since →
       first + c.timeout ≤ s.time.toNat → fails (.collectiveTimeout ⟨c.id, first⟩) (fun x => x.id = c.id) fun _ => (4, 2))
     ∧ (∀ pkg, fails (.peerLeaves pkg) (fun x => x.number ≠ 0 ∧ pkg ∈ x.peers ∧ x.complete = false)
         fun x => (4, if x.fn = .copyr then 1 else 2))
     ∧ (∀ n, c.link = some n → (s.link n).speaks = false → fails (.flitWaitTimeout c.id) (fun x => x.id = c.id) fun _ => (4, 1))
     ∧ (∀ asid, (∀ g ∈ s.ergs, g.asid = asid → g.state = .idle) →
         fails (.contextTeardown asid) (fun x => x.asid = asid ∧ x.complete = false) fun _ => (5, 3)))

/-- R56, R57, R295 to R299, R420: a push enters its queue's end, a full queue holds the crew, q2 and q6 to q15 are QUEUE_FAULT; QPOP takes q2's oldest word,
and an empty q2 holds the crew while its squad gathers; the crew goes on when its queue can serve it. TLWAIT replies with FAILS once DONE reaches
its target, at most ISSUED; TLRD replies with the timeline's words, and with PENDING or GONE for a number outside its window. -/
def Obligations.QueuesAndTimelines : Prop := ∀ (s : State) (k : Crew) (r : Reply) (a : BitVec 6) (l : BitVec 3),
  let t := s.bump
  let tl := s.timeline k.squad l.toNat
  let A := (k.pr a.toNat).toNat
  let fault : State := t.takeTrapFrom k k.pc (((List.range 32).filter fun l => k.active.getLsbD l).map fun l => ⟨l, .queueFault, k.instrAddr⟩) 0
  let pushes (i : Instr) (q : BitVec 4) (d : DWord) : Prop := s.runs k i →
    let es := k.q.getD q.toNat []
    (q = 2 ∨ 6 ≤ q.toNat → exec i s = .next fault)
    ∧ (q ≠ 2 → q.toNat < 6 → 16 ≤ es.length → s.stops k i t k (.queue q.toNat true))
    ∧ (q ≠ 2 → q.toNat < 6 → es.length < 16 → s.goesTo k i t { k with q := k.q.set q.toNat (es ++ [d]) })
  (∀ x q, pushes (.qpush x q) q (k.sc (x.toNat + 1) ++ k.sc x.toNat) ∧ pushes (.qpushS x q) q ((k.sc x.toNat).zeroExtend 64))
  ∧ (∀ q d, s.runs k (.qpop q d) →
    let gathers : Prop := ∃ c ∈ s.cmds, c.squad = k.squad ∧ c.fn ∈ [EngFn.gather, .scatter, .scatadd, .gatherq]
    (q ≠ 2 ∨ k.q.getD 2 [] = [] ∧ ¬ gathers → exec (.qpop q d) s = .next fault)
    ∧ (q = 2 → k.q.getD 2 [] = [] → gathers → s.stops k (.qpop q d) t k (.queue 2 false))
    ∧ (∀ w rest, q = 2 → k.q.getD 2 [] = w :: rest → s.goesTo k (.qpop q d) t
        { k with s := (k.s.set d.toNat (w.extractLsb' 0 32)).set (d.toNat + 1) (w.extractLsb' 32 32), q := k.q.set 2 rest }))
  ∧ (∀ c q push, s.crew? c.id = some c → c.wait = some (.queue q push) →
    (if push then (c.q.getD q []).length < 16 else c.q.getD q [] ≠ [] ∨ s.gathering c = false) →
    exec (.queueWaitEnd c.id) s = .next (s.setCrew { c with wait := none, waitLanes := 0 }))
  ∧ (s.runs k (.tlwait r a l) →
    let m := min A tl.issued.toNat
    (m ≤ tl.done.toNat → ∃ k', k.movedFrom (k.reply r tl.fails) k' (.tlwait r a l) (s.cycles k.core).toNat
      ∧ exec (.tlwait r a l) s = .next ((t.setCrew k').acquires k))
    ∧ (tl.done.toNat < m → s.stops k (.tlwait r a l) t k (.tlwait l.toNat m r)))
  ∧ (∀ c j m, s.crew? c.id = some c → c.wait = some (.tlwait j m r) → m ≤ (s.timeline c.squad j).done.toNat →
    exec (.tlwaitComplete c.id) s = .next (s.wakes (c.reply r (s.timeline c.squad j).fails)))
  ∧ (s.runs k (.tlrdSt r a l) → s.goesTo k (.tlrdSt r a l) t (k.reply r (
      if A = 0 ∨ tl.issued.toNat < A ∨ A + 64 ≤ tl.issued.toNat then 0x81
      else ((tl.window.find? fun w => w.1 == A).map fun w => w.2).getD 0x80)))
  ∧ (s.runs k (.tlrdIssued r l) → s.goesTo k (.tlrdIssued r l) t (k.reply r tl.issued))
  ∧ (s.runs k (.tlrdDone r l) → s.goesTo k (.tlrdDone r l) t (k.reply r tl.done))
  ∧ (s.runs k (.tlrdFails r l) → s.goesTo k (.tlrdFails r l) t (k.reply r tl.fails))

/-! ## Strokes and the Cox ring (spec/12_stroke.md R319 to R342) -/

/-- R230, R320, R326, R334, R335: a stroke on an aligned word of the replica inside the context's window enters the outbound queue with its fields and
its reply pair waits for its number, when the queue has room, the ring is not DOWN, and for a release what it covers is performed; until then
the crew waits, and enters it later. CLAIM and SWAP take their second operand from q5. A misaligned word raises MISALIGN, one outside the stroke space
FAR_ACCESS and one outside the context's window PROT, the word of a SWAP's receipt too, and an empty q5 raises QUEUE_FAULT. R336, R337: WSTRK replies with SK_APPLIED, or the note's
number, once it has reached the target, which is an acquire, and with bit 63 while the replica is in FAULT, and waits until then; STRKN replies with SK_APPLIED, a note, or the ring's
status word. -/
def Obligations.Strokes : Prop :=
  (∀ (s : State) (k : Crew) (r : Reply) (b a : BitVec 6) (e w : BitVec 1),
    let t := s.bump
    let now := (s.cycles k.core).toNat
    let n := if w = 1 then 8 else 4
    let va := (k.pr a.toNat).toNat
    let off := va - 0xFFFC00000000
    let win := (s.ctx k.asid).skmWin.toNat
    let inside (o : Nat) : Prop := o % n = 0 ∧ o + n ≤ 2 ^ 22 ∧ win % 2 ^ 22 ≤ o ∧ o + n ≤ win % 2 ^ 22 + win / 2 ^ 22 % 2 ^ 23
    let q5 := k.q.getD 5 []
    let stroke (kind o : Nat) (width : BitVec 1) (p0 p1 : DWord) : Stroke := {
      kind := BitVec.ofNat 8 kind, flags := BitVec.ofNat 8 (width.toNat + 32 * e.toNat + if s.privileged k then 64 else 0)
      core := BitVec.ofNat 9 k.core, offset := BitVec.ofNat 64 o, p0 := p0, p1 := p1 }
    let room : Prop := (e = 1 → t.coveredDone k.id = true ∧ t.remoteAcked k.id = true) ∧ s.ring.outq.length < 64 ∧ s.ring.state ≠ .down
    let enters (i : Instr) (x : Stroke) (takes : Bool) : Prop := s.runs k i → t.cmdHeld k = false → ∃ (u : State) (m : Crew),
      t.impure k k.active = (u, m) ∧ ((∀ l < 32, k.active.getLsbD l = true → (k.thread l).inreg = none) → u = t ∧ m = k)
      ∧ (room → ∃ (c k' : Crew) (v : State), c = (if takes then { m.await r with q := m.q.set 5 ((m.q.getD 5 []).drop 1) } else m.await r)
        ∧ k.movedFrom c k' i now ∧ exec i s = .next v
        ∧ v = { u.setCrew k' with ring := { u.ring with outq := u.ring.outq ++ [(x, some (k.id, r))] } })
      ∧ (¬ room → s.stops k i u m (.strk x takes r))
    let addressed (i : Instr) (x : Nat) : Prop :=
      let trap (c : Cause) : Prop := exec i s = .next (t.trapAt k c k.active x)
      (x % n ≠ 0 → trap .misalign) ∧ (x % n = 0 → x < 0xFFFC00000000 ∨ 2 ^ 48 ≤ x → trap .farAccess)
      ∧ (x % n = 0 → 0xFFFC00000000 ≤ x → x < 2 ^ 48 → ¬ inside (x - 0xFFFC00000000) → trap .prot)
    (∀ i ∈ [Instr.skStore r b a e w, .skAdd r b a e w, .skMax r b a e w, .skClaim r b a e w, .skSwap r b a e w],
      s.runs k i → t.cmdHeld k = false → addressed i va)
    ∧ (0xFFFC00000000 ≤ va → va < 2 ^ 48 → inside off →
      (∀ i ∈ [Instr.skClaim r b a e w, .skSwap r b a e w], s.runs k i → t.cmdHeld k = false → q5 = [] →
        exec i s = .next (t.trapAll k .queueFault k.active))
      ∧ ∀ x rest, q5 = x :: rest → s.runs k (.skSwap r b a e w) → t.cmdHeld k = false →
        addressed (.skSwap r b a e w) ((0xFFFC00000000 + x.toNat) % 2 ^ 64))
    ∧ (0xFFFC00000000 ≤ va → va < 2 ^ 48 → inside off →
      enters (.skStore r b a e w) (stroke 1 off w (k.pr b.toNat) 0) false
      ∧ enters (.skAdd r b a e w) (stroke 2 off w (k.pr b.toNat) 0) false
      ∧ enters (.skMax r b a e w) (stroke 5 off w (k.pr b.toNat) 0) false
      ∧ (∀ x rest, q5 = x :: rest → enters (.skClaim r b a e w) (stroke 3 off w (k.pr b.toNat) x) true)
      ∧ (∀ x rest, q5 = x :: rest → x.toNat < 2 ^ 22 → inside x.toNat → enters (.skSwap r b a e w) (stroke 4 off w (k.pr b.toNat) x) true))
    ∧ enters (.skGen r b e) (stroke 8 0 0 (k.pr b.toNat) 0) false
    ∧ enters (.skLaunch r b e) (stroke 9 0 0 (k.pr b.toNat) (k.asid.zeroExtend 64)) false
    ∧ enters (.skNote r b e) (stroke 10 0 0 (k.pr b.toNat) 0) false
    ∧ ∀ (c : Crew) (x : Stroke) (takes : Bool), s.crew? c.id = some c → c.wait = some (.strk x takes r) →
      (x.flags.getLsbD 5 = true → s.coveredDone c.id = true ∧ s.remoteAcked c.id = true) → s.ring.outq.length < 64 → s.ring.state ≠ .down →
      let c' : Crew := if takes then { c.await r with q := c.q.set 5 ((c.q.getD 5 []).drop 1) } else c.await r
      let v := s.setCrew c'.wake
      exec (.strokeAcceptance c.id) s = .next { v with ring := { v.ring with outq := v.ring.outq ++ [(x, some (c.id, r))] } })
  ∧ (∀ (s : State) (k : Crew) (r : Reply) (b a : BitVec 6),
    let t := s.bump
    let g := s.ring
    let note (n : Nat) : DWord := ((g.notes.find? fun x => x.1 == n).map fun x => x.2).getD 0
    let failed : DWord := BitVec.ofNat 64 (2 ^ 63 + g.applied)
    let waits (i : Instr) (w : Option Nat) (n have_ : Nat) (value : DWord) : Prop := s.runs k i →
      (g.faulted = true → s.goesTo k i t (k.reply r failed))
      ∧ (g.faulted = false → n ≤ have_ → ∃ k', k.movedFrom (k.reply r value) k' i (s.cycles k.core).toNat
        ∧ exec i s = .next ((t.setCrew k').acquires k))
      ∧ (g.faulted = false → have_ < n → s.stops k i t k (.wstrk w n r))
    let A := (k.pr a.toNat).toNat
    let B := (k.pr b.toNat).toNat % 256
    waits (.wstrk r a) none A g.applied (BitVec.ofNat 64 g.applied)
    ∧ waits (.wstrkNote r b a) (some B) A (note B).toNat (note B)
    ∧ (∀ c w n, s.crew? c.id = some c → c.wait = some (.wstrk w n r) →
      let value : DWord := match w with | none => BitVec.ofNat 64 g.applied | some j => note j
      let reached : Nat := match w with | none => g.applied | some j => (note j).toNat
      (g.faulted = true → exec (.wstrkComplete c.id) s = .next (s.setCrew (c.reply r failed).wake))
      ∧ (g.faulted = false → n ≤ reached → exec (.wstrkComplete c.id) s = .next (s.wakes (c.reply r value)))
      ∧ (g.faulted = false → reached < n → exec (.wstrkComplete c.id) s = .next s))
    ∧ (s.runs k (.strkn r) → s.goesTo k (.strkn r) t (k.reply r (BitVec.ofNat 64 g.applied)))
    ∧ (s.runs k (.strknNote r a) → s.goesTo k (.strknNote r a) t (k.reply r (note (A % 256))))
    ∧ (s.runs k (.strknStat r) → s.goesTo k (.strknStat r) t (k.reply r (BitVec.ofNat 64 (
        (match g.state with | .down => 0 | .inService => 1 | .lagging => 2 | .fault => 3) + (if g.standby then 2 ^ 2 else 0)
          + (if g.alone then 2 ^ 3 else 0) + g.burst % 32 * 2 ^ 4 + g.n % 128 * 2 ^ 9 + min (g.counted - g.applied) 0xFFFF * 2 ^ 16
          + g.repairs.toNat * 2 ^ 32)))))

/-- R319 to R324, R327 to R331, R335, R339 to R342: a package that holds the token with nothing missing sends up to BURST strokes with the next
numbers and passes the token on; the next stroke in order is applied once, by its kind, and SK_APPLIED follows; a repair request makes the strokes
named owed; a break of one loop leaves the standby loop, which is a spare taken, and its downstream package sends the count-collection symbol; the
symbol goes on with the highest number; a break of both leaves the ring DOWN; in a device with firmware an initialisation or a resynchronisation sets
replica and numbering, and a package that joins takes the ring's N and BURST. That an initialisation clears STANDBY is the model's choice (log 83). The
other packages of the ring are inputs (log 1). -/
def Obligations.CoxRing : Prop := ∀ (s : State),
  let g := s.ring
  let top := max g.counted g.sent
  (∀ number : BitVec 32, g.state = .inService → g.missing = [] → g.owed = [] → g.alone = false → number = BitVec.ofNat 32 (g.counted + 1) →
    let m := min g.burst g.outq.length
    ∃ u, exec (.coxToken number) s = .next u ∧ u.ring = { g with
        outq := g.outq.drop m, sent := if m = 0 then g.sent else top + m, history := u.ring.history
        out := g.out ++ (g.outq.take m).mapIdx fun j x => x.1.record (top + 1 + j)
        tokenOut := some (BitVec.ofNat 32 (top + m + 1)), holding := false }
      ∧ (∀ x id r, g.outq = [(x, some (id, r))] → 1 ≤ g.burst → u.crews = (s.replyTo id r (BitVec.ofNat 64 (top + 1))).crews))
  ∧ (g.state = .down → ∀ number, exec (.coxToken number) s = .next s)
  ∧ (∀ rec : BitVec 512, g.state = .inService → g.missing = [] → g.held = [] → g.applied = g.counted → recGood rec = true →
    let f (o n : Nat) : Nat := rec.toNat / 256 ^ o % 256 ^ n
    let kind := f 0 1
    let w := if f 1 1 % 2 = 1 then 8 else 4
    let off := f 8 8
    let p0 := f 16 8
    let p1 := f 24 8
    let word (o : Nat) : Prop := o % w = 0 ∧ o + w ≤ 2 ^ 22
    let old := leNat (s.skm.readN off w)
    let put (m : Memory) (o v : Nat) : Memory := m.writeN o (leBytes w (v % 2 ^ (8 * w)))
    kind ≠ 0x0F → f 1 1 < 128 → f 4 4 = (g.counted + 1) % 2 ^ 32 →
    ∃ u, exec (.strokeReceive rec) s = .next u ∧ u.ring.applied = g.applied + 1 ∧ u.ring.counted = g.counted + 1 ∧ u.ring.state = .inService
      ∧ u.ring.held = [] ∧ u.ring.missing = []
      ∧ (f 1 1 / 2 % 16 = 0 → f 2 2 < 2 ^ 15 → f 56 4 = 0 →
        (kind = 1 → word off → u.skm = put s.skm off p0)
        ∧ (kind = 2 → word off → u.skm = put s.skm off (old + p0))
        ∧ (kind = 3 → word off → old = p1 % 2 ^ (8 * w) → u.skm = put s.skm off p0)
        ∧ (kind = 3 → old ≠ p1 % 2 ^ (8 * w) → u.skm = s.skm)
        ∧ (kind = 4 → word off → word p1 → u.skm = put (put s.skm off p0) p1 old)
        ∧ (kind = 5 → word off → u.skm = put s.skm off (max old (p0 % 2 ^ (8 * w))))
        ∧ (kind = 8 → (u.ctx (BitVec.ofNat 12 p0)).gen = (s.ctx (BitVec.ofNat 12 p0)).gen + 1)
        ∧ (kind = 10 → (u.ring.notes.find? fun x => x.1 == p0 % 256) = some (p0 % 256, BitVec.ofNat 64 (g.counted + 1)))
        ∧ (kind ∉ [1, 2, 3, 4, 5, 9] → u.skm = s.skm)))
  ∧ (∀ rec : BitVec 512, g.state ≠ .down → recGood rec = true → rec.toNat % 256 = 0x0F →
    let a := rec.toNat / 256 ^ 16 % 256 ^ 8
    let b := rec.toNat / 256 ^ 24 % 256 ^ 8
    exec (.repairRequest rec) s = .next { s with ring := { g with
      owed := g.owed ++ (g.history.map fun h => h.1).filter fun n => decide (a ≤ n) && decide (n ≤ b) && !g.owed.contains n } })
  ∧ (∀ downstream, exec (.waveguideBreak ⟨true, downstream⟩) s
      = .next (({ s with ring := { g with state := .down, tokenOut := none, holding := false } } : State).event 0x32 4 0 0xFFFF []))
  ∧ (∀ downstream,
    let w : State := if g.standby then s else
      ({ s with spared := true, spares := s.spares ++ [.coxWaveguide], ring := { g with standby := true } } : State).event 0x40 4 0 0xFFFF
        [(0x5000, 2), (match s.dev with | .starting => 0 | .reduced => 1 | .full => 2 | .failed => 3, 1)]
    exec (.waveguideBreak ⟨false, downstream⟩) s = .next (({ w with ring := { g with
      standby := true
      tokenOut := if downstream ∧ g.state ≠ .down then none else g.tokenOut
      holding := if downstream ∧ g.state ≠ .down then false else g.holding
      symbolOut := if downstream ∧ g.state ≠ .down then some top else g.symbolOut } } : State).event 0x30 4 0 0xFFFF []))
  ∧ (∀ highest, g.state ≠ .down → exec (.countCollection highest false) s = .next { s with ring := { g with
      tokenOut := none, holding := false, symbolOut := some (max highest.toNat top) } })
  ∧ (∀ highest, g.state = .inService → g.missing = [] → g.owed = [] → g.alone = false → highest.toNat ≤ g.counted → g.sent ≤ g.counted →
    ∃ u, exec (.countCollection highest true) s = .next u ∧ u.ring.symbolOut = none
      ∧ u.ring.tokenOut = some (BitVec.ofNat 32 (g.counted + min g.burst g.outq.length + 1)))
  ∧ (s.dev ≠ .failed ∨ s.fwOk = true → ∀ n burst alone, ∃ u, exec (.ringInitialisation n burst alone) s = .next u ∧ u.skm = []
      ∧ u.ring = { g with
        state := .inService, standby := false, alone := alone, burst := max 1 (min burst 16), n := if alone then 1 else max 1 (min n 64)
        applied := 0, counted := 0, sent := 0, notes := [], held := [], missing := [], history := [], owed := [], out := [], tokenOut := none
        holding := false, symbolOut := none, faulted := false })
  ∧ (∀ replica notes (j : BitVec 64) n burst, s.dev ≠ .failed ∨ s.fwOk = true → (Memory.wf replica = true) → (∀ c ∈ replica, c.1 < 2 ^ 22) → g.counted ≤ j.toNat →
    ∃ u, exec (.replicaResync replica notes ⟨j, n, burst⟩) s = .next u ∧ u.skm = replica ∧ u.ring.state = .inService ∧ u.ring.faulted = false
      ∧ u.ring.applied = j.toNat ∧ u.ring.counted = j.toNat ∧ u.ring.missing = [] ∧ u.ring.held = []
      ∧ (g.state = .down → u.ring.n = max 1 (min n 64) ∧ u.ring.burst = max 1 (min burst 16)))

/-! ## Approximation (spec/13_approx.md R345 to R370) -/

/-- R348, R350, R352, R356 to R359, R365, R366: APXE and APXL of an unbound slot pass. APXE arms an IDLE slot as its descriptor says, once the lines of
its image are present; at a slot of another tag it raises ERG_OWNED, away from ENTRY ILLEGAL, at an IN or OUT register out of bounds REG_BOUND. It counts
the invocation. A thread of a RETIRED slot, or one inside a region, runs on and counts a true run. In FITTED, in the box and not sampled, it takes the
network's outputs and goes to EXIT. Else it enters the region: in OBSERVE and TRIAL, and sampled in FITTED, in the box, with a pending entry while one
is free, which holds the network's outputs but in OBSERVE; in FALLBACK it counts towards COOLDOWN, which ends the fallback. APXL ends the thread's
region. A current entry of OBSERVE adds its sample, and MINSAMP of them start training; one of TRIAL or FITTED is compared, and its error goes into the
window and decides as R358 gives. The ICNT of a sample is that of its APXE (log 90). -/
def Obligations.ApproximatedRegions : Prop := ∀ (s : State) (k : Crew) (sl : BitVec 4),
  let t := s.bump
  let e := s.erg (dieOf k.core) sl.toNat
  let now := (s.cycles k.core).toNat
  let E := ((s.grid? k.grid).map (·.entry.toNat)).getD 0
  (s.runs k (.apxe sl) → s.bindVa k sl.toNat = none → s.goesTo k (.apxe sl) t k)
  ∧ (s.runs k (.apxl sl) → s.bindVa k sl.toNat = none → s.goesTo k (.apxl sl) t k)
  ∧ (∀ va, s.runs k (.apxe sl) → s.bindVa k sl.toNat = some va →
    (e.state ≠ .idle → s.ergMine k e = false → exec (.apxe sl) s = .next (t.trapAll k .ergOwned k.active))
    ∧ (s.ergMine k e = true → e.state ≠ .retired → k.pc ≠ rel48 E e.desc.entry → exec (.apxe sl) s = .next (t.trapAll k .illegal k.active))
    ∧ (s.ergMine k e = true → e.state ≠ .retired → k.pc = rel48 E e.desc.entry → (∃ r ∈ e.desc.ins ++ e.desc.outs, k.n ≤ r) →
      exec (.apxe sl) s = .next (t.trapAll k .regBound k.active))
    ∧ (e.state = .idle → t.armAbsent k sl.toNat va ≠ [] → s.stops k (.apxe sl) t k (.park (t.armAbsent k sl.toNat va))))
  ∧ (∀ va u, s.runs k (.apxe sl) → s.bindVa k sl.toNat = some va →
      (s.ergMine k e = true ∧ u = t) ∨ (e.state = .idle ∧ t.armAbsent k sl.toNat va = [] ∧ u = t.arm k sl.toNat va) →
    let e := u.erg (dieOf k.core) sl.toNat
    let count := k.icnt.getD sl.toNat 0 + 1
    let k1 : Crew := { k with icnt := k.icnt.set sl.toNat count }
    let ran : ErgSlot := { e with trueRuns := e.trueRuns + 1 }
    let runsOn (w : ErgSlot) : Prop := ∃ k' : Crew, exec (.apxe sl) s = .next ((u.setErg w).setCrew k') ∧ k.movedFrom k1 k' (.apxe sl) now
    (e.state = .retired → runsOn
      { e with trueRuns := e.trueRuns + BitVec.ofNat 32 ((List.range 32).filter fun l => k.active.getLsbD l).length })
    ∧ (∀ l < 32, l < k.threads.length → k.active = 1#32 <<< l → e.state ≠ .retired → k.pc = rel48 E e.desc.entry →
      (∀ r ∈ e.desc.ins ++ e.desc.outs, r < k.n) →
      ((k.thread l).inreg ≠ none → (e.state = .fallback → e.cooled < e.desc.cooldown) → runsOn ran)
      ∧ ((k.thread l).inreg = none →
        let x := e.desc.ins.map fun r => (k.thread l).val l r
        let box := e.desc.inBox x
        let pick := sampled sl.toNat e.shift.toNat l k.cid count
        let full : Prop := 4096 ≤ (u.pending.filter fun p => p.die == e.die).length
        let asked : Prop := box = true ∧ (e.state = .observe ∨ e.state = .trial ∨ e.state = .fitted ∧ pick = true)
        let after (k' : Crew) : Prop := k' =
            { k1 with threads := k'.threads, rep := k.repAfter, loads := k.loadsAfter (.apxe sl) k.loads, raised := 0, age := 0, passed := 0, lastIssue := now }
          ∧ k'.threads.length = k.threads.length
          ∧ ∀ m < k.threads.length, m ≠ l → k'.thread m = { k.thread m with yex := k.yexAfter m, win := (k'.thread m).win }
        let enters (k' : Crew) (recd : Bool) : Prop := after k' ∧ (k'.thread l).inreg = some { slot := sl.toNat, recd := recd }
          ∧ (k'.thread l).v = (k.thread l).v ∧ (k'.thread l).pcv = k.pcAfter (.apxe sl) l
        (e.state = .fitted → box = true → pick = false → ∃ (k' : Crew) (y : Thread),
          exec (.apxe sl) s = .next ((u.setErg { e with subst := e.subst + 1 }).setCrew k') ∧ after k'
            ∧ y = (k.thread l).puts l (e.desc.outs.zip (e.net x)) ∧ (k'.thread l).v = y.v
            ∧ (k'.thread l).pcv = BitVec.ofNat 48 (rel48 E e.desc.exit / 2 * 2) ∧ (k'.thread l).inreg = none)
        ∧ (asked → ¬ full → ∃ k' : Crew, enters k' true
          ∧ exec (.apxe sl) s = .next { (u.setErg ran).setCrew k' with
              pending := {
                die := e.die, slot := e.slot, crew := k.id, lane := l, x := x, p := if e.state = .observe then none else some (e.net x)
                epoch := e.epoch, icnt := count } :: u.pending })
        ∧ (asked → full → ∃ k' : Crew, enters k' false
          ∧ exec (.apxe sl) s = .next ((u.setErg { ran with drops := e.drops + 1 }).setCrew k'))
        ∧ (box = false → e.state ≠ .fallback → ∃ k' : Crew, enters k' false ∧ exec (.apxe sl) s = .next ((u.setErg ran).setCrew k'))
        ∧ (e.state = .fallback →
          let cooled : ErgSlot := { ran with cooled := e.cooled + 1 }
          ∃ k' : Crew, enters k' false
            ∧ (e.cooled + 1 < e.desc.cooldown → exec (.apxe sl) s = .next ((u.setErg cooled).setCrew k'))
            ∧ (e.desc.cooldown ≤ e.cooled + 1 → exec (.apxe sl) s = .next
              (((u.setErg cooled).setCrew k').ergGo { cooled with window := [], winNext := 0, buffer := [], tries := 0 } .observe))))))
  ∧ (∀ va,
    let fresh : ErgSlot := { ErgSlot.idle (dieOf k.core) sl.toNat with asid := k.asid, descVa := va, base := E, epoch := e.epoch }
    let refused : State := s.ergGo { fresh with reason := 2 } .retired
    (s.readDesc k va sl.toNat k.n = none → s.arm k sl.toNat va = refused)
    ∧ ∀ bs d, s.readDesc k va sl.toNat k.n = some (bs, d) →
      let weights : Option (List (BitVec 16)) := if d.preload then s.preloadImage k.core k.asid (s.privileged k) d else some (d.initial sl.toNat)
      (s.regionMarked k E sl.toNat d = false ∨ weights = none → s.arm k sl.toNat va = refused)
      ∧ ∀ w, s.regionMarked k E sl.toNat d = true → weights = some w →
        let set : ErgSlot := { fresh with
          desc := d, weights := w, shift := BitVec.ofNat 4 (bs.getD 5 0).toNat, det := (bs.getD 7 0).getLsbD 0 }
        let unwatched : State := s.ergGo { set with reason := 4 } .retired
        (s.watchLines k E va d = none → s.arm k sl.toNat va = unwatched)
        ∧ ∀ ls, s.watchLines k E va d = some ls →
          let all := (((s.ergs.filter fun x => x.die == dieOf k.core).flatMap fun x => x.watched) ++ ls).dedup
          (65536 < all.length → s.arm k sl.toNat va = unwatched)
          ∧ (all.length ≤ 65536 → s.arm k sl.toNat va =
            (s.ergGo { set with watched := ls } (if d.preload then if d.trust then .fitted else .trial else .observe)).watch (dieOf k.core) ls))
  ∧ (∀ va l r, s.runs k (.apxl sl) → s.bindVa k sl.toNat = some va → (s.ergMine k e = true → ∀ o ∈ e.desc.outs, o < k.n) →
    l < 32 → l < k.threads.length → k.active = 1#32 <<< l → (k.thread l).inreg = some r → r.slot = sl.toNat →
    let left : Crew := { k with threads := k.threads.set l { k.thread l with inreg := none } }
    let mine (p : ErgPending) : Bool := p.die == e.die && p.slot == sl.toNat && p.crew == k.id && p.lane == l
    ((∀ p ∈ s.pending, mine p = false) → s.goesTo k (.apxl sl) t left)
    ∧ (∀ p, s.pending.find? mine = some p → r.recd = true → p.epoch = e.epoch → s.ergMine k e = true →
      let y := e.desc.outs.map fun o => (k.thread l).val l o
      let ends (w : State) : Prop := ∃ c k', w.crew? k.id = some c
        ∧ k.movedFrom { c with threads := c.threads.set l { c.thread l with inreg := none } } k' (.apxl sl) now
        ∧ exec (.apxl sl) s = .next (({ w with pending := w.pending.filter fun q => !mine q } : State).setCrew k')
      (e.state = .observe →
        let grown : ErgSlot := { e with buffer := e.buffer ++ [{ x := p.x, y := y, cid := k.cid, icnt := p.icnt, lane := p.lane }] }
        (e.buffer.length + 1 < e.desc.minsamp → ends (t.setErg grown))
        ∧ (e.desc.minsamp ≤ e.buffer.length + 1 → e.det = false → ends (t.ergGo { grown with trained := 0 } .train))
        ∧ (e.desc.minsamp ≤ e.buffer.length + 1 → e.det = true → ∃ b : List Sample,
          b.Perm grown.buffer ∧ b.Pairwise (fun x z => (x.cid.toNat * 2 ^ 32 + x.icnt.toNat) * 32 + x.lane ≤ (z.cid.toNat * 2 ^ 32 + z.icnt.toNat) * 32 + z.lane)
            ∧ ends (t.ergGo { grown with buffer := b, trained := 0 } .train)))
      ∧ (let err := e.desc.error (p.p.getD []) y
        let wide := e.desc.window
        let seen : ErgSlot := { e with
          window := if e.window.length < wide then e.window ++ [err] else e.window.set e.winNext err, winNext := (e.winNext + 1) % max 1 wide, lastE := err }
        let above (limit m : Word) : Bool := (f32v limit).lt (f32v m)
        let mean : Word := f32r ((Fv.sum (seen.window.map f32v)).div (.ofInt wide))
        (e.state = .fitted →
          let bad := above e.desc.errSpike err || (e.desc.ok && decide (wide ≤ seen.window.length) && above e.desc.errLimit mean)
          (bad = true → ends (t.ergGo { seen with fallbacks := if e.fallbacks = 0xFFFF then 0xFFFF else e.fallbacks + 1, cooled := 0 } .fallback))
          ∧ (bad = false → ends (t.setErg seen)))
        ∧ (e.state = .trial →
          let due := decide (e.desc.trial ≤ e.compared + 1)
          let bad := above e.desc.errSpike err || (due && above e.desc.errLimit mean)
          let again : ErgSlot := { seen with buffer := [], tries := e.tries + 1, compared := 0 }
          (bad = true → e.tries < 3 → ends (t.ergGo again .observe))
          ∧ (bad = true → 3 ≤ e.tries → ends (t.ergGo { again with reason := 3 } .retired))
          ∧ (bad = false → due = true → ends (t.ergGo { seen with compared := e.compared + 1 } .fitted))
          ∧ (bad = false → due = false → ends (t.setErg { seen with compared := e.compared + 1 }))))))
  ∧ (s.runs k (.apxl sl) → s.bindVa k sl.toNat ≠ none → s.ergMine k e = true → (∃ o ∈ e.desc.outs, k.n ≤ o) →
    exec (.apxl sl) s = .next (t.trapAll k .regBound k.active))

/-- R348, R349, R358, R364, R367 to R369: APXI invalidates the slot it names, APXI.all every slot of the context on the die, and the replies tell how
many took it; an invalidated slot without PRELOAD observes again from its initial weights. APXQ replies with the slot's words. APXC arms an IDLE slot,
but for reset; it retires, resets, sets SHIFT or DET, loads or dumps the weight image, and replies with the state word after it; code 3 where the grid
does not bind the slot, code 2 where no accepted descriptor gives the image's size. APXI and APXC of a slot of another tag raise ERG_OWNED. An image that
is misaligned, fails a check of R196 or is poisoned traps at its first bad byte, and one with absent lines parks the crew. R254, R354, R355, R358, R360,
R370: APXS.save writes the slot's image and leaves the slot IDLE, with code 2 for an IDLE one; APXS.load of an IDLE slot takes the image, with code 1
otherwise; the fields the image does not hold are free (log 21); APXS.drop leaves the slot IDLE. That all but EPOCH goes as a slot becomes IDLE, so that a
reset replies 0, is log 44. A notification invalidates the slots of its die that watch the line, and counts for its write; a training batch takes the
next 64 samples, a skipped one counts as a batch too (log 49), and the last one begins TRIAL. -/
def Obligations.ApproximationControl : Prop :=
  (∀ (s : State) (k : Crew) (r : Reply) (a : BitVec 6) (sl : BitVec 4),
    let t := s.bump
    let e := s.erg (dieOf k.core) sl.toNat
    let bound := s.bindVa k sl.toNat
    let A := (k.pr a.toNat).toNat
    let no (code : Nat) : DWord := BitVec.ofNat 64 (2 ^ 63 + code)
    let one (b : Bool) (n : Nat) : Nat := if b then 2 ^ n else 0
    let stat (e : ErgSlot) : DWord := BitVec.ofNat 64 (
      (match e.state with | .idle => 0 | .observe => 1 | .train => 2 | .trial => 3 | .fitted => 4 | .fallback => 5 | .retired => 6)
        + one e.impure 3 + e.reason.toNat * 2 ^ 4 + e.tries % 4 * 2 ^ 7 + e.shift.toNat * 2 ^ 9 + one e.det 13 + e.fallbacks.toNat * 2 ^ 16
        + e.buffer.length * 2 ^ 32 + e.invals.toNat * 2 ^ 48)
    let replies (i : Instr) (u : State) (d : DWord) : Prop := ∃ c k', u.crew? k.id = some c ∧ k.movedFrom (c.reply r d) k' i (s.cycles k.core).toNat
      ∧ exec i s = .next (u.setCrew k')
    let word (i : Instr) (d : DWord) : Prop := s.runs k i → s.goesTo k i t (k.reply r (if bound = none then 0 else d))
    let owned (i : Instr) : Prop := s.runs k i → bound ≠ none → e.state ≠ .idle → s.ergMine k e = false →
      exec i s = .next (t.trapAll k .ergOwned k.active)
    let armed (i : Instr) (f : State → ErgSlot → Prop) : Prop := owned i ∧ (s.runs k i → (bound = none → s.goesTo k i t (k.reply r (no 3)))
      ∧ ∀ va, bound = some va →
        (e.state = .idle → t.armAbsent k sl.toNat va ≠ [] → s.stops k i t k (.park (t.armAbsent k sl.toNat va)))
        ∧ ∀ u, (s.ergMine k e = true ∧ u = t) ∨ (e.state = .idle ∧ t.armAbsent k sl.toNat va = [] ∧ u = t.arm k sl.toNat va) →
          f u (u.erg (dieOf k.core) sl.toNat))
    let pieces (n : Nat) : List (Nat × Nat) := (List.range ((n + 15) / 16)).map fun j => ((A + 16 * j) % 2 ^ 64, min 16 (n - 16 * j))
    let lies (x : State) (acc : Acc) (n : Nat) (at_ : Nat → Loc) : Prop :=
      ∀ j (h : j < (pieces n).length), x.check k acc 1 (pieces n)[j].2 (pieces n)[j].1 = .ok (at_ j)
    let good (x : State) (acc : Acc) (n : Nat) (at_ : Nat → Loc) : Prop := x.memHeld k = false ∧ A % 16 = 0 ∧ x.crewWritesDone k.id = true
      ∧ lies x acc n at_ ∧ ∀ j < (pieces n).length, match at_ j with
        | .deck p => x.present (p / 128) = true ∧ x.poisoned (p / 128) = false
          ∧ (acc = .load → (∃ c, x.copyOf k.core (p / 128) = some c ∧ c.fmt = .exact) ∨ x.lineOpen k.core k.id (p / 128) = true)
        | .skm _ => x.ring.faulted = false
        | .spill p => p / 128 ∉ k.spillBad
        | .squad _ => True
    let stopsAt (i : Instr) (acc : Acc) (n : Nat) : Prop := t.memHeld k = false → t.crewWritesDone k.id = true →
      let absent (at_ : Nat → Loc) (line : Nat) : Prop := ∃ j < (pieces n).length, ∃ p, at_ j = .deck p ∧ p / 128 = line ∧ t.present line = false
      (A % 16 ≠ 0 → exec i s = .next (t.trapAt k .misalign k.active A))
      ∧ (∀ j m c, A % 16 = 0 → (∀ j' < j, ∃ y, t.check k acc 1 (pieces n)[j']!.2 (pieces n)[j']!.1 = .ok y) → j < (pieces n).length →
        (∃ d, t.check k acc 1 (pieces n)[j]!.2 (pieces n)[j]!.1 = .error d) → m < (pieces n)[j]!.2 →
        (∀ m' < m, ∃ y, t.check k acc 1 1 ((pieces n)[j]!.1 + m') = .ok y) → t.check k acc 1 1 ((pieces n)[j]!.1 + m) = .error c →
        exec i s = .next (t.trapAt k c k.active ((pieces n)[j]!.1 + m)))
      ∧ (∀ at_, A % 16 = 0 → lies t acc n at_ → (∃ line, absent at_ line) →
        ∃ lines, (∀ x, x ∈ lines ↔ absent at_ x) ∧ s.stops k i t k (.park lines))
      ∧ (∀ at_ j, A % 16 = 0 → lies t acc n at_ → (∀ line, ¬ absent at_ line) → j < (pieces n).length →
        (∀ j' < j, t.poisonAt k (at_ j') = false) → t.poisonAt k (at_ j) = true → exec i s = .next (t.trapAt k .poison k.active (pieces n)[j]!.1))
    let read (x u : State) : Prop := u = { x with
        tlb := u.tlb, walkCache := u.walkCache, copies := u.copies, counts := u.counts, crews := u.crews, msgs := u.msgs, acks := u.acks
        writes := u.writes, fresh := u.fresh }
      ∧ (u.crews.map fun (c : Crew) => { c with mon := [], wait := none }) = (x.crews.map fun (c : Crew) => { c with mon := [], wait := none })
    owned (.apxi r sl)
    ∧ (s.runs k (.apxi r sl) →
      (bound = none → s.goesTo k (.apxi r sl) t (k.reply r (no 3)))
      ∧ (bound ≠ none → e.state = .idle ∨ s.ergMine k e = true →
        replies (.apxi r sl) (t.invalidate e) (if e.state = .idle ∨ e.state = .retired then 0 else 1)))
    ∧ (s.runs k (.apxiAll r) →
      let hit (x : ErgSlot) : Bool := x.die == dieOf k.core && x.asid == k.asid
      replies (.apxiAll r) (t.invalidateAll hit)
        (BitVec.ofNat 64 (s.ergs.filter fun x => hit x && x.state != .idle && x.state != .retired).length))
    ∧ (∀ x : ErgSlot, x.state ≠ .idle → x.state ≠ .retired → x.desc.preload = false →
      (s.invalidate x).erg x.die x.slot = { x with
        state := .observe, epoch := x.epoch + 1, invals := if x.invals = 0xFFFF then 0xFFFF else x.invals + 1, tries := 0, compared := 0, buffer := []
        window := [], winNext := 0, weights := x.desc.initial x.slot })
    ∧ word (.apxqStat r sl) (stat e)
    ∧ word (.apxqCount r sl) (e.trueRuns ++ e.subst)
    ∧ word (.apxqErr r sl) (e.lastE ++ if e.desc.ok = true ∧ e.desc.window ≤ e.window.length then e.mean else 0x7FC00000)
    ∧ word (.apxqMisc r sl) (BitVec.ofNat 64 (e.drops.toNat + e.batches.toNat * 2 ^ 32 + e.skips.toNat * 2 ^ 48))
    ∧ armed (.apxcRetire r sl) (fun u e => replies (.apxcRetire r sl) (u.ergGo { e with reason := 5 } .retired)
        (stat { e with reason := 5, state := .retired }))
    ∧ owned (.apxcReset r sl)
    ∧ (s.runs k (.apxcReset r sl) → (bound = none → s.goesTo k (.apxcReset r sl) t (k.reply r (no 3)))
      ∧ (bound ≠ none → (e.state = .idle → replies (.apxcReset r sl) t (stat e))
        ∧ (s.ergMine k e = true → replies (.apxcReset r sl) (t.ergIdle e) 0)))
    ∧ armed (.apxcShift r a sl) (fun u e =>
        (A < 16 → replies (.apxcShift r a sl) (u.setErg { e with shift := BitVec.ofNat 4 A }) (stat { e with shift := BitVec.ofNat 4 A }))
        ∧ (16 ≤ A → replies (.apxcShift r a sl) u (no 1)))
    ∧ armed (.apxcDet r a sl) (fun u e =>
        (A < 2 → replies (.apxcDet r a sl) (u.setErg { e with det := A == 1 }) (stat { e with det := A == 1 }))
        ∧ (2 ≤ A → replies (.apxcDet r a sl) u (no 1)))
    ∧ armed (.apxcLoadw r a sl) (fun u e =>
        (e.state = .retired ∧ e.reason = 2 → replies (.apxcLoadw r a sl) u (no 2))
        ∧ (∀ at_, e.state = .retired ∧ e.reason ≠ 2 → good u .load e.desc.imageSize at_ →
          ∃ x, read u x ∧ replies (.apxcLoadw r a sl) x (stat e))
        ∧ (∀ at_, e.state ≠ .retired → good u .load e.desc.imageSize at_ →
          ∃ (x : State) (w : List (BitVec 16)), read u x ∧ w.length = e.desc.params
            ∧ replies (.apxcLoadw r a sl) (x.ergGo { e with window := [], winNext := 0, weights := w, compared := 0 } .trial)
              (stat { e with state := .trial })
            ∧ ∀ j < e.desc.params, (∀ q, at_ (2 * j / 16) = .deck q → w.getD j 0 = BitVec.ofNat 16
                (x.loadDeck .exact k 32 (q + 2 * j % 16) 1 + 256 * x.loadDeck .exact k 32 (q + 2 * j % 16 + 1) 1))))
    ∧ armed (.apxcDumpw r a sl) (fun u e =>
        (e.state = .retired ∧ e.reason = 2 → replies (.apxcDumpw r a sl) u (no 2))
        ∧ (∀ at_, ¬ (e.state = .retired ∧ e.reason = 2) → good u .store e.desc.imageSize at_ →
          let n := (pieces e.desc.imageSize).length
          ∃ x v : State, x = { u with tlb := x.tlb, walkCache := x.walkCache }
            ∧ v = (List.range n).foldl (fun y j =>
                y.locWrite k 32 (at_ j) ((e.image.drop (16 * j)).take (pieces e.desc.imageSize)[j]!.2) [] false x.fresh) x.bump
            ∧ (v.crewWritesDone k.id = true → replies (.apxcDumpw r a sl) v (stat e))
            ∧ (v.crewWritesDone k.id = false → ∀ c, v.crew? k.id = some c →
              s.stops k (.apxcDumpw r a sl) v (c.await r) (.perform r (stat e)))))
    ∧ (s.ergMine k e = true → ¬ (e.state = .retired ∧ e.reason = 2) →
        (s.runs k (.apxcLoadw r a sl) → stopsAt (.apxcLoadw r a sl) .load e.desc.imageSize)
        ∧ (s.runs k (.apxcDumpw r a sl) → stopsAt (.apxcDumpw r a sl) .store e.desc.imageSize)))
  ∧ (∀ (s : State) (k : Crew) (r : Reply) (a : BitVec 6) (sl : BitVec 4),
    let t := s.bump
    let e := s.erg (dieOf k.core) sl.toNat
    let A := (k.pr a.toNat).toNat
    let no (code : Nat) : DWord := BitVec.ofNat 64 (2 ^ 63 + code)
    let replies (i : Instr) (u : State) (d : DWord) : Prop := ∃ c k', u.crew? k.id = some c ∧ k.movedFrom (c.reply r d) k' i (s.cycles k.core).toNat
      ∧ exec i s = .next (u.setCrew k')
    let good (acc : Acc) (at_ : Nat → Loc) : Prop := t.memHeld k = false ∧ A % 256 = 0 ∧ A < 2 ^ 47 ∧ ∀ j < 0x8410,
      t.check k acc 1 16 (A + 16 * j) = .ok (at_ j)
        ∧ ∃ p, at_ j = .deck p ∧ t.present (p / 128) = true ∧ t.poisoned (p / 128) = false
          ∧ (acc = .load → (∃ c, t.copyOf k.core (p / 128) = some c ∧ c.fmt = .exact) ∨ t.lineOpen k.core k.id (p / 128) = true)
    let stopsAt (i : Instr) (acc : Acc) : Prop := s.runs k i → t.memHeld k = false →
      let absent (at_ : Nat → Loc) (line : Nat) : Prop := ∃ j < 0x8410, ∃ p, at_ j = .deck p ∧ p / 128 = line ∧ t.present line = false
      let x (j : Nat) : Nat := (A + 16 * j) % 2 ^ 64
      (A % 256 ≠ 0 → exec i s = .next (t.trapAt k .misalign k.active A))
      ∧ (∀ j m c, A % 256 = 0 → (∀ j' < j, ∃ y, t.check k acc 1 16 (x j') = .ok y) → j < 0x8410 → (∃ d, t.check k acc 1 16 (x j) = .error d) → m < 16 →
        (∀ m' < m, ∃ y, t.check k acc 1 1 (x j + m') = .ok y) → t.check k acc 1 1 (x j + m) = .error c →
        exec i s = .next (t.trapAt k c k.active (x j + m)))
      ∧ (∀ at_, A % 256 = 0 → (∀ j < 0x8410, t.check k acc 1 16 (x j) = .ok (at_ j)) → (∃ line, absent at_ line) →
        ∃ lines, (∀ y, y ∈ lines ↔ absent at_ y) ∧ s.stops k i t k (.park lines))
      ∧ (∀ at_ j, A % 256 = 0 → (∀ j < 0x8410, t.check k acc 1 16 (x j) = .ok (at_ j)) → (∀ line, ¬ absent at_ line) → j < 0x8410 →
        (∀ j' < j, t.poisonAt k (at_ j') = false) → t.poisonAt k (at_ j) = true → exec i s = .next (t.trapAt k .poison k.active (x j)))
    stopsAt (.apxsSave r a sl) .store ∧ stopsAt (.apxsLoad r a sl) .load ∧
    (s.runs k (.apxsDrop r sl) →
      (e.state = .idle → s.goesTo k (.apxsDrop r sl) t (k.reply r 0))
      ∧ (e.state ≠ .idle → replies (.apxsDrop r sl) (t.ergIdle e) 0))
    ∧ (∀ at_, s.runs k (.apxsSave r a sl) → good .store at_ →
      ∃ u : State, u = { t with tlb := u.tlb, walkCache := u.walkCache }
        ∧ (e.state = .idle → s.goesTo k (.apxsSave r a sl) u (k.reply r (no 2)))
        ∧ (e.state ≠ .idle → replies (.apxsSave r a sl)
          (((List.range 0x8410).foldl (fun y j => y.locWrite k 32 (at_ j) ((e.save.drop (16 * j)).take 16) [] false u.fresh) u.bump).ergIdle e) 0))
    ∧ (∀ at_, s.runs k (.apxsLoad r a sl) → good .load at_ →
      ∃ u : State, u = { t with
          tlb := u.tlb, walkCache := u.walkCache, copies := u.copies, counts := u.counts, crews := u.crews, msgs := u.msgs, acks := u.acks
          writes := u.writes, fresh := u.fresh }
        ∧ (u.crews.map fun (c : Crew) => { c with mon := [], wait := none }) = (s.crews.map fun (c : Crew) => { c with mon := [], wait := none })
        ∧ (e.state ≠ .idle → replies (.apxsLoad r a sl) u (no 1))
        ∧ (e.state = .idle → replies (.apxsLoad r a sl) (u.ergLoad k sl.toNat
          ((List.range 0x8410).flatMap fun j => (List.range 16).map fun m => match at_ j with
            | .deck p => BitVec.ofNat 8 (u.loadDeck .exact k 32 (p + m) 1)
            | _ => 0)) 0))
    ∧ (∀ x : ErgSlot, (s.ergIdle x).erg x.die x.slot = { ErgSlot.idle x.die x.slot with epoch := x.epoch + 1 })
    ∧ (∀ n, s.notes.find? (fun m => m.id == n.id) = some n →
      let u := ({ s with notes := s.notes.filter fun m => m.id != n.id } : State).invalidateAll fun x => x.die == n.die && x.watched.contains n.line
      exec (.ergWatchNotification n.id) s = .next (match n.write with
        | none => u
        | some id => u.countAck (.write id)))
    ∧ (∀ die n, (s.erg die n).state = .train →
      let x := s.erg die n
      let per := x.desc.minsamp / 64
      let batch := (x.buffer.drop (64 * (x.trained % max 1 per))).take 64
      let y : ErgSlot := match x.update batch with
        | none => { x with trained := x.trained + 1, batches := x.batches + 1, skips := x.skips + 1 }
        | some w => { x with trained := x.trained + 1, batches := x.batches + 1, weights := w }
      (x.trained + 1 < x.desc.epochs * per → exec (.trainingBatch die n) s = .next (s.setErg y))
      ∧ (x.desc.epochs * per ≤ x.trained + 1 →
        exec (.trainingBatch die n) s = .next (s.ergGo { y with window := [], winNext := 0, compared := 0 } .trial))))

/-! ## Context save and load (spec/14_system.md R392 to R395) -/

/-- R289, R395: TKSV of a tile without operations outstanding writes its image (elements, status word, tag) and takes the tag from the slot; TKLD
takes the tile from an image whose status word is legal, with the context's tag, and replies 0; else it replies with code 1 and leaves the slot. The
layout of the tag is the model's reading (log 27). -/
def Obligations.TileImages : Prop := ∀ (s : State) (k : Crew) (r : Reply) (a : BitVec 6) (x : BitVec 3) (P : Nat → Nat),
  let t := s.bump
  let va := (k.pr a.toNat).toNat
  let old := s.tileOf k x
  let area (acc : Acc) : Prop := t.memHeld k = false ∧ va % 64 = 0 ∧ va + 0x840 ≤ 2 ^ 47 ∧ ∀ j < 0x84,
    t.check k acc 1 16 (va + 16 * j) = .ok (.deck (P j)) ∧ t.present (P j / 128) = true ∧ t.poisoned (P j / 128) = false
      ∧ t.agentWaits (P j) 16 = false ∧ (acc = .load → (∃ c, t.copyOf k.core (P j / 128) = some c ∧ c.fmt = .exact) ∨ t.lineOpen k.core k.id (P j / 128) = true)
  let replies (i : Instr) (u : State) (d : DWord) : Prop := ∃ c k', u.crew? k.id = some c ∧ k.movedFrom (c.reply r d) k' i (s.cycles k.core).toNat
    ∧ exec i s = .next (u.setCrew k')
  let u := t.learnAll k ((List.range 0x84).map fun j => (va + 16 * j) % 2 ^ 64)
  let read := u.readsAll k ((List.range 0x84).map fun j => (.deck (P j), 16))
  let zeros (n : Nat) : List Byte := List.replicate n 0
  let es : List Byte := if old.kind = .res then old.elems.flatMap fun e => leBytes 8 e.toNat
    else (old.elems.flatMap fun e => leBytes 4 (e.toNat % 2 ^ 32)) ++ zeros (0x800 - 4 * old.elems.length)
  let status : Nat := (match old.kind with | .empty => 0 | .f32 => 1 | .res => 2) + old.depth.toNat * 4 + (if old.lost then 64 else 0)
    + old.ovf.toNat * 2 ^ 16
  let tag : Nat := match old.tag with | none => 0 | some g => g.1.toNat + g.2.toNat * 2 ^ 12
  let image : List Byte := es ++ leBytes 8 status ++ leBytes 8 tag ++ zeros 48
  let bytes : List Byte := (List.range 0x84).flatMap fun j => (List.range 16).map fun m => BitVec.ofNat 8 (read.loadDeck .exact k 32 (P j + m) 1)
  let at_ (o n : Nat) : Nat := leNat ((bytes.drop o).take n)
  let w := at_ 0x800 4
  let legal : Prop := w % 4 ≠ 3 ∧ w / 4 % 16 ≤ 8 ∧ (w / 4 % 16 = 0 ∨ w % 4 = 2) ∧ w / 2 ^ 7 % 2 ^ 9 = 0
  let new : Tile := {
    core := k.core, slot := k.tileSlot x, tag := some (k.asid, (s.ctx k.asid).key), kind := if w % 4 = 2 then .res else if w % 4 = 1 then .f32 else .empty
    depth := BitVec.ofNat 4 (w / 4 % 16), lost := decide (w / 64 % 2 = 1), ovf := BitVec.ofNat 16 (w / 2 ^ 16 % 2 ^ 16)
    elems := (List.range 256).map fun j =>
      if w % 4 = 2 then BitVec.ofNat 64 (at_ (8 * j) 8) else if w % 4 = 1 then BitVec.ofNat 64 (at_ (4 * j) 4) else 0 }
  s.tileBusy k.core (k.tileSlot x) = false → old.elems.length = 256 →
  (s.runs k (.tksv r a x) → area .store →
    let v := (List.range 0x84).foldl (fun y j => y.locWrite k 32 (.deck (P j)) ((image.drop (16 * j)).take 16) [] false u.fresh) u.bump
    s.goesTo k (.tksv r a x) (v.setTile { old with tag := none }) (k.reply r 0))
  ∧ (s.runs k (.tkld r a x) → area .load →
    (legal → replies (.tkld r a x) (read.setTile new) 0)
    ∧ (¬ legal → replies (.tkld r a x) read (BitVec.ofNat 64 (2 ^ 63 + 1))))

/-- R392 to R394, with the replies of log 25: CTXSV of a halted crew of the core writes its image over the area, after the operations on its tiles,
and takes the crew from the core; CTXSV of a squad without crews and without commands in flight writes its image; CTXLD of a squad makes one from
the image under the least free squad slot, and of a crew puts the crew, halted, where it has room in that squad, once its stores are globally
performed. A crew keeps its tile slots on its own core while they are free for it, and CTXLD.tiles fills the slots it gets from an image that holds
tiles, each whose status word is legal, under the crew's own tag, whatever stands in the slot (logs 12, 87). Without a crew or squad to name they reply
with code 1, and at an address that is no multiple of 256 with code 3. How the image's fields and what it does not hold make the crew is the model's
choice (logs 21, 57, 58). -/
def Obligations.ContextImages : Prop := ∀ (s : State) (k : Crew) (r : Reply) (b a : BitVec 6) (P : Nat → Nat),
  let t := s.bump
  let va := (k.pr a.toNat).toNat
  let named := (k.pr b.toNat).toNat
  let code (n : Nat) : DWord := BitVec.ofNat 64 (2 ^ 63 + n)
  let no (n : Nat) : Crew := k.reply r (code n)
  let area (x : State) (acc : Acc) (len : Nat) : Prop := x.memHeld k = false ∧ va % 256 = 0 ∧ va + len ≤ 2 ^ 47 ∧ ∀ j < (len + 15) / 16,
    x.check k acc 1 (min 16 (len - 16 * j)) (va + 16 * j) = .ok (.deck (P j)) ∧ x.present (P j / 128) = true ∧ x.poisoned (P j / 128) = false
      ∧ x.agentWaits (P j) (min 16 (len - 16 * j)) = false
      ∧ (acc = .load → (∃ c, x.copyOf k.core (P j / 128) = some c ∧ c.fmt = .exact) ∨ x.lineOpen k.core k.id (P j / 128) = true)
  let written (x : State) (len : Nat) : State := x.learnAll k ((List.range ((len + 15) / 16)).map fun j => (va + 16 * j) % 2 ^ 64)
  let after (x : State) (len : Nat) : State :=
    (written x len).readsAll k ((List.range ((len + 15) / 16)).map fun j => (.deck (P j), min 16 (len - 16 * j)))
  let blocks (len : Nat) : List Nat := (List.range (((len + 15) / 16 + 15) / 16)).map fun j => P (16 * j)
  let bytes (x : State) (len : Nat) : List Byte := (List.range ((len + 15) / 16)).flatMap fun j =>
    (List.range (min 16 (len - 16 * j))).map fun m => BitVec.ofNat 8 (x.loadDeck .exact k 32 (P j + m) 1)
  let replies (i : Instr) (u : State) (d : DWord) : Prop := ∃ c k', u.crew? k.id = some c ∧ k.movedFrom (c.reply r d) k' i (s.cycles k.core).toNat
    ∧ exec i s = .next (u.setCrew k')
  let saves (i : Instr) (tiles : Bool) : Prop := s.runs k i →
    let slot (c : Crew) : Bool := c.core == k.core && c.slot == named && !c.ended && c.halted
    ((∀ c ∈ s.crews, slot c = false) → s.goesTo k i t (no 1))
    ∧ (∀ c, s.crews.find? slot = some c →
      (va % 256 ≠ 0 → s.goesTo k i t (no 3))
      ∧ (let len := 0x2000 + 128 * c.n + if tiles then 0x840 * c.tileSlots.length else 0
         area t .store len → c.id ≠ k.id → (∀ d ∈ s.crews, d.id = k.id → d = k) →
         let u := c.tileSlots.foldl (fun x j => x.drainTile c.core j) (written t len)
         let v := u.areaWrite (blocks len) (u.crewImage c tiles)
         let w := if tiles then c.tileSlots.foldl (fun x j => x.setTile { x.tile c.core j with tag := none }) v else v
         replies i (({ w with crews := w.crews.filter fun x => x.id != c.id, saved := w.saved ++ [{ blocks := blocks len, crew := c }] } : State).forgetCrew
           c.id) (BitVec.ofNat 64 len)))
  let loads (i : Instr) (tiles : Bool) : Prop := s.runs k i →
    ((∀ q ∈ s.squads, q.core = k.core → q.slotNo = some named → q.ended = true) → s.goesTo k i t (no 1))
    ∧ (∀ q, s.squads.find? (fun q => q.core == k.core && q.slotNo == some named && !q.ended) = some q →
      (va % 256 ≠ 0 → s.goesTo k i t (no 3))
      ∧ (area t .load 0x2000 →
        let u := after t 0x2000
        let h := leNat ((bytes u 0x2000).take 8)
        (tiles = false → h / 2 ^ 42 % 2 ^ 9 ≠ k.core → replies i u (code 5))
        ∧ (tiles = true ∨ h / 2 ^ 42 % 2 ^ 9 = k.core →
          let withTiles := tiles && decide (h / 2 ^ 41 % 2 = 1)
          let count := h / 2 ^ 32 % 16
          let n := h % 2 ^ 16
          let len := 0x2000 + 128 * n + if withTiles then 0x840 * count else 0
          area u .load len →
          let v := after u len
          let bs := bytes v len
          let grid : DWord := BitVec.ofNat 64 (leNat ((bs.drop 8).take 8))
          let index := leNat ((bs.drop 16).take 4)
          let s5 : Word := BitVec.ofNat 32 (leNat ((bs.drop 20).take 4))
          ∀ (y : SavedCrew) (part slot : Nat),
            v.saved.find? (fun z => z.blocks.head? == some (P 0) && (z.crew.grid == grid && z.crew.s5Start == s5
              && ((v.squad? z.crew.squad).map fun o => o.index == index).getD false)) = some y →
            v.crewPlace y.crew k.core n = some (part, slot) → (∀ w ∈ v.writes, w.crew = some y.crew.id → w.done = true) →
            let tag := (y.crew.asid, (v.ctx y.crew.asid).key)
            let free := v.freeTiles k.core tag
            count ≤ free.length →
            let own : Bool := !withTiles && decide (y.crew.core = k.core ∧ y.crew.tileSlots.length = count ∧ ∀ j ∈ y.crew.tileSlots, j ∈ free)
            let slots := if own then y.crew.tileSlots else free.take count
            let c : Crew := v.withMon bs { crewOf bs y.crew q.id v.fresh with core := k.core, part := part, slot := slot, tileSlots := slots }
            let tiles : State := if withTiles then slots.zipIdx.foldl (fun w x =>
                let at_ (o m : Nat) : Nat := leNat ((bs.drop (0x2000 + 128 * n + 0x840 * x.2 + o)).take m)
                let st := at_ 0x800 4
                if st % 4 ≠ 3 ∧ st / 4 % 16 ≤ 8 ∧ (st / 4 % 16 = 0 ∨ st % 4 = 2) ∧ st / 2 ^ 7 % 2 ^ 9 = 0 then w.setTile {
                  core := k.core, slot := x.1, tag := some tag, kind := if st % 4 = 2 then .res else if st % 4 = 1 then .f32 else .empty
                  depth := BitVec.ofNat 4 (st / 4 % 16), lost := decide (st / 64 % 2 = 1), ovf := BitVec.ofNat 16 (st / 2 ^ 16 % 2 ^ 16)
                  elems := (List.range 256).map fun j =>
                    if st % 4 = 2 then BitVec.ofNat 64 (at_ (8 * j) 8) else if st % 4 = 1 then BitVec.ofNat 64 (at_ (4 * j) 4) else 0 }
                else w) v else v
            let z := tiles.adopt y.crew q grid index
            k.id ∉ (v.saved.map fun o => o.crew.id) →
            replies i ({ z with
              fresh := z.fresh + 1, saved := z.saved.filter fun o => o.crew.id != y.crew.id, crews := z.crews ++ [c] })
              (Config.ctxldReply (z.fresh + 1)))))
  saves (.ctxsvCrew r b a) false ∧ saves (.ctxsvTiles r b a) true ∧ loads (.ctxldCrew r b a) false ∧ loads (.ctxldTiles r b a) true
  ∧ (s.runs k (.ctxsvSquad r b a) →
    (s.squadBySlot k.core named = none → s.goesTo k (.ctxsvSquad r b a) t (no 1))
    ∧ ∀ q, s.squadBySlot k.core named = some q →
      ((∃ c ∈ s.crews, c.squad = q.id ∧ c.ended = false) → s.goesTo k (.ctxsvSquad r b a) t (no 2))
      ∧ ((∀ c ∈ s.crews, c.squad = q.id → c.ended = true) →
        (va % 256 ≠ 0 → s.goesTo k (.ctxsvSquad r b a) t (no 3))
        ∧ (va % 256 = 0 → (∃ c ∈ s.cmds, c.squad = q.id) ∨ q.bank ≠ [] → exec (.ctxsvSquad r b a) s = .next t)
        ∧ ((∀ c ∈ s.cmds, c.squad ≠ q.id) → q.bank = [] →
          let len := 0x1300 + q.memLen
          area t .store len →
          let u := written t len
          let v := (u.areaWrite (blocks len) (q.image (u.saved.filter fun x => x.crew.squad == q.id).length)).dropSquadLines q
          replies (.ctxsvSquad r b a) (v.setSquad { q with out := some (P 0), mem := { seed := q.id, cells := [] } }) (BitVec.ofNat 64 len))))
  ∧ (s.runs k (.ctxldSquad r a) →
    (va % 256 ≠ 0 → s.goesTo k (.ctxldSquad r a) t (no 3))
    ∧ (area t .load 0x1300 →
      let u := after t 0x1300
      let h := leNat ((bytes u 0x1300).take 8)
      let old := s.squads.find? fun q => q.out == some (P 0)
      let memLen := (old.map fun q => q.memLen).getD (h % 2 ^ 18)
      let len := 0x1300 + memLen
      area u .load len →
      let v := after u len
      ∀ j < 256, (∀ q ∈ s.squads, q.core = k.core → q.slotNo ≠ some j) → (∀ m < j, ∃ q ∈ s.squads, q.core = k.core ∧ q.slotNo = some m) →
        let q := squadOf (bytes v len) v.fresh k.core j memLen old
        let cs := match old with | none => [] | some o => (s.saved.map fun x => x.crew).filter fun c => c.squad == o.id
        let room : Prop := memLen ≤ v.memFree k.core ∧ v.subsFit k.core q = true ∧ v.crewRoom k.core (h / 2 ^ 18 % 64) cs = true
        (room → replies (.ctxldSquad r a) { v with fresh := v.fresh + 1, squads := v.squads ++ [q] } (BitVec.ofNat 64 j))
        ∧ (¬ room → replies (.ctxldSquad r a) v (code 4))))

/-! ## Host memory and the far links (spec/11_engines.md R311 to R317, spec/15_links.md R406 to R422, spec/19_prog_links.md R440 to R443) -/

/-- R311 to R317, R405: a host access to a device-bias page flips it once no engine reads or half-writes it, and after the timeout also with reads
under way, which start again at the start of their part in the page; the bias table is written as asked, to host bias once a flip may be made; snoops write a dirty line back, with its poison flag, and leave it S or I; an answered
request fills its line, with its poison flag, or grants an HBM line of a host-bias page; a failed shelf ends the commands that touch it; an invalidated host page aborts what
touches it, or waits for it; a port keeps the width that is left. Without firmware nothing of this is answered. The host and the pool are inputs
(log 1); which request of port H1 stands for which is the model's choice (log 76), and what counts as a read or write under way and which bytes a restart
only reads again is the model's reading (log 41). -/
def Obligations.HostMemory : Prop := ∀ s : State,
  (s.dead = true → ∀ page line host pool drained grant, exec (.hostBiasFlip page) s = .next s ∧ exec (.biasTableWrite page host) s = .next s
    ∧ exec (.snpData line pool) s = .next s ∧ exec (.snpInv line pool) s = .next s ∧ exec (.cxlResponse line pool grant) s = .next s
    ∧ exec (.atsInvalidation page drained) s = .next s)
  ∧ (s.dead = false →
    let busy (page : Nat) : Prop := (∃ x ∈ s.reading, x.1 = page) ∨ s.midWrite page = true
    let dirty (line : Nat) (pool : Bool) : Prop := s.hlcState line pool = .m ∨ s.hlcState line pool = .o
    let wb (line : Nat) (pool : Bool) (h : List HlcLine) (t : State) : Prop := t = { s with hlc := h, cxlOut := t.cxlOut }
      ∧ (dirty line pool → ⟨if pool then .memWr else .writeBack, line, pool, s.hlcPoison line pool⟩ ∈ t.cxlOut)
      ∧ (¬ dirty line pool → t.cxlOut = s.cxlOut)
    (∀ page, s.flips = [] → page ∉ s.biasHost →
      (¬ busy page → exec (.hostBiasFlip page) s = .next { s with biasHost := page :: s.biasHost })
      ∧ (busy page → exec (.hostBiasFlip page) s = .next { s with flips := [page] }))
    ∧ (∀ page, page ∈ s.biasHost ∨ page ∈ s.flips → exec (.hostBiasFlip page) s = .next s)
    ∧ (∀ page, exec (.biasTableWrite page true) s = exec (.hostBiasFlip page) s
      ∧ exec (.biasTableWrite page false) s = .next { s with
        biasHost := s.biasHost.filter fun p => p != page, flips := s.flips.filter fun p => p != page })
    ∧ (∀ line pool, ∃ t, exec (.snpData line pool) s = .next t ∧ wb line pool
        (s.hlc.map fun (h : HlcLine) => if h.line == line && h.pool == pool then { h with st := .s, by_ := 0 } else h) t)
    ∧ (∀ line pool, ∃ t, exec (.snpInv line pool) s = .next t ∧ wb line pool (s.hlc.filter fun h => !(h.line == line && h.pool == pool)) t)
    ∧ (∀ line pool, s.hlc.length < 131072 →
      let is (kind : CxlKind) (r : CxlReq) : Bool := r.kind == kind && r.line == line && r.pool == pool
      let has (kind : CxlKind) : Prop := ∃ r ∈ s.cxlOut, is kind r = true
      let rest (kind : CxlKind) := s.cxlOut.filter fun r => !is kind r
      let read : CxlKind := if pool then .memRdData else .rdShared
      let own : CxlKind := if pool then .memRd else .rdOwn
      let fill (kind : CxlKind) (st : HlcState) (pois : Bool) : State := { s with
        cxlOut := rest kind
        hlc := { line := line, pool := pool, st := st, by_ := 0, pois := pois } :: s.hlc.filter fun h => !(h.line == line && h.pool == pool) }
      (has read → exec (.cxlResponse line pool .shared) s = .next (fill read .s false)
        ∧ exec (.cxlResponse line pool .exclusive) s = .next (fill read .e false)
        ∧ exec (.cxlResponse line pool .poisoned) s = .next (fill read .s true))
      ∧ (has own → exec (.cxlResponse line pool .owned) s = .next (fill own .m false)
        ∧ (¬ has read → exec (.cxlResponse line pool .poisoned) s = .next (fill own .m true)))
      ∧ (has .biSnpInv → pool = false →
        exec (.cxlResponse line pool .snooped) s = .next { s with cxlOut := rest .biSnpInv, granted := (line, .owned) :: s.granted })
      ∧ (has .biSnpData → ¬ has .biSnpInv → pool = false →
        exec (.cxlResponse line pool .snooped) s = .next { s with cxlOut := rest .biSnpData, granted := (line, .shared) :: s.granted })
      ∧ (∀ kind ∈ [CxlKind.memWr, .writeBack, .dirtyEvict, .cleanEvict], has kind → ¬ has .biSnpInv → ¬ has .biSnpData →
        (∀ other ∈ [CxlKind.memWr, .writeBack, .dirtyEvict, .cleanEvict], other ≠ kind → ¬ has other) →
        exec (.cxlResponse line pool .snooped) s = .next { s with cxlOut := rest kind }))
    ∧ (∀ page drained,
      let hit := s.cmds.filter fun c => c.number != 0 && s.touches c fun p => placeTgt p == 3 && placeOff p / 16384 == page
      ∃ t, exec (.atsInvalidation page drained) s = .next t
        ∧ t = { s with
            cmds := t.cmds, atsDone := if hit = [] then page :: s.atsDone else s.atsDone
            atsWait := if hit = [] then s.atsWait else (page, hit.map fun c => c.id) :: s.atsWait }
        ∧ (drained = true → t.cmds = s.cmds)))
  ∧ (∀ page, s.flips = [page] →
    let u : State := { s with
      cmds := s.cmds.map fun (c : Cmd) => if s.reading.contains (page, c.id) then s.restartRead page c else c
      reading := s.reading.filter fun x => x.1 != page }
    u.midWrite page = false → exec (.biasFlipTimeout page) s = .next { u with flips := [], biasHost := page :: s.biasHost })
  ∧ (∀ page (c : Cmd), ∃ start ≤ c.delivered, (∀ j, start ≤ j → j < c.delivered → s.srcPage c c.order j = some page)
    ∧ (start ≠ 0 → s.srcPage c c.order (start - 1) ≠ some page)
    ∧ s.restartRead page c = if c.fn = .scatadd ∨ c.fn = .gatherq ∨ c.fn = .copyr ∧ c.out = true then { c with again := some start }
      else { c with delivered := start })
  ∧ ((s.cmds.map fun c => c.id).Nodup →
    let aborted (i : Instr) (hit : Cmd → Prop) (status : BitVec 8 × BitVec 8) (t : State) : Prop := exec i s = .next t
      ∧ t.cmds.length = s.cmds.length ∧ ∀ j (h : j < s.cmds.length) (h' : j < t.cmds.length),
        (hit s.cmds[j] → s.cmds[j].status = none → t.cmds[j] = { s.cmds[j] with status := some status }) ∧ (¬ hit s.cmds[j] → t.cmds[j] = s.cmds[j])
    let inShelf (base len p : Nat) : Bool := placeTgt p == 4 && decide (base ≤ placeOff p) && decide (placeOff p < base + len)
    let lost (base len : Nat) (c : Cmd) : Prop := c.number ≠ 0 ∧ c.complete = false ∧ s.touches c (inShelf base len) = true
    (∀ base len, ∃ t, aborted (.poolShelfFailure base len) (lost base len) (3, 0) t
      ∧ t.lostPools = (base, len) :: s.lostPools.filter (fun x => x.1 != base) ∧ t.cxlOut = s.cxlOut)
    ∧ (∀ base len, (∃ r ∈ s.cxlOut, r.pool = true ∧ base ≤ r.line * 64 ∧ r.line * 64 < base + len) →
      ∃ t, aborted (.poolCompletionTimeout base len) (lost base len) (3, 0) t
        ∧ t.lostPools = (base, len) :: s.lostPools.filter fun x => x.1 != base)
    ∧ (∀ page, s.dead = false → ∃ t, aborted (.atsInvalidation page false) (fun c => c.number ≠ 0 ∧ c.complete = false
        ∧ s.touches c (fun p => placeTgt p == 3 && placeOff p / 16384 == page) = true) (5, 2) t))
  ∧ (∀ base, exec (.poolRangeReenable base) s = .next { s with lostPools := s.lostPools.filter fun x => x.1 != base })
  ∧ (∀ port w, w = 8 ∨ w = 4 → exec (.lanesLost port w) s = .next { s with portWidth := s.portWidth.set (if port then 1 else 0) w })

/-- R406 to R409, R433, R440: what a flit does on a link that carries flits: a bad CRC or an unknown TYPE, or a data flit out of sequence, is
discarded and asked for again once; a data flit in sequence is delivered, and opens a piece, adds to it, completes a copy or asks for a read; an
acknowledgement frees the flits up to its SEQ, a negative one also sends the rest again, an idle flit does nothing. The acknowledgement timer and
the replay timeout act likewise. Every arriving flit counts its beats (R407). A Sweep packet of a peer's copy writes its bytes where no core shares the
lines. The peer's flits are inputs (log 1); the packet's size is log 20's. That an answer carries address 0, and that a completion goes to the command of its
tag and peer, is log 61; that a SEQ up to 32767 behind the one expected stands for a flit delivered before, and any other for one ahead, is the model's
reading too (log 61). -/
def Obligations.Flits : Prop := ∀ (s : State) (l : Nat) (flit : BitVec 576), l < s.links.length →
  let x := s.link l
  let speaks : Prop := x.state = .up ∨ x.state = .narrowing ∨ x.state = .waking ∨ x.state = .draining
  let put (y : Link) : State := { s with links := s.links.set l y }
  let field (o n : Nat) : Nat := flit.toNat / 256 ^ o % 256 ^ n
  let good : Prop := (crc32c (leBytes 68 flit.toNat)).toNat = field 68 4
  let seq : BitVec 16 := BitVec.ofNat 16 (field 0 2)
  let payload : List Byte := leBytes 64 (field 4 64)
  let answer (type : Nat) (y : Link) : Link := { y with ctlOut := y.ctlOut ++ [ackFlit y.txSeq type (y.rxSeq - 1)] }
  let heard : Link := { x with rxBeats := x.rxBeats + 36 }
  let dropped : Link := if x.nakSent then heard else { answer 2 heard with nakSent := true }
  let taken : Link :=
    let y : Link := { heard with rxSeq := x.rxSeq + 1, rxUnacked := x.rxUnacked + 1, nakSent := false }
    if 16 ≤ y.rxUnacked then { answer 1 y with rxUnacked := 0 } else y
  let freed : Link :=
    let upTo : BitVec 16 := BitVec.ofNat 16 (field 4 2)
    let n := (upTo - x.acked).toNat
    if n ≤ x.replay.length then { heard with acked := upTo, replay := x.replay.drop n, resend := min x.resend (x.replay.length - n) } else heard
  let receives (i : Instr) : Prop :=
    (¬ good ∨ 4 < field 2 1 → exec i s = .next (put dropped))
    ∧ (good → field 2 1 = 0 →
      (seq = x.rxSeq →
        (∀ p, x.rx = some p → exec i s = .next ((put taken).rxPayload l p payload))
        ∧ (x.rx = none → field 4 4 = 1 → 0 < field 8 4 → field 8 4 ≤ 2 ^ 19 → ∃ t y p, exec i s = .next t
          ∧ t = { s with links := s.links.set l y, fresh := s.fresh + 1 }
          ∧ y = { taken with rx := some p } ∧ p.peer = x.peer ∧ p.tag = BitVec.ofNat 64 (field 20 8) ∧ p.base = field 12 8 ∧ p.count = field 8 4 ∧ p.got = 0
          ∧ (p.answer = true ↔ field 12 8 = 0 ∧ (BitVec.ofNat 64 (field 20 8) ∈ x.late
            ∨ ∃ c ∈ s.cmds, c.fn = .copyr ∧ c.out = false ∧ c.tag = BitVec.ofNat 64 (field 20 8) ∧ c.link = some l ∧ c.sent = true ∧ c.acked = false)))
        ∧ (x.rx = none → field 4 4 = 2 →
          exec i s = .next ((put taken).peerCompletes x.peer (BitVec.ofNat 64 (field 20 8)) (some l) (field 8 4)))
        ∧ (x.rx = none → field 4 4 = 3 →
          exec i s = .next ((put taken).takeRequest x.peer (BitVec.ofNat 64 (field 20 8)) (field 12 8) (field 8 4) (some l))))
      ∧ (seq ≠ x.rxSeq → (x.rxSeq - seq).toNat < 2 ^ 15 → exec i s = .next (put heard))
      ∧ (2 ^ 15 ≤ (x.rxSeq - seq).toNat → exec i s = .next (put dropped)))
    ∧ (good → field 2 1 = 1 → exec i s = .next (put freed))
    ∧ (good → field 2 1 = 2 → exec i s = .next (put { freed with resend := freed.replay.length }))
    ∧ (good → field 2 1 = 3 ∨ field 2 1 = 4 → exec i s = .next (put heard))
  (speaks →
    receives (.headerFlit l flit) ∧ receives (.readRequestFlit l flit) ∧ receives (.payloadFlit l flit) ∧ receives (.completionFlit l flit)
    ∧ receives (.acknowledgement l flit) ∧ receives (.negativeAcknowledgement l flit) ∧ receives (.idleFlit l flit)
    ∧ exec (.discardedFlit l) s = .next (put dropped)
    ∧ exec (.ackTimer l) s = .next (put (if x.rxUnacked = 0 then x else { answer 1 x with rxUnacked := 0 }))
    ∧ exec (.replayTimeout l) s = .next (put { x with resend := x.replay.length }))
  ∧ (¬ speaks → exec (.headerFlit l flit) s = .next s ∧ exec (.payloadFlit l flit) s = .next s)
  ∧ (s.dead = true → ∀ pkt, exec (.sweepPacket pkt) s = .next s)
  ∧ (∀ peer tag base count off bs, s.dead = false → s.deck.wf = true → base + count ≤ 0x18000000 → off + bs.length ≤ count → bs ≠ [] →
    (∀ a, base + off ≤ a → a < base + off + bs.length → (s.dirOf (a / 128)).ptrs = [] ∧ (s.dirOf (a / 128)).bcast = false
      ∧ (s.dirOf (a / 128)).busy = false ∧ ∀ w ∈ s.writes, w.core = none → w.applied = false → w.off / 128 ≠ a / 128) →
    ∃ t, exec (.sweepPacket (.piece peer tag false base count off bs)) s = .next t
      ∧ ∀ a, t.deck.read a = if base + off ≤ a ∧ a < base + off + bs.length then bs.getD (a - (base + off)) 0 else s.deck.read a)
  ∧ (∀ peer tag base count, s.dead = false → base + count ≤ 0x18000000 → exec (.sweepPacket (.request peer tag base count)) s
      = .next (({ s with serves := s.serves ++ [{
          peer := peer, tag := tag, base := base, count := count, link := none, failed := false
          waits := (s.dir.filter fun d => !d.absentBy.isEmpty).map fun d => d.line }] } : State).serve))
  ∧ (∀ peer tag (code : Byte), s.dead = false → exec (.sweepPacket (.completion peer tag code)) s = .next (s.peerCompletes peer tag none code.toNat))

/-- R405, R407, R410 to R414, R418, R443: a loss of light, found here or told by the peer, narrows the direction it hits, and this end sends its active
lists in a control flit (whose layout is free, log 34); it takes the link down where no wavelength remains; a failed laser module takes four wavelengths
of each link it feeds; the finished handshake leaves the survivors lit and the lost ones DARK, with event 0x50 for each direction whose loss was
detected here, at the time of the detection; the timeout restarts the link, or moves it on to SWITCHING from DRAINING. The peer's ease or wake keeps
the receive list until its boundary. A control flit counts its beats as any other. Bring-up goes stage by stage to UP with the wavelengths that pass
each way, to QUARANTINE on the wrong peer, which ends the copies given to the link, or back to stage 1, and FAILED at the third failure. That LIT changes
as the handshake ends, what an event 0x50 holds for each direction, and that a link that is DOWN stands at stage 1, is log 62; which moments the two
ends' control flits mark, and that a wavelength found stays DARK until UP, is log 63. -/
def Obligations.LinkLightAndBringup : Prop := ∀ (s : State) (l : Nat), l < s.links.length →
  let x := s.link l
  let speaks : Prop := x.state = .up ∨ x.state = .narrowing ∨ x.state = .waking ∨ x.state = .draining
  let put (y : Link) : State := { s with links := s.links.set l y }
  let heard : Link := { x with rxBeats := x.rxBeats + 36 }
  let lose (i : Instr) (x : Link) (receive detected : Bool) (gone : BitVec 16) : Prop :=
    let new := if receive then gone &&& x.rxLit else gone &&& x.lit
    let at_ (old : Option Nat) : Option Nat := if detected = true ∧ old = none then some s.time.toNat else old
    let y : Link := if receive then { x with rxLost := x.rxLost ||| new, rxLostAt := at_ x.rxLostAt }
      else { x with lost := x.lost ||| new, lostAt := at_ x.lostAt }
    (¬ speaks → exec i s = .next s)
    ∧ (speaks → new = 0 → exec i s = .next (put x))
    ∧ (speaks → new ≠ 0 → y.lit &&& ~~~y.lost = 0 ∨ y.rxLit &&& ~~~y.rxLost = 0 →
      ∃ z, exec i s = .next (put z) ∧ z.lit = 0 ∧ z.waking = 0 ∧ z.state = if x.drain then .switching else .bringup)
    ∧ (speaks → new ≠ 0 → y.lit &&& ~~~y.lost ≠ 0 → y.rxLit &&& ~~~y.rxLost ≠ 0 →
      ∃ f, exec i s = .next (put { y with state := .narrowing, told := false, rxNext := none, ctlOut := x.ctlOut ++ [f] }))
  (∀ receive gone, lose (.lossOfLight l receive gone) x receive true gone)
  ∧ (∀ transmit active, lose (.controlFlit l (.narrow transmit active)) heard (!transmit) false (~~~active))
  ∧ (∀ active parked waking,
    (¬ speaks → exec (.controlFlit l (.peerWidth active parked waking)) s = .next s)
    ∧ (speaks → x.state = .narrowing → exec (.controlFlit l (.peerWidth active parked waking)) s = .next (put heard))
    ∧ (speaks → x.state ≠ .narrowing →
      let w := (waking ||| active) &&& ~~~x.rxLit
      let p := parked &&& ~~~(x.rxLit ||| w)
      ∃ f, exec (.controlFlit l (.peerWidth active parked waking)) s = .next (put { heard with
        rxNext := some (active, parked, waking), rxWaking := w, rxParked := p, rxDark := ~~~(x.rxLit ||| w ||| p), ctlOut := x.ctlOut ++ [f] }))
    ∧ (speaks → x.rxNext = some (active, parked, waking) → exec (.controlFlit l .peerBoundary) s = .next (put { x with
        rxLit := active, rxParked := parked, rxWaking := waking, rxDark := ~~~(active ||| parked ||| waking), rxNext := none
        rxBeats := if active = x.rxLit then x.rxBeats + 36 else 0 })))
  ∧ (speaks → x.rxNext = none → exec (.controlFlit l .peerBoundary) s = .next (put heard))
  ∧ (∀ h rest, speaks → x.cmds = h :: rest → h.started = true → h.ease = true → x.state ≠ .narrowing →
    (h.mask &&& x.lit = x.lit → exec (.controlFlit l .width) s = .next (((put heard).endLinkCmd l 5 1).startLink l))
    ∧ (h.mask &&& x.lit ≠ x.lit → exec (.controlFlit l .width) s = .next (((put { heard with
      lit := x.lit &&& ~~~(h.mask &&& x.lit), parked := x.parked ||| (h.mask &&& x.lit), beats := 0 }).endLinkCmd l 0 0).startLink l)))
  ∧ (∀ boundary replayed, x.state = .narrowing → x.cmds = [] →
    ∃ t, exec (.controlFlit l (.narrowDone boundary replayed)) s = .next t
      ∧ t.links = s.links.set l { x with
        lit := x.lit &&& ~~~x.lost, dark := x.dark ||| x.lost, rxLit := x.rxLit &&& ~~~x.rxLost, rxDark := x.rxDark ||| x.rxLost
        lost := 0, rxLost := 0, lostAt := none, rxLostAt := none
        state := if x.drain then .draining else if x.waking ≠ 0 then .waking else .up
        beats := if x.lost = 0 then x.beats else 0, rxBeats := if x.rxLost = 0 then x.rxBeats + 36 else 0
        resend := if x.lost = 0 then x.resend else x.replay.length }
      ∧ t.time = s.time
      ∧ (let told (time : Nat) (detail : Nat) : Prop := t.dropped = true ∨ ∃ e ∈ t.events ++ t.eventWait,
          e.type = 0x50 ∧ e.time = BitVec.ofNat 64 time ∧ e.detail = BitVec.ofNat 128 detail
         (∀ time, x.lostAt = some time → told time (x.lost.toNat + (x.lit &&& ~~~x.lost).toNat * 2 ^ 16 + (x.acked + 1).toNat * 2 ^ 32
            + x.replay.length % 2 ^ 16 * 2 ^ 48))
         ∧ ∀ time, x.rxLostAt = some time → told time (x.rxLost.toNat + (x.rxLit &&& ~~~x.rxLost).toNat * 2 ^ 16 + boundary.toNat * 2 ^ 32
            + replayed % 2 ^ 16 * 2 ^ 48)))
  ∧ (x.state = .narrowing → ∃ z, exec (.narrowingTimeout l) s = .next (put z) ∧ z.lit = 0 ∧ z.dest = x.dest
    ∧ (x.drain = false → z.state = .bringup ∧ z.stage = 1) ∧ (x.drain = true → z.state = .switching))
  ∧ (∀ els < 16, els ∉ s.lasers → l / 8 = els / 4 → ∃ t, exec (.laserModuleFailure els) s = .next t ∧ t.lasers = els :: s.lasers
    ∧ t.spared = true ∧ (t.link l).parked &&& (0xF#16 <<< (4 * (els % 4))) = 0 ∧ (t.link l).found &&& (0xF#16 <<< (4 * (els % 4))) = 0)
  ∧ (∀ w < 16, (s.unfed l).getLsbD w = decide (4 * (l / 8) + w / 4 ∈ s.lasers))
  ∧ (s.dead = true → ∀ good peer, exec (.bringupStageComplete l good peer) s = .next s)
  ∧ (∀ good parked back peer, s.dead = false → x.state = .bringup ∨ x.state = .down →
    let tx := good &&& (if x.stage = 1 then ~~~(x.parked ||| s.unfed l) else x.found)
    let rx := back &&& (if x.stage = 1 then ~~~x.rxParked else x.rxFound)
    let done (t : State) : Prop := exec (.bringupStageComplete l ⟨good, parked, back⟩ peer) s = .next t
    (x.stage ≤ 4 → tx ≠ 0 → rx ≠ 0 → done (put { x with state := .bringup, stage := x.stage + 1, found := tx, rxFound := rx }))
    ∧ (x.stage ≤ 4 → tx = 0 ∨ rx = 0 → done s)
    ∧ (5 ≤ x.stage → x.found = 0 → done s)
    ∧ (x.found ≠ 0 →
    (x.stage = 5 → ∃ f, done (put { x with
        state := .bringup, stage := 6, wire := some { flit := f, beat := 0, list := x.found }, beats := 36, rxBeats := 0 }))
    ∧ (x.stage = 6 → s.expected l = some peer → done (put { x with
        stage := 7, peer := peer, rxLit := good, rxParked := parked, rxWaking := 0, rxDark := ~~~(good ||| parked)
        rx := if peer = x.peer then x.rx else none, late := if peer = x.peer then x.late else [] }))
    ∧ (∀ e, x.stage = 6 → s.expected l = some e → e ≠ peer → ∃ t, done t
      ∧ (8 ≤ l → t.excluded = (l, e) :: s.excluded)
      ∧ (l < 8 → x.cmds = [] → (s.cmds.map fun c => c.id).Nodup →
        t = { (put { x with state := .quarantine, peer := peer }).event 0x53 4 l l [(peer.toNat, 2), (e.toNat, 2)] with cmds := t.cmds }
        ∧ t.cmds.length = s.cmds.length ∧ ∀ j (h : j < s.cmds.length) (h' : j < t.cmds.length),
          (s.cmds[j].link = some l → s.cmds[j].complete = false → s.cmds[j].status = none →
            t.cmds[j] = { s.cmds[j] with status := some (6, BitVec.ofNat 8 l) })
          ∧ (s.cmds[j].link ≠ some l → t.cmds[j] = s.cmds[j])))
    ∧ (x.stage = 7 → ∃ t, done t ∧ (x.cmds = [] → ∃ z, t = (put z).event 0x51 4 l l [(z.lit.toNat, 2), (x.peer.toNat, 2), (7, 1)]
      ∧ z.state = .up ∧ z.lit = x.found ∧ z.dark = ~~~(x.found ||| x.parked) ∧ z.txSeq = 0 ∧ z.acked = 0xFFFF ∧ z.rxSeq = 0 ∧ z.fails = 0 ∧ z.replay = []
      ∧ z.rx = x.rx))))
  ∧ (x.state = .bringup ∨ x.state = .down →
    (x.fails < 2 → exec (.bringupStageTimeout l) s = .next (put { x with stage := 1, fails := x.fails + 1, found := 0, rxFound := 0 }))
    ∧ (2 ≤ x.fails → exec (.bringupStageTimeout l) s = .next ((put { x with state := .failed, fails := x.fails + 1, found := 0, rxFound := 0 }).event 0x52 4 l l
        [(x.lit.toNat, 2), (x.peer.toNat, 2), (x.stage, 1)])))

/-- R414 to R418, R420 to R422: a wake's end lights the waking wavelengths once this end has sent its part of the agreement, which follows code lock; its
budget leaves the stuck ones DARK, and the rest goes on to the agreement, or the wake ends OK where nothing is left to wake; a queue that reaches
WAKE_DEPTH wakes the parked ones, with event 0x54; a drained link goes to SWITCHING, the switch's report to bring-up, its timeout DOWN with event 0x52;
Draw applies its setting, link by link; parameters in range and the route table are taken; XLN STAT replies with the link's word. That a parameter out of
range is ignored is log 63, how Draw reads its setting and marks the links log 64, and stage 1 in the switch timeout's event log 62. -/
def Obligations.LinkWidthAndRoutes : Prop := ∀ (s : State) (l : Nat), l < s.links.length →
  let x := s.link l
  let put (y : Link) : State := { s with links := s.links.set l y }
  (∀ h rest, x.cmds = h :: rest → h.started = true → h.ease = false → x.told = true → x.state = .waking ∨ x.state = .draining →
    exec (.wakeComplete l) s = .next (((put { x with
      lit := x.lit ||| x.waking, waking := 0, beats := 0, told := false, state := if x.state = .waking then .up else x.state }).endLinkCmd l 0 0).startLink l))
  ∧ (x.told = false → exec (.wakeComplete l) s = .next s)
  ∧ (x.told = true → ∀ stuck, exec (.wakeBudgetExpiry l stuck) s = .next s)
  ∧ (∀ stuck, x.told = false →
    let y : Link := { x with dark := x.dark ||| (x.waking &&& stuck), waking := x.waking &&& ~~~stuck }
    (x.state = .narrowing → exec (.wakeBudgetExpiry l stuck) s = .next (put y))
    ∧ (y.waking ≠ 0 → x.state = .waking ∨ x.state = .draining →
      ∃ f, exec (.wakeBudgetExpiry l stuck) s = .next (put { y with told := true, ctlOut := x.ctlOut ++ [f] }))
    ∧ (∀ h rest, y.waking = 0 → x.state ≠ .narrowing → x.cmds = h :: rest → h.started = true → h.ease = false →
      exec (.wakeBudgetExpiry l stuck) s
        = .next (((put { y with state := if x.state = .waking then .up else x.state }).endLinkCmd l 0 0).startLink l)))
  ∧ (x.auto = true → x.speaks = true → x.parked ≠ 0 → x.wakeDepth ≤ x.egress.length → (∀ c ∈ x.cmds, c.cmd ≠ none) →
    exec (.automaticWake l) s = .next (((put { x with cmds := x.cmds ++ [⟨none, false, 0xFFFF, false⟩] }).event 0x54 4 l l
      [(x.parked.toNat, 2), (x.egress.length, 2)]).startLink l))
  ∧ (∀ peer p, x.auto = true → x.speaks = true → x.parked ≠ 0 → x.egress.length + 1 = x.wakeDepth → (∀ c ∈ x.cmds, c.cmd ≠ none) →
    s.egress l peer [p] = (((put { x with egress := x.egress ++ [(peer, p)], cmds := x.cmds ++ [⟨none, false, 0xFFFF, false⟩] }).event 0x54 4 l l
      [(x.parked.toNat, 2), (x.wakeDepth, 2)]).startLink l))
  ∧ (x.state = .draining → x.replay = [] → ∃ z, exec (.linkDrained l) s = .next (put z) ∧ z.state = .switching ∧ z.lit = 0 ∧ z.dest = x.dest)
  ∧ (x.state = .switching → exec (.circuitSwitchReport l) s = .next (put { x with state := .bringup, stage := 1, fails := 0 }))
  ∧ (x.state = .switching → exec (.switchTimeout l) s = .next ((put { x with state := .down, stage := 1 }).event 0x52 4 l l
      [(x.lit.toNat, 2), (x.peer.toNat, 2), (0, 1)]))
  ∧ (∃ t, exec .drawRun s = .next t ∧ t = { s with links := t.links } ∧ t.links.length = s.links.length
    ∧ ((∀ p, (l, p) ∉ s.setting) → t.link l = x)
    ∧ ∀ p, (l, p) ∈ s.setting →
      let now := (x.dest.map s.queued).getD 0
      (x.state = .up → x.dest ≠ some p → s.drawHyst * now ≤ s.queued p →
        t.link l = { x with state := .draining, drain := true, dest := some p })
      ∧ (x.state = .up → x.dest = some p ∨ s.queued p < s.drawHyst * now → t.link l = x)
      ∧ (x.state = .quarantine → (t.link l).state = .switching ∧ (t.link l).dest = some p ∧ (t.link l).lit = 0)
      ∧ (x.state ≠ .up → x.state ≠ .quarantine → t.link l = x))
  ∧ (∀ pkg, exec (.exclusionClear l pkg) s = .next { s with excluded := s.excluded.filter fun y => y != (l, pkg) })
  ∧ (∀ d, exec (.linkParameterWrite l (.lolThresh d)) s = .next (if -20 ≤ d ∧ d ≤ -8 then put { x with lolThresh := d } else s))
  ∧ (∀ n, exec (.linkParameterWrite l (.wakeDepth n)) s = .next (if 1 ≤ n ∧ n ≤ 4096 then put { x with wakeDepth := n } else s))
  ∧ (∀ on, exec (.linkParameterWrite l (.auto on)) s = .next (put { x with auto := on }))
  ∧ (∀ n, exec (.linkParameterWrite l (.drawInt n)) s = .next (if 1 ≤ n ∧ n ≤ 1000 then { s with drawInt := n } else s))
  ∧ (∀ n, exec (.linkParameterWrite l (.drawHyst n)) s = .next (if 1 ≤ n ∧ n ≤ 16 then { s with drawHyst := n } else s))
  ∧ (∀ fixed served, (∀ j < 8, (s.link j).state ≠ .quarantine) →
    exec (.routeTableWrite fixed served) s = .next { s with routes := fixed.filter fun r => decide (r.1 < 8), served := served })
  ∧ ∀ (k : Crew) (r : Reply) (a : BitVec 6), s.runs k (.xlnStat r a) → s.goesTo k (.xlnStat r a) s.bump (k.reply r (
      let n := (k.pr a.toNat).toNat
      let y := s.link n
      if 31 < n then BitVec.ofNat 64 (2 ^ 63 + 1)
      else BitVec.ofNat 64 (y.lit.toNat + (y.parked ||| y.waking).toNat * 2 ^ 16 + y.dark.toNat * 2 ^ 32
        + (match y.state with
          | .down => 0 | .bringup => 1 | .up => 2 | .narrowing => 3 | .waking => 4 | .quarantine => 5 | .failed => 6 | .draining => 7 | .switching => 7)
          * 2 ^ 48 + y.peer.toNat * 2 ^ 51)))
end

