-- ==== Sys2Proof/Laws/Alu.lean ====
section
/-! SUPPORT. The integer functions of the machine as formulas over exact integers. -/

namespace Sys2Proof.Machine

theorem minI_eq (x y : Word) : minI x y = BitVec.ofInt 32 (min x.toInt y.toInt) := by
  unfold minI; rw [BitVec.slt_eq_decide]; simp only [decide_eq_true_eq]
  split <;> [rw [min_eq_left (by omega)]; rw [min_eq_right (by omega)]] <;> simp
theorem maxI_eq (x y : Word) : maxI x y = BitVec.ofInt 32 (max x.toInt y.toInt) := by
  unfold maxI; rw [BitVec.slt_eq_decide]; simp only [decide_eq_true_eq]
  split <;> [rw [max_eq_right (by omega)]; rw [max_eq_left (by omega)]] <;> simp
theorem minN_eq (x y : Word) : minN x y = BitVec.ofNat 32 (min x.toNat y.toNat) := by
  unfold minN; rw [BitVec.ult_eq_decide]; simp only [decide_eq_true_eq]
  split <;> [rw [min_eq_left (by omega)]; rw [min_eq_right (by omega)]] <;> simp
theorem maxN_eq (x y : Word) : maxN x y = BitVec.ofNat 32 (max x.toNat y.toNat) := by
  unfold maxN; rw [BitVec.ult_eq_decide]; simp only [decide_eq_true_eq]
  split <;> [rw [max_eq_right (by omega)]; rw [max_eq_left (by omega)]] <;> simp
theorem toInt_maxI (x y : Word) : (maxI x y).toInt = max x.toInt y.toInt := by
  unfold maxI; rw [BitVec.slt_eq_decide]; simp only [decide_eq_true_eq]; split <;> omega
theorem toNat_maxN (x y : Word) : (maxN x y).toNat = max x.toNat y.toNat := by
  unfold maxN; rw [BitVec.ult_eq_decide]; simp only [decide_eq_true_eq]; split <;> omega

theorem shl_eq (x : Word) (n : Nat) : x <<< n = BitVec.ofNat 32 (x.toNat * 2 ^ n) := by
  apply BitVec.eq_of_toNat_eq; simp [Nat.shiftLeft_eq]
theorem shr_eq (x : Word) (n : Nat) : x >>> n = BitVec.ofNat 32 (x.toNat / 2 ^ n) := by
  apply BitVec.eq_of_toNat_eq
  simp only [BitVec.toNat_ushiftRight, Nat.shiftRight_eq_div_pow, BitVec.toNat_ofNat]
  exact (Nat.mod_eq_of_lt (lt_of_le_of_lt (Nat.div_le_self _ _) x.isLt)).symm
theorem sshr_eq (x : Word) (n : Nat) : x.sshiftRight n = BitVec.ofInt 32 (x.toInt / 2 ^ n) := by
  rw [show x.toInt / 2 ^ n = x.toInt >>> n by rw [Int.shiftRight_eq_div_pow]; norm_cast]
  rw [← BitVec.toInt_sshiftRight, BitVec.ofInt_toInt]

theorem signExtend_eq {w : Nat} (x : BitVec w) (h : w ≤ 32) : x.signExtend 32 = BitVec.ofInt 32 x.toInt := by
  apply BitVec.eq_of_toInt_eq
  rw [BitVec.toInt_signExtend_of_le h, BitVec.toInt_ofInt_eq_self (by omega)]
  · have := BitVec.le_two_mul_toInt (x := x)
    have h2 : (2 : Int) ^ w ≤ 2 ^ 32 := pow_le_pow_right₀ (by norm_num) h
    norm_num at *; omega
  · have := BitVec.two_mul_toInt_lt (x := x)
    have h2 : (2 : Int) ^ w ≤ 2 ^ 32 := pow_le_pow_right₀ (by norm_num) h
    norm_num at *; omega

theorem ofInt_abs (z : Int) : BitVec.ofInt 32 (z.natAbs : Int) = BitVec.ofInt 32 |z| := by rw [Int.abs_eq_natAbs]

end Sys2Proof.Machine
end

