-- ==== Sys2Proof/Laws/Crew.lean ====
section
/-! SUPPORT. What the shared operations on crews and threads do: the checks before an instruction, its end, and the writing of registers and
predicates. -/

namespace Sys2Proof.Machine

/-! ## The checks every instruction shares -/

theorem issue_runs {s : State} {k : Crew} {i : Instr} (h : s.runs k i) (body : State → Crew → Lanes → State) :
    issue i s body = .next (body (s.entering k i) (k.entering i) k.active) := by
  obtain ⟨hc, hi⟩ := h
  simp only [State.issues, Bool.and_eq_true, Bool.not_eq_true'] at hi
  obtain ⟨⟨⟨⟨hm, ha⟩, hp⟩, hb⟩, hs⟩ := hi
  have ha' : (!k.mayIssue || k.active == 0) = false := by rw [hm]; simpa [bne] using ha
  have hp' : (needsPriv i && !s.privileged k) = false := by revert hp; cases needsPriv i <;> cases s.privileged k <;> simp
  have hb' : (!(uses (s.slots k) k i).inBounds k && k.guarded k.active (guardOf i) != 0) = false := by
    revert hb; unfold bne; cases (uses (s.slots k) k i).inBounds k <;> cases (k.guarded k.active (guardOf i) == 0) <;> simp
  unfold issue
  rw [hc]
  simp only [ha', hp', hb', hs, Bool.false_eq_true, if_false, State.entering, Crew.entering]

/-- An instruction that closes no window finds its crew as it is (R39). -/
theorem Crew.entering_open {k : Crew} {i : Instr} (h : closesWindow i = false) : k.entering i = k := by simp [Crew.entering, Crew.closeWin, h]
theorem State.entering_open {s : State} {k : Crew} {i : Instr} (h : closesWindow i = false) : s.entering k i = s.bump := by
  simp [State.entering, State.closed, h]

theorem issue_open {s : State} {k : Crew} {i : Instr} (h : s.runs k i) (ho : closesWindow i = false) (body : State → Crew → Lanes → State) :
    issue i s body = .next (body s.bump k k.active) := by
  rw [issue_runs h, Crew.entering_open ho, State.entering_open ho]

theorem issue_priv {s : State} {k : Crew} {i : Instr} (hc : s.curCrew = some k) (hm : k.mayIssue = true) (ha : k.active ≠ 0)
    (hn : needsPriv i = true) (hp : s.privileged k = false) (body : State → Crew → Lanes → State) :
    issue i s body = .next (s.trapAll k .priv k.active) := by
  unfold issue
  rw [hc]
  simp only [hm, beq_false_of_ne ha, hn, hp, Bool.not_true, Bool.or_self, Bool.false_eq_true, if_false, Bool.not_false, Bool.and_self, if_true]

theorem issue_bound {s : State} {k : Crew} {i : Instr} (hc : s.curCrew = some k) (hm : k.mayIssue = true) (ha : k.active ≠ 0)
    (hp : s.privileged k = true) (hb : (uses (s.slots k) k i).inBounds k = false) (hg : k.guarded k.active (guardOf i) ≠ 0)
    (body : State → Crew → Lanes → State) : issue i s body = .next (s.trapAll k .regBound (k.guarded k.active (guardOf i))) := by
  unfold issue
  rw [hc]
  simp only [hm, beq_false_of_ne ha, hp, hb, bne_iff_ne.mpr hg, Bool.not_true, Bool.or_self, Bool.false_eq_true, if_false, Bool.and_false,
    Bool.not_false, Bool.and_self, if_true]

theorem issueLegal_runs {s : State} {k : Crew} {i : Instr} (h : s.runs k i) {bad : State → Crew → Bool} (hb : bad s k = false)
    (body : State → Crew → Lanes → State) : issueLegal bad i s body = .next (body (s.entering k i) (k.entering i) k.active) := by
  simp [issueLegal, h.1, hb, issue_runs h]

/-! ## Threads of a crew -/

@[simp] theorem Crew.mapT_length (k : Crew) (f : Nat → Thread → Thread) : (k.mapT f).threads.length = k.threads.length := by
  simp [Crew.mapT]

theorem Crew.thread_mapT (k : Crew) (f : Nat → Thread → Thread) {l : Nat} (h : l < k.threads.length) :
    (k.mapT f).thread l = f l (k.thread l) := by
  simp [Crew.thread, Crew.mapT, List.getD_eq_getElem?_getD, List.getElem?_mapIdx, List.getElem?_eq_getElem h]

theorem Thread.put_eq (t : Thread) (lane r : Nat) (w : Word) :
    t.put lane r w = { t with v := (t.put lane r w).v, win := (t.put lane r w).win } := rfl

theorem Thread.puts_eq (t : Thread) (lane : Nat) (ws : List (Nat × Word)) :
    t.puts lane ws = { t with v := (t.puts lane ws).v, win := (t.puts lane ws).win } := by
  induction ws generalizing t with
  | nil => rfl
  | cons w ws ih =>
    simp only [Thread.puts, List.foldl_cons] at ih ⊢
    rw [ih]
    rfl

theorem Thread.put_length (t : Thread) (lane r : Nat) (w : Word) : (t.put lane r w).v.length = t.v.length := by simp [Thread.put]

theorem Thread.puts_length (t : Thread) (lane : Nat) (ws : List (Nat × Word)) : (t.puts lane ws).v.length = t.v.length := by
  induction ws generalizing t with
  | nil => rfl
  | cons w ws ih => simp only [Thread.puts, List.foldl_cons] at ih ⊢; rw [ih, Thread.put_length]

theorem Thread.put_other (t : Thread) (lane r q : Nat) (w : Word) (h : q ≠ r) : (t.put lane r w).v.getD q 0 = t.v.getD q 0 := by
  simp [Thread.put, List.getD_eq_getElem?_getD, Ne.symm h]

theorem Thread.put_same (t : Thread) (lane r : Nat) (w : Word) (h : r < t.v.length) :
    (t.put lane r w).v.getD r 0 = t.final lane r w := by
  simp [Thread.put, List.getD_eq_getElem?_getD, h]

/-- What a write leaves in the end does not depend on other writes. -/
theorem Thread.final_put (t : Thread) (lane r q : Nat) (w x : Word) : (t.put lane r w).final lane q x = t.final lane q x := by
  unfold Thread.final Thread.put
  rw [List.foldl_map]
  congr 1
  funext a e
  by_cases h : (e.reg == r) = true <;> simp [h]

/-- A write stays, or a long result of an open window of its register takes its place (R40). -/
theorem Thread.final_spec (t : Thread) (lane r : Nat) (w : Word) :
    (t.final lane r w = w ∨ ∃ e ∈ t.win, e.reg = r ∧ e.left ≠ 0 ∧ e.new = some (t.final lane r w))
      ∧ ((t.win.any fun e => e.reg == r && e.left != 0) = false → t.final lane r w = w) := by
  unfold Thread.final
  generalize t.win = L
  induction L generalizing w with
  | nil => exact ⟨.inl rfl, fun _ => rfl⟩
  | cons e L ih =>
    simp only [List.foldl_cons, List.any_cons, Bool.or_eq_false_iff]
    refine ⟨?_, fun h => ?_⟩
    · rcases (ih _).1 with h | ⟨e', h1, h2⟩
      · rw [h]
        split
        · next hc =>
          simp only [Bool.and_eq_true, beq_iff_eq, bne_iff_ne] at hc
          cases hn : e.new with
          | none => exact .inl rfl
          | some x => exact .inr ⟨e, by simp, hc.1.1, hc.1.2, by simp [hn]⟩
        · exact .inl rfl
      · exact .inr ⟨e', List.mem_cons_of_mem _ h1, h2⟩
    · rw [(ih _).2 h.2, if_neg (by simp [h.1])]

/-- The registers d to d + n - 1 written at once. -/
theorem Thread.puts_range (t : Thread) (lane d n : Nat) (g : Nat → Word) :
    (∀ r, r < d ∨ d + n ≤ r → (t.puts lane ((List.range n).map fun j => (d + j, g j))).v.getD r 0 = t.v.getD r 0)
      ∧ (∀ j < n, d + j < t.v.length →
        (t.puts lane ((List.range n).map fun j => (d + j, g j))).v.getD (d + j) 0 = t.final lane (d + j) (g j))
      ∧ ∀ q x, (t.puts lane ((List.range n).map fun j => (d + j, g j))).final lane q x = t.final lane q x := by
  induction n with
  | zero => exact ⟨fun _ _ => rfl, fun _ h => absurd h (Nat.not_lt_zero _), fun _ _ => rfl⟩
  | succ n ih =>
    have e : t.puts lane ((List.range (n + 1)).map fun j => (d + j, g j))
        = (t.puts lane ((List.range n).map fun j => (d + j, g j))).put lane (d + n) (g n) := by
      simp [Thread.puts, List.range_succ]
    rw [e]
    have hl := Thread.puts_length t lane ((List.range n).map fun j => (d + j, g j))
    generalize t.puts lane ((List.range n).map fun j => (d + j, g j)) = u at ih hl ⊢
    refine ⟨fun r hr => ?_, fun j hj hd => ?_, fun q x => ?_⟩
    · rw [Thread.put_other _ _ _ _ _ (by omega)]; exact ih.1 r (by omega)
    · rcases Nat.lt_succ_iff_lt_or_eq.mp hj with h | rfl
      · rw [Thread.put_other _ _ _ _ _ (by omega)]; exact ih.2.1 j h hd
      · rw [Thread.put_same u lane (d + j) (g j) (by omega), ih.2.2]
    · rw [Thread.final_put, ih.2.2]

/-! ## Lookahead windows -/

/-- Windows that have closed stay closed. -/
theorem Thread.endWin_idem (t : Thread) : t.endWin.endWin = t.endWin := by
  unfold Thread.endWin Thread.prune
  simp only [Thread.mk.injEq, true_and]
  generalize t.win = L
  have e : ∀ M : List LookEntry, (∀ x ∈ M, x.left = 0) → M.map (fun (e : LookEntry) => { e with left := 0 }) = M := by
    intro M hM
    conv_rhs => rw [← List.map_id M]
    refine List.map_congr_left fun x hx => ?_
    have := hM x hx
    cases x
    simp_all
  rw [e _ (by intro x hx; obtain ⟨y, -, rfl⟩ := List.mem_map.mp (List.mem_filter.mp hx).1; rfl), List.filter_filter]
  refine List.filter_congr fun x _ => ?_
  rw [Bool.eq_iff_iff]
  simp only [Bool.and_eq_true, Bool.or_eq_true, List.any_eq_true, List.mem_filter]
  constructor
  · rintro ⟨h, -⟩
    rcases h with h | ⟨y, ⟨hy, -⟩, h⟩
    · exact .inl h
    · exact .inr ⟨y, hy, h⟩
  · rintro (h | ⟨y, hy, h⟩)
    · exact ⟨.inl h, .inl h⟩
    · exact ⟨.inr ⟨y, ⟨hy, .inl (.inr h.2)⟩, h⟩, .inr ⟨y, hy, h⟩⟩

theorem closedLoads_idem (i : Instr) (act : Lanes) (ps : List PendLoad) : closedLoads i act (closedLoads i act ps) = closedLoads i act ps := by
  unfold closedLoads
  split
  · rw [List.map_map]
    refine List.map_congr_left fun p _ => ?_
    by_cases h : act.getLsbD p.lane = true <;> simp [h]
  · rfl
/-- The loads of a crew as its instruction finds it (R39). -/
theorem Crew.entering_loads (k : Crew) (i : Instr) : (k.entering i).loads = closedLoads i k.active k.loads := by
  unfold Crew.entering Crew.closeWin closedLoads; split <;> rfl
theorem Crew.loadsAfter_closed (k : Crew) (i : Instr) (ps : List PendLoad) : k.loadsAfter i (closedLoads i k.active ps) = k.loadsAfter i ps := by
  unfold Crew.loadsAfter; rw [closedLoads_idem]

/-! ## The end of an instruction -/

/-- While repeats remain, an advance moves on to the next (R43, R44). -/
theorem Crew.advance_more {k c : Crew} (i : Instr) (now : Nat) (hr : c.rep = k.rep) (h : k.lastRepeat = false) :
    c.advance i k.active now = ({ c with rep := k.repAfter } : Crew).issued now := by
  cases ha : k.rep.active <;> simp_all [Crew.lastRepeat, Crew.advance, Crew.repAfter]

/-- The advance after the last repeat, or outside a REP (R43, R73, R83). -/
theorem Crew.advance_last {k c : Crew} (i : Instr) (now : Nat) (hr : c.rep = k.rep) (h : k.lastRepeat = true) :
    c.advance i k.active now =
      ({ (c.mapT fun j t => if k.active.getLsbD j then
            (t.setPc (t.pcv.toNat + if k.rep.active then 4 + i.length else i.length)).tickWin i else t).endYield with
          rep := k.repAfter, loads := c.loads.map fun p => p.tick i k.active } : Crew).issued now := by
  cases ha : k.rep.active <;> simp_all [Crew.lastRepeat, Crew.advance, Crew.repAfter]

/-- The threads of a crew after its advance. -/
theorem Crew.advance_thread (k c : Crew) (i : Instr) (now : Nat) (hr : c.rep = k.rep) {l : Nat}
    (hl : l < c.threads.length) (hp : (c.thread l).pcv = (k.thread l).pcv) (hy : (c.thread l).yex = (k.thread l).yex) :
    (c.advance i k.active now).thread l
      = { c.thread l with pcv := k.pcAfter i l, yex := k.yexAfter l, win := ((c.advance i k.active now).thread l).win } := by
  cases h : k.lastRepeat
  · rw [Crew.advance_more i now hr h]
    simp only [Crew.pcAfter, Crew.yexAfter, h, Bool.and_false, Bool.false_eq_true, if_false, Bool.not_false, Bool.true_and, ← hp, ← hy]
    rfl
  · have e : (c.advance i k.active now).thread l
        = { (if k.active.getLsbD l then ((c.thread l).setPc ((c.thread l).pcv.toNat + if k.rep.active then 4 + i.length else i.length)).tickWin i
             else c.thread l) with yex := false } := by
      rw [Crew.advance_last i now hr h]
      have e2 := Crew.thread_mapT (c.mapT fun j t => if k.active.getLsbD j then
          (t.setPc (t.pcv.toNat + if k.rep.active then 4 + i.length else i.length)).tickWin i else t) (fun _ t => { t with yex := false })
        (l := l) (by simpa using hl)
      rw [Crew.thread_mapT _ _ hl] at e2
      exact e2
    rw [e]
    by_cases hb : k.active.getLsbD l = true
    · have : (k.thread l).pcv.toNat + (if k.rep.active then 4 + i.length else i.length)
          = (k.thread l).pcv.toNat + i.length + if k.rep.active then 4 else 0 := by split <;> omega
      simp only [Thread.setPc, Thread.tickWin, Thread.countWin, Crew.pcAfter, Crew.yexAfter, mkPc, hp, hb, h, Bool.and_self, if_true, Bool.not_true,
        Bool.false_and, this]
      split <;> rfl
    · simp only [Crew.pcAfter, Crew.yexAfter, h, hb, Bool.false_and, Bool.false_eq_true, if_false, Bool.not_true, ← hp]

/-- The crew c has the loads that i found: its windows are closed where i closes them (R39). -/
theorem Crew.advance_from (k c : Crew) (i : Instr) (now : Nat) (hr : c.rep = k.rep) (hL : closedLoads i k.active c.loads = c.loads)
    (hp : ∀ l < c.threads.length, (c.thread l).pcv = (k.thread l).pcv ∧ (c.thread l).yex = (k.thread l).yex) :
    k.movedFrom c (c.advance i k.active now) i now := by
  refine ⟨?_, ?_, fun l hl => Crew.advance_thread k c i now hr hl (hp l hl).1 (hp l hl).2⟩
  · cases h : k.lastRepeat
    · rw [Crew.advance_more i now hr h]
      simp only [Crew.loadsAfter, h, hL, Bool.false_eq_true, if_false, Crew.issued]
    · rw [Crew.advance_last i now hr h]
      simp only [Crew.loadsAfter, h, hL, if_true]
      rfl
  · cases h : k.lastRepeat
    · rw [Crew.advance_more i now hr h]; rfl
    · rw [Crew.advance_last i now hr h]; simp [Crew.endYield, Crew.issued]

/-- What a crew moves on from may differ in its lookahead windows alone. -/
theorem Crew.movedFrom_congr {k c d k' : Crew} {i : Instr} {now : Nat} (h : k.movedFrom c k' i now)
    (hd : c = { d with threads := c.threads, loads := c.loads }) (hL : k.loadsAfter i c.loads = k.loadsAfter i d.loads)
    (hl : c.threads.length = d.threads.length) (ht : ∀ l < d.threads.length, c.thread l = { d.thread l with win := (c.thread l).win }) :
    k.movedFrom d k' i now := by
  obtain ⟨h1, h2, h3⟩ := h
  refine ⟨?_, h2.trans hl, fun l hl' => ?_⟩
  · rw [hL] at h1
    generalize c.threads = ths at hd
    generalize c.loads = ls at hd
    subst hd
    exact h1
  · have e := h3 l (by omega)
    rw [ht l hl'] at e
    exact e

theorem Crew.advance_moved (k c : Crew) (i : Instr) (now : Nat) (ho : closesWindow i = false)
    (h : c = { k with threads := c.threads }) (hl : c.threads.length = k.threads.length)
    (ht : ∀ l < k.threads.length,
      c.thread l = { k.thread l with v := (c.thread l).v, p := (c.thread l).p, win := (c.thread l).win }
        ∧ (c.thread l).v.length = (k.thread l).v.length) :
    k.moved (c.advance i k.active now) i now
      ∧ ∀ l < k.threads.length, ((c.advance i k.active now).thread l).v = (c.thread l).v
          ∧ ((c.advance i k.active now).thread l).p = (c.thread l).p := by
  have hr : c.rep = k.rep := by rw [h]
  have hp : ∀ l < c.threads.length, (c.thread l).pcv = (k.thread l).pcv ∧ (c.thread l).yex = (k.thread l).yex :=
    fun l hl' => by rw [(ht l (by omega)).1]; exact ⟨rfl, rfl⟩
  obtain ⟨h1, h2, h3⟩ := Crew.advance_from k c i now hr (by simp [closedLoads, ho]) hp
  refine ⟨⟨?_, by omega, fun l hl' => ?_⟩, fun l hl' => ?_⟩
  · generalize c.advance i k.active now = x at h1
    generalize c.threads = ths at h
    subst h
    exact h1
  · have k1 := h3 l (by omega)
    have k2 := ht l hl'
    generalize (c.advance i k.active now).thread l = x at k1 ⊢
    generalize c.thread l = y at k1 k2
    generalize k.thread l = z at k2 ⊢
    obtain ⟨hy, hv⟩ := k2
    obtain ⟨v, p, w, rfl⟩ : ∃ v p w, y = { z with v := v, p := p, win := w } := ⟨_, _, _, hy⟩
    obtain ⟨w', rfl⟩ : ∃ w', x = { z with v := v, p := p, pcv := k.pcAfter i l, yex := k.yexAfter l, win := w' } := ⟨_, k1⟩
    exact ⟨rfl, hv⟩
  · rw [h3 l (by omega)]
    exact ⟨rfl, rfl⟩

/-- Every instruction that ends by advancing its crew; c has the loads that i found. -/
theorem goesTo_of {s t : State} {k c : Crew} {i : Instr} (h : exec i s = .next (t.done i c k.active)) (hL : closedLoads i k.active c.loads = c.loads)
    (hc : c.core = k.core := by rfl) (hr : c.rep = k.rep := by rfl)
    (hp : ∀ l < c.threads.length, (c.thread l).pcv = (k.thread l).pcv ∧ (c.thread l).yex = (k.thread l).yex := by intros; exact ⟨rfl, rfl⟩) :
    s.goesTo k i t c :=
  ⟨_, h, hc ▸ Crew.advance_from k c i _ hr hL hp⟩

/-- Every instruction that stops its crew until an event; the windows it closes are closed in c. -/
theorem waits_stopped (c : Crew) (i : Instr) (act : Lanes) (w : Wait) (now : Nat) (hL : closedLoads i act c.loads = c.loads)
    (hw : closesWindow i = true → ∀ l < c.threads.length, act.getLsbD l = true → (c.thread l).endWin = c.thread l) :
    c.stopped { (if w.again then c else c.endYield).issued now with wait := some w, waitLanes := act } i act w now := by
  refine ⟨by rw [hL]; cases w.again <;> rfl, by cases w.again <;> simp [Crew.issued, Crew.endYield], fun l hl => ?_⟩
  have e : (if closesWindow i && act.getLsbD l then (c.thread l).endWin else c.thread l) = c.thread l := by
    split
    · next h => simp only [Bool.and_eq_true] at h; exact hw h.1 l hl h.2
    · rfl
  rw [e]
  cases hg : w.again
  · have := Crew.thread_mapT c (fun _ t => { t with yex := false }) hl
    simpa [Crew.thread, Crew.issued, Crew.endYield] using this
  · simp [Crew.thread, Crew.issued]

/-- Every control instruction without a trap. -/
theorem transfers_of {s t : State} {k c : Crew} {i : Instr} {tgt : Nat → Nat} (h : exec i s = .next (t.control i k c k.active tgt []))
    (hL : closedLoads i k.active c.loads = c.loads) (hr : c.rep = k.rep := by rfl)
    (hp : ∀ l < c.threads.length, (c.thread l).pcv = (k.thread l).pcv ∧ (c.thread l).yex = (k.thread l).yex := by intros; exact ⟨rfl, rfl⟩) :
    s.transfers k i t c tgt := by
  simp only [State.control, List.isEmpty_nil, List.any_nil, Bool.not_false, Bool.and_true, if_true] at h
  obtain ⟨h1, h2, h3⟩ := Crew.advance_from k c i (t.cycles k.core).toNat hr hL hp
  refine ⟨_, h, ?_, by simp [h2], fun l hl => ?_⟩
  · generalize c.advance i k.active (t.cycles k.core).toNat = x at h1
    conv_lhs => rw [h1]
    rfl
  · have ht := h3 l hl
    rw [Crew.thread_mapT _ _ (by omega)]
    generalize (c.advance i k.active (t.cycles k.core).toNat).thread l = x at ht ⊢
    obtain ⟨w, rfl⟩ : ∃ w, x = { c.thread l with pcv := k.pcAfter i l, yex := k.yexAfter l, win := w } := ⟨_, ht⟩
    by_cases ha : k.active.getLsbD l = true
    · simp only [ha, if_true, Thread.setPc, mkPc]
    · simp only [ha, Bool.false_eq_true, if_false]
      rw [(hp l hl).1, Crew.pcAfter, if_neg (by simp [ha])]

/-! ## Vector results -/

theorem Crew.writeV_spec (k : Crew) (key la : Nat) (on : Lanes) (d n : Nat) (g : Nat → Nat → Word) (f : Nat → Thread → List (Nat × Word))
    (hf : ∀ l < k.threads.length, f l (k.thread l) = (List.range n).map fun j => (d + j, g l j)) :
    (k.writeV key la on f) = { k with threads := (k.writeV key la on f).threads }
      ∧ (k.writeV key la on f).threads.length = k.threads.length
      ∧ ∀ l < k.threads.length,
          (k.writeV key la on f).thread l
              = { k.thread l with v := ((k.writeV key la on f).thread l).v, win := ((k.writeV key la on f).thread l).win }
            ∧ ((k.writeV key la on f).thread l).v.length = (k.thread l).v.length
            ∧ (∀ r, on.getLsbD l = false ∨ r < d ∨ d + n ≤ r → (k.writeV key la on f).reg l r = k.reg l r)
            ∧ ∀ j < n, on.getLsbD l = true → d + j < (k.thread l).v.length →
                ((k.writeV key la on f).reg l (d + j) = g l j
                    ∨ ∃ e ∈ (k.thread l).win, e.reg = d + j ∧ e.left ≠ 0 ∧ e.new = some ((k.writeV key la on f).reg l (d + j)))
                  ∧ (k.windowed l (d + j) = false → (k.writeV key la on f).reg l (d + j) = g l j) := by
  refine ⟨rfl, by simp [Crew.writeV], fun l hl => ?_⟩
  have e : (k.writeV key la on f).thread l =
      if on.getLsbD l then ((k.thread l).puts l (f l (k.thread l))).opens key la (f l (k.thread l)) (k.thread l) else k.thread l := by
    simp only [Crew.writeV]; rw [Crew.thread_mapT _ _ hl]
  have ov : ∀ t ws b, (Thread.opens t key la ws b).v = t.v ∧ Thread.opens t key la ws b = { t with win := (Thread.opens t key la ws b).win } := by
    intro t ws b; unfold Thread.opens; split <;> exact ⟨rfl, rfl⟩
  simp only [Crew.reg]
  by_cases ho : on.getLsbD l = true
  · rw [if_pos ho, hf l hl] at e
    have hv := Thread.puts_range (k.thread l) l d n (g l)
    have hpe := Thread.puts_eq (k.thread l) l ((List.range n).map fun j => (d + j, g l j))
    have hpl := Thread.puts_length (k.thread l) l ((List.range n).map fun j => (d + j, g l j))
    have ho' := ov ((k.thread l).puts l ((List.range n).map fun j => (d + j, g l j))) ((List.range n).map fun j => (d + j, g l j)) (k.thread l)
    rw [e]
    refine ⟨?_, ?_, fun r hr => ?_, fun j hj _ hd => ?_⟩
    · rw [ho'.2, hpe]
    · rw [ho'.1, hpl]
    · rw [ho'.1]; exact hv.1 r (by rcases hr with h | h | h <;> [simp [ho] at h; exact .inl h; exact .inr h])
    · rw [ho'.1, hv.2.1 j hj hd]; exact Thread.final_spec (k.thread l) l (d + j) (g l j)
  · rw [if_neg ho] at e
    rw [e]
    exact ⟨rfl, rfl, fun _ _ => rfl, fun _ _ h => absurd h ho⟩

/-- Every instruction that ends by writing consecutive vector registers. -/
theorem writesRegs_of {s : State} {k : Crew} {i : Instr} (ho : closesWindow i = false) {key la : Nat} {on : Lanes} {d n : Nat} {g : Nat → Nat → Word}
    {f : Nat → Thread → List (Nat × Word)} (h : exec i s = .next (s.bump.done i (k.writeV key la on f) k.active))
    (hf : ∀ l < k.threads.length, f l (k.thread l) = (List.range n).map fun j => (d + j, g l j)) :
    s.writesRegs k i on d n g := by
  obtain ⟨hw, hl, ht⟩ := Crew.writeV_spec k key la on d n g f hf
  have hm := Crew.advance_moved k (k.writeV key la on f) i (s.cycles k.core).toNat ho hw hl
    (fun l hl' => ⟨by have := (ht l hl').1; rw [this], (ht l hl').2.1⟩)
  refine ⟨(k.writeV key la on f).advance i k.active (s.cycles k.core).toNat, h, hm.1, fun l hl' => ?_⟩
  have hp : ((k.writeV key la on f).thread l).p = (k.thread l).p := by rw [(ht l hl').1]
  have hv : ∀ r, Crew.reg ((k.writeV key la on f).advance i k.active (s.cycles k.core).toNat) l r = (k.writeV key la on f).reg l r := by
    intro r; simp only [Crew.reg, (hm.2 l hl').1]
  refine ⟨by rw [(hm.2 l hl').2, hp], fun r hr => ?_, fun j hj ho hd => ?_⟩
  · rw [hv]; exact (ht l hl').2.2.1 r hr
  · rw [hv]; exact (ht l hl').2.2.2 j hj ho hd

/-- Every instruction that ends by writing one predicate. -/
theorem writesPred_of {s : State} {k : Crew} {i : Instr} (ho : closesWindow i = false) {p : Nat} {g : Nat → Bool} {f : Nat → Thread → Bool}
    (h : exec i s = .next (s.bump.done i (k.writeP k.active p f) k.active)) (hf : ∀ l < k.threads.length, f l (k.thread l) = g l) :
    s.writesPred k i p g := by
  have e : ∀ l < k.threads.length, (k.writeP k.active p f).thread l
      = if k.active.getLsbD l then (k.thread l).setP p (g l) else k.thread l := by
    intro l hl; simp only [Crew.writeP]; rw [Crew.thread_mapT _ _ hl, hf l hl]
  have hm := Crew.advance_moved k (k.writeP k.active p f) i (s.cycles k.core).toNat ho rfl (by simp [Crew.writeP])
    (fun l hl => by rw [e l hl]; split <;> exact ⟨rfl, rfl⟩)
  refine ⟨(k.writeP k.active p f).advance i k.active (s.cycles k.core).toNat, h, hm.1, fun l hl => ?_⟩
  rw [(hm.2 l hl).1, (hm.2 l hl).2, e l hl]
  refine ⟨by split <;> rfl, fun r hr => ?_⟩
  by_cases ha : k.active.getLsbD l = true
  · rw [if_pos ha]
    simp only [Thread.setP, ha, true_and]
    have hs : (1#64 <<< p).getLsbD r = decide (r = p) := by
      rw [BitVec.getLsbD_shiftLeft, BitVec.getLsbD_one]
      by_cases h : r = p
      · subst h; simp [hr]
      · by_cases h' : r < p
        · simp [h, h', hr]
        · have : ¬ (r - p = 0) := by omega
          simp [h, this]
    by_cases hg : g l = true
    · rw [if_pos hg, BitVec.getLsbD_or, hs]
      by_cases h : r = p <;> simp [h, hg]
    · rw [if_neg hg, BitVec.getLsbD_and, BitVec.getLsbD_not, hs]
      by_cases h : r = p <;> simp_all
  · rw [if_neg ha]; simp [ha]

end Sys2Proof.Machine
end

