-- ==== Sys2Proof/Laws/Memory.lean ====
section
/-! SUPPORT. The byte memories: what a read after a write gives, and that every write keeps the canonical form (log 3, log 4). -/

namespace Sys2Proof.Machine

/-! ## The canonical form -/

theorem Memory.wf_cons (x : Nat) (b : Byte) (r : Memory) :
    Memory.wf ((x, b) :: r) = (b != 0 && (r.head?.all fun c => decide (x < c.1)) && Memory.wf r) := by
  cases r with
  | nil => simp [Memory.wf]
  | cons c r => obtain ⟨y, c⟩ := c; simp [Memory.wf, Bool.and_assoc]

theorem Memory.wf_tail {c : Host.Cell} {r : Memory} (h : Memory.wf (c :: r) = true) : Memory.wf r = true := by
  obtain ⟨x, b⟩ := c; rw [Memory.wf_cons] at h; simp_all

theorem Memory.wf_head {x : Nat} {b : Byte} {r : Memory} (h : Memory.wf ((x, b) :: r) = true) : b ≠ 0 := by
  rw [Memory.wf_cons] at h; simp_all

/-- Every address of a canonical memory's tail lies above its head. -/
theorem Memory.wf_lt {x : Nat} {b : Byte} {r : Memory} (h : Memory.wf ((x, b) :: r) = true) : ∀ c ∈ r, x < c.1 := by
  induction r generalizing x b with
  | nil => simp
  | cons d r ih =>
    obtain ⟨y, e⟩ := d
    have hy : x < y := by rw [Memory.wf_cons] at h; simp_all
    have ht := Memory.wf_tail h
    intro c hc
    rcases List.mem_cons.mp hc with rfl | hc
    · exact hy
    · exact Nat.lt_trans hy (ih ht c hc)

theorem Memory.wf_of {x : Nat} {b : Byte} {r : Memory} (hb : b ≠ 0) (hr : Memory.wf r = true) (hl : ∀ c ∈ r, x < c.1) :
    Memory.wf ((x, b) :: r) = true := by
  have hb' : ¬b = 0#8 := hb
  rw [Memory.wf_cons]
  cases r with
  | nil => simp [hb', Memory.wf]
  | cons c r => simp [hb', hr, hl c (List.mem_cons_self ..)]

theorem Memory.mem_write {m : Memory} {a : Nat} {b : Byte} {c : Host.Cell} (h : c ∈ m.write a b) : c ∈ m ∨ c = (a, b) := by
  induction m with
  | nil => unfold Memory.write at h; split at h <;> simp_all
  | cons d r ih =>
    obtain ⟨y, e⟩ := d
    unfold Memory.write at h
    split at h
    · split at h <;> (simp_all; try tauto)
    · split at h
      · split at h <;> simp_all; tauto
      · rcases List.mem_cons.mp h with h | h
        · simp [h]
        · rcases ih h with h | h <;> simp [h]

/-- A write keeps the canonical form. -/
theorem Memory.write_wf {m : Memory} (a : Nat) (b : Byte) (h : m.wf = true) : (m.write a b).wf = true := by
  induction m with
  | nil => unfold Memory.write; split <;> simp_all [Memory.wf]
  | cons d r ih =>
    obtain ⟨y, e⟩ := d
    have ht := Memory.wf_tail h
    have hl := Memory.wf_lt h
    unfold Memory.write
    split
    · next hlt =>
      split
      · exact h
      · next hb => exact Memory.wf_of hb h fun c hc => by rcases List.mem_cons.mp hc with rfl | hc; exacts [hlt, Nat.lt_trans hlt (hl c hc)]
    · split
      · next heq =>
        split
        · exact ht
        · next hb => exact Memory.wf_of hb ht fun c hc => heq ▸ hl c hc
      · next hge hne =>
        refine Memory.wf_of (Memory.wf_head h) (ih ht) fun c hc => ?_
        rcases Memory.mem_write hc with hc | rfl
        · exact hl c hc
        · exact Nat.lt_of_le_of_ne (Nat.not_lt.mp hge) (Ne.symm hne)

/-- A write of a run of bytes keeps the canonical form. -/
theorem Memory.writeN_wf (bs : List Byte) {m : Memory} (a : Nat) (h : m.wf = true) : (m.writeN a bs).wf = true := by
  induction bs generalizing m a with
  | nil => exact h
  | cons b r ih => exact ih (a + 1) (Memory.write_wf a b h)

@[simp] theorem Memory.wf_nil : Memory.wf [] = true := rfl

/-! ## Reading -/

theorem Memory.read_above {r : Memory} {a : Nat} (h : ∀ c ∈ r, a < c.1) : r.read a = 0 := by
  induction r with
  | nil => rfl
  | cons c r ih =>
    obtain ⟨x, b⟩ := c
    have := h (x, b) (List.mem_cons_self ..)
    have hne : x ≠ a := by dsimp only at this; omega
    rw [Memory.read, if_neg hne]
    exact ih fun c hc => h c (List.mem_cons_of_mem _ hc)

/-- A byte read after a write of one byte. -/
theorem Memory.read_write {m : Memory} (a : Nat) (b : Byte) (c : Nat) (h : m.wf = true) :
    (m.write a b).read c = if c = a then b else m.read c := by
  induction m with
  | nil =>
    unfold Memory.write
    by_cases hb : b = 0
    · simp [hb, Memory.read]
    · rw [if_neg hb]
      by_cases hc : c = a
      · rw [if_pos hc, Memory.read, if_pos hc.symm]
      · rw [if_neg hc, Memory.read, Memory.read, if_neg (Ne.symm hc)]; rfl
  | cons d r ih =>
    obtain ⟨y, e⟩ := d
    have ht := Memory.wf_tail h
    have hl := Memory.wf_lt h
    unfold Memory.write
    split
    · next hlt =>
      have h0 : Memory.read ((y, e) :: r) a = 0 := Memory.read_above fun c hc => by
        rcases List.mem_cons.mp hc with rfl | hc
        exacts [hlt, Nat.lt_trans hlt (hl c hc)]
      by_cases hc : c = a
      · subst hc
        by_cases hb : b = 0
        · rw [if_pos hb, if_pos rfl, h0, hb]
        · rw [if_neg hb, Memory.read, if_pos rfl]
      · by_cases hb : b = 0
        · rw [if_pos hb, if_neg hc]
        · rw [if_neg hb, Memory.read, if_neg (Ne.symm hc), if_neg hc]
    · split
      · next heq =>
        subst heq
        by_cases hb : b = 0
        · rw [if_pos hb]
          by_cases hc : c = a
          · rw [if_pos hc, hb, hc]; exact Memory.read_above hl
          · rw [if_neg hc, Memory.read, if_neg (Ne.symm hc)]
        · rw [if_neg hb, Memory.read, Memory.read]
          by_cases hc : c = a
          · rw [if_pos hc, if_pos hc.symm]
          · rw [if_neg hc, if_neg (Ne.symm hc), if_neg (Ne.symm hc)]
      · next hge hne =>
        rw [Memory.read, Memory.read, ih ht]
        by_cases hyc : y = c
        · rw [if_pos hyc, if_pos hyc, if_neg (by omega)]
        · rw [if_neg hyc, if_neg hyc]

/-! ## Regions -/

/-- The cells of a region, addresses strictly rising. -/
def Region.wf (g : Region) : Prop := g.cells.Pairwise fun x y => x.1 < y.1

theorem mem_cellPut {m : List Host.Cell} {a : Nat} {b : Byte} {c : Host.Cell} (h : c ∈ cellPut m a b) : c ∈ m ∨ c = (a, b) := by
  induction m with
  | nil => simp_all [cellPut]
  | cons d r ih =>
    obtain ⟨y, e⟩ := d
    unfold cellPut at h
    split at h
    · simp_all; tauto
    · split at h
      · simp_all; tauto
      · rcases List.mem_cons.mp h with h | h
        · simp [h]
        · rcases ih h with h | h <;> simp [h]

theorem cellPut_sorted {m : List Host.Cell} (a : Nat) (b : Byte) (h : m.Pairwise fun x y => x.1 < y.1) :
    (cellPut m a b).Pairwise fun x y => x.1 < y.1 := by
  induction m with
  | nil => simp [cellPut]
  | cons d r ih =>
    obtain ⟨y, e⟩ := d
    have ht := List.pairwise_cons.mp h
    unfold cellPut
    split
    · next hlt =>
      refine List.pairwise_cons.mpr ⟨fun c hc => ?_, h⟩
      rcases List.mem_cons.mp hc with rfl | hc
      exacts [hlt, Nat.lt_trans hlt (ht.1 c hc)]
    · split
      · next heq => exact List.pairwise_cons.mpr ⟨fun c hc => heq ▸ ht.1 c hc, ht.2⟩
      · next hge hne =>
        refine List.pairwise_cons.mpr ⟨fun c hc => ?_, ih ht.2⟩
        rcases mem_cellPut hc with hc | rfl
        · exact ht.1 c hc
        · exact Nat.lt_of_le_of_ne (Nat.not_lt.mp hge) (Ne.symm hne)

/-- A write of a run of bytes keeps a region's cells in order. -/
theorem Region.writeN_wf (bs : List Byte) {g : Region} (a : Nat) (h : g.wf) : (g.writeN a bs).wf := by
  induction bs generalizing g a with
  | nil => exact h
  | cons b r ih => exact ih (a + 1) (cellPut_sorted a b h)

/-- A byte of a region's cells after a write of one byte. -/
theorem find_cellPut (m : List Host.Cell) (a : Nat) (b : Byte) (c : Nat) :
    (cellPut m a b).find? (·.1 == c) = if c = a then some (a, b) else m.find? (·.1 == c) := by
  have key : ∀ (x : Nat) (e : Byte) (l : List Host.Cell),
      List.find? (·.1 == c) ((x, e) :: l) = if c = x then some (x, e) else l.find? (·.1 == c) := by
    intro x e l
    rw [List.find?_cons]
    by_cases h : c = x
    · subst h; simp
    · rw [if_neg h, show ((x, e).1 == c) = false from beq_false_of_ne (Ne.symm h)]
  induction m with
  | nil => rw [cellPut, key]
  | cons d r ih =>
    obtain ⟨y, e⟩ := d
    unfold cellPut
    split
    · rw [key]
    · split
      · next heq =>
        subst heq
        rw [key, key]
        split <;> rfl
      · next hge hne =>
        rw [key, key, ih]
        by_cases hy : c = y
        · rw [if_pos hy, if_pos hy, if_neg (by omega)]
        · rw [if_neg hy, if_neg hy]

/-- A byte of a region read after a write of one byte. -/
theorem Region.read_put (g : Region) (a : Nat) (b : Byte) (c : Nat) :
    ({ g with cells := cellPut g.cells a b } : Region).read c = if c = a then b else g.read c := by
  unfold Region.read
  rw [find_cellPut]
  by_cases h : c = a
  · simp [h]
  · simp [h]

end Sys2Proof.Machine
end

