-- ==== Sys2Proof/Laws/Deck.lean ====
section
/-! SUPPORT. What the writes of the deck, the ends of clears, the triggers and the presence of lines leave unchanged, and what they keep. -/

namespace Sys2Proof.Machine

/-- t differs from s at most in the home slices' own fields, the writes on their way and the crews: a write of the deck. -/
def State.homeFrame (s t : State) : Prop :=
  t = { s with dir := t.dir, deck := t.deck, copies := t.copies, msgs := t.msgs, notes := t.notes, fresh := t.fresh, writes := t.writes
               crews := t.crews }
/-- The same where commands and read requests that waited for a line may go on. -/
def State.presentFrame (s t : State) : Prop :=
  t = { s with dir := t.dir, deck := t.deck, copies := t.copies, msgs := t.msgs, notes := t.notes, fresh := t.fresh, writes := t.writes
               crews := t.crews, cmds := t.cmds, serves := t.serves }
/-- t differs from s at most in its crews and in what their releases cover. -/
def State.wakeFrame (s t : State) : Prop := t = { s with crews := t.crews, writes := t.writes }

theorem State.homeFrame_refl (s : State) : s.homeFrame s := rfl
theorem State.homeFrame_trans {s t u : State} (h : s.homeFrame t) (h' : t.homeFrame u) : s.homeFrame u := by
  unfold State.homeFrame at h h' ⊢
  rw [h', h]
theorem State.presentFrame_trans {s t u : State} (h : s.presentFrame t) (h' : t.presentFrame u) : s.presentFrame u := by
  unfold State.presentFrame at h h' ⊢
  rw [h', h]
theorem State.wakeFrame_trans {s t u : State} (h : s.wakeFrame t) (h' : t.wakeFrame u) : s.wakeFrame u := by
  unfold State.wakeFrame at h h' ⊢
  rw [h', h]
theorem State.wakeFrame.home {s t : State} (h : s.wakeFrame t) : s.homeFrame t := by
  unfold State.wakeFrame at h
  rw [h]
  rfl
theorem State.homeFrame.present {s t : State} (h : s.homeFrame t) : s.presentFrame t := by
  unfold State.homeFrame at h
  rw [h]
  rfl
theorem State.wakeFrame.deck {s t : State} (h : s.wakeFrame t) : t.deck = s.deck := by unfold State.wakeFrame at h; exact (congrArg State.deck h).trans rfl

theorem State.trigger_eq (s : State) (sp : LineSpace) (line : Nat) : s.trigger sp line = { s with crews := (s.trigger sp line).crews } := rfl
/-- Answering the pending WAITCs changes crews and what their releases cover (R104, R218). -/
theorem State.pollWaitc_frame (s : State) : s.wakeFrame s.pollWaitc := by
  unfold State.pollWaitc
  generalize List.filter _ s.crews = ks
  have h : ∀ t : State, t.wakeFrame (ks.foldl (fun (t : State) (c : Crew) => t.acquires c) t) := by
    induction ks with
    | nil => exact fun _ => rfl
    | cons k ks ih => exact fun t => State.wakeFrame_trans (t := t.acquires k) rfl (ih _)
  exact State.wakeFrame_trans (t := { s with crews := s.crews.map s.answered }) rfl (h _)

theorem State.bcastClear_frame (s : State) (line : Nat) (c w : Option Nat) : s.homeFrame (s.bcastClear line c w) := rfl
theorem State.bcastClear_deck (s : State) (line : Nat) (c w : Option Nat) : (s.bcastClear line c w).deck = s.deck := rfl

/-- What follows a write's bytes: it may be performed at once, and monitors and pending WAITCs are served (R249). -/
theorem State.homeFrame.landed {s t : State} (h : s.homeFrame t) (p : Prop) [Decidable p] (w : Write) (c : Option Nat) (i : Nat) (sp : LineSpace)
    (l : Nat) : s.homeFrame ((((if p then t.perform w else t).tear c i).trigger sp l).pollWaitc) := by
  refine State.homeFrame_trans ?_ (State.pollWaitc_frame _).home
  split
  · exact State.homeFrame_trans h rfl
  · exact State.homeFrame_trans h rfl
theorem State.landed_deck (t : State) (p : Prop) [Decidable p] (w : Write) (c : Option Nat) (i : Nat) (sp : LineSpace) (l : Nat) :
    ((((if p then t.perform w else t).tear c i).trigger sp l).pollWaitc).deck = t.deck := by
  rw [(State.pollWaitc_frame _).deck]
  split <;> rfl

/-- A write applied at home changes the home slices' own fields, writes and crews (R249). -/
theorem State.applyWrite_frame (s : State) (w : Write) : s.homeFrame (s.applyWrite w) := by
  unfold State.applyWrite
  refine State.homeFrame.landed ?_ _ _ _ _ _ _
  exact rfl
/-- The deck after a write that is no add. -/
theorem State.applyWrite_deck (s : State) (w : Write) (h : w.plus = false) : (s.applyWrite w).deck = s.deck.writeN w.off w.bytes := by
  unfold State.applyWrite
  simp only [h, Bool.false_eq_true, if_false]
  exact State.landed_deck ..

theorem State.agentPut_frame (s : State) (off : Nat) (bs : List Byte) (plus : Bool) : s.homeFrame (s.agentPut off bs plus) := by
  unfold State.agentPut
  dsimp only
  split
  · rfl
  · exact State.homeFrame_trans (t := s.bump) rfl (State.applyWrite_frame ..)
/-- An agent's write stands in the deck at once, or among the writes home is to apply (R249, R253). -/
theorem State.agentWrite_deck (s : State) (off : Nat) (bs : List Byte) :
    (s.agentWrite off bs).deck = s.deck.writeN off bs ∨ (s.agentWrite off bs).deck = s.deck := by
  unfold State.agentWrite State.agentPut
  dsimp only
  split
  · exact .inr rfl
  · exact .inl (State.applyWrite_deck _ _ rfl)
/-- A write of an agent touches the home slices, the writes on their way and the crews it wakes, and nothing else. -/
theorem State.agentWriteN_frame (s : State) (off : Nat) (bs : List Byte) : s.homeFrame (s.agentWriteN off bs) := by
  unfold State.agentWriteN
  generalize (List.filter _ _) = ls
  induction ls generalizing s with
  | nil => rfl
  | cons j r ih => exact State.homeFrame_trans (State.agentPut_frame ..) (ih _)

theorem State.settleLine_frame (s : State) (line owner : Nat) (f w : Bool) : s.presentFrame (s.settleLine line owner f w) := by
  refine State.presentFrame_trans ?_ (State.pollWaitc_frame _).home.present
  rfl
theorem State.endClear_frame (s : State) (line : Nat) (c : LineClear) : s.presentFrame (s.endClear line c) := by
  have last : ∀ t, s.presentFrame t → s.presentFrame (match c.write.bind fun id => t.writes.find? fun w => w.id == id && !w.applied with
      | some w => t.applyWrite w
      | none => t.pollWaitc) := by
    intro t h
    split
    · exact State.presentFrame_trans h (State.applyWrite_frame ..).present
    · exact State.presentFrame_trans h (State.pollWaitc_frame _).home.present
  unfold State.endClear
  refine last _ ?_
  split <;> rfl
/-- An acknowledgement changes what a write of the deck or the end of a clear changes (R249, R251, R253). -/
theorem State.countAck_frame (s : State) (a : AckTo) : s.presentFrame (s.countAck a) := by
  unfold State.countAck
  split
  · split
    · rfl
    · split <;> rfl
  · dsimp only
    split
    · rfl
    · split
      · exact State.endClear_frame ..
      · rfl

/-! ## The fields a write of the deck leaves -/

theorem State.homeFrame.squads {s t : State} (h : s.homeFrame t) : t.squads = s.squads := by unfold State.homeFrame at h; exact (congrArg State.squads h).trans rfl
theorem State.homeFrame.grids {s t : State} (h : s.homeFrame t) : t.grids = s.grids := by unfold State.homeFrame at h; exact (congrArg State.grids h).trans rfl
theorem State.homeFrame.gridSeq {s t : State} (h : s.homeFrame t) : t.gridSeq = s.gridSeq := by unfold State.homeFrame at h; exact (congrArg State.gridSeq h).trans rfl
theorem State.homeFrame.held {s t : State} (h : s.homeFrame t) : t.held = s.held := by unfold State.homeFrame at h; exact (congrArg State.held h).trans rfl
theorem State.homeFrame.launches {s t : State} (h : s.homeFrame t) : t.launches = s.launches := by unfold State.homeFrame at h; exact (congrArg State.launches h).trans rfl
theorem State.homeFrame.tasks {s t : State} (h : s.homeFrame t) : t.tasks = s.tasks := by unfold State.homeFrame at h; exact (congrArg State.tasks h).trans rfl
theorem State.homeFrame.taskSeq {s t : State} (h : s.homeFrame t) : t.taskSeq = s.taskSeq := by unfold State.homeFrame at h; exact (congrArg State.taskSeq h).trans rfl
theorem State.homeFrame.saved {s t : State} (h : s.homeFrame t) : t.saved = s.saved := by unfold State.homeFrame at h; exact (congrArg State.saved h).trans rfl
theorem State.homeFrame.arrived {s t : State} (h : s.homeFrame t) : t.arrived = s.arrived := by unfold State.homeFrame at h; exact (congrArg State.arrived h).trans rfl
theorem State.homeFrame.boats {s t : State} (h : s.homeFrame t) : t.boats = s.boats := by unfold State.homeFrame at h; exact (congrArg State.boats h).trans rfl
theorem State.homeFrame.boatOut {s t : State} (h : s.homeFrame t) : t.boatOut = s.boatOut := by unfold State.homeFrame at h; exact (congrArg State.boatOut h).trans rfl
theorem State.homeFrame.lq {s t : State} (h : s.homeFrame t) : t.lq = s.lq := by unfold State.homeFrame at h; exact (congrArg State.lq h).trans rfl
theorem State.homeFrame.lqCount {s t : State} (h : s.homeFrame t) : t.lqCount = s.lqCount := by unfold State.homeFrame at h; exact (congrArg State.lqCount h).trans rfl
theorem State.homeFrame.lqWait {s t : State} (h : s.homeFrame t) : t.lqWait = s.lqWait := by unfold State.homeFrame at h; exact (congrArg State.lqWait h).trans rfl
theorem State.homeFrame.hbm {s t : State} (h : s.homeFrame t) : t.hbm = s.hbm := by unfold State.homeFrame at h; exact (congrArg State.hbm h).trans rfl
theorem State.homeFrame.host {s t : State} (h : s.homeFrame t) : t.host = s.host := by unfold State.homeFrame at h; exact (congrArg State.host h).trans rfl
theorem State.homeFrame.pool {s t : State} (h : s.homeFrame t) : t.pool = s.pool := by unfold State.homeFrame at h; exact (congrArg State.pool h).trans rfl
theorem State.homeFrame.skm {s t : State} (h : s.homeFrame t) : t.skm = s.skm := by unfold State.homeFrame at h; exact (congrArg State.skm h).trans rfl
theorem State.homeFrame.hbmPoison {s t : State} (h : s.homeFrame t) : t.hbmPoison = s.hbmPoison := by unfold State.homeFrame at h; exact (congrArg State.hbmPoison h).trans rfl
theorem State.homeFrame.plain {s t : State} (h : s.homeFrame t) : t.plain = s.plain := by unfold State.homeFrame at h; exact (congrArg State.plain h).trans rfl
theorem State.homeFrame.notices {s t : State} (h : s.homeFrame t) : t.notices = s.notices := by unfold State.homeFrame at h; exact (congrArg State.notices h).trans rfl
theorem State.homeFrame.acks {s t : State} (h : s.homeFrame t) : t.acks = s.acks := by unfold State.homeFrame at h; exact (congrArg State.acks h).trans rfl
theorem State.homeFrame.counts {s t : State} (h : s.homeFrame t) : t.counts = s.counts := by unfold State.homeFrame at h; exact (congrArg State.counts h).trans rfl
theorem State.homeFrame.tlb {s t : State} (h : s.homeFrame t) : t.tlb = s.tlb := by unfold State.homeFrame at h; exact (congrArg State.tlb h).trans rfl
theorem State.homeFrame.walkCache {s t : State} (h : s.homeFrame t) : t.walkCache = s.walkCache := by unfold State.homeFrame at h; exact (congrArg State.walkCache h).trans rfl
theorem State.homeFrame.ctxs {s t : State} (h : s.homeFrame t) : t.ctxs = s.ctxs := by unfold State.homeFrame at h; exact (congrArg State.ctxs h).trans rfl
theorem State.homeFrame.dev {s t : State} (h : s.homeFrame t) : t.dev = s.dev := by unfold State.homeFrame at h; exact (congrArg State.dev h).trans rfl
theorem State.homeFrame.spared {s t : State} (h : s.homeFrame t) : t.spared = s.spared := by unfold State.homeFrame at h; exact (congrArg State.spared h).trans rfl
theorem State.homeFrame.fwOk {s t : State} (h : s.homeFrame t) : t.fwOk = s.fwOk := by unfold State.homeFrame at h; exact (congrArg State.fwOk h).trans rfl
theorem State.homeFrame.coresUp {s t : State} (h : s.homeFrame t) : t.coresUp = s.coresUp := by unfold State.homeFrame at h; exact (congrArg State.coresUp h).trans rfl
theorem State.homeFrame.hbmUp {s t : State} (h : s.homeFrame t) : t.hbmUp = s.hbmUp := by unfold State.homeFrame at h; exact (congrArg State.hbmUp h).trans rfl
theorem State.homeFrame.tested {s t : State} (h : s.homeFrame t) : t.tested = s.tested := by unfold State.homeFrame at h; exact (congrArg State.tested h).trans rfl
theorem State.homeFrame.schedAge {s t : State} (h : s.homeFrame t) : t.schedAge = s.schedAge := by unfold State.homeFrame at h; exact (congrArg State.schedAge h).trans rfl
theorem State.homeFrame.clkCtl {s t : State} (h : s.homeFrame t) : t.clkCtl = s.clkCtl := by unfold State.homeFrame at h; exact (congrArg State.clkCtl h).trans rfl
theorem State.homeFrame.fwEcdsa {s t : State} (h : s.homeFrame t) : t.fwEcdsa = s.fwEcdsa := by unfold State.homeFrame at h; exact (congrArg State.fwEcdsa h).trans rfl
theorem State.homeFrame.fwLms {s t : State} (h : s.homeFrame t) : t.fwLms = s.fwLms := by unfold State.homeFrame at h; exact (congrArg State.fwLms h).trans rfl
theorem State.homeFrame.fwAcc {s t : State} (h : s.homeFrame t) : t.fwAcc = s.fwAcc := by unfold State.homeFrame at h; exact (congrArg State.fwAcc h).trans rfl
theorem State.homeFrame.fwVer {s t : State} (h : s.homeFrame t) : t.fwVer = s.fwVer := by unfold State.homeFrame at h; exact (congrArg State.fwVer h).trans rfl
theorem State.homeFrame.time {s t : State} (h : s.homeFrame t) : t.time = s.time := by unfold State.homeFrame at h; exact (congrArg State.time h).trans rfl
theorem State.homeFrame.regions {s t : State} (h : s.homeFrame t) : t.regions = s.regions := by unfold State.homeFrame at h; exact (congrArg State.regions h).trans rfl
theorem State.homeFrame.requests {s t : State} (h : s.homeFrame t) : t.requests = s.requests := by unfold State.homeFrame at h; exact (congrArg State.requests h).trans rfl
theorem State.homeFrame.pageReqs {s t : State} (h : s.homeFrame t) : t.pageReqs = s.pageReqs := by unfold State.homeFrame at h; exact (congrArg State.pageReqs h).trans rfl
theorem State.homeFrame.reqSeq {s t : State} (h : s.homeFrame t) : t.reqSeq = s.reqSeq := by unfold State.homeFrame at h; exact (congrArg State.reqSeq h).trans rfl
theorem State.homeFrame.events {s t : State} (h : s.homeFrame t) : t.events = s.events := by unfold State.homeFrame at h; exact (congrArg State.events h).trans rfl
theorem State.homeFrame.eventNo {s t : State} (h : s.homeFrame t) : t.eventNo = s.eventNo := by unfold State.homeFrame at h; exact (congrArg State.eventNo h).trans rfl
theorem State.homeFrame.eventWait {s t : State} (h : s.homeFrame t) : t.eventWait = s.eventWait := by unfold State.homeFrame at h; exact (congrArg State.eventWait h).trans rfl
theorem State.homeFrame.dropped {s t : State} (h : s.homeFrame t) : t.dropped = s.dropped := by unfold State.homeFrame at h; exact (congrArg State.dropped h).trans rfl
theorem State.homeFrame.spares {s t : State} (h : s.homeFrame t) : t.spares = s.spares := by unfold State.homeFrame at h; exact (congrArg State.spares h).trans rfl
theorem State.homeFrame.tiles {s t : State} (h : s.homeFrame t) : t.tiles = s.tiles := by unfold State.homeFrame at h; exact (congrArg State.tiles h).trans rfl
theorem State.homeFrame.matops {s t : State} (h : s.homeFrame t) : t.matops = s.matops := by unfold State.homeFrame at h; exact (congrArg State.matops h).trans rfl
theorem State.homeFrame.cmds {s t : State} (h : s.homeFrame t) : t.cmds = s.cmds := by unfold State.homeFrame at h; exact (congrArg State.cmds h).trans rfl
theorem State.homeFrame.rx {s t : State} (h : s.homeFrame t) : t.rx = s.rx := by unfold State.homeFrame at h; exact (congrArg State.rx h).trans rfl
theorem State.homeFrame.serves {s t : State} (h : s.homeFrame t) : t.serves = s.serves := by unfold State.homeFrame at h; exact (congrArg State.serves h).trans rfl
theorem State.homeFrame.sweepOut {s t : State} (h : s.homeFrame t) : t.sweepOut = s.sweepOut := by unfold State.homeFrame at h; exact (congrArg State.sweepOut h).trans rfl
theorem State.homeFrame.hlc {s t : State} (h : s.homeFrame t) : t.hlc = s.hlc := by unfold State.homeFrame at h; exact (congrArg State.hlc h).trans rfl
theorem State.homeFrame.biasHost {s t : State} (h : s.homeFrame t) : t.biasHost = s.biasHost := by unfold State.homeFrame at h; exact (congrArg State.biasHost h).trans rfl
theorem State.homeFrame.flips {s t : State} (h : s.homeFrame t) : t.flips = s.flips := by unfold State.homeFrame at h; exact (congrArg State.flips h).trans rfl
theorem State.homeFrame.reading {s t : State} (h : s.homeFrame t) : t.reading = s.reading := by unfold State.homeFrame at h; exact (congrArg State.reading h).trans rfl
theorem State.homeFrame.cxlOut {s t : State} (h : s.homeFrame t) : t.cxlOut = s.cxlOut := by unfold State.homeFrame at h; exact (congrArg State.cxlOut h).trans rfl
theorem State.homeFrame.granted {s t : State} (h : s.homeFrame t) : t.granted = s.granted := by unfold State.homeFrame at h; exact (congrArg State.granted h).trans rfl
theorem State.homeFrame.lostPools {s t : State} (h : s.homeFrame t) : t.lostPools = s.lostPools := by unfold State.homeFrame at h; exact (congrArg State.lostPools h).trans rfl
theorem State.homeFrame.atsWait {s t : State} (h : s.homeFrame t) : t.atsWait = s.atsWait := by unfold State.homeFrame at h; exact (congrArg State.atsWait h).trans rfl
theorem State.homeFrame.atsDone {s t : State} (h : s.homeFrame t) : t.atsDone = s.atsDone := by unfold State.homeFrame at h; exact (congrArg State.atsDone h).trans rfl
theorem State.homeFrame.portWidth {s t : State} (h : s.homeFrame t) : t.portWidth = s.portWidth := by unfold State.homeFrame at h; exact (congrArg State.portWidth h).trans rfl
theorem State.homeFrame.ring {s t : State} (h : s.homeFrame t) : t.ring = s.ring := by unfold State.homeFrame at h; exact (congrArg State.ring h).trans rfl
theorem State.homeFrame.ergs {s t : State} (h : s.homeFrame t) : t.ergs = s.ergs := by unfold State.homeFrame at h; exact (congrArg State.ergs h).trans rfl
theorem State.homeFrame.pending {s t : State} (h : s.homeFrame t) : t.pending = s.pending := by unfold State.homeFrame at h; exact (congrArg State.pending h).trans rfl
theorem State.homeFrame.links {s t : State} (h : s.homeFrame t) : t.links = s.links := by unfold State.homeFrame at h; exact (congrArg State.links h).trans rfl
theorem State.homeFrame.routes {s t : State} (h : s.homeFrame t) : t.routes = s.routes := by unfold State.homeFrame at h; exact (congrArg State.routes h).trans rfl
theorem State.homeFrame.served {s t : State} (h : s.homeFrame t) : t.served = s.served := by unfold State.homeFrame at h; exact (congrArg State.served h).trans rfl
theorem State.homeFrame.excluded {s t : State} (h : s.homeFrame t) : t.excluded = s.excluded := by unfold State.homeFrame at h; exact (congrArg State.excluded h).trans rfl
theorem State.homeFrame.lasers {s t : State} (h : s.homeFrame t) : t.lasers = s.lasers := by unfold State.homeFrame at h; exact (congrArg State.lasers h).trans rfl
theorem State.homeFrame.drawInt {s t : State} (h : s.homeFrame t) : t.drawInt = s.drawInt := by unfold State.homeFrame at h; exact (congrArg State.drawInt h).trans rfl
theorem State.homeFrame.drawHyst {s t : State} (h : s.homeFrame t) : t.drawHyst = s.drawHyst := by unfold State.homeFrame at h; exact (congrArg State.drawHyst h).trans rfl
theorem State.homeFrame.cur {s t : State} (h : s.homeFrame t) : t.cur = s.cur := by unfold State.homeFrame at h; exact (congrArg State.cur h).trans rfl
theorem State.homeFrame.issueQ {s t : State} (h : s.homeFrame t) : t.issueQ = s.issueQ := by unfold State.homeFrame at h; exact (congrArg State.issueQ h).trans rfl
theorem State.homeFrame.inbox {s t : State} (h : s.homeFrame t) : t.inbox = s.inbox := by unfold State.homeFrame at h; exact (congrArg State.inbox h).trans rfl

end Sys2Proof.Machine
end

