-- ==== Sys2Proof/Laws/Lanes.lean ====
section
/-! SUPPORT. Sets of lanes: membership in the list of a set and the bits of a set given by a test. -/

namespace Sys2Proof.Machine

/-- The lanes of a set. -/
theorem mem_laneList {on : Lanes} {l : Nat} : l ∈ laneList on ↔ l < 32 ∧ on.getLsbD l = true := by simp [laneList]

theorem getLsbD_laneSet_aux (f : Nat → Bool) (ls : List Nat) (a : Lanes) (hl : ∀ l ∈ ls, l < 32) (j : Nat) (hj : j < 32) :
    (ls.foldl (fun a t => if f t then a ||| laneBit t else a) a).getLsbD j = (a.getLsbD j || (decide (j ∈ ls) && f j)) := by
  induction ls generalizing a with
  | nil => simp
  | cons x r ih =>
    have hx : x < 32 := hl x (List.mem_cons_self ..)
    have hb : (laneBit x).getLsbD j = decide (j = x) := by
      unfold laneBit; rw [BitVec.getLsbD_shiftLeft, BitVec.getLsbD_one]
      by_cases h : j = x
      · subst h; simp [hj]
      · by_cases h' : j < x
        · simp [h, h']
        · have : ¬ (j - x = 0) := by omega
          simp [h, this]
    rw [List.foldl_cons, ih _ fun l h => hl l (List.mem_cons_of_mem _ h)]
    by_cases hf : f x = true
    · rw [if_pos hf, BitVec.getLsbD_or, hb]
      by_cases h : j = x <;> simp [h, hf]
    · rw [if_neg hf]
      by_cases h : j = x
      · subst h; simp [hf]
      · simp [h]
/-- A lane of a set given by a test. -/
theorem getLsbD_laneSet (f : Nat → Bool) {j : Nat} (hj : j < 32) : (laneSet f).getLsbD j = f j := by
  unfold laneSet; rw [getLsbD_laneSet_aux f _ _ (by simp) j hj]; simp [hj]

end Sys2Proof.Machine
end

