-- ==== Sys2Proof/Laws/State.lean ====
section
/-! SUPPORT. What each named update leaves in each field of the state, of a crew and of a thread: one lemma per field per update. -/

namespace Sys2Proof.Machine

/-! ## State.setCrew -/

@[simp] theorem State.setCrew_squads (s : State) (c : Crew) : (s.setCrew c).squads = s.squads := rfl
@[simp] theorem State.setCrew_grids (s : State) (c : Crew) : (s.setCrew c).grids = s.grids := rfl
@[simp] theorem State.setCrew_gridSeq (s : State) (c : Crew) : (s.setCrew c).gridSeq = s.gridSeq := rfl
@[simp] theorem State.setCrew_held (s : State) (c : Crew) : (s.setCrew c).held = s.held := rfl
@[simp] theorem State.setCrew_launches (s : State) (c : Crew) : (s.setCrew c).launches = s.launches := rfl
@[simp] theorem State.setCrew_tasks (s : State) (c : Crew) : (s.setCrew c).tasks = s.tasks := rfl
@[simp] theorem State.setCrew_taskSeq (s : State) (c : Crew) : (s.setCrew c).taskSeq = s.taskSeq := rfl
@[simp] theorem State.setCrew_saved (s : State) (c : Crew) : (s.setCrew c).saved = s.saved := rfl
@[simp] theorem State.setCrew_arrived (s : State) (c : Crew) : (s.setCrew c).arrived = s.arrived := rfl
@[simp] theorem State.setCrew_boats (s : State) (c : Crew) : (s.setCrew c).boats = s.boats := rfl
@[simp] theorem State.setCrew_boatOut (s : State) (c : Crew) : (s.setCrew c).boatOut = s.boatOut := rfl
@[simp] theorem State.setCrew_lq (s : State) (c : Crew) : (s.setCrew c).lq = s.lq := rfl
@[simp] theorem State.setCrew_lqCount (s : State) (c : Crew) : (s.setCrew c).lqCount = s.lqCount := rfl
@[simp] theorem State.setCrew_lqWait (s : State) (c : Crew) : (s.setCrew c).lqWait = s.lqWait := rfl
@[simp] theorem State.setCrew_deck (s : State) (c : Crew) : (s.setCrew c).deck = s.deck := rfl
@[simp] theorem State.setCrew_hbm (s : State) (c : Crew) : (s.setCrew c).hbm = s.hbm := rfl
@[simp] theorem State.setCrew_host (s : State) (c : Crew) : (s.setCrew c).host = s.host := rfl
@[simp] theorem State.setCrew_pool (s : State) (c : Crew) : (s.setCrew c).pool = s.pool := rfl
@[simp] theorem State.setCrew_skm (s : State) (c : Crew) : (s.setCrew c).skm = s.skm := rfl
@[simp] theorem State.setCrew_hbmPoison (s : State) (c : Crew) : (s.setCrew c).hbmPoison = s.hbmPoison := rfl
@[simp] theorem State.setCrew_dir (s : State) (c : Crew) : (s.setCrew c).dir = s.dir := rfl
@[simp] theorem State.setCrew_copies (s : State) (c : Crew) : (s.setCrew c).copies = s.copies := rfl
@[simp] theorem State.setCrew_plain (s : State) (c : Crew) : (s.setCrew c).plain = s.plain := rfl
@[simp] theorem State.setCrew_notices (s : State) (c : Crew) : (s.setCrew c).notices = s.notices := rfl
@[simp] theorem State.setCrew_writes (s : State) (c : Crew) : (s.setCrew c).writes = s.writes := rfl
@[simp] theorem State.setCrew_msgs (s : State) (c : Crew) : (s.setCrew c).msgs = s.msgs := rfl
@[simp] theorem State.setCrew_acks (s : State) (c : Crew) : (s.setCrew c).acks = s.acks := rfl
@[simp] theorem State.setCrew_notes (s : State) (c : Crew) : (s.setCrew c).notes = s.notes := rfl
@[simp] theorem State.setCrew_counts (s : State) (c : Crew) : (s.setCrew c).counts = s.counts := rfl
@[simp] theorem State.setCrew_tlb (s : State) (c : Crew) : (s.setCrew c).tlb = s.tlb := rfl
@[simp] theorem State.setCrew_walkCache (s : State) (c : Crew) : (s.setCrew c).walkCache = s.walkCache := rfl
@[simp] theorem State.setCrew_ctxs (s : State) (c : Crew) : (s.setCrew c).ctxs = s.ctxs := rfl
@[simp] theorem State.setCrew_dev (s : State) (c : Crew) : (s.setCrew c).dev = s.dev := rfl
@[simp] theorem State.setCrew_spared (s : State) (c : Crew) : (s.setCrew c).spared = s.spared := rfl
@[simp] theorem State.setCrew_fwOk (s : State) (c : Crew) : (s.setCrew c).fwOk = s.fwOk := rfl
@[simp] theorem State.setCrew_coresUp (s : State) (c : Crew) : (s.setCrew c).coresUp = s.coresUp := rfl
@[simp] theorem State.setCrew_hbmUp (s : State) (c : Crew) : (s.setCrew c).hbmUp = s.hbmUp := rfl
@[simp] theorem State.setCrew_tested (s : State) (c : Crew) : (s.setCrew c).tested = s.tested := rfl
@[simp] theorem State.setCrew_schedAge (s : State) (c : Crew) : (s.setCrew c).schedAge = s.schedAge := rfl
@[simp] theorem State.setCrew_clkCtl (s : State) (c : Crew) : (s.setCrew c).clkCtl = s.clkCtl := rfl
@[simp] theorem State.setCrew_fwEcdsa (s : State) (c : Crew) : (s.setCrew c).fwEcdsa = s.fwEcdsa := rfl
@[simp] theorem State.setCrew_fwLms (s : State) (c : Crew) : (s.setCrew c).fwLms = s.fwLms := rfl
@[simp] theorem State.setCrew_fwAcc (s : State) (c : Crew) : (s.setCrew c).fwAcc = s.fwAcc := rfl
@[simp] theorem State.setCrew_fwVer (s : State) (c : Crew) : (s.setCrew c).fwVer = s.fwVer := rfl
@[simp] theorem State.setCrew_time (s : State) (c : Crew) : (s.setCrew c).time = s.time := rfl
@[simp] theorem State.setCrew_regions (s : State) (c : Crew) : (s.setCrew c).regions = s.regions := rfl
@[simp] theorem State.setCrew_requests (s : State) (c : Crew) : (s.setCrew c).requests = s.requests := rfl
@[simp] theorem State.setCrew_pageReqs (s : State) (c : Crew) : (s.setCrew c).pageReqs = s.pageReqs := rfl
@[simp] theorem State.setCrew_reqSeq (s : State) (c : Crew) : (s.setCrew c).reqSeq = s.reqSeq := rfl
@[simp] theorem State.setCrew_events (s : State) (c : Crew) : (s.setCrew c).events = s.events := rfl
@[simp] theorem State.setCrew_eventNo (s : State) (c : Crew) : (s.setCrew c).eventNo = s.eventNo := rfl
@[simp] theorem State.setCrew_eventWait (s : State) (c : Crew) : (s.setCrew c).eventWait = s.eventWait := rfl
@[simp] theorem State.setCrew_dropped (s : State) (c : Crew) : (s.setCrew c).dropped = s.dropped := rfl
@[simp] theorem State.setCrew_spares (s : State) (c : Crew) : (s.setCrew c).spares = s.spares := rfl
@[simp] theorem State.setCrew_tiles (s : State) (c : Crew) : (s.setCrew c).tiles = s.tiles := rfl
@[simp] theorem State.setCrew_matops (s : State) (c : Crew) : (s.setCrew c).matops = s.matops := rfl
@[simp] theorem State.setCrew_cmds (s : State) (c : Crew) : (s.setCrew c).cmds = s.cmds := rfl
@[simp] theorem State.setCrew_rx (s : State) (c : Crew) : (s.setCrew c).rx = s.rx := rfl
@[simp] theorem State.setCrew_serves (s : State) (c : Crew) : (s.setCrew c).serves = s.serves := rfl
@[simp] theorem State.setCrew_sweepOut (s : State) (c : Crew) : (s.setCrew c).sweepOut = s.sweepOut := rfl
@[simp] theorem State.setCrew_hlc (s : State) (c : Crew) : (s.setCrew c).hlc = s.hlc := rfl
@[simp] theorem State.setCrew_biasHost (s : State) (c : Crew) : (s.setCrew c).biasHost = s.biasHost := rfl
@[simp] theorem State.setCrew_flips (s : State) (c : Crew) : (s.setCrew c).flips = s.flips := rfl
@[simp] theorem State.setCrew_reading (s : State) (c : Crew) : (s.setCrew c).reading = s.reading := rfl
@[simp] theorem State.setCrew_cxlOut (s : State) (c : Crew) : (s.setCrew c).cxlOut = s.cxlOut := rfl
@[simp] theorem State.setCrew_granted (s : State) (c : Crew) : (s.setCrew c).granted = s.granted := rfl
@[simp] theorem State.setCrew_lostPools (s : State) (c : Crew) : (s.setCrew c).lostPools = s.lostPools := rfl
@[simp] theorem State.setCrew_atsWait (s : State) (c : Crew) : (s.setCrew c).atsWait = s.atsWait := rfl
@[simp] theorem State.setCrew_atsDone (s : State) (c : Crew) : (s.setCrew c).atsDone = s.atsDone := rfl
@[simp] theorem State.setCrew_portWidth (s : State) (c : Crew) : (s.setCrew c).portWidth = s.portWidth := rfl
@[simp] theorem State.setCrew_ring (s : State) (c : Crew) : (s.setCrew c).ring = s.ring := rfl
@[simp] theorem State.setCrew_ergs (s : State) (c : Crew) : (s.setCrew c).ergs = s.ergs := rfl
@[simp] theorem State.setCrew_pending (s : State) (c : Crew) : (s.setCrew c).pending = s.pending := rfl
@[simp] theorem State.setCrew_links (s : State) (c : Crew) : (s.setCrew c).links = s.links := rfl
@[simp] theorem State.setCrew_routes (s : State) (c : Crew) : (s.setCrew c).routes = s.routes := rfl
@[simp] theorem State.setCrew_served (s : State) (c : Crew) : (s.setCrew c).served = s.served := rfl
@[simp] theorem State.setCrew_excluded (s : State) (c : Crew) : (s.setCrew c).excluded = s.excluded := rfl
@[simp] theorem State.setCrew_lasers (s : State) (c : Crew) : (s.setCrew c).lasers = s.lasers := rfl
@[simp] theorem State.setCrew_drawInt (s : State) (c : Crew) : (s.setCrew c).drawInt = s.drawInt := rfl
@[simp] theorem State.setCrew_drawHyst (s : State) (c : Crew) : (s.setCrew c).drawHyst = s.drawHyst := rfl
@[simp] theorem State.setCrew_fresh (s : State) (c : Crew) : (s.setCrew c).fresh = s.fresh := rfl
@[simp] theorem State.setCrew_cur (s : State) (c : Crew) : (s.setCrew c).cur = s.cur := rfl
@[simp] theorem State.setCrew_issueQ (s : State) (c : Crew) : (s.setCrew c).issueQ = s.issueQ := rfl
@[simp] theorem State.setCrew_inbox (s : State) (c : Crew) : (s.setCrew c).inbox = s.inbox := rfl

/-! ## State.setSquad -/

@[simp] theorem State.setSquad_crews (s : State) (q : Squad) : (s.setSquad q).crews = s.crews := rfl
@[simp] theorem State.setSquad_grids (s : State) (q : Squad) : (s.setSquad q).grids = s.grids := rfl
@[simp] theorem State.setSquad_gridSeq (s : State) (q : Squad) : (s.setSquad q).gridSeq = s.gridSeq := rfl
@[simp] theorem State.setSquad_held (s : State) (q : Squad) : (s.setSquad q).held = s.held := rfl
@[simp] theorem State.setSquad_launches (s : State) (q : Squad) : (s.setSquad q).launches = s.launches := rfl
@[simp] theorem State.setSquad_tasks (s : State) (q : Squad) : (s.setSquad q).tasks = s.tasks := rfl
@[simp] theorem State.setSquad_taskSeq (s : State) (q : Squad) : (s.setSquad q).taskSeq = s.taskSeq := rfl
@[simp] theorem State.setSquad_saved (s : State) (q : Squad) : (s.setSquad q).saved = s.saved := rfl
@[simp] theorem State.setSquad_arrived (s : State) (q : Squad) : (s.setSquad q).arrived = s.arrived := rfl
@[simp] theorem State.setSquad_boats (s : State) (q : Squad) : (s.setSquad q).boats = s.boats := rfl
@[simp] theorem State.setSquad_boatOut (s : State) (q : Squad) : (s.setSquad q).boatOut = s.boatOut := rfl
@[simp] theorem State.setSquad_lq (s : State) (q : Squad) : (s.setSquad q).lq = s.lq := rfl
@[simp] theorem State.setSquad_lqCount (s : State) (q : Squad) : (s.setSquad q).lqCount = s.lqCount := rfl
@[simp] theorem State.setSquad_lqWait (s : State) (q : Squad) : (s.setSquad q).lqWait = s.lqWait := rfl
@[simp] theorem State.setSquad_deck (s : State) (q : Squad) : (s.setSquad q).deck = s.deck := rfl
@[simp] theorem State.setSquad_hbm (s : State) (q : Squad) : (s.setSquad q).hbm = s.hbm := rfl
@[simp] theorem State.setSquad_host (s : State) (q : Squad) : (s.setSquad q).host = s.host := rfl
@[simp] theorem State.setSquad_pool (s : State) (q : Squad) : (s.setSquad q).pool = s.pool := rfl
@[simp] theorem State.setSquad_skm (s : State) (q : Squad) : (s.setSquad q).skm = s.skm := rfl
@[simp] theorem State.setSquad_hbmPoison (s : State) (q : Squad) : (s.setSquad q).hbmPoison = s.hbmPoison := rfl
@[simp] theorem State.setSquad_dir (s : State) (q : Squad) : (s.setSquad q).dir = s.dir := rfl
@[simp] theorem State.setSquad_copies (s : State) (q : Squad) : (s.setSquad q).copies = s.copies := rfl
@[simp] theorem State.setSquad_plain (s : State) (q : Squad) : (s.setSquad q).plain = s.plain := rfl
@[simp] theorem State.setSquad_notices (s : State) (q : Squad) : (s.setSquad q).notices = s.notices := rfl
@[simp] theorem State.setSquad_writes (s : State) (q : Squad) : (s.setSquad q).writes = s.writes := rfl
@[simp] theorem State.setSquad_msgs (s : State) (q : Squad) : (s.setSquad q).msgs = s.msgs := rfl
@[simp] theorem State.setSquad_acks (s : State) (q : Squad) : (s.setSquad q).acks = s.acks := rfl
@[simp] theorem State.setSquad_notes (s : State) (q : Squad) : (s.setSquad q).notes = s.notes := rfl
@[simp] theorem State.setSquad_counts (s : State) (q : Squad) : (s.setSquad q).counts = s.counts := rfl
@[simp] theorem State.setSquad_tlb (s : State) (q : Squad) : (s.setSquad q).tlb = s.tlb := rfl
@[simp] theorem State.setSquad_walkCache (s : State) (q : Squad) : (s.setSquad q).walkCache = s.walkCache := rfl
@[simp] theorem State.setSquad_ctxs (s : State) (q : Squad) : (s.setSquad q).ctxs = s.ctxs := rfl
@[simp] theorem State.setSquad_dev (s : State) (q : Squad) : (s.setSquad q).dev = s.dev := rfl
@[simp] theorem State.setSquad_spared (s : State) (q : Squad) : (s.setSquad q).spared = s.spared := rfl
@[simp] theorem State.setSquad_fwOk (s : State) (q : Squad) : (s.setSquad q).fwOk = s.fwOk := rfl
@[simp] theorem State.setSquad_coresUp (s : State) (q : Squad) : (s.setSquad q).coresUp = s.coresUp := rfl
@[simp] theorem State.setSquad_hbmUp (s : State) (q : Squad) : (s.setSquad q).hbmUp = s.hbmUp := rfl
@[simp] theorem State.setSquad_tested (s : State) (q : Squad) : (s.setSquad q).tested = s.tested := rfl
@[simp] theorem State.setSquad_schedAge (s : State) (q : Squad) : (s.setSquad q).schedAge = s.schedAge := rfl
@[simp] theorem State.setSquad_clkCtl (s : State) (q : Squad) : (s.setSquad q).clkCtl = s.clkCtl := rfl
@[simp] theorem State.setSquad_fwEcdsa (s : State) (q : Squad) : (s.setSquad q).fwEcdsa = s.fwEcdsa := rfl
@[simp] theorem State.setSquad_fwLms (s : State) (q : Squad) : (s.setSquad q).fwLms = s.fwLms := rfl
@[simp] theorem State.setSquad_fwAcc (s : State) (q : Squad) : (s.setSquad q).fwAcc = s.fwAcc := rfl
@[simp] theorem State.setSquad_fwVer (s : State) (q : Squad) : (s.setSquad q).fwVer = s.fwVer := rfl
@[simp] theorem State.setSquad_time (s : State) (q : Squad) : (s.setSquad q).time = s.time := rfl
@[simp] theorem State.setSquad_regions (s : State) (q : Squad) : (s.setSquad q).regions = s.regions := rfl
@[simp] theorem State.setSquad_requests (s : State) (q : Squad) : (s.setSquad q).requests = s.requests := rfl
@[simp] theorem State.setSquad_pageReqs (s : State) (q : Squad) : (s.setSquad q).pageReqs = s.pageReqs := rfl
@[simp] theorem State.setSquad_reqSeq (s : State) (q : Squad) : (s.setSquad q).reqSeq = s.reqSeq := rfl
@[simp] theorem State.setSquad_events (s : State) (q : Squad) : (s.setSquad q).events = s.events := rfl
@[simp] theorem State.setSquad_eventNo (s : State) (q : Squad) : (s.setSquad q).eventNo = s.eventNo := rfl
@[simp] theorem State.setSquad_eventWait (s : State) (q : Squad) : (s.setSquad q).eventWait = s.eventWait := rfl
@[simp] theorem State.setSquad_dropped (s : State) (q : Squad) : (s.setSquad q).dropped = s.dropped := rfl
@[simp] theorem State.setSquad_spares (s : State) (q : Squad) : (s.setSquad q).spares = s.spares := rfl
@[simp] theorem State.setSquad_tiles (s : State) (q : Squad) : (s.setSquad q).tiles = s.tiles := rfl
@[simp] theorem State.setSquad_matops (s : State) (q : Squad) : (s.setSquad q).matops = s.matops := rfl
@[simp] theorem State.setSquad_cmds (s : State) (q : Squad) : (s.setSquad q).cmds = s.cmds := rfl
@[simp] theorem State.setSquad_rx (s : State) (q : Squad) : (s.setSquad q).rx = s.rx := rfl
@[simp] theorem State.setSquad_serves (s : State) (q : Squad) : (s.setSquad q).serves = s.serves := rfl
@[simp] theorem State.setSquad_sweepOut (s : State) (q : Squad) : (s.setSquad q).sweepOut = s.sweepOut := rfl
@[simp] theorem State.setSquad_hlc (s : State) (q : Squad) : (s.setSquad q).hlc = s.hlc := rfl
@[simp] theorem State.setSquad_biasHost (s : State) (q : Squad) : (s.setSquad q).biasHost = s.biasHost := rfl
@[simp] theorem State.setSquad_flips (s : State) (q : Squad) : (s.setSquad q).flips = s.flips := rfl
@[simp] theorem State.setSquad_reading (s : State) (q : Squad) : (s.setSquad q).reading = s.reading := rfl
@[simp] theorem State.setSquad_cxlOut (s : State) (q : Squad) : (s.setSquad q).cxlOut = s.cxlOut := rfl
@[simp] theorem State.setSquad_granted (s : State) (q : Squad) : (s.setSquad q).granted = s.granted := rfl
@[simp] theorem State.setSquad_lostPools (s : State) (q : Squad) : (s.setSquad q).lostPools = s.lostPools := rfl
@[simp] theorem State.setSquad_atsWait (s : State) (q : Squad) : (s.setSquad q).atsWait = s.atsWait := rfl
@[simp] theorem State.setSquad_atsDone (s : State) (q : Squad) : (s.setSquad q).atsDone = s.atsDone := rfl
@[simp] theorem State.setSquad_portWidth (s : State) (q : Squad) : (s.setSquad q).portWidth = s.portWidth := rfl
@[simp] theorem State.setSquad_ring (s : State) (q : Squad) : (s.setSquad q).ring = s.ring := rfl
@[simp] theorem State.setSquad_ergs (s : State) (q : Squad) : (s.setSquad q).ergs = s.ergs := rfl
@[simp] theorem State.setSquad_pending (s : State) (q : Squad) : (s.setSquad q).pending = s.pending := rfl
@[simp] theorem State.setSquad_links (s : State) (q : Squad) : (s.setSquad q).links = s.links := rfl
@[simp] theorem State.setSquad_routes (s : State) (q : Squad) : (s.setSquad q).routes = s.routes := rfl
@[simp] theorem State.setSquad_served (s : State) (q : Squad) : (s.setSquad q).served = s.served := rfl
@[simp] theorem State.setSquad_excluded (s : State) (q : Squad) : (s.setSquad q).excluded = s.excluded := rfl
@[simp] theorem State.setSquad_lasers (s : State) (q : Squad) : (s.setSquad q).lasers = s.lasers := rfl
@[simp] theorem State.setSquad_drawInt (s : State) (q : Squad) : (s.setSquad q).drawInt = s.drawInt := rfl
@[simp] theorem State.setSquad_drawHyst (s : State) (q : Squad) : (s.setSquad q).drawHyst = s.drawHyst := rfl
@[simp] theorem State.setSquad_fresh (s : State) (q : Squad) : (s.setSquad q).fresh = s.fresh := rfl
@[simp] theorem State.setSquad_cur (s : State) (q : Squad) : (s.setSquad q).cur = s.cur := rfl
@[simp] theorem State.setSquad_issueQ (s : State) (q : Squad) : (s.setSquad q).issueQ = s.issueQ := rfl
@[simp] theorem State.setSquad_inbox (s : State) (q : Squad) : (s.setSquad q).inbox = s.inbox := rfl

/-! ## State.setGrid -/

@[simp] theorem State.setGrid_crews (s : State) (g : Grid) : (s.setGrid g).crews = s.crews := rfl
@[simp] theorem State.setGrid_squads (s : State) (g : Grid) : (s.setGrid g).squads = s.squads := rfl
@[simp] theorem State.setGrid_gridSeq (s : State) (g : Grid) : (s.setGrid g).gridSeq = s.gridSeq := rfl
@[simp] theorem State.setGrid_held (s : State) (g : Grid) : (s.setGrid g).held = s.held := rfl
@[simp] theorem State.setGrid_launches (s : State) (g : Grid) : (s.setGrid g).launches = s.launches := rfl
@[simp] theorem State.setGrid_tasks (s : State) (g : Grid) : (s.setGrid g).tasks = s.tasks := rfl
@[simp] theorem State.setGrid_taskSeq (s : State) (g : Grid) : (s.setGrid g).taskSeq = s.taskSeq := rfl
@[simp] theorem State.setGrid_saved (s : State) (g : Grid) : (s.setGrid g).saved = s.saved := rfl
@[simp] theorem State.setGrid_arrived (s : State) (g : Grid) : (s.setGrid g).arrived = s.arrived := rfl
@[simp] theorem State.setGrid_boats (s : State) (g : Grid) : (s.setGrid g).boats = s.boats := rfl
@[simp] theorem State.setGrid_boatOut (s : State) (g : Grid) : (s.setGrid g).boatOut = s.boatOut := rfl
@[simp] theorem State.setGrid_lq (s : State) (g : Grid) : (s.setGrid g).lq = s.lq := rfl
@[simp] theorem State.setGrid_lqCount (s : State) (g : Grid) : (s.setGrid g).lqCount = s.lqCount := rfl
@[simp] theorem State.setGrid_lqWait (s : State) (g : Grid) : (s.setGrid g).lqWait = s.lqWait := rfl
@[simp] theorem State.setGrid_deck (s : State) (g : Grid) : (s.setGrid g).deck = s.deck := rfl
@[simp] theorem State.setGrid_hbm (s : State) (g : Grid) : (s.setGrid g).hbm = s.hbm := rfl
@[simp] theorem State.setGrid_host (s : State) (g : Grid) : (s.setGrid g).host = s.host := rfl
@[simp] theorem State.setGrid_pool (s : State) (g : Grid) : (s.setGrid g).pool = s.pool := rfl
@[simp] theorem State.setGrid_skm (s : State) (g : Grid) : (s.setGrid g).skm = s.skm := rfl
@[simp] theorem State.setGrid_hbmPoison (s : State) (g : Grid) : (s.setGrid g).hbmPoison = s.hbmPoison := rfl
@[simp] theorem State.setGrid_dir (s : State) (g : Grid) : (s.setGrid g).dir = s.dir := rfl
@[simp] theorem State.setGrid_copies (s : State) (g : Grid) : (s.setGrid g).copies = s.copies := rfl
@[simp] theorem State.setGrid_plain (s : State) (g : Grid) : (s.setGrid g).plain = s.plain := rfl
@[simp] theorem State.setGrid_notices (s : State) (g : Grid) : (s.setGrid g).notices = s.notices := rfl
@[simp] theorem State.setGrid_writes (s : State) (g : Grid) : (s.setGrid g).writes = s.writes := rfl
@[simp] theorem State.setGrid_msgs (s : State) (g : Grid) : (s.setGrid g).msgs = s.msgs := rfl
@[simp] theorem State.setGrid_acks (s : State) (g : Grid) : (s.setGrid g).acks = s.acks := rfl
@[simp] theorem State.setGrid_notes (s : State) (g : Grid) : (s.setGrid g).notes = s.notes := rfl
@[simp] theorem State.setGrid_counts (s : State) (g : Grid) : (s.setGrid g).counts = s.counts := rfl
@[simp] theorem State.setGrid_tlb (s : State) (g : Grid) : (s.setGrid g).tlb = s.tlb := rfl
@[simp] theorem State.setGrid_walkCache (s : State) (g : Grid) : (s.setGrid g).walkCache = s.walkCache := rfl
@[simp] theorem State.setGrid_ctxs (s : State) (g : Grid) : (s.setGrid g).ctxs = s.ctxs := rfl
@[simp] theorem State.setGrid_dev (s : State) (g : Grid) : (s.setGrid g).dev = s.dev := rfl
@[simp] theorem State.setGrid_spared (s : State) (g : Grid) : (s.setGrid g).spared = s.spared := rfl
@[simp] theorem State.setGrid_fwOk (s : State) (g : Grid) : (s.setGrid g).fwOk = s.fwOk := rfl
@[simp] theorem State.setGrid_coresUp (s : State) (g : Grid) : (s.setGrid g).coresUp = s.coresUp := rfl
@[simp] theorem State.setGrid_hbmUp (s : State) (g : Grid) : (s.setGrid g).hbmUp = s.hbmUp := rfl
@[simp] theorem State.setGrid_tested (s : State) (g : Grid) : (s.setGrid g).tested = s.tested := rfl
@[simp] theorem State.setGrid_schedAge (s : State) (g : Grid) : (s.setGrid g).schedAge = s.schedAge := rfl
@[simp] theorem State.setGrid_clkCtl (s : State) (g : Grid) : (s.setGrid g).clkCtl = s.clkCtl := rfl
@[simp] theorem State.setGrid_fwEcdsa (s : State) (g : Grid) : (s.setGrid g).fwEcdsa = s.fwEcdsa := rfl
@[simp] theorem State.setGrid_fwLms (s : State) (g : Grid) : (s.setGrid g).fwLms = s.fwLms := rfl
@[simp] theorem State.setGrid_fwAcc (s : State) (g : Grid) : (s.setGrid g).fwAcc = s.fwAcc := rfl
@[simp] theorem State.setGrid_fwVer (s : State) (g : Grid) : (s.setGrid g).fwVer = s.fwVer := rfl
@[simp] theorem State.setGrid_time (s : State) (g : Grid) : (s.setGrid g).time = s.time := rfl
@[simp] theorem State.setGrid_regions (s : State) (g : Grid) : (s.setGrid g).regions = s.regions := rfl
@[simp] theorem State.setGrid_requests (s : State) (g : Grid) : (s.setGrid g).requests = s.requests := rfl
@[simp] theorem State.setGrid_pageReqs (s : State) (g : Grid) : (s.setGrid g).pageReqs = s.pageReqs := rfl
@[simp] theorem State.setGrid_reqSeq (s : State) (g : Grid) : (s.setGrid g).reqSeq = s.reqSeq := rfl
@[simp] theorem State.setGrid_events (s : State) (g : Grid) : (s.setGrid g).events = s.events := rfl
@[simp] theorem State.setGrid_eventNo (s : State) (g : Grid) : (s.setGrid g).eventNo = s.eventNo := rfl
@[simp] theorem State.setGrid_eventWait (s : State) (g : Grid) : (s.setGrid g).eventWait = s.eventWait := rfl
@[simp] theorem State.setGrid_dropped (s : State) (g : Grid) : (s.setGrid g).dropped = s.dropped := rfl
@[simp] theorem State.setGrid_spares (s : State) (g : Grid) : (s.setGrid g).spares = s.spares := rfl
@[simp] theorem State.setGrid_tiles (s : State) (g : Grid) : (s.setGrid g).tiles = s.tiles := rfl
@[simp] theorem State.setGrid_matops (s : State) (g : Grid) : (s.setGrid g).matops = s.matops := rfl
@[simp] theorem State.setGrid_cmds (s : State) (g : Grid) : (s.setGrid g).cmds = s.cmds := rfl
@[simp] theorem State.setGrid_rx (s : State) (g : Grid) : (s.setGrid g).rx = s.rx := rfl
@[simp] theorem State.setGrid_serves (s : State) (g : Grid) : (s.setGrid g).serves = s.serves := rfl
@[simp] theorem State.setGrid_sweepOut (s : State) (g : Grid) : (s.setGrid g).sweepOut = s.sweepOut := rfl
@[simp] theorem State.setGrid_hlc (s : State) (g : Grid) : (s.setGrid g).hlc = s.hlc := rfl
@[simp] theorem State.setGrid_biasHost (s : State) (g : Grid) : (s.setGrid g).biasHost = s.biasHost := rfl
@[simp] theorem State.setGrid_flips (s : State) (g : Grid) : (s.setGrid g).flips = s.flips := rfl
@[simp] theorem State.setGrid_reading (s : State) (g : Grid) : (s.setGrid g).reading = s.reading := rfl
@[simp] theorem State.setGrid_cxlOut (s : State) (g : Grid) : (s.setGrid g).cxlOut = s.cxlOut := rfl
@[simp] theorem State.setGrid_granted (s : State) (g : Grid) : (s.setGrid g).granted = s.granted := rfl
@[simp] theorem State.setGrid_lostPools (s : State) (g : Grid) : (s.setGrid g).lostPools = s.lostPools := rfl
@[simp] theorem State.setGrid_atsWait (s : State) (g : Grid) : (s.setGrid g).atsWait = s.atsWait := rfl
@[simp] theorem State.setGrid_atsDone (s : State) (g : Grid) : (s.setGrid g).atsDone = s.atsDone := rfl
@[simp] theorem State.setGrid_portWidth (s : State) (g : Grid) : (s.setGrid g).portWidth = s.portWidth := rfl
@[simp] theorem State.setGrid_ring (s : State) (g : Grid) : (s.setGrid g).ring = s.ring := rfl
@[simp] theorem State.setGrid_ergs (s : State) (g : Grid) : (s.setGrid g).ergs = s.ergs := rfl
@[simp] theorem State.setGrid_pending (s : State) (g : Grid) : (s.setGrid g).pending = s.pending := rfl
@[simp] theorem State.setGrid_links (s : State) (g : Grid) : (s.setGrid g).links = s.links := rfl
@[simp] theorem State.setGrid_routes (s : State) (g : Grid) : (s.setGrid g).routes = s.routes := rfl
@[simp] theorem State.setGrid_served (s : State) (g : Grid) : (s.setGrid g).served = s.served := rfl
@[simp] theorem State.setGrid_excluded (s : State) (g : Grid) : (s.setGrid g).excluded = s.excluded := rfl
@[simp] theorem State.setGrid_lasers (s : State) (g : Grid) : (s.setGrid g).lasers = s.lasers := rfl
@[simp] theorem State.setGrid_drawInt (s : State) (g : Grid) : (s.setGrid g).drawInt = s.drawInt := rfl
@[simp] theorem State.setGrid_drawHyst (s : State) (g : Grid) : (s.setGrid g).drawHyst = s.drawHyst := rfl
@[simp] theorem State.setGrid_fresh (s : State) (g : Grid) : (s.setGrid g).fresh = s.fresh := rfl
@[simp] theorem State.setGrid_cur (s : State) (g : Grid) : (s.setGrid g).cur = s.cur := rfl
@[simp] theorem State.setGrid_issueQ (s : State) (g : Grid) : (s.setGrid g).issueQ = s.issueQ := rfl
@[simp] theorem State.setGrid_inbox (s : State) (g : Grid) : (s.setGrid g).inbox = s.inbox := rfl

/-! ## State.setCmd -/

@[simp] theorem State.setCmd_crews (s : State) (c : Cmd) : (s.setCmd c).crews = s.crews := rfl
@[simp] theorem State.setCmd_squads (s : State) (c : Cmd) : (s.setCmd c).squads = s.squads := rfl
@[simp] theorem State.setCmd_grids (s : State) (c : Cmd) : (s.setCmd c).grids = s.grids := rfl
@[simp] theorem State.setCmd_gridSeq (s : State) (c : Cmd) : (s.setCmd c).gridSeq = s.gridSeq := rfl
@[simp] theorem State.setCmd_held (s : State) (c : Cmd) : (s.setCmd c).held = s.held := rfl
@[simp] theorem State.setCmd_launches (s : State) (c : Cmd) : (s.setCmd c).launches = s.launches := rfl
@[simp] theorem State.setCmd_tasks (s : State) (c : Cmd) : (s.setCmd c).tasks = s.tasks := rfl
@[simp] theorem State.setCmd_taskSeq (s : State) (c : Cmd) : (s.setCmd c).taskSeq = s.taskSeq := rfl
@[simp] theorem State.setCmd_saved (s : State) (c : Cmd) : (s.setCmd c).saved = s.saved := rfl
@[simp] theorem State.setCmd_arrived (s : State) (c : Cmd) : (s.setCmd c).arrived = s.arrived := rfl
@[simp] theorem State.setCmd_boats (s : State) (c : Cmd) : (s.setCmd c).boats = s.boats := rfl
@[simp] theorem State.setCmd_boatOut (s : State) (c : Cmd) : (s.setCmd c).boatOut = s.boatOut := rfl
@[simp] theorem State.setCmd_lq (s : State) (c : Cmd) : (s.setCmd c).lq = s.lq := rfl
@[simp] theorem State.setCmd_lqCount (s : State) (c : Cmd) : (s.setCmd c).lqCount = s.lqCount := rfl
@[simp] theorem State.setCmd_lqWait (s : State) (c : Cmd) : (s.setCmd c).lqWait = s.lqWait := rfl
@[simp] theorem State.setCmd_deck (s : State) (c : Cmd) : (s.setCmd c).deck = s.deck := rfl
@[simp] theorem State.setCmd_hbm (s : State) (c : Cmd) : (s.setCmd c).hbm = s.hbm := rfl
@[simp] theorem State.setCmd_host (s : State) (c : Cmd) : (s.setCmd c).host = s.host := rfl
@[simp] theorem State.setCmd_pool (s : State) (c : Cmd) : (s.setCmd c).pool = s.pool := rfl
@[simp] theorem State.setCmd_skm (s : State) (c : Cmd) : (s.setCmd c).skm = s.skm := rfl
@[simp] theorem State.setCmd_hbmPoison (s : State) (c : Cmd) : (s.setCmd c).hbmPoison = s.hbmPoison := rfl
@[simp] theorem State.setCmd_dir (s : State) (c : Cmd) : (s.setCmd c).dir = s.dir := rfl
@[simp] theorem State.setCmd_copies (s : State) (c : Cmd) : (s.setCmd c).copies = s.copies := rfl
@[simp] theorem State.setCmd_plain (s : State) (c : Cmd) : (s.setCmd c).plain = s.plain := rfl
@[simp] theorem State.setCmd_notices (s : State) (c : Cmd) : (s.setCmd c).notices = s.notices := rfl
@[simp] theorem State.setCmd_writes (s : State) (c : Cmd) : (s.setCmd c).writes = s.writes := rfl
@[simp] theorem State.setCmd_msgs (s : State) (c : Cmd) : (s.setCmd c).msgs = s.msgs := rfl
@[simp] theorem State.setCmd_acks (s : State) (c : Cmd) : (s.setCmd c).acks = s.acks := rfl
@[simp] theorem State.setCmd_notes (s : State) (c : Cmd) : (s.setCmd c).notes = s.notes := rfl
@[simp] theorem State.setCmd_counts (s : State) (c : Cmd) : (s.setCmd c).counts = s.counts := rfl
@[simp] theorem State.setCmd_tlb (s : State) (c : Cmd) : (s.setCmd c).tlb = s.tlb := rfl
@[simp] theorem State.setCmd_walkCache (s : State) (c : Cmd) : (s.setCmd c).walkCache = s.walkCache := rfl
@[simp] theorem State.setCmd_ctxs (s : State) (c : Cmd) : (s.setCmd c).ctxs = s.ctxs := rfl
@[simp] theorem State.setCmd_dev (s : State) (c : Cmd) : (s.setCmd c).dev = s.dev := rfl
@[simp] theorem State.setCmd_spared (s : State) (c : Cmd) : (s.setCmd c).spared = s.spared := rfl
@[simp] theorem State.setCmd_fwOk (s : State) (c : Cmd) : (s.setCmd c).fwOk = s.fwOk := rfl
@[simp] theorem State.setCmd_coresUp (s : State) (c : Cmd) : (s.setCmd c).coresUp = s.coresUp := rfl
@[simp] theorem State.setCmd_hbmUp (s : State) (c : Cmd) : (s.setCmd c).hbmUp = s.hbmUp := rfl
@[simp] theorem State.setCmd_tested (s : State) (c : Cmd) : (s.setCmd c).tested = s.tested := rfl
@[simp] theorem State.setCmd_schedAge (s : State) (c : Cmd) : (s.setCmd c).schedAge = s.schedAge := rfl
@[simp] theorem State.setCmd_clkCtl (s : State) (c : Cmd) : (s.setCmd c).clkCtl = s.clkCtl := rfl
@[simp] theorem State.setCmd_fwEcdsa (s : State) (c : Cmd) : (s.setCmd c).fwEcdsa = s.fwEcdsa := rfl
@[simp] theorem State.setCmd_fwLms (s : State) (c : Cmd) : (s.setCmd c).fwLms = s.fwLms := rfl
@[simp] theorem State.setCmd_fwAcc (s : State) (c : Cmd) : (s.setCmd c).fwAcc = s.fwAcc := rfl
@[simp] theorem State.setCmd_fwVer (s : State) (c : Cmd) : (s.setCmd c).fwVer = s.fwVer := rfl
@[simp] theorem State.setCmd_time (s : State) (c : Cmd) : (s.setCmd c).time = s.time := rfl
@[simp] theorem State.setCmd_regions (s : State) (c : Cmd) : (s.setCmd c).regions = s.regions := rfl
@[simp] theorem State.setCmd_requests (s : State) (c : Cmd) : (s.setCmd c).requests = s.requests := rfl
@[simp] theorem State.setCmd_pageReqs (s : State) (c : Cmd) : (s.setCmd c).pageReqs = s.pageReqs := rfl
@[simp] theorem State.setCmd_reqSeq (s : State) (c : Cmd) : (s.setCmd c).reqSeq = s.reqSeq := rfl
@[simp] theorem State.setCmd_events (s : State) (c : Cmd) : (s.setCmd c).events = s.events := rfl
@[simp] theorem State.setCmd_eventNo (s : State) (c : Cmd) : (s.setCmd c).eventNo = s.eventNo := rfl
@[simp] theorem State.setCmd_eventWait (s : State) (c : Cmd) : (s.setCmd c).eventWait = s.eventWait := rfl
@[simp] theorem State.setCmd_dropped (s : State) (c : Cmd) : (s.setCmd c).dropped = s.dropped := rfl
@[simp] theorem State.setCmd_spares (s : State) (c : Cmd) : (s.setCmd c).spares = s.spares := rfl
@[simp] theorem State.setCmd_tiles (s : State) (c : Cmd) : (s.setCmd c).tiles = s.tiles := rfl
@[simp] theorem State.setCmd_matops (s : State) (c : Cmd) : (s.setCmd c).matops = s.matops := rfl
@[simp] theorem State.setCmd_rx (s : State) (c : Cmd) : (s.setCmd c).rx = s.rx := rfl
@[simp] theorem State.setCmd_serves (s : State) (c : Cmd) : (s.setCmd c).serves = s.serves := rfl
@[simp] theorem State.setCmd_sweepOut (s : State) (c : Cmd) : (s.setCmd c).sweepOut = s.sweepOut := rfl
@[simp] theorem State.setCmd_hlc (s : State) (c : Cmd) : (s.setCmd c).hlc = s.hlc := rfl
@[simp] theorem State.setCmd_biasHost (s : State) (c : Cmd) : (s.setCmd c).biasHost = s.biasHost := rfl
@[simp] theorem State.setCmd_flips (s : State) (c : Cmd) : (s.setCmd c).flips = s.flips := rfl
@[simp] theorem State.setCmd_reading (s : State) (c : Cmd) : (s.setCmd c).reading = s.reading := rfl
@[simp] theorem State.setCmd_cxlOut (s : State) (c : Cmd) : (s.setCmd c).cxlOut = s.cxlOut := rfl
@[simp] theorem State.setCmd_granted (s : State) (c : Cmd) : (s.setCmd c).granted = s.granted := rfl
@[simp] theorem State.setCmd_lostPools (s : State) (c : Cmd) : (s.setCmd c).lostPools = s.lostPools := rfl
@[simp] theorem State.setCmd_atsWait (s : State) (c : Cmd) : (s.setCmd c).atsWait = s.atsWait := rfl
@[simp] theorem State.setCmd_atsDone (s : State) (c : Cmd) : (s.setCmd c).atsDone = s.atsDone := rfl
@[simp] theorem State.setCmd_portWidth (s : State) (c : Cmd) : (s.setCmd c).portWidth = s.portWidth := rfl
@[simp] theorem State.setCmd_ring (s : State) (c : Cmd) : (s.setCmd c).ring = s.ring := rfl
@[simp] theorem State.setCmd_ergs (s : State) (c : Cmd) : (s.setCmd c).ergs = s.ergs := rfl
@[simp] theorem State.setCmd_pending (s : State) (c : Cmd) : (s.setCmd c).pending = s.pending := rfl
@[simp] theorem State.setCmd_links (s : State) (c : Cmd) : (s.setCmd c).links = s.links := rfl
@[simp] theorem State.setCmd_routes (s : State) (c : Cmd) : (s.setCmd c).routes = s.routes := rfl
@[simp] theorem State.setCmd_served (s : State) (c : Cmd) : (s.setCmd c).served = s.served := rfl
@[simp] theorem State.setCmd_excluded (s : State) (c : Cmd) : (s.setCmd c).excluded = s.excluded := rfl
@[simp] theorem State.setCmd_lasers (s : State) (c : Cmd) : (s.setCmd c).lasers = s.lasers := rfl
@[simp] theorem State.setCmd_drawInt (s : State) (c : Cmd) : (s.setCmd c).drawInt = s.drawInt := rfl
@[simp] theorem State.setCmd_drawHyst (s : State) (c : Cmd) : (s.setCmd c).drawHyst = s.drawHyst := rfl
@[simp] theorem State.setCmd_fresh (s : State) (c : Cmd) : (s.setCmd c).fresh = s.fresh := rfl
@[simp] theorem State.setCmd_cur (s : State) (c : Cmd) : (s.setCmd c).cur = s.cur := rfl
@[simp] theorem State.setCmd_issueQ (s : State) (c : Cmd) : (s.setCmd c).issueQ = s.issueQ := rfl
@[simp] theorem State.setCmd_inbox (s : State) (c : Cmd) : (s.setCmd c).inbox = s.inbox := rfl

/-! ## State.bump -/

@[simp] theorem State.bump_crews (s : State) : (s.bump).crews = s.crews := rfl
@[simp] theorem State.bump_squads (s : State) : (s.bump).squads = s.squads := rfl
@[simp] theorem State.bump_grids (s : State) : (s.bump).grids = s.grids := rfl
@[simp] theorem State.bump_gridSeq (s : State) : (s.bump).gridSeq = s.gridSeq := rfl
@[simp] theorem State.bump_held (s : State) : (s.bump).held = s.held := rfl
@[simp] theorem State.bump_launches (s : State) : (s.bump).launches = s.launches := rfl
@[simp] theorem State.bump_tasks (s : State) : (s.bump).tasks = s.tasks := rfl
@[simp] theorem State.bump_taskSeq (s : State) : (s.bump).taskSeq = s.taskSeq := rfl
@[simp] theorem State.bump_saved (s : State) : (s.bump).saved = s.saved := rfl
@[simp] theorem State.bump_arrived (s : State) : (s.bump).arrived = s.arrived := rfl
@[simp] theorem State.bump_boats (s : State) : (s.bump).boats = s.boats := rfl
@[simp] theorem State.bump_boatOut (s : State) : (s.bump).boatOut = s.boatOut := rfl
@[simp] theorem State.bump_lq (s : State) : (s.bump).lq = s.lq := rfl
@[simp] theorem State.bump_lqCount (s : State) : (s.bump).lqCount = s.lqCount := rfl
@[simp] theorem State.bump_lqWait (s : State) : (s.bump).lqWait = s.lqWait := rfl
@[simp] theorem State.bump_deck (s : State) : (s.bump).deck = s.deck := rfl
@[simp] theorem State.bump_hbm (s : State) : (s.bump).hbm = s.hbm := rfl
@[simp] theorem State.bump_host (s : State) : (s.bump).host = s.host := rfl
@[simp] theorem State.bump_pool (s : State) : (s.bump).pool = s.pool := rfl
@[simp] theorem State.bump_skm (s : State) : (s.bump).skm = s.skm := rfl
@[simp] theorem State.bump_hbmPoison (s : State) : (s.bump).hbmPoison = s.hbmPoison := rfl
@[simp] theorem State.bump_dir (s : State) : (s.bump).dir = s.dir := rfl
@[simp] theorem State.bump_copies (s : State) : (s.bump).copies = s.copies := rfl
@[simp] theorem State.bump_plain (s : State) : (s.bump).plain = s.plain := rfl
@[simp] theorem State.bump_notices (s : State) : (s.bump).notices = s.notices := rfl
@[simp] theorem State.bump_writes (s : State) : (s.bump).writes = s.writes := rfl
@[simp] theorem State.bump_msgs (s : State) : (s.bump).msgs = s.msgs := rfl
@[simp] theorem State.bump_acks (s : State) : (s.bump).acks = s.acks := rfl
@[simp] theorem State.bump_notes (s : State) : (s.bump).notes = s.notes := rfl
@[simp] theorem State.bump_counts (s : State) : (s.bump).counts = s.counts := rfl
@[simp] theorem State.bump_tlb (s : State) : (s.bump).tlb = s.tlb := rfl
@[simp] theorem State.bump_walkCache (s : State) : (s.bump).walkCache = s.walkCache := rfl
@[simp] theorem State.bump_ctxs (s : State) : (s.bump).ctxs = s.ctxs := rfl
@[simp] theorem State.bump_dev (s : State) : (s.bump).dev = s.dev := rfl
@[simp] theorem State.bump_spared (s : State) : (s.bump).spared = s.spared := rfl
@[simp] theorem State.bump_fwOk (s : State) : (s.bump).fwOk = s.fwOk := rfl
@[simp] theorem State.bump_coresUp (s : State) : (s.bump).coresUp = s.coresUp := rfl
@[simp] theorem State.bump_hbmUp (s : State) : (s.bump).hbmUp = s.hbmUp := rfl
@[simp] theorem State.bump_tested (s : State) : (s.bump).tested = s.tested := rfl
@[simp] theorem State.bump_schedAge (s : State) : (s.bump).schedAge = s.schedAge := rfl
@[simp] theorem State.bump_clkCtl (s : State) : (s.bump).clkCtl = s.clkCtl := rfl
@[simp] theorem State.bump_fwEcdsa (s : State) : (s.bump).fwEcdsa = s.fwEcdsa := rfl
@[simp] theorem State.bump_fwLms (s : State) : (s.bump).fwLms = s.fwLms := rfl
@[simp] theorem State.bump_fwAcc (s : State) : (s.bump).fwAcc = s.fwAcc := rfl
@[simp] theorem State.bump_fwVer (s : State) : (s.bump).fwVer = s.fwVer := rfl
@[simp] theorem State.bump_time (s : State) : (s.bump).time = s.time := rfl
@[simp] theorem State.bump_regions (s : State) : (s.bump).regions = s.regions := rfl
@[simp] theorem State.bump_requests (s : State) : (s.bump).requests = s.requests := rfl
@[simp] theorem State.bump_pageReqs (s : State) : (s.bump).pageReqs = s.pageReqs := rfl
@[simp] theorem State.bump_reqSeq (s : State) : (s.bump).reqSeq = s.reqSeq := rfl
@[simp] theorem State.bump_events (s : State) : (s.bump).events = s.events := rfl
@[simp] theorem State.bump_eventNo (s : State) : (s.bump).eventNo = s.eventNo := rfl
@[simp] theorem State.bump_eventWait (s : State) : (s.bump).eventWait = s.eventWait := rfl
@[simp] theorem State.bump_dropped (s : State) : (s.bump).dropped = s.dropped := rfl
@[simp] theorem State.bump_spares (s : State) : (s.bump).spares = s.spares := rfl
@[simp] theorem State.bump_tiles (s : State) : (s.bump).tiles = s.tiles := rfl
@[simp] theorem State.bump_matops (s : State) : (s.bump).matops = s.matops := rfl
@[simp] theorem State.bump_cmds (s : State) : (s.bump).cmds = s.cmds := rfl
@[simp] theorem State.bump_rx (s : State) : (s.bump).rx = s.rx := rfl
@[simp] theorem State.bump_serves (s : State) : (s.bump).serves = s.serves := rfl
@[simp] theorem State.bump_sweepOut (s : State) : (s.bump).sweepOut = s.sweepOut := rfl
@[simp] theorem State.bump_hlc (s : State) : (s.bump).hlc = s.hlc := rfl
@[simp] theorem State.bump_biasHost (s : State) : (s.bump).biasHost = s.biasHost := rfl
@[simp] theorem State.bump_flips (s : State) : (s.bump).flips = s.flips := rfl
@[simp] theorem State.bump_reading (s : State) : (s.bump).reading = s.reading := rfl
@[simp] theorem State.bump_cxlOut (s : State) : (s.bump).cxlOut = s.cxlOut := rfl
@[simp] theorem State.bump_granted (s : State) : (s.bump).granted = s.granted := rfl
@[simp] theorem State.bump_lostPools (s : State) : (s.bump).lostPools = s.lostPools := rfl
@[simp] theorem State.bump_atsWait (s : State) : (s.bump).atsWait = s.atsWait := rfl
@[simp] theorem State.bump_atsDone (s : State) : (s.bump).atsDone = s.atsDone := rfl
@[simp] theorem State.bump_portWidth (s : State) : (s.bump).portWidth = s.portWidth := rfl
@[simp] theorem State.bump_ring (s : State) : (s.bump).ring = s.ring := rfl
@[simp] theorem State.bump_ergs (s : State) : (s.bump).ergs = s.ergs := rfl
@[simp] theorem State.bump_pending (s : State) : (s.bump).pending = s.pending := rfl
@[simp] theorem State.bump_links (s : State) : (s.bump).links = s.links := rfl
@[simp] theorem State.bump_routes (s : State) : (s.bump).routes = s.routes := rfl
@[simp] theorem State.bump_served (s : State) : (s.bump).served = s.served := rfl
@[simp] theorem State.bump_excluded (s : State) : (s.bump).excluded = s.excluded := rfl
@[simp] theorem State.bump_lasers (s : State) : (s.bump).lasers = s.lasers := rfl
@[simp] theorem State.bump_drawInt (s : State) : (s.bump).drawInt = s.drawInt := rfl
@[simp] theorem State.bump_drawHyst (s : State) : (s.bump).drawHyst = s.drawHyst := rfl
@[simp] theorem State.bump_cur (s : State) : (s.bump).cur = s.cur := rfl
@[simp] theorem State.bump_issueQ (s : State) : (s.bump).issueQ = s.issueQ := rfl
@[simp] theorem State.bump_inbox (s : State) : (s.bump).inbox = s.inbox := rfl

/-! ## State.setCtx -/

@[simp] theorem State.setCtx_crews (s : State) (x : Ctx) : (s.setCtx x).crews = s.crews := rfl
@[simp] theorem State.setCtx_squads (s : State) (x : Ctx) : (s.setCtx x).squads = s.squads := rfl
@[simp] theorem State.setCtx_grids (s : State) (x : Ctx) : (s.setCtx x).grids = s.grids := rfl
@[simp] theorem State.setCtx_gridSeq (s : State) (x : Ctx) : (s.setCtx x).gridSeq = s.gridSeq := rfl
@[simp] theorem State.setCtx_held (s : State) (x : Ctx) : (s.setCtx x).held = s.held := rfl
@[simp] theorem State.setCtx_launches (s : State) (x : Ctx) : (s.setCtx x).launches = s.launches := rfl
@[simp] theorem State.setCtx_tasks (s : State) (x : Ctx) : (s.setCtx x).tasks = s.tasks := rfl
@[simp] theorem State.setCtx_taskSeq (s : State) (x : Ctx) : (s.setCtx x).taskSeq = s.taskSeq := rfl
@[simp] theorem State.setCtx_saved (s : State) (x : Ctx) : (s.setCtx x).saved = s.saved := rfl
@[simp] theorem State.setCtx_arrived (s : State) (x : Ctx) : (s.setCtx x).arrived = s.arrived := rfl
@[simp] theorem State.setCtx_boats (s : State) (x : Ctx) : (s.setCtx x).boats = s.boats := rfl
@[simp] theorem State.setCtx_boatOut (s : State) (x : Ctx) : (s.setCtx x).boatOut = s.boatOut := rfl
@[simp] theorem State.setCtx_lq (s : State) (x : Ctx) : (s.setCtx x).lq = s.lq := rfl
@[simp] theorem State.setCtx_lqCount (s : State) (x : Ctx) : (s.setCtx x).lqCount = s.lqCount := rfl
@[simp] theorem State.setCtx_lqWait (s : State) (x : Ctx) : (s.setCtx x).lqWait = s.lqWait := rfl
@[simp] theorem State.setCtx_deck (s : State) (x : Ctx) : (s.setCtx x).deck = s.deck := rfl
@[simp] theorem State.setCtx_hbm (s : State) (x : Ctx) : (s.setCtx x).hbm = s.hbm := rfl
@[simp] theorem State.setCtx_host (s : State) (x : Ctx) : (s.setCtx x).host = s.host := rfl
@[simp] theorem State.setCtx_pool (s : State) (x : Ctx) : (s.setCtx x).pool = s.pool := rfl
@[simp] theorem State.setCtx_skm (s : State) (x : Ctx) : (s.setCtx x).skm = s.skm := rfl
@[simp] theorem State.setCtx_hbmPoison (s : State) (x : Ctx) : (s.setCtx x).hbmPoison = s.hbmPoison := rfl
@[simp] theorem State.setCtx_dir (s : State) (x : Ctx) : (s.setCtx x).dir = s.dir := rfl
@[simp] theorem State.setCtx_copies (s : State) (x : Ctx) : (s.setCtx x).copies = s.copies := rfl
@[simp] theorem State.setCtx_plain (s : State) (x : Ctx) : (s.setCtx x).plain = s.plain := rfl
@[simp] theorem State.setCtx_notices (s : State) (x : Ctx) : (s.setCtx x).notices = s.notices := rfl
@[simp] theorem State.setCtx_writes (s : State) (x : Ctx) : (s.setCtx x).writes = s.writes := rfl
@[simp] theorem State.setCtx_msgs (s : State) (x : Ctx) : (s.setCtx x).msgs = s.msgs := rfl
@[simp] theorem State.setCtx_acks (s : State) (x : Ctx) : (s.setCtx x).acks = s.acks := rfl
@[simp] theorem State.setCtx_notes (s : State) (x : Ctx) : (s.setCtx x).notes = s.notes := rfl
@[simp] theorem State.setCtx_counts (s : State) (x : Ctx) : (s.setCtx x).counts = s.counts := rfl
@[simp] theorem State.setCtx_tlb (s : State) (x : Ctx) : (s.setCtx x).tlb = s.tlb := rfl
@[simp] theorem State.setCtx_walkCache (s : State) (x : Ctx) : (s.setCtx x).walkCache = s.walkCache := rfl
@[simp] theorem State.setCtx_dev (s : State) (x : Ctx) : (s.setCtx x).dev = s.dev := rfl
@[simp] theorem State.setCtx_spared (s : State) (x : Ctx) : (s.setCtx x).spared = s.spared := rfl
@[simp] theorem State.setCtx_fwOk (s : State) (x : Ctx) : (s.setCtx x).fwOk = s.fwOk := rfl
@[simp] theorem State.setCtx_coresUp (s : State) (x : Ctx) : (s.setCtx x).coresUp = s.coresUp := rfl
@[simp] theorem State.setCtx_hbmUp (s : State) (x : Ctx) : (s.setCtx x).hbmUp = s.hbmUp := rfl
@[simp] theorem State.setCtx_tested (s : State) (x : Ctx) : (s.setCtx x).tested = s.tested := rfl
@[simp] theorem State.setCtx_schedAge (s : State) (x : Ctx) : (s.setCtx x).schedAge = s.schedAge := rfl
@[simp] theorem State.setCtx_clkCtl (s : State) (x : Ctx) : (s.setCtx x).clkCtl = s.clkCtl := rfl
@[simp] theorem State.setCtx_fwEcdsa (s : State) (x : Ctx) : (s.setCtx x).fwEcdsa = s.fwEcdsa := rfl
@[simp] theorem State.setCtx_fwLms (s : State) (x : Ctx) : (s.setCtx x).fwLms = s.fwLms := rfl
@[simp] theorem State.setCtx_fwAcc (s : State) (x : Ctx) : (s.setCtx x).fwAcc = s.fwAcc := rfl
@[simp] theorem State.setCtx_fwVer (s : State) (x : Ctx) : (s.setCtx x).fwVer = s.fwVer := rfl
@[simp] theorem State.setCtx_time (s : State) (x : Ctx) : (s.setCtx x).time = s.time := rfl
@[simp] theorem State.setCtx_regions (s : State) (x : Ctx) : (s.setCtx x).regions = s.regions := rfl
@[simp] theorem State.setCtx_requests (s : State) (x : Ctx) : (s.setCtx x).requests = s.requests := rfl
@[simp] theorem State.setCtx_pageReqs (s : State) (x : Ctx) : (s.setCtx x).pageReqs = s.pageReqs := rfl
@[simp] theorem State.setCtx_reqSeq (s : State) (x : Ctx) : (s.setCtx x).reqSeq = s.reqSeq := rfl
@[simp] theorem State.setCtx_events (s : State) (x : Ctx) : (s.setCtx x).events = s.events := rfl
@[simp] theorem State.setCtx_eventNo (s : State) (x : Ctx) : (s.setCtx x).eventNo = s.eventNo := rfl
@[simp] theorem State.setCtx_eventWait (s : State) (x : Ctx) : (s.setCtx x).eventWait = s.eventWait := rfl
@[simp] theorem State.setCtx_dropped (s : State) (x : Ctx) : (s.setCtx x).dropped = s.dropped := rfl
@[simp] theorem State.setCtx_spares (s : State) (x : Ctx) : (s.setCtx x).spares = s.spares := rfl
@[simp] theorem State.setCtx_tiles (s : State) (x : Ctx) : (s.setCtx x).tiles = s.tiles := rfl
@[simp] theorem State.setCtx_matops (s : State) (x : Ctx) : (s.setCtx x).matops = s.matops := rfl
@[simp] theorem State.setCtx_cmds (s : State) (x : Ctx) : (s.setCtx x).cmds = s.cmds := rfl
@[simp] theorem State.setCtx_rx (s : State) (x : Ctx) : (s.setCtx x).rx = s.rx := rfl
@[simp] theorem State.setCtx_serves (s : State) (x : Ctx) : (s.setCtx x).serves = s.serves := rfl
@[simp] theorem State.setCtx_sweepOut (s : State) (x : Ctx) : (s.setCtx x).sweepOut = s.sweepOut := rfl
@[simp] theorem State.setCtx_hlc (s : State) (x : Ctx) : (s.setCtx x).hlc = s.hlc := rfl
@[simp] theorem State.setCtx_biasHost (s : State) (x : Ctx) : (s.setCtx x).biasHost = s.biasHost := rfl
@[simp] theorem State.setCtx_flips (s : State) (x : Ctx) : (s.setCtx x).flips = s.flips := rfl
@[simp] theorem State.setCtx_reading (s : State) (x : Ctx) : (s.setCtx x).reading = s.reading := rfl
@[simp] theorem State.setCtx_cxlOut (s : State) (x : Ctx) : (s.setCtx x).cxlOut = s.cxlOut := rfl
@[simp] theorem State.setCtx_granted (s : State) (x : Ctx) : (s.setCtx x).granted = s.granted := rfl
@[simp] theorem State.setCtx_lostPools (s : State) (x : Ctx) : (s.setCtx x).lostPools = s.lostPools := rfl
@[simp] theorem State.setCtx_atsWait (s : State) (x : Ctx) : (s.setCtx x).atsWait = s.atsWait := rfl
@[simp] theorem State.setCtx_atsDone (s : State) (x : Ctx) : (s.setCtx x).atsDone = s.atsDone := rfl
@[simp] theorem State.setCtx_portWidth (s : State) (x : Ctx) : (s.setCtx x).portWidth = s.portWidth := rfl
@[simp] theorem State.setCtx_ring (s : State) (x : Ctx) : (s.setCtx x).ring = s.ring := rfl
@[simp] theorem State.setCtx_ergs (s : State) (x : Ctx) : (s.setCtx x).ergs = s.ergs := rfl
@[simp] theorem State.setCtx_pending (s : State) (x : Ctx) : (s.setCtx x).pending = s.pending := rfl
@[simp] theorem State.setCtx_links (s : State) (x : Ctx) : (s.setCtx x).links = s.links := rfl
@[simp] theorem State.setCtx_routes (s : State) (x : Ctx) : (s.setCtx x).routes = s.routes := rfl
@[simp] theorem State.setCtx_served (s : State) (x : Ctx) : (s.setCtx x).served = s.served := rfl
@[simp] theorem State.setCtx_excluded (s : State) (x : Ctx) : (s.setCtx x).excluded = s.excluded := rfl
@[simp] theorem State.setCtx_lasers (s : State) (x : Ctx) : (s.setCtx x).lasers = s.lasers := rfl
@[simp] theorem State.setCtx_drawInt (s : State) (x : Ctx) : (s.setCtx x).drawInt = s.drawInt := rfl
@[simp] theorem State.setCtx_drawHyst (s : State) (x : Ctx) : (s.setCtx x).drawHyst = s.drawHyst := rfl
@[simp] theorem State.setCtx_fresh (s : State) (x : Ctx) : (s.setCtx x).fresh = s.fresh := rfl
@[simp] theorem State.setCtx_cur (s : State) (x : Ctx) : (s.setCtx x).cur = s.cur := rfl
@[simp] theorem State.setCtx_issueQ (s : State) (x : Ctx) : (s.setCtx x).issueQ = s.issueQ := rfl
@[simp] theorem State.setCtx_inbox (s : State) (x : Ctx) : (s.setCtx x).inbox = s.inbox := rfl

/-! ## State.setDir -/

@[simp] theorem State.setDir_crews (s : State) (e : DirEntry) : (s.setDir e).crews = s.crews := rfl
@[simp] theorem State.setDir_squads (s : State) (e : DirEntry) : (s.setDir e).squads = s.squads := rfl
@[simp] theorem State.setDir_grids (s : State) (e : DirEntry) : (s.setDir e).grids = s.grids := rfl
@[simp] theorem State.setDir_gridSeq (s : State) (e : DirEntry) : (s.setDir e).gridSeq = s.gridSeq := rfl
@[simp] theorem State.setDir_held (s : State) (e : DirEntry) : (s.setDir e).held = s.held := rfl
@[simp] theorem State.setDir_launches (s : State) (e : DirEntry) : (s.setDir e).launches = s.launches := rfl
@[simp] theorem State.setDir_tasks (s : State) (e : DirEntry) : (s.setDir e).tasks = s.tasks := rfl
@[simp] theorem State.setDir_taskSeq (s : State) (e : DirEntry) : (s.setDir e).taskSeq = s.taskSeq := rfl
@[simp] theorem State.setDir_saved (s : State) (e : DirEntry) : (s.setDir e).saved = s.saved := rfl
@[simp] theorem State.setDir_arrived (s : State) (e : DirEntry) : (s.setDir e).arrived = s.arrived := rfl
@[simp] theorem State.setDir_boats (s : State) (e : DirEntry) : (s.setDir e).boats = s.boats := rfl
@[simp] theorem State.setDir_boatOut (s : State) (e : DirEntry) : (s.setDir e).boatOut = s.boatOut := rfl
@[simp] theorem State.setDir_lq (s : State) (e : DirEntry) : (s.setDir e).lq = s.lq := rfl
@[simp] theorem State.setDir_lqCount (s : State) (e : DirEntry) : (s.setDir e).lqCount = s.lqCount := rfl
@[simp] theorem State.setDir_lqWait (s : State) (e : DirEntry) : (s.setDir e).lqWait = s.lqWait := rfl
@[simp] theorem State.setDir_deck (s : State) (e : DirEntry) : (s.setDir e).deck = s.deck := rfl
@[simp] theorem State.setDir_hbm (s : State) (e : DirEntry) : (s.setDir e).hbm = s.hbm := rfl
@[simp] theorem State.setDir_host (s : State) (e : DirEntry) : (s.setDir e).host = s.host := rfl
@[simp] theorem State.setDir_pool (s : State) (e : DirEntry) : (s.setDir e).pool = s.pool := rfl
@[simp] theorem State.setDir_skm (s : State) (e : DirEntry) : (s.setDir e).skm = s.skm := rfl
@[simp] theorem State.setDir_hbmPoison (s : State) (e : DirEntry) : (s.setDir e).hbmPoison = s.hbmPoison := rfl
@[simp] theorem State.setDir_copies (s : State) (e : DirEntry) : (s.setDir e).copies = s.copies := rfl
@[simp] theorem State.setDir_plain (s : State) (e : DirEntry) : (s.setDir e).plain = s.plain := rfl
@[simp] theorem State.setDir_notices (s : State) (e : DirEntry) : (s.setDir e).notices = s.notices := rfl
@[simp] theorem State.setDir_writes (s : State) (e : DirEntry) : (s.setDir e).writes = s.writes := rfl
@[simp] theorem State.setDir_msgs (s : State) (e : DirEntry) : (s.setDir e).msgs = s.msgs := rfl
@[simp] theorem State.setDir_acks (s : State) (e : DirEntry) : (s.setDir e).acks = s.acks := rfl
@[simp] theorem State.setDir_notes (s : State) (e : DirEntry) : (s.setDir e).notes = s.notes := rfl
@[simp] theorem State.setDir_counts (s : State) (e : DirEntry) : (s.setDir e).counts = s.counts := rfl
@[simp] theorem State.setDir_tlb (s : State) (e : DirEntry) : (s.setDir e).tlb = s.tlb := rfl
@[simp] theorem State.setDir_walkCache (s : State) (e : DirEntry) : (s.setDir e).walkCache = s.walkCache := rfl
@[simp] theorem State.setDir_ctxs (s : State) (e : DirEntry) : (s.setDir e).ctxs = s.ctxs := rfl
@[simp] theorem State.setDir_dev (s : State) (e : DirEntry) : (s.setDir e).dev = s.dev := rfl
@[simp] theorem State.setDir_spared (s : State) (e : DirEntry) : (s.setDir e).spared = s.spared := rfl
@[simp] theorem State.setDir_fwOk (s : State) (e : DirEntry) : (s.setDir e).fwOk = s.fwOk := rfl
@[simp] theorem State.setDir_coresUp (s : State) (e : DirEntry) : (s.setDir e).coresUp = s.coresUp := rfl
@[simp] theorem State.setDir_hbmUp (s : State) (e : DirEntry) : (s.setDir e).hbmUp = s.hbmUp := rfl
@[simp] theorem State.setDir_tested (s : State) (e : DirEntry) : (s.setDir e).tested = s.tested := rfl
@[simp] theorem State.setDir_schedAge (s : State) (e : DirEntry) : (s.setDir e).schedAge = s.schedAge := rfl
@[simp] theorem State.setDir_clkCtl (s : State) (e : DirEntry) : (s.setDir e).clkCtl = s.clkCtl := rfl
@[simp] theorem State.setDir_fwEcdsa (s : State) (e : DirEntry) : (s.setDir e).fwEcdsa = s.fwEcdsa := rfl
@[simp] theorem State.setDir_fwLms (s : State) (e : DirEntry) : (s.setDir e).fwLms = s.fwLms := rfl
@[simp] theorem State.setDir_fwAcc (s : State) (e : DirEntry) : (s.setDir e).fwAcc = s.fwAcc := rfl
@[simp] theorem State.setDir_fwVer (s : State) (e : DirEntry) : (s.setDir e).fwVer = s.fwVer := rfl
@[simp] theorem State.setDir_time (s : State) (e : DirEntry) : (s.setDir e).time = s.time := rfl
@[simp] theorem State.setDir_regions (s : State) (e : DirEntry) : (s.setDir e).regions = s.regions := rfl
@[simp] theorem State.setDir_requests (s : State) (e : DirEntry) : (s.setDir e).requests = s.requests := rfl
@[simp] theorem State.setDir_pageReqs (s : State) (e : DirEntry) : (s.setDir e).pageReqs = s.pageReqs := rfl
@[simp] theorem State.setDir_reqSeq (s : State) (e : DirEntry) : (s.setDir e).reqSeq = s.reqSeq := rfl
@[simp] theorem State.setDir_events (s : State) (e : DirEntry) : (s.setDir e).events = s.events := rfl
@[simp] theorem State.setDir_eventNo (s : State) (e : DirEntry) : (s.setDir e).eventNo = s.eventNo := rfl
@[simp] theorem State.setDir_eventWait (s : State) (e : DirEntry) : (s.setDir e).eventWait = s.eventWait := rfl
@[simp] theorem State.setDir_dropped (s : State) (e : DirEntry) : (s.setDir e).dropped = s.dropped := rfl
@[simp] theorem State.setDir_spares (s : State) (e : DirEntry) : (s.setDir e).spares = s.spares := rfl
@[simp] theorem State.setDir_tiles (s : State) (e : DirEntry) : (s.setDir e).tiles = s.tiles := rfl
@[simp] theorem State.setDir_matops (s : State) (e : DirEntry) : (s.setDir e).matops = s.matops := rfl
@[simp] theorem State.setDir_cmds (s : State) (e : DirEntry) : (s.setDir e).cmds = s.cmds := rfl
@[simp] theorem State.setDir_rx (s : State) (e : DirEntry) : (s.setDir e).rx = s.rx := rfl
@[simp] theorem State.setDir_serves (s : State) (e : DirEntry) : (s.setDir e).serves = s.serves := rfl
@[simp] theorem State.setDir_sweepOut (s : State) (e : DirEntry) : (s.setDir e).sweepOut = s.sweepOut := rfl
@[simp] theorem State.setDir_hlc (s : State) (e : DirEntry) : (s.setDir e).hlc = s.hlc := rfl
@[simp] theorem State.setDir_biasHost (s : State) (e : DirEntry) : (s.setDir e).biasHost = s.biasHost := rfl
@[simp] theorem State.setDir_flips (s : State) (e : DirEntry) : (s.setDir e).flips = s.flips := rfl
@[simp] theorem State.setDir_reading (s : State) (e : DirEntry) : (s.setDir e).reading = s.reading := rfl
@[simp] theorem State.setDir_cxlOut (s : State) (e : DirEntry) : (s.setDir e).cxlOut = s.cxlOut := rfl
@[simp] theorem State.setDir_granted (s : State) (e : DirEntry) : (s.setDir e).granted = s.granted := rfl
@[simp] theorem State.setDir_lostPools (s : State) (e : DirEntry) : (s.setDir e).lostPools = s.lostPools := rfl
@[simp] theorem State.setDir_atsWait (s : State) (e : DirEntry) : (s.setDir e).atsWait = s.atsWait := rfl
@[simp] theorem State.setDir_atsDone (s : State) (e : DirEntry) : (s.setDir e).atsDone = s.atsDone := rfl
@[simp] theorem State.setDir_portWidth (s : State) (e : DirEntry) : (s.setDir e).portWidth = s.portWidth := rfl
@[simp] theorem State.setDir_ring (s : State) (e : DirEntry) : (s.setDir e).ring = s.ring := rfl
@[simp] theorem State.setDir_ergs (s : State) (e : DirEntry) : (s.setDir e).ergs = s.ergs := rfl
@[simp] theorem State.setDir_pending (s : State) (e : DirEntry) : (s.setDir e).pending = s.pending := rfl
@[simp] theorem State.setDir_links (s : State) (e : DirEntry) : (s.setDir e).links = s.links := rfl
@[simp] theorem State.setDir_routes (s : State) (e : DirEntry) : (s.setDir e).routes = s.routes := rfl
@[simp] theorem State.setDir_served (s : State) (e : DirEntry) : (s.setDir e).served = s.served := rfl
@[simp] theorem State.setDir_excluded (s : State) (e : DirEntry) : (s.setDir e).excluded = s.excluded := rfl
@[simp] theorem State.setDir_lasers (s : State) (e : DirEntry) : (s.setDir e).lasers = s.lasers := rfl
@[simp] theorem State.setDir_drawInt (s : State) (e : DirEntry) : (s.setDir e).drawInt = s.drawInt := rfl
@[simp] theorem State.setDir_drawHyst (s : State) (e : DirEntry) : (s.setDir e).drawHyst = s.drawHyst := rfl
@[simp] theorem State.setDir_fresh (s : State) (e : DirEntry) : (s.setDir e).fresh = s.fresh := rfl
@[simp] theorem State.setDir_cur (s : State) (e : DirEntry) : (s.setDir e).cur = s.cur := rfl
@[simp] theorem State.setDir_issueQ (s : State) (e : DirEntry) : (s.setDir e).issueQ = s.issueQ := rfl
@[simp] theorem State.setDir_inbox (s : State) (e : DirEntry) : (s.setDir e).inbox = s.inbox := rfl

/-! ## State.setTile -/

@[simp] theorem State.setTile_crews (s : State) (x : Tile) : (s.setTile x).crews = s.crews := rfl
@[simp] theorem State.setTile_squads (s : State) (x : Tile) : (s.setTile x).squads = s.squads := rfl
@[simp] theorem State.setTile_grids (s : State) (x : Tile) : (s.setTile x).grids = s.grids := rfl
@[simp] theorem State.setTile_gridSeq (s : State) (x : Tile) : (s.setTile x).gridSeq = s.gridSeq := rfl
@[simp] theorem State.setTile_held (s : State) (x : Tile) : (s.setTile x).held = s.held := rfl
@[simp] theorem State.setTile_launches (s : State) (x : Tile) : (s.setTile x).launches = s.launches := rfl
@[simp] theorem State.setTile_tasks (s : State) (x : Tile) : (s.setTile x).tasks = s.tasks := rfl
@[simp] theorem State.setTile_taskSeq (s : State) (x : Tile) : (s.setTile x).taskSeq = s.taskSeq := rfl
@[simp] theorem State.setTile_saved (s : State) (x : Tile) : (s.setTile x).saved = s.saved := rfl
@[simp] theorem State.setTile_arrived (s : State) (x : Tile) : (s.setTile x).arrived = s.arrived := rfl
@[simp] theorem State.setTile_boats (s : State) (x : Tile) : (s.setTile x).boats = s.boats := rfl
@[simp] theorem State.setTile_boatOut (s : State) (x : Tile) : (s.setTile x).boatOut = s.boatOut := rfl
@[simp] theorem State.setTile_lq (s : State) (x : Tile) : (s.setTile x).lq = s.lq := rfl
@[simp] theorem State.setTile_lqCount (s : State) (x : Tile) : (s.setTile x).lqCount = s.lqCount := rfl
@[simp] theorem State.setTile_lqWait (s : State) (x : Tile) : (s.setTile x).lqWait = s.lqWait := rfl
@[simp] theorem State.setTile_deck (s : State) (x : Tile) : (s.setTile x).deck = s.deck := rfl
@[simp] theorem State.setTile_hbm (s : State) (x : Tile) : (s.setTile x).hbm = s.hbm := rfl
@[simp] theorem State.setTile_host (s : State) (x : Tile) : (s.setTile x).host = s.host := rfl
@[simp] theorem State.setTile_pool (s : State) (x : Tile) : (s.setTile x).pool = s.pool := rfl
@[simp] theorem State.setTile_skm (s : State) (x : Tile) : (s.setTile x).skm = s.skm := rfl
@[simp] theorem State.setTile_hbmPoison (s : State) (x : Tile) : (s.setTile x).hbmPoison = s.hbmPoison := rfl
@[simp] theorem State.setTile_dir (s : State) (x : Tile) : (s.setTile x).dir = s.dir := rfl
@[simp] theorem State.setTile_copies (s : State) (x : Tile) : (s.setTile x).copies = s.copies := rfl
@[simp] theorem State.setTile_plain (s : State) (x : Tile) : (s.setTile x).plain = s.plain := rfl
@[simp] theorem State.setTile_notices (s : State) (x : Tile) : (s.setTile x).notices = s.notices := rfl
@[simp] theorem State.setTile_writes (s : State) (x : Tile) : (s.setTile x).writes = s.writes := rfl
@[simp] theorem State.setTile_msgs (s : State) (x : Tile) : (s.setTile x).msgs = s.msgs := rfl
@[simp] theorem State.setTile_acks (s : State) (x : Tile) : (s.setTile x).acks = s.acks := rfl
@[simp] theorem State.setTile_notes (s : State) (x : Tile) : (s.setTile x).notes = s.notes := rfl
@[simp] theorem State.setTile_counts (s : State) (x : Tile) : (s.setTile x).counts = s.counts := rfl
@[simp] theorem State.setTile_tlb (s : State) (x : Tile) : (s.setTile x).tlb = s.tlb := rfl
@[simp] theorem State.setTile_walkCache (s : State) (x : Tile) : (s.setTile x).walkCache = s.walkCache := rfl
@[simp] theorem State.setTile_ctxs (s : State) (x : Tile) : (s.setTile x).ctxs = s.ctxs := rfl
@[simp] theorem State.setTile_dev (s : State) (x : Tile) : (s.setTile x).dev = s.dev := rfl
@[simp] theorem State.setTile_spared (s : State) (x : Tile) : (s.setTile x).spared = s.spared := rfl
@[simp] theorem State.setTile_fwOk (s : State) (x : Tile) : (s.setTile x).fwOk = s.fwOk := rfl
@[simp] theorem State.setTile_coresUp (s : State) (x : Tile) : (s.setTile x).coresUp = s.coresUp := rfl
@[simp] theorem State.setTile_hbmUp (s : State) (x : Tile) : (s.setTile x).hbmUp = s.hbmUp := rfl
@[simp] theorem State.setTile_tested (s : State) (x : Tile) : (s.setTile x).tested = s.tested := rfl
@[simp] theorem State.setTile_schedAge (s : State) (x : Tile) : (s.setTile x).schedAge = s.schedAge := rfl
@[simp] theorem State.setTile_clkCtl (s : State) (x : Tile) : (s.setTile x).clkCtl = s.clkCtl := rfl
@[simp] theorem State.setTile_fwEcdsa (s : State) (x : Tile) : (s.setTile x).fwEcdsa = s.fwEcdsa := rfl
@[simp] theorem State.setTile_fwLms (s : State) (x : Tile) : (s.setTile x).fwLms = s.fwLms := rfl
@[simp] theorem State.setTile_fwAcc (s : State) (x : Tile) : (s.setTile x).fwAcc = s.fwAcc := rfl
@[simp] theorem State.setTile_fwVer (s : State) (x : Tile) : (s.setTile x).fwVer = s.fwVer := rfl
@[simp] theorem State.setTile_time (s : State) (x : Tile) : (s.setTile x).time = s.time := rfl
@[simp] theorem State.setTile_regions (s : State) (x : Tile) : (s.setTile x).regions = s.regions := rfl
@[simp] theorem State.setTile_requests (s : State) (x : Tile) : (s.setTile x).requests = s.requests := rfl
@[simp] theorem State.setTile_pageReqs (s : State) (x : Tile) : (s.setTile x).pageReqs = s.pageReqs := rfl
@[simp] theorem State.setTile_reqSeq (s : State) (x : Tile) : (s.setTile x).reqSeq = s.reqSeq := rfl
@[simp] theorem State.setTile_events (s : State) (x : Tile) : (s.setTile x).events = s.events := rfl
@[simp] theorem State.setTile_eventNo (s : State) (x : Tile) : (s.setTile x).eventNo = s.eventNo := rfl
@[simp] theorem State.setTile_eventWait (s : State) (x : Tile) : (s.setTile x).eventWait = s.eventWait := rfl
@[simp] theorem State.setTile_dropped (s : State) (x : Tile) : (s.setTile x).dropped = s.dropped := rfl
@[simp] theorem State.setTile_spares (s : State) (x : Tile) : (s.setTile x).spares = s.spares := rfl
@[simp] theorem State.setTile_matops (s : State) (x : Tile) : (s.setTile x).matops = s.matops := rfl
@[simp] theorem State.setTile_cmds (s : State) (x : Tile) : (s.setTile x).cmds = s.cmds := rfl
@[simp] theorem State.setTile_rx (s : State) (x : Tile) : (s.setTile x).rx = s.rx := rfl
@[simp] theorem State.setTile_serves (s : State) (x : Tile) : (s.setTile x).serves = s.serves := rfl
@[simp] theorem State.setTile_sweepOut (s : State) (x : Tile) : (s.setTile x).sweepOut = s.sweepOut := rfl
@[simp] theorem State.setTile_hlc (s : State) (x : Tile) : (s.setTile x).hlc = s.hlc := rfl
@[simp] theorem State.setTile_biasHost (s : State) (x : Tile) : (s.setTile x).biasHost = s.biasHost := rfl
@[simp] theorem State.setTile_flips (s : State) (x : Tile) : (s.setTile x).flips = s.flips := rfl
@[simp] theorem State.setTile_reading (s : State) (x : Tile) : (s.setTile x).reading = s.reading := rfl
@[simp] theorem State.setTile_cxlOut (s : State) (x : Tile) : (s.setTile x).cxlOut = s.cxlOut := rfl
@[simp] theorem State.setTile_granted (s : State) (x : Tile) : (s.setTile x).granted = s.granted := rfl
@[simp] theorem State.setTile_lostPools (s : State) (x : Tile) : (s.setTile x).lostPools = s.lostPools := rfl
@[simp] theorem State.setTile_atsWait (s : State) (x : Tile) : (s.setTile x).atsWait = s.atsWait := rfl
@[simp] theorem State.setTile_atsDone (s : State) (x : Tile) : (s.setTile x).atsDone = s.atsDone := rfl
@[simp] theorem State.setTile_portWidth (s : State) (x : Tile) : (s.setTile x).portWidth = s.portWidth := rfl
@[simp] theorem State.setTile_ring (s : State) (x : Tile) : (s.setTile x).ring = s.ring := rfl
@[simp] theorem State.setTile_ergs (s : State) (x : Tile) : (s.setTile x).ergs = s.ergs := rfl
@[simp] theorem State.setTile_pending (s : State) (x : Tile) : (s.setTile x).pending = s.pending := rfl
@[simp] theorem State.setTile_links (s : State) (x : Tile) : (s.setTile x).links = s.links := rfl
@[simp] theorem State.setTile_routes (s : State) (x : Tile) : (s.setTile x).routes = s.routes := rfl
@[simp] theorem State.setTile_served (s : State) (x : Tile) : (s.setTile x).served = s.served := rfl
@[simp] theorem State.setTile_excluded (s : State) (x : Tile) : (s.setTile x).excluded = s.excluded := rfl
@[simp] theorem State.setTile_lasers (s : State) (x : Tile) : (s.setTile x).lasers = s.lasers := rfl
@[simp] theorem State.setTile_drawInt (s : State) (x : Tile) : (s.setTile x).drawInt = s.drawInt := rfl
@[simp] theorem State.setTile_drawHyst (s : State) (x : Tile) : (s.setTile x).drawHyst = s.drawHyst := rfl
@[simp] theorem State.setTile_fresh (s : State) (x : Tile) : (s.setTile x).fresh = s.fresh := rfl
@[simp] theorem State.setTile_cur (s : State) (x : Tile) : (s.setTile x).cur = s.cur := rfl
@[simp] theorem State.setTile_issueQ (s : State) (x : Tile) : (s.setTile x).issueQ = s.issueQ := rfl
@[simp] theorem State.setTile_inbox (s : State) (x : Tile) : (s.setTile x).inbox = s.inbox := rfl

/-! ## State.setErg -/

@[simp] theorem State.setErg_crews (s : State) (e : ErgSlot) : (s.setErg e).crews = s.crews := rfl
@[simp] theorem State.setErg_squads (s : State) (e : ErgSlot) : (s.setErg e).squads = s.squads := rfl
@[simp] theorem State.setErg_grids (s : State) (e : ErgSlot) : (s.setErg e).grids = s.grids := rfl
@[simp] theorem State.setErg_gridSeq (s : State) (e : ErgSlot) : (s.setErg e).gridSeq = s.gridSeq := rfl
@[simp] theorem State.setErg_held (s : State) (e : ErgSlot) : (s.setErg e).held = s.held := rfl
@[simp] theorem State.setErg_launches (s : State) (e : ErgSlot) : (s.setErg e).launches = s.launches := rfl
@[simp] theorem State.setErg_tasks (s : State) (e : ErgSlot) : (s.setErg e).tasks = s.tasks := rfl
@[simp] theorem State.setErg_taskSeq (s : State) (e : ErgSlot) : (s.setErg e).taskSeq = s.taskSeq := rfl
@[simp] theorem State.setErg_saved (s : State) (e : ErgSlot) : (s.setErg e).saved = s.saved := rfl
@[simp] theorem State.setErg_arrived (s : State) (e : ErgSlot) : (s.setErg e).arrived = s.arrived := rfl
@[simp] theorem State.setErg_boats (s : State) (e : ErgSlot) : (s.setErg e).boats = s.boats := rfl
@[simp] theorem State.setErg_boatOut (s : State) (e : ErgSlot) : (s.setErg e).boatOut = s.boatOut := rfl
@[simp] theorem State.setErg_lq (s : State) (e : ErgSlot) : (s.setErg e).lq = s.lq := rfl
@[simp] theorem State.setErg_lqCount (s : State) (e : ErgSlot) : (s.setErg e).lqCount = s.lqCount := rfl
@[simp] theorem State.setErg_lqWait (s : State) (e : ErgSlot) : (s.setErg e).lqWait = s.lqWait := rfl
@[simp] theorem State.setErg_deck (s : State) (e : ErgSlot) : (s.setErg e).deck = s.deck := rfl
@[simp] theorem State.setErg_hbm (s : State) (e : ErgSlot) : (s.setErg e).hbm = s.hbm := rfl
@[simp] theorem State.setErg_host (s : State) (e : ErgSlot) : (s.setErg e).host = s.host := rfl
@[simp] theorem State.setErg_pool (s : State) (e : ErgSlot) : (s.setErg e).pool = s.pool := rfl
@[simp] theorem State.setErg_skm (s : State) (e : ErgSlot) : (s.setErg e).skm = s.skm := rfl
@[simp] theorem State.setErg_hbmPoison (s : State) (e : ErgSlot) : (s.setErg e).hbmPoison = s.hbmPoison := rfl
@[simp] theorem State.setErg_dir (s : State) (e : ErgSlot) : (s.setErg e).dir = s.dir := rfl
@[simp] theorem State.setErg_copies (s : State) (e : ErgSlot) : (s.setErg e).copies = s.copies := rfl
@[simp] theorem State.setErg_plain (s : State) (e : ErgSlot) : (s.setErg e).plain = s.plain := rfl
@[simp] theorem State.setErg_notices (s : State) (e : ErgSlot) : (s.setErg e).notices = s.notices := rfl
@[simp] theorem State.setErg_writes (s : State) (e : ErgSlot) : (s.setErg e).writes = s.writes := rfl
@[simp] theorem State.setErg_msgs (s : State) (e : ErgSlot) : (s.setErg e).msgs = s.msgs := rfl
@[simp] theorem State.setErg_acks (s : State) (e : ErgSlot) : (s.setErg e).acks = s.acks := rfl
@[simp] theorem State.setErg_notes (s : State) (e : ErgSlot) : (s.setErg e).notes = s.notes := rfl
@[simp] theorem State.setErg_counts (s : State) (e : ErgSlot) : (s.setErg e).counts = s.counts := rfl
@[simp] theorem State.setErg_tlb (s : State) (e : ErgSlot) : (s.setErg e).tlb = s.tlb := rfl
@[simp] theorem State.setErg_walkCache (s : State) (e : ErgSlot) : (s.setErg e).walkCache = s.walkCache := rfl
@[simp] theorem State.setErg_ctxs (s : State) (e : ErgSlot) : (s.setErg e).ctxs = s.ctxs := rfl
@[simp] theorem State.setErg_dev (s : State) (e : ErgSlot) : (s.setErg e).dev = s.dev := rfl
@[simp] theorem State.setErg_spared (s : State) (e : ErgSlot) : (s.setErg e).spared = s.spared := rfl
@[simp] theorem State.setErg_fwOk (s : State) (e : ErgSlot) : (s.setErg e).fwOk = s.fwOk := rfl
@[simp] theorem State.setErg_coresUp (s : State) (e : ErgSlot) : (s.setErg e).coresUp = s.coresUp := rfl
@[simp] theorem State.setErg_hbmUp (s : State) (e : ErgSlot) : (s.setErg e).hbmUp = s.hbmUp := rfl
@[simp] theorem State.setErg_tested (s : State) (e : ErgSlot) : (s.setErg e).tested = s.tested := rfl
@[simp] theorem State.setErg_schedAge (s : State) (e : ErgSlot) : (s.setErg e).schedAge = s.schedAge := rfl
@[simp] theorem State.setErg_clkCtl (s : State) (e : ErgSlot) : (s.setErg e).clkCtl = s.clkCtl := rfl
@[simp] theorem State.setErg_fwEcdsa (s : State) (e : ErgSlot) : (s.setErg e).fwEcdsa = s.fwEcdsa := rfl
@[simp] theorem State.setErg_fwLms (s : State) (e : ErgSlot) : (s.setErg e).fwLms = s.fwLms := rfl
@[simp] theorem State.setErg_fwAcc (s : State) (e : ErgSlot) : (s.setErg e).fwAcc = s.fwAcc := rfl
@[simp] theorem State.setErg_fwVer (s : State) (e : ErgSlot) : (s.setErg e).fwVer = s.fwVer := rfl
@[simp] theorem State.setErg_time (s : State) (e : ErgSlot) : (s.setErg e).time = s.time := rfl
@[simp] theorem State.setErg_regions (s : State) (e : ErgSlot) : (s.setErg e).regions = s.regions := rfl
@[simp] theorem State.setErg_requests (s : State) (e : ErgSlot) : (s.setErg e).requests = s.requests := rfl
@[simp] theorem State.setErg_pageReqs (s : State) (e : ErgSlot) : (s.setErg e).pageReqs = s.pageReqs := rfl
@[simp] theorem State.setErg_reqSeq (s : State) (e : ErgSlot) : (s.setErg e).reqSeq = s.reqSeq := rfl
@[simp] theorem State.setErg_events (s : State) (e : ErgSlot) : (s.setErg e).events = s.events := rfl
@[simp] theorem State.setErg_eventNo (s : State) (e : ErgSlot) : (s.setErg e).eventNo = s.eventNo := rfl
@[simp] theorem State.setErg_eventWait (s : State) (e : ErgSlot) : (s.setErg e).eventWait = s.eventWait := rfl
@[simp] theorem State.setErg_dropped (s : State) (e : ErgSlot) : (s.setErg e).dropped = s.dropped := rfl
@[simp] theorem State.setErg_spares (s : State) (e : ErgSlot) : (s.setErg e).spares = s.spares := rfl
@[simp] theorem State.setErg_tiles (s : State) (e : ErgSlot) : (s.setErg e).tiles = s.tiles := rfl
@[simp] theorem State.setErg_matops (s : State) (e : ErgSlot) : (s.setErg e).matops = s.matops := rfl
@[simp] theorem State.setErg_cmds (s : State) (e : ErgSlot) : (s.setErg e).cmds = s.cmds := rfl
@[simp] theorem State.setErg_rx (s : State) (e : ErgSlot) : (s.setErg e).rx = s.rx := rfl
@[simp] theorem State.setErg_serves (s : State) (e : ErgSlot) : (s.setErg e).serves = s.serves := rfl
@[simp] theorem State.setErg_sweepOut (s : State) (e : ErgSlot) : (s.setErg e).sweepOut = s.sweepOut := rfl
@[simp] theorem State.setErg_hlc (s : State) (e : ErgSlot) : (s.setErg e).hlc = s.hlc := rfl
@[simp] theorem State.setErg_biasHost (s : State) (e : ErgSlot) : (s.setErg e).biasHost = s.biasHost := rfl
@[simp] theorem State.setErg_flips (s : State) (e : ErgSlot) : (s.setErg e).flips = s.flips := rfl
@[simp] theorem State.setErg_reading (s : State) (e : ErgSlot) : (s.setErg e).reading = s.reading := rfl
@[simp] theorem State.setErg_cxlOut (s : State) (e : ErgSlot) : (s.setErg e).cxlOut = s.cxlOut := rfl
@[simp] theorem State.setErg_granted (s : State) (e : ErgSlot) : (s.setErg e).granted = s.granted := rfl
@[simp] theorem State.setErg_lostPools (s : State) (e : ErgSlot) : (s.setErg e).lostPools = s.lostPools := rfl
@[simp] theorem State.setErg_atsWait (s : State) (e : ErgSlot) : (s.setErg e).atsWait = s.atsWait := rfl
@[simp] theorem State.setErg_atsDone (s : State) (e : ErgSlot) : (s.setErg e).atsDone = s.atsDone := rfl
@[simp] theorem State.setErg_portWidth (s : State) (e : ErgSlot) : (s.setErg e).portWidth = s.portWidth := rfl
@[simp] theorem State.setErg_ring (s : State) (e : ErgSlot) : (s.setErg e).ring = s.ring := rfl
@[simp] theorem State.setErg_pending (s : State) (e : ErgSlot) : (s.setErg e).pending = s.pending := rfl
@[simp] theorem State.setErg_links (s : State) (e : ErgSlot) : (s.setErg e).links = s.links := rfl
@[simp] theorem State.setErg_routes (s : State) (e : ErgSlot) : (s.setErg e).routes = s.routes := rfl
@[simp] theorem State.setErg_served (s : State) (e : ErgSlot) : (s.setErg e).served = s.served := rfl
@[simp] theorem State.setErg_excluded (s : State) (e : ErgSlot) : (s.setErg e).excluded = s.excluded := rfl
@[simp] theorem State.setErg_lasers (s : State) (e : ErgSlot) : (s.setErg e).lasers = s.lasers := rfl
@[simp] theorem State.setErg_drawInt (s : State) (e : ErgSlot) : (s.setErg e).drawInt = s.drawInt := rfl
@[simp] theorem State.setErg_drawHyst (s : State) (e : ErgSlot) : (s.setErg e).drawHyst = s.drawHyst := rfl
@[simp] theorem State.setErg_fresh (s : State) (e : ErgSlot) : (s.setErg e).fresh = s.fresh := rfl
@[simp] theorem State.setErg_cur (s : State) (e : ErgSlot) : (s.setErg e).cur = s.cur := rfl
@[simp] theorem State.setErg_issueQ (s : State) (e : ErgSlot) : (s.setErg e).issueQ = s.issueQ := rfl
@[simp] theorem State.setErg_inbox (s : State) (e : ErgSlot) : (s.setErg e).inbox = s.inbox := rfl

/-! ## State.done -/

@[simp] theorem State.done_squads (s : State) (i : Instr) (c : Crew) (a : Lanes) : (s.done i c a).squads = s.squads := rfl
@[simp] theorem State.done_grids (s : State) (i : Instr) (c : Crew) (a : Lanes) : (s.done i c a).grids = s.grids := rfl
@[simp] theorem State.done_gridSeq (s : State) (i : Instr) (c : Crew) (a : Lanes) : (s.done i c a).gridSeq = s.gridSeq := rfl
@[simp] theorem State.done_held (s : State) (i : Instr) (c : Crew) (a : Lanes) : (s.done i c a).held = s.held := rfl
@[simp] theorem State.done_launches (s : State) (i : Instr) (c : Crew) (a : Lanes) : (s.done i c a).launches = s.launches := rfl
@[simp] theorem State.done_tasks (s : State) (i : Instr) (c : Crew) (a : Lanes) : (s.done i c a).tasks = s.tasks := rfl
@[simp] theorem State.done_taskSeq (s : State) (i : Instr) (c : Crew) (a : Lanes) : (s.done i c a).taskSeq = s.taskSeq := rfl
@[simp] theorem State.done_saved (s : State) (i : Instr) (c : Crew) (a : Lanes) : (s.done i c a).saved = s.saved := rfl
@[simp] theorem State.done_arrived (s : State) (i : Instr) (c : Crew) (a : Lanes) : (s.done i c a).arrived = s.arrived := rfl
@[simp] theorem State.done_boats (s : State) (i : Instr) (c : Crew) (a : Lanes) : (s.done i c a).boats = s.boats := rfl
@[simp] theorem State.done_boatOut (s : State) (i : Instr) (c : Crew) (a : Lanes) : (s.done i c a).boatOut = s.boatOut := rfl
@[simp] theorem State.done_lq (s : State) (i : Instr) (c : Crew) (a : Lanes) : (s.done i c a).lq = s.lq := rfl
@[simp] theorem State.done_lqCount (s : State) (i : Instr) (c : Crew) (a : Lanes) : (s.done i c a).lqCount = s.lqCount := rfl
@[simp] theorem State.done_lqWait (s : State) (i : Instr) (c : Crew) (a : Lanes) : (s.done i c a).lqWait = s.lqWait := rfl
@[simp] theorem State.done_deck (s : State) (i : Instr) (c : Crew) (a : Lanes) : (s.done i c a).deck = s.deck := rfl
@[simp] theorem State.done_hbm (s : State) (i : Instr) (c : Crew) (a : Lanes) : (s.done i c a).hbm = s.hbm := rfl
@[simp] theorem State.done_host (s : State) (i : Instr) (c : Crew) (a : Lanes) : (s.done i c a).host = s.host := rfl
@[simp] theorem State.done_pool (s : State) (i : Instr) (c : Crew) (a : Lanes) : (s.done i c a).pool = s.pool := rfl
@[simp] theorem State.done_skm (s : State) (i : Instr) (c : Crew) (a : Lanes) : (s.done i c a).skm = s.skm := rfl
@[simp] theorem State.done_hbmPoison (s : State) (i : Instr) (c : Crew) (a : Lanes) : (s.done i c a).hbmPoison = s.hbmPoison := rfl
@[simp] theorem State.done_dir (s : State) (i : Instr) (c : Crew) (a : Lanes) : (s.done i c a).dir = s.dir := rfl
@[simp] theorem State.done_copies (s : State) (i : Instr) (c : Crew) (a : Lanes) : (s.done i c a).copies = s.copies := rfl
@[simp] theorem State.done_plain (s : State) (i : Instr) (c : Crew) (a : Lanes) : (s.done i c a).plain = s.plain := rfl
@[simp] theorem State.done_notices (s : State) (i : Instr) (c : Crew) (a : Lanes) : (s.done i c a).notices = s.notices := rfl
@[simp] theorem State.done_writes (s : State) (i : Instr) (c : Crew) (a : Lanes) : (s.done i c a).writes = s.writes := rfl
@[simp] theorem State.done_msgs (s : State) (i : Instr) (c : Crew) (a : Lanes) : (s.done i c a).msgs = s.msgs := rfl
@[simp] theorem State.done_acks (s : State) (i : Instr) (c : Crew) (a : Lanes) : (s.done i c a).acks = s.acks := rfl
@[simp] theorem State.done_notes (s : State) (i : Instr) (c : Crew) (a : Lanes) : (s.done i c a).notes = s.notes := rfl
@[simp] theorem State.done_counts (s : State) (i : Instr) (c : Crew) (a : Lanes) : (s.done i c a).counts = s.counts := rfl
@[simp] theorem State.done_tlb (s : State) (i : Instr) (c : Crew) (a : Lanes) : (s.done i c a).tlb = s.tlb := rfl
@[simp] theorem State.done_walkCache (s : State) (i : Instr) (c : Crew) (a : Lanes) : (s.done i c a).walkCache = s.walkCache := rfl
@[simp] theorem State.done_ctxs (s : State) (i : Instr) (c : Crew) (a : Lanes) : (s.done i c a).ctxs = s.ctxs := rfl
@[simp] theorem State.done_dev (s : State) (i : Instr) (c : Crew) (a : Lanes) : (s.done i c a).dev = s.dev := rfl
@[simp] theorem State.done_spared (s : State) (i : Instr) (c : Crew) (a : Lanes) : (s.done i c a).spared = s.spared := rfl
@[simp] theorem State.done_fwOk (s : State) (i : Instr) (c : Crew) (a : Lanes) : (s.done i c a).fwOk = s.fwOk := rfl
@[simp] theorem State.done_coresUp (s : State) (i : Instr) (c : Crew) (a : Lanes) : (s.done i c a).coresUp = s.coresUp := rfl
@[simp] theorem State.done_hbmUp (s : State) (i : Instr) (c : Crew) (a : Lanes) : (s.done i c a).hbmUp = s.hbmUp := rfl
@[simp] theorem State.done_tested (s : State) (i : Instr) (c : Crew) (a : Lanes) : (s.done i c a).tested = s.tested := rfl
@[simp] theorem State.done_schedAge (s : State) (i : Instr) (c : Crew) (a : Lanes) : (s.done i c a).schedAge = s.schedAge := rfl
@[simp] theorem State.done_clkCtl (s : State) (i : Instr) (c : Crew) (a : Lanes) : (s.done i c a).clkCtl = s.clkCtl := rfl
@[simp] theorem State.done_fwEcdsa (s : State) (i : Instr) (c : Crew) (a : Lanes) : (s.done i c a).fwEcdsa = s.fwEcdsa := rfl
@[simp] theorem State.done_fwLms (s : State) (i : Instr) (c : Crew) (a : Lanes) : (s.done i c a).fwLms = s.fwLms := rfl
@[simp] theorem State.done_fwAcc (s : State) (i : Instr) (c : Crew) (a : Lanes) : (s.done i c a).fwAcc = s.fwAcc := rfl
@[simp] theorem State.done_fwVer (s : State) (i : Instr) (c : Crew) (a : Lanes) : (s.done i c a).fwVer = s.fwVer := rfl
@[simp] theorem State.done_time (s : State) (i : Instr) (c : Crew) (a : Lanes) : (s.done i c a).time = s.time := rfl
@[simp] theorem State.done_regions (s : State) (i : Instr) (c : Crew) (a : Lanes) : (s.done i c a).regions = s.regions := rfl
@[simp] theorem State.done_requests (s : State) (i : Instr) (c : Crew) (a : Lanes) : (s.done i c a).requests = s.requests := rfl
@[simp] theorem State.done_pageReqs (s : State) (i : Instr) (c : Crew) (a : Lanes) : (s.done i c a).pageReqs = s.pageReqs := rfl
@[simp] theorem State.done_reqSeq (s : State) (i : Instr) (c : Crew) (a : Lanes) : (s.done i c a).reqSeq = s.reqSeq := rfl
@[simp] theorem State.done_events (s : State) (i : Instr) (c : Crew) (a : Lanes) : (s.done i c a).events = s.events := rfl
@[simp] theorem State.done_eventNo (s : State) (i : Instr) (c : Crew) (a : Lanes) : (s.done i c a).eventNo = s.eventNo := rfl
@[simp] theorem State.done_eventWait (s : State) (i : Instr) (c : Crew) (a : Lanes) : (s.done i c a).eventWait = s.eventWait := rfl
@[simp] theorem State.done_dropped (s : State) (i : Instr) (c : Crew) (a : Lanes) : (s.done i c a).dropped = s.dropped := rfl
@[simp] theorem State.done_spares (s : State) (i : Instr) (c : Crew) (a : Lanes) : (s.done i c a).spares = s.spares := rfl
@[simp] theorem State.done_tiles (s : State) (i : Instr) (c : Crew) (a : Lanes) : (s.done i c a).tiles = s.tiles := rfl
@[simp] theorem State.done_matops (s : State) (i : Instr) (c : Crew) (a : Lanes) : (s.done i c a).matops = s.matops := rfl
@[simp] theorem State.done_cmds (s : State) (i : Instr) (c : Crew) (a : Lanes) : (s.done i c a).cmds = s.cmds := rfl
@[simp] theorem State.done_rx (s : State) (i : Instr) (c : Crew) (a : Lanes) : (s.done i c a).rx = s.rx := rfl
@[simp] theorem State.done_serves (s : State) (i : Instr) (c : Crew) (a : Lanes) : (s.done i c a).serves = s.serves := rfl
@[simp] theorem State.done_sweepOut (s : State) (i : Instr) (c : Crew) (a : Lanes) : (s.done i c a).sweepOut = s.sweepOut := rfl
@[simp] theorem State.done_hlc (s : State) (i : Instr) (c : Crew) (a : Lanes) : (s.done i c a).hlc = s.hlc := rfl
@[simp] theorem State.done_biasHost (s : State) (i : Instr) (c : Crew) (a : Lanes) : (s.done i c a).biasHost = s.biasHost := rfl
@[simp] theorem State.done_flips (s : State) (i : Instr) (c : Crew) (a : Lanes) : (s.done i c a).flips = s.flips := rfl
@[simp] theorem State.done_reading (s : State) (i : Instr) (c : Crew) (a : Lanes) : (s.done i c a).reading = s.reading := rfl
@[simp] theorem State.done_cxlOut (s : State) (i : Instr) (c : Crew) (a : Lanes) : (s.done i c a).cxlOut = s.cxlOut := rfl
@[simp] theorem State.done_granted (s : State) (i : Instr) (c : Crew) (a : Lanes) : (s.done i c a).granted = s.granted := rfl
@[simp] theorem State.done_lostPools (s : State) (i : Instr) (c : Crew) (a : Lanes) : (s.done i c a).lostPools = s.lostPools := rfl
@[simp] theorem State.done_atsWait (s : State) (i : Instr) (c : Crew) (a : Lanes) : (s.done i c a).atsWait = s.atsWait := rfl
@[simp] theorem State.done_atsDone (s : State) (i : Instr) (c : Crew) (a : Lanes) : (s.done i c a).atsDone = s.atsDone := rfl
@[simp] theorem State.done_portWidth (s : State) (i : Instr) (c : Crew) (a : Lanes) : (s.done i c a).portWidth = s.portWidth := rfl
@[simp] theorem State.done_ring (s : State) (i : Instr) (c : Crew) (a : Lanes) : (s.done i c a).ring = s.ring := rfl
@[simp] theorem State.done_ergs (s : State) (i : Instr) (c : Crew) (a : Lanes) : (s.done i c a).ergs = s.ergs := rfl
@[simp] theorem State.done_pending (s : State) (i : Instr) (c : Crew) (a : Lanes) : (s.done i c a).pending = s.pending := rfl
@[simp] theorem State.done_links (s : State) (i : Instr) (c : Crew) (a : Lanes) : (s.done i c a).links = s.links := rfl
@[simp] theorem State.done_routes (s : State) (i : Instr) (c : Crew) (a : Lanes) : (s.done i c a).routes = s.routes := rfl
@[simp] theorem State.done_served (s : State) (i : Instr) (c : Crew) (a : Lanes) : (s.done i c a).served = s.served := rfl
@[simp] theorem State.done_excluded (s : State) (i : Instr) (c : Crew) (a : Lanes) : (s.done i c a).excluded = s.excluded := rfl
@[simp] theorem State.done_lasers (s : State) (i : Instr) (c : Crew) (a : Lanes) : (s.done i c a).lasers = s.lasers := rfl
@[simp] theorem State.done_drawInt (s : State) (i : Instr) (c : Crew) (a : Lanes) : (s.done i c a).drawInt = s.drawInt := rfl
@[simp] theorem State.done_drawHyst (s : State) (i : Instr) (c : Crew) (a : Lanes) : (s.done i c a).drawHyst = s.drawHyst := rfl
@[simp] theorem State.done_fresh (s : State) (i : Instr) (c : Crew) (a : Lanes) : (s.done i c a).fresh = s.fresh := rfl
@[simp] theorem State.done_cur (s : State) (i : Instr) (c : Crew) (a : Lanes) : (s.done i c a).cur = s.cur := rfl
@[simp] theorem State.done_issueQ (s : State) (i : Instr) (c : Crew) (a : Lanes) : (s.done i c a).issueQ = s.issueQ := rfl
@[simp] theorem State.done_inbox (s : State) (i : Instr) (c : Crew) (a : Lanes) : (s.done i c a).inbox = s.inbox := rfl

/-! ## State.waits -/

@[simp] theorem State.waits_squads (s : State) (c : Crew) (w : Wait) (a : Lanes) : (s.waits c w a).squads = s.squads := rfl
@[simp] theorem State.waits_grids (s : State) (c : Crew) (w : Wait) (a : Lanes) : (s.waits c w a).grids = s.grids := rfl
@[simp] theorem State.waits_gridSeq (s : State) (c : Crew) (w : Wait) (a : Lanes) : (s.waits c w a).gridSeq = s.gridSeq := rfl
@[simp] theorem State.waits_held (s : State) (c : Crew) (w : Wait) (a : Lanes) : (s.waits c w a).held = s.held := rfl
@[simp] theorem State.waits_launches (s : State) (c : Crew) (w : Wait) (a : Lanes) : (s.waits c w a).launches = s.launches := rfl
@[simp] theorem State.waits_tasks (s : State) (c : Crew) (w : Wait) (a : Lanes) : (s.waits c w a).tasks = s.tasks := rfl
@[simp] theorem State.waits_taskSeq (s : State) (c : Crew) (w : Wait) (a : Lanes) : (s.waits c w a).taskSeq = s.taskSeq := rfl
@[simp] theorem State.waits_saved (s : State) (c : Crew) (w : Wait) (a : Lanes) : (s.waits c w a).saved = s.saved := rfl
@[simp] theorem State.waits_arrived (s : State) (c : Crew) (w : Wait) (a : Lanes) : (s.waits c w a).arrived = s.arrived := rfl
@[simp] theorem State.waits_boats (s : State) (c : Crew) (w : Wait) (a : Lanes) : (s.waits c w a).boats = s.boats := rfl
@[simp] theorem State.waits_boatOut (s : State) (c : Crew) (w : Wait) (a : Lanes) : (s.waits c w a).boatOut = s.boatOut := rfl
@[simp] theorem State.waits_lq (s : State) (c : Crew) (w : Wait) (a : Lanes) : (s.waits c w a).lq = s.lq := rfl
@[simp] theorem State.waits_lqCount (s : State) (c : Crew) (w : Wait) (a : Lanes) : (s.waits c w a).lqCount = s.lqCount := rfl
@[simp] theorem State.waits_lqWait (s : State) (c : Crew) (w : Wait) (a : Lanes) : (s.waits c w a).lqWait = s.lqWait := rfl
@[simp] theorem State.waits_deck (s : State) (c : Crew) (w : Wait) (a : Lanes) : (s.waits c w a).deck = s.deck := rfl
@[simp] theorem State.waits_hbm (s : State) (c : Crew) (w : Wait) (a : Lanes) : (s.waits c w a).hbm = s.hbm := rfl
@[simp] theorem State.waits_host (s : State) (c : Crew) (w : Wait) (a : Lanes) : (s.waits c w a).host = s.host := rfl
@[simp] theorem State.waits_pool (s : State) (c : Crew) (w : Wait) (a : Lanes) : (s.waits c w a).pool = s.pool := rfl
@[simp] theorem State.waits_skm (s : State) (c : Crew) (w : Wait) (a : Lanes) : (s.waits c w a).skm = s.skm := rfl
@[simp] theorem State.waits_hbmPoison (s : State) (c : Crew) (w : Wait) (a : Lanes) : (s.waits c w a).hbmPoison = s.hbmPoison := rfl
@[simp] theorem State.waits_dir (s : State) (c : Crew) (w : Wait) (a : Lanes) : (s.waits c w a).dir = s.dir := rfl
@[simp] theorem State.waits_copies (s : State) (c : Crew) (w : Wait) (a : Lanes) : (s.waits c w a).copies = s.copies := rfl
@[simp] theorem State.waits_plain (s : State) (c : Crew) (w : Wait) (a : Lanes) : (s.waits c w a).plain = s.plain := rfl
@[simp] theorem State.waits_notices (s : State) (c : Crew) (w : Wait) (a : Lanes) : (s.waits c w a).notices = s.notices := rfl
@[simp] theorem State.waits_writes (s : State) (c : Crew) (w : Wait) (a : Lanes) : (s.waits c w a).writes = s.writes := rfl
@[simp] theorem State.waits_msgs (s : State) (c : Crew) (w : Wait) (a : Lanes) : (s.waits c w a).msgs = s.msgs := rfl
@[simp] theorem State.waits_acks (s : State) (c : Crew) (w : Wait) (a : Lanes) : (s.waits c w a).acks = s.acks := rfl
@[simp] theorem State.waits_notes (s : State) (c : Crew) (w : Wait) (a : Lanes) : (s.waits c w a).notes = s.notes := rfl
@[simp] theorem State.waits_counts (s : State) (c : Crew) (w : Wait) (a : Lanes) : (s.waits c w a).counts = s.counts := rfl
@[simp] theorem State.waits_tlb (s : State) (c : Crew) (w : Wait) (a : Lanes) : (s.waits c w a).tlb = s.tlb := rfl
@[simp] theorem State.waits_walkCache (s : State) (c : Crew) (w : Wait) (a : Lanes) : (s.waits c w a).walkCache = s.walkCache := rfl
@[simp] theorem State.waits_ctxs (s : State) (c : Crew) (w : Wait) (a : Lanes) : (s.waits c w a).ctxs = s.ctxs := rfl
@[simp] theorem State.waits_dev (s : State) (c : Crew) (w : Wait) (a : Lanes) : (s.waits c w a).dev = s.dev := rfl
@[simp] theorem State.waits_spared (s : State) (c : Crew) (w : Wait) (a : Lanes) : (s.waits c w a).spared = s.spared := rfl
@[simp] theorem State.waits_fwOk (s : State) (c : Crew) (w : Wait) (a : Lanes) : (s.waits c w a).fwOk = s.fwOk := rfl
@[simp] theorem State.waits_coresUp (s : State) (c : Crew) (w : Wait) (a : Lanes) : (s.waits c w a).coresUp = s.coresUp := rfl
@[simp] theorem State.waits_hbmUp (s : State) (c : Crew) (w : Wait) (a : Lanes) : (s.waits c w a).hbmUp = s.hbmUp := rfl
@[simp] theorem State.waits_tested (s : State) (c : Crew) (w : Wait) (a : Lanes) : (s.waits c w a).tested = s.tested := rfl
@[simp] theorem State.waits_schedAge (s : State) (c : Crew) (w : Wait) (a : Lanes) : (s.waits c w a).schedAge = s.schedAge := rfl
@[simp] theorem State.waits_clkCtl (s : State) (c : Crew) (w : Wait) (a : Lanes) : (s.waits c w a).clkCtl = s.clkCtl := rfl
@[simp] theorem State.waits_fwEcdsa (s : State) (c : Crew) (w : Wait) (a : Lanes) : (s.waits c w a).fwEcdsa = s.fwEcdsa := rfl
@[simp] theorem State.waits_fwLms (s : State) (c : Crew) (w : Wait) (a : Lanes) : (s.waits c w a).fwLms = s.fwLms := rfl
@[simp] theorem State.waits_fwAcc (s : State) (c : Crew) (w : Wait) (a : Lanes) : (s.waits c w a).fwAcc = s.fwAcc := rfl
@[simp] theorem State.waits_fwVer (s : State) (c : Crew) (w : Wait) (a : Lanes) : (s.waits c w a).fwVer = s.fwVer := rfl
@[simp] theorem State.waits_time (s : State) (c : Crew) (w : Wait) (a : Lanes) : (s.waits c w a).time = s.time := rfl
@[simp] theorem State.waits_regions (s : State) (c : Crew) (w : Wait) (a : Lanes) : (s.waits c w a).regions = s.regions := rfl
@[simp] theorem State.waits_requests (s : State) (c : Crew) (w : Wait) (a : Lanes) : (s.waits c w a).requests = s.requests := rfl
@[simp] theorem State.waits_pageReqs (s : State) (c : Crew) (w : Wait) (a : Lanes) : (s.waits c w a).pageReqs = s.pageReqs := rfl
@[simp] theorem State.waits_reqSeq (s : State) (c : Crew) (w : Wait) (a : Lanes) : (s.waits c w a).reqSeq = s.reqSeq := rfl
@[simp] theorem State.waits_events (s : State) (c : Crew) (w : Wait) (a : Lanes) : (s.waits c w a).events = s.events := rfl
@[simp] theorem State.waits_eventNo (s : State) (c : Crew) (w : Wait) (a : Lanes) : (s.waits c w a).eventNo = s.eventNo := rfl
@[simp] theorem State.waits_eventWait (s : State) (c : Crew) (w : Wait) (a : Lanes) : (s.waits c w a).eventWait = s.eventWait := rfl
@[simp] theorem State.waits_dropped (s : State) (c : Crew) (w : Wait) (a : Lanes) : (s.waits c w a).dropped = s.dropped := rfl
@[simp] theorem State.waits_spares (s : State) (c : Crew) (w : Wait) (a : Lanes) : (s.waits c w a).spares = s.spares := rfl
@[simp] theorem State.waits_tiles (s : State) (c : Crew) (w : Wait) (a : Lanes) : (s.waits c w a).tiles = s.tiles := rfl
@[simp] theorem State.waits_matops (s : State) (c : Crew) (w : Wait) (a : Lanes) : (s.waits c w a).matops = s.matops := rfl
@[simp] theorem State.waits_cmds (s : State) (c : Crew) (w : Wait) (a : Lanes) : (s.waits c w a).cmds = s.cmds := rfl
@[simp] theorem State.waits_rx (s : State) (c : Crew) (w : Wait) (a : Lanes) : (s.waits c w a).rx = s.rx := rfl
@[simp] theorem State.waits_serves (s : State) (c : Crew) (w : Wait) (a : Lanes) : (s.waits c w a).serves = s.serves := rfl
@[simp] theorem State.waits_sweepOut (s : State) (c : Crew) (w : Wait) (a : Lanes) : (s.waits c w a).sweepOut = s.sweepOut := rfl
@[simp] theorem State.waits_hlc (s : State) (c : Crew) (w : Wait) (a : Lanes) : (s.waits c w a).hlc = s.hlc := rfl
@[simp] theorem State.waits_biasHost (s : State) (c : Crew) (w : Wait) (a : Lanes) : (s.waits c w a).biasHost = s.biasHost := rfl
@[simp] theorem State.waits_flips (s : State) (c : Crew) (w : Wait) (a : Lanes) : (s.waits c w a).flips = s.flips := rfl
@[simp] theorem State.waits_reading (s : State) (c : Crew) (w : Wait) (a : Lanes) : (s.waits c w a).reading = s.reading := rfl
@[simp] theorem State.waits_cxlOut (s : State) (c : Crew) (w : Wait) (a : Lanes) : (s.waits c w a).cxlOut = s.cxlOut := rfl
@[simp] theorem State.waits_granted (s : State) (c : Crew) (w : Wait) (a : Lanes) : (s.waits c w a).granted = s.granted := rfl
@[simp] theorem State.waits_lostPools (s : State) (c : Crew) (w : Wait) (a : Lanes) : (s.waits c w a).lostPools = s.lostPools := rfl
@[simp] theorem State.waits_atsWait (s : State) (c : Crew) (w : Wait) (a : Lanes) : (s.waits c w a).atsWait = s.atsWait := rfl
@[simp] theorem State.waits_atsDone (s : State) (c : Crew) (w : Wait) (a : Lanes) : (s.waits c w a).atsDone = s.atsDone := rfl
@[simp] theorem State.waits_portWidth (s : State) (c : Crew) (w : Wait) (a : Lanes) : (s.waits c w a).portWidth = s.portWidth := rfl
@[simp] theorem State.waits_ring (s : State) (c : Crew) (w : Wait) (a : Lanes) : (s.waits c w a).ring = s.ring := rfl
@[simp] theorem State.waits_ergs (s : State) (c : Crew) (w : Wait) (a : Lanes) : (s.waits c w a).ergs = s.ergs := rfl
@[simp] theorem State.waits_pending (s : State) (c : Crew) (w : Wait) (a : Lanes) : (s.waits c w a).pending = s.pending := rfl
@[simp] theorem State.waits_links (s : State) (c : Crew) (w : Wait) (a : Lanes) : (s.waits c w a).links = s.links := rfl
@[simp] theorem State.waits_routes (s : State) (c : Crew) (w : Wait) (a : Lanes) : (s.waits c w a).routes = s.routes := rfl
@[simp] theorem State.waits_served (s : State) (c : Crew) (w : Wait) (a : Lanes) : (s.waits c w a).served = s.served := rfl
@[simp] theorem State.waits_excluded (s : State) (c : Crew) (w : Wait) (a : Lanes) : (s.waits c w a).excluded = s.excluded := rfl
@[simp] theorem State.waits_lasers (s : State) (c : Crew) (w : Wait) (a : Lanes) : (s.waits c w a).lasers = s.lasers := rfl
@[simp] theorem State.waits_drawInt (s : State) (c : Crew) (w : Wait) (a : Lanes) : (s.waits c w a).drawInt = s.drawInt := rfl
@[simp] theorem State.waits_drawHyst (s : State) (c : Crew) (w : Wait) (a : Lanes) : (s.waits c w a).drawHyst = s.drawHyst := rfl
@[simp] theorem State.waits_fresh (s : State) (c : Crew) (w : Wait) (a : Lanes) : (s.waits c w a).fresh = s.fresh := rfl
@[simp] theorem State.waits_cur (s : State) (c : Crew) (w : Wait) (a : Lanes) : (s.waits c w a).cur = s.cur := rfl
@[simp] theorem State.waits_issueQ (s : State) (c : Crew) (w : Wait) (a : Lanes) : (s.waits c w a).issueQ = s.issueQ := rfl
@[simp] theorem State.waits_inbox (s : State) (c : Crew) (w : Wait) (a : Lanes) : (s.waits c w a).inbox = s.inbox := rfl

/-! ## State.wakes -/

@[simp] theorem State.wakes_squads (s : State) (c : Crew) : (s.wakes c).squads = s.squads := rfl
@[simp] theorem State.wakes_grids (s : State) (c : Crew) : (s.wakes c).grids = s.grids := rfl
@[simp] theorem State.wakes_gridSeq (s : State) (c : Crew) : (s.wakes c).gridSeq = s.gridSeq := rfl
@[simp] theorem State.wakes_held (s : State) (c : Crew) : (s.wakes c).held = s.held := rfl
@[simp] theorem State.wakes_launches (s : State) (c : Crew) : (s.wakes c).launches = s.launches := rfl
@[simp] theorem State.wakes_tasks (s : State) (c : Crew) : (s.wakes c).tasks = s.tasks := rfl
@[simp] theorem State.wakes_taskSeq (s : State) (c : Crew) : (s.wakes c).taskSeq = s.taskSeq := rfl
@[simp] theorem State.wakes_saved (s : State) (c : Crew) : (s.wakes c).saved = s.saved := rfl
@[simp] theorem State.wakes_arrived (s : State) (c : Crew) : (s.wakes c).arrived = s.arrived := rfl
@[simp] theorem State.wakes_boats (s : State) (c : Crew) : (s.wakes c).boats = s.boats := rfl
@[simp] theorem State.wakes_boatOut (s : State) (c : Crew) : (s.wakes c).boatOut = s.boatOut := rfl
@[simp] theorem State.wakes_lq (s : State) (c : Crew) : (s.wakes c).lq = s.lq := rfl
@[simp] theorem State.wakes_lqCount (s : State) (c : Crew) : (s.wakes c).lqCount = s.lqCount := rfl
@[simp] theorem State.wakes_lqWait (s : State) (c : Crew) : (s.wakes c).lqWait = s.lqWait := rfl
@[simp] theorem State.wakes_deck (s : State) (c : Crew) : (s.wakes c).deck = s.deck := rfl
@[simp] theorem State.wakes_hbm (s : State) (c : Crew) : (s.wakes c).hbm = s.hbm := rfl
@[simp] theorem State.wakes_host (s : State) (c : Crew) : (s.wakes c).host = s.host := rfl
@[simp] theorem State.wakes_pool (s : State) (c : Crew) : (s.wakes c).pool = s.pool := rfl
@[simp] theorem State.wakes_skm (s : State) (c : Crew) : (s.wakes c).skm = s.skm := rfl
@[simp] theorem State.wakes_hbmPoison (s : State) (c : Crew) : (s.wakes c).hbmPoison = s.hbmPoison := rfl
@[simp] theorem State.wakes_dir (s : State) (c : Crew) : (s.wakes c).dir = s.dir := rfl
@[simp] theorem State.wakes_copies (s : State) (c : Crew) : (s.wakes c).copies = s.copies := rfl
@[simp] theorem State.wakes_plain (s : State) (c : Crew) : (s.wakes c).plain = s.plain := rfl
@[simp] theorem State.wakes_notices (s : State) (c : Crew) : (s.wakes c).notices = s.notices := rfl
@[simp] theorem State.wakes_msgs (s : State) (c : Crew) : (s.wakes c).msgs = s.msgs := rfl
@[simp] theorem State.wakes_acks (s : State) (c : Crew) : (s.wakes c).acks = s.acks := rfl
@[simp] theorem State.wakes_notes (s : State) (c : Crew) : (s.wakes c).notes = s.notes := rfl
@[simp] theorem State.wakes_counts (s : State) (c : Crew) : (s.wakes c).counts = s.counts := rfl
@[simp] theorem State.wakes_tlb (s : State) (c : Crew) : (s.wakes c).tlb = s.tlb := rfl
@[simp] theorem State.wakes_walkCache (s : State) (c : Crew) : (s.wakes c).walkCache = s.walkCache := rfl
@[simp] theorem State.wakes_ctxs (s : State) (c : Crew) : (s.wakes c).ctxs = s.ctxs := rfl
@[simp] theorem State.wakes_dev (s : State) (c : Crew) : (s.wakes c).dev = s.dev := rfl
@[simp] theorem State.wakes_spared (s : State) (c : Crew) : (s.wakes c).spared = s.spared := rfl
@[simp] theorem State.wakes_fwOk (s : State) (c : Crew) : (s.wakes c).fwOk = s.fwOk := rfl
@[simp] theorem State.wakes_coresUp (s : State) (c : Crew) : (s.wakes c).coresUp = s.coresUp := rfl
@[simp] theorem State.wakes_hbmUp (s : State) (c : Crew) : (s.wakes c).hbmUp = s.hbmUp := rfl
@[simp] theorem State.wakes_tested (s : State) (c : Crew) : (s.wakes c).tested = s.tested := rfl
@[simp] theorem State.wakes_schedAge (s : State) (c : Crew) : (s.wakes c).schedAge = s.schedAge := rfl
@[simp] theorem State.wakes_clkCtl (s : State) (c : Crew) : (s.wakes c).clkCtl = s.clkCtl := rfl
@[simp] theorem State.wakes_fwEcdsa (s : State) (c : Crew) : (s.wakes c).fwEcdsa = s.fwEcdsa := rfl
@[simp] theorem State.wakes_fwLms (s : State) (c : Crew) : (s.wakes c).fwLms = s.fwLms := rfl
@[simp] theorem State.wakes_fwAcc (s : State) (c : Crew) : (s.wakes c).fwAcc = s.fwAcc := rfl
@[simp] theorem State.wakes_fwVer (s : State) (c : Crew) : (s.wakes c).fwVer = s.fwVer := rfl
@[simp] theorem State.wakes_time (s : State) (c : Crew) : (s.wakes c).time = s.time := rfl
@[simp] theorem State.wakes_regions (s : State) (c : Crew) : (s.wakes c).regions = s.regions := rfl
@[simp] theorem State.wakes_requests (s : State) (c : Crew) : (s.wakes c).requests = s.requests := rfl
@[simp] theorem State.wakes_pageReqs (s : State) (c : Crew) : (s.wakes c).pageReqs = s.pageReqs := rfl
@[simp] theorem State.wakes_reqSeq (s : State) (c : Crew) : (s.wakes c).reqSeq = s.reqSeq := rfl
@[simp] theorem State.wakes_events (s : State) (c : Crew) : (s.wakes c).events = s.events := rfl
@[simp] theorem State.wakes_eventNo (s : State) (c : Crew) : (s.wakes c).eventNo = s.eventNo := rfl
@[simp] theorem State.wakes_eventWait (s : State) (c : Crew) : (s.wakes c).eventWait = s.eventWait := rfl
@[simp] theorem State.wakes_dropped (s : State) (c : Crew) : (s.wakes c).dropped = s.dropped := rfl
@[simp] theorem State.wakes_spares (s : State) (c : Crew) : (s.wakes c).spares = s.spares := rfl
@[simp] theorem State.wakes_tiles (s : State) (c : Crew) : (s.wakes c).tiles = s.tiles := rfl
@[simp] theorem State.wakes_matops (s : State) (c : Crew) : (s.wakes c).matops = s.matops := rfl
@[simp] theorem State.wakes_cmds (s : State) (c : Crew) : (s.wakes c).cmds = s.cmds := rfl
@[simp] theorem State.wakes_rx (s : State) (c : Crew) : (s.wakes c).rx = s.rx := rfl
@[simp] theorem State.wakes_serves (s : State) (c : Crew) : (s.wakes c).serves = s.serves := rfl
@[simp] theorem State.wakes_sweepOut (s : State) (c : Crew) : (s.wakes c).sweepOut = s.sweepOut := rfl
@[simp] theorem State.wakes_hlc (s : State) (c : Crew) : (s.wakes c).hlc = s.hlc := rfl
@[simp] theorem State.wakes_biasHost (s : State) (c : Crew) : (s.wakes c).biasHost = s.biasHost := rfl
@[simp] theorem State.wakes_flips (s : State) (c : Crew) : (s.wakes c).flips = s.flips := rfl
@[simp] theorem State.wakes_reading (s : State) (c : Crew) : (s.wakes c).reading = s.reading := rfl
@[simp] theorem State.wakes_cxlOut (s : State) (c : Crew) : (s.wakes c).cxlOut = s.cxlOut := rfl
@[simp] theorem State.wakes_granted (s : State) (c : Crew) : (s.wakes c).granted = s.granted := rfl
@[simp] theorem State.wakes_lostPools (s : State) (c : Crew) : (s.wakes c).lostPools = s.lostPools := rfl
@[simp] theorem State.wakes_atsWait (s : State) (c : Crew) : (s.wakes c).atsWait = s.atsWait := rfl
@[simp] theorem State.wakes_atsDone (s : State) (c : Crew) : (s.wakes c).atsDone = s.atsDone := rfl
@[simp] theorem State.wakes_portWidth (s : State) (c : Crew) : (s.wakes c).portWidth = s.portWidth := rfl
@[simp] theorem State.wakes_ring (s : State) (c : Crew) : (s.wakes c).ring = s.ring := rfl
@[simp] theorem State.wakes_ergs (s : State) (c : Crew) : (s.wakes c).ergs = s.ergs := rfl
@[simp] theorem State.wakes_pending (s : State) (c : Crew) : (s.wakes c).pending = s.pending := rfl
@[simp] theorem State.wakes_links (s : State) (c : Crew) : (s.wakes c).links = s.links := rfl
@[simp] theorem State.wakes_routes (s : State) (c : Crew) : (s.wakes c).routes = s.routes := rfl
@[simp] theorem State.wakes_served (s : State) (c : Crew) : (s.wakes c).served = s.served := rfl
@[simp] theorem State.wakes_excluded (s : State) (c : Crew) : (s.wakes c).excluded = s.excluded := rfl
@[simp] theorem State.wakes_lasers (s : State) (c : Crew) : (s.wakes c).lasers = s.lasers := rfl
@[simp] theorem State.wakes_drawInt (s : State) (c : Crew) : (s.wakes c).drawInt = s.drawInt := rfl
@[simp] theorem State.wakes_drawHyst (s : State) (c : Crew) : (s.wakes c).drawHyst = s.drawHyst := rfl
@[simp] theorem State.wakes_fresh (s : State) (c : Crew) : (s.wakes c).fresh = s.fresh := rfl
@[simp] theorem State.wakes_cur (s : State) (c : Crew) : (s.wakes c).cur = s.cur := rfl
@[simp] theorem State.wakes_issueQ (s : State) (c : Crew) : (s.wakes c).issueQ = s.issueQ := rfl
@[simp] theorem State.wakes_inbox (s : State) (c : Crew) : (s.wakes c).inbox = s.inbox := rfl

/-! ## State.acquires -/

@[simp] theorem State.acquires_crews (s : State) (k : Crew) : (s.acquires k).crews = s.crews := rfl
@[simp] theorem State.acquires_squads (s : State) (k : Crew) : (s.acquires k).squads = s.squads := rfl
@[simp] theorem State.acquires_grids (s : State) (k : Crew) : (s.acquires k).grids = s.grids := rfl
@[simp] theorem State.acquires_gridSeq (s : State) (k : Crew) : (s.acquires k).gridSeq = s.gridSeq := rfl
@[simp] theorem State.acquires_held (s : State) (k : Crew) : (s.acquires k).held = s.held := rfl
@[simp] theorem State.acquires_launches (s : State) (k : Crew) : (s.acquires k).launches = s.launches := rfl
@[simp] theorem State.acquires_tasks (s : State) (k : Crew) : (s.acquires k).tasks = s.tasks := rfl
@[simp] theorem State.acquires_taskSeq (s : State) (k : Crew) : (s.acquires k).taskSeq = s.taskSeq := rfl
@[simp] theorem State.acquires_saved (s : State) (k : Crew) : (s.acquires k).saved = s.saved := rfl
@[simp] theorem State.acquires_arrived (s : State) (k : Crew) : (s.acquires k).arrived = s.arrived := rfl
@[simp] theorem State.acquires_boats (s : State) (k : Crew) : (s.acquires k).boats = s.boats := rfl
@[simp] theorem State.acquires_boatOut (s : State) (k : Crew) : (s.acquires k).boatOut = s.boatOut := rfl
@[simp] theorem State.acquires_lq (s : State) (k : Crew) : (s.acquires k).lq = s.lq := rfl
@[simp] theorem State.acquires_lqCount (s : State) (k : Crew) : (s.acquires k).lqCount = s.lqCount := rfl
@[simp] theorem State.acquires_lqWait (s : State) (k : Crew) : (s.acquires k).lqWait = s.lqWait := rfl
@[simp] theorem State.acquires_deck (s : State) (k : Crew) : (s.acquires k).deck = s.deck := rfl
@[simp] theorem State.acquires_hbm (s : State) (k : Crew) : (s.acquires k).hbm = s.hbm := rfl
@[simp] theorem State.acquires_host (s : State) (k : Crew) : (s.acquires k).host = s.host := rfl
@[simp] theorem State.acquires_pool (s : State) (k : Crew) : (s.acquires k).pool = s.pool := rfl
@[simp] theorem State.acquires_skm (s : State) (k : Crew) : (s.acquires k).skm = s.skm := rfl
@[simp] theorem State.acquires_hbmPoison (s : State) (k : Crew) : (s.acquires k).hbmPoison = s.hbmPoison := rfl
@[simp] theorem State.acquires_dir (s : State) (k : Crew) : (s.acquires k).dir = s.dir := rfl
@[simp] theorem State.acquires_copies (s : State) (k : Crew) : (s.acquires k).copies = s.copies := rfl
@[simp] theorem State.acquires_plain (s : State) (k : Crew) : (s.acquires k).plain = s.plain := rfl
@[simp] theorem State.acquires_notices (s : State) (k : Crew) : (s.acquires k).notices = s.notices := rfl
@[simp] theorem State.acquires_msgs (s : State) (k : Crew) : (s.acquires k).msgs = s.msgs := rfl
@[simp] theorem State.acquires_acks (s : State) (k : Crew) : (s.acquires k).acks = s.acks := rfl
@[simp] theorem State.acquires_notes (s : State) (k : Crew) : (s.acquires k).notes = s.notes := rfl
@[simp] theorem State.acquires_counts (s : State) (k : Crew) : (s.acquires k).counts = s.counts := rfl
@[simp] theorem State.acquires_tlb (s : State) (k : Crew) : (s.acquires k).tlb = s.tlb := rfl
@[simp] theorem State.acquires_walkCache (s : State) (k : Crew) : (s.acquires k).walkCache = s.walkCache := rfl
@[simp] theorem State.acquires_ctxs (s : State) (k : Crew) : (s.acquires k).ctxs = s.ctxs := rfl
@[simp] theorem State.acquires_dev (s : State) (k : Crew) : (s.acquires k).dev = s.dev := rfl
@[simp] theorem State.acquires_spared (s : State) (k : Crew) : (s.acquires k).spared = s.spared := rfl
@[simp] theorem State.acquires_fwOk (s : State) (k : Crew) : (s.acquires k).fwOk = s.fwOk := rfl
@[simp] theorem State.acquires_coresUp (s : State) (k : Crew) : (s.acquires k).coresUp = s.coresUp := rfl
@[simp] theorem State.acquires_hbmUp (s : State) (k : Crew) : (s.acquires k).hbmUp = s.hbmUp := rfl
@[simp] theorem State.acquires_tested (s : State) (k : Crew) : (s.acquires k).tested = s.tested := rfl
@[simp] theorem State.acquires_schedAge (s : State) (k : Crew) : (s.acquires k).schedAge = s.schedAge := rfl
@[simp] theorem State.acquires_clkCtl (s : State) (k : Crew) : (s.acquires k).clkCtl = s.clkCtl := rfl
@[simp] theorem State.acquires_fwEcdsa (s : State) (k : Crew) : (s.acquires k).fwEcdsa = s.fwEcdsa := rfl
@[simp] theorem State.acquires_fwLms (s : State) (k : Crew) : (s.acquires k).fwLms = s.fwLms := rfl
@[simp] theorem State.acquires_fwAcc (s : State) (k : Crew) : (s.acquires k).fwAcc = s.fwAcc := rfl
@[simp] theorem State.acquires_fwVer (s : State) (k : Crew) : (s.acquires k).fwVer = s.fwVer := rfl
@[simp] theorem State.acquires_time (s : State) (k : Crew) : (s.acquires k).time = s.time := rfl
@[simp] theorem State.acquires_regions (s : State) (k : Crew) : (s.acquires k).regions = s.regions := rfl
@[simp] theorem State.acquires_requests (s : State) (k : Crew) : (s.acquires k).requests = s.requests := rfl
@[simp] theorem State.acquires_pageReqs (s : State) (k : Crew) : (s.acquires k).pageReqs = s.pageReqs := rfl
@[simp] theorem State.acquires_reqSeq (s : State) (k : Crew) : (s.acquires k).reqSeq = s.reqSeq := rfl
@[simp] theorem State.acquires_events (s : State) (k : Crew) : (s.acquires k).events = s.events := rfl
@[simp] theorem State.acquires_eventNo (s : State) (k : Crew) : (s.acquires k).eventNo = s.eventNo := rfl
@[simp] theorem State.acquires_eventWait (s : State) (k : Crew) : (s.acquires k).eventWait = s.eventWait := rfl
@[simp] theorem State.acquires_dropped (s : State) (k : Crew) : (s.acquires k).dropped = s.dropped := rfl
@[simp] theorem State.acquires_spares (s : State) (k : Crew) : (s.acquires k).spares = s.spares := rfl
@[simp] theorem State.acquires_tiles (s : State) (k : Crew) : (s.acquires k).tiles = s.tiles := rfl
@[simp] theorem State.acquires_matops (s : State) (k : Crew) : (s.acquires k).matops = s.matops := rfl
@[simp] theorem State.acquires_cmds (s : State) (k : Crew) : (s.acquires k).cmds = s.cmds := rfl
@[simp] theorem State.acquires_rx (s : State) (k : Crew) : (s.acquires k).rx = s.rx := rfl
@[simp] theorem State.acquires_serves (s : State) (k : Crew) : (s.acquires k).serves = s.serves := rfl
@[simp] theorem State.acquires_sweepOut (s : State) (k : Crew) : (s.acquires k).sweepOut = s.sweepOut := rfl
@[simp] theorem State.acquires_hlc (s : State) (k : Crew) : (s.acquires k).hlc = s.hlc := rfl
@[simp] theorem State.acquires_biasHost (s : State) (k : Crew) : (s.acquires k).biasHost = s.biasHost := rfl
@[simp] theorem State.acquires_flips (s : State) (k : Crew) : (s.acquires k).flips = s.flips := rfl
@[simp] theorem State.acquires_reading (s : State) (k : Crew) : (s.acquires k).reading = s.reading := rfl
@[simp] theorem State.acquires_cxlOut (s : State) (k : Crew) : (s.acquires k).cxlOut = s.cxlOut := rfl
@[simp] theorem State.acquires_granted (s : State) (k : Crew) : (s.acquires k).granted = s.granted := rfl
@[simp] theorem State.acquires_lostPools (s : State) (k : Crew) : (s.acquires k).lostPools = s.lostPools := rfl
@[simp] theorem State.acquires_atsWait (s : State) (k : Crew) : (s.acquires k).atsWait = s.atsWait := rfl
@[simp] theorem State.acquires_atsDone (s : State) (k : Crew) : (s.acquires k).atsDone = s.atsDone := rfl
@[simp] theorem State.acquires_portWidth (s : State) (k : Crew) : (s.acquires k).portWidth = s.portWidth := rfl
@[simp] theorem State.acquires_ring (s : State) (k : Crew) : (s.acquires k).ring = s.ring := rfl
@[simp] theorem State.acquires_ergs (s : State) (k : Crew) : (s.acquires k).ergs = s.ergs := rfl
@[simp] theorem State.acquires_pending (s : State) (k : Crew) : (s.acquires k).pending = s.pending := rfl
@[simp] theorem State.acquires_links (s : State) (k : Crew) : (s.acquires k).links = s.links := rfl
@[simp] theorem State.acquires_routes (s : State) (k : Crew) : (s.acquires k).routes = s.routes := rfl
@[simp] theorem State.acquires_served (s : State) (k : Crew) : (s.acquires k).served = s.served := rfl
@[simp] theorem State.acquires_excluded (s : State) (k : Crew) : (s.acquires k).excluded = s.excluded := rfl
@[simp] theorem State.acquires_lasers (s : State) (k : Crew) : (s.acquires k).lasers = s.lasers := rfl
@[simp] theorem State.acquires_drawInt (s : State) (k : Crew) : (s.acquires k).drawInt = s.drawInt := rfl
@[simp] theorem State.acquires_drawHyst (s : State) (k : Crew) : (s.acquires k).drawHyst = s.drawHyst := rfl
@[simp] theorem State.acquires_fresh (s : State) (k : Crew) : (s.acquires k).fresh = s.fresh := rfl
@[simp] theorem State.acquires_cur (s : State) (k : Crew) : (s.acquires k).cur = s.cur := rfl
@[simp] theorem State.acquires_issueQ (s : State) (k : Crew) : (s.acquires k).issueQ = s.issueQ := rfl
@[simp] theorem State.acquires_inbox (s : State) (k : Crew) : (s.acquires k).inbox = s.inbox := rfl

/-! ## State.releases -/

@[simp] theorem State.releases_crews (s : State) (k : Crew) (b : Bool) : (s.releases k b).crews = s.crews := rfl
@[simp] theorem State.releases_squads (s : State) (k : Crew) (b : Bool) : (s.releases k b).squads = s.squads := rfl
@[simp] theorem State.releases_grids (s : State) (k : Crew) (b : Bool) : (s.releases k b).grids = s.grids := rfl
@[simp] theorem State.releases_gridSeq (s : State) (k : Crew) (b : Bool) : (s.releases k b).gridSeq = s.gridSeq := rfl
@[simp] theorem State.releases_held (s : State) (k : Crew) (b : Bool) : (s.releases k b).held = s.held := rfl
@[simp] theorem State.releases_launches (s : State) (k : Crew) (b : Bool) : (s.releases k b).launches = s.launches := rfl
@[simp] theorem State.releases_tasks (s : State) (k : Crew) (b : Bool) : (s.releases k b).tasks = s.tasks := rfl
@[simp] theorem State.releases_taskSeq (s : State) (k : Crew) (b : Bool) : (s.releases k b).taskSeq = s.taskSeq := rfl
@[simp] theorem State.releases_saved (s : State) (k : Crew) (b : Bool) : (s.releases k b).saved = s.saved := rfl
@[simp] theorem State.releases_arrived (s : State) (k : Crew) (b : Bool) : (s.releases k b).arrived = s.arrived := rfl
@[simp] theorem State.releases_boats (s : State) (k : Crew) (b : Bool) : (s.releases k b).boats = s.boats := rfl
@[simp] theorem State.releases_boatOut (s : State) (k : Crew) (b : Bool) : (s.releases k b).boatOut = s.boatOut := rfl
@[simp] theorem State.releases_lq (s : State) (k : Crew) (b : Bool) : (s.releases k b).lq = s.lq := rfl
@[simp] theorem State.releases_lqCount (s : State) (k : Crew) (b : Bool) : (s.releases k b).lqCount = s.lqCount := rfl
@[simp] theorem State.releases_lqWait (s : State) (k : Crew) (b : Bool) : (s.releases k b).lqWait = s.lqWait := rfl
@[simp] theorem State.releases_deck (s : State) (k : Crew) (b : Bool) : (s.releases k b).deck = s.deck := rfl
@[simp] theorem State.releases_hbm (s : State) (k : Crew) (b : Bool) : (s.releases k b).hbm = s.hbm := rfl
@[simp] theorem State.releases_host (s : State) (k : Crew) (b : Bool) : (s.releases k b).host = s.host := rfl
@[simp] theorem State.releases_pool (s : State) (k : Crew) (b : Bool) : (s.releases k b).pool = s.pool := rfl
@[simp] theorem State.releases_skm (s : State) (k : Crew) (b : Bool) : (s.releases k b).skm = s.skm := rfl
@[simp] theorem State.releases_hbmPoison (s : State) (k : Crew) (b : Bool) : (s.releases k b).hbmPoison = s.hbmPoison := rfl
@[simp] theorem State.releases_dir (s : State) (k : Crew) (b : Bool) : (s.releases k b).dir = s.dir := rfl
@[simp] theorem State.releases_copies (s : State) (k : Crew) (b : Bool) : (s.releases k b).copies = s.copies := rfl
@[simp] theorem State.releases_plain (s : State) (k : Crew) (b : Bool) : (s.releases k b).plain = s.plain := rfl
@[simp] theorem State.releases_notices (s : State) (k : Crew) (b : Bool) : (s.releases k b).notices = s.notices := rfl
@[simp] theorem State.releases_msgs (s : State) (k : Crew) (b : Bool) : (s.releases k b).msgs = s.msgs := rfl
@[simp] theorem State.releases_acks (s : State) (k : Crew) (b : Bool) : (s.releases k b).acks = s.acks := rfl
@[simp] theorem State.releases_notes (s : State) (k : Crew) (b : Bool) : (s.releases k b).notes = s.notes := rfl
@[simp] theorem State.releases_counts (s : State) (k : Crew) (b : Bool) : (s.releases k b).counts = s.counts := rfl
@[simp] theorem State.releases_tlb (s : State) (k : Crew) (b : Bool) : (s.releases k b).tlb = s.tlb := rfl
@[simp] theorem State.releases_walkCache (s : State) (k : Crew) (b : Bool) : (s.releases k b).walkCache = s.walkCache := rfl
@[simp] theorem State.releases_ctxs (s : State) (k : Crew) (b : Bool) : (s.releases k b).ctxs = s.ctxs := rfl
@[simp] theorem State.releases_dev (s : State) (k : Crew) (b : Bool) : (s.releases k b).dev = s.dev := rfl
@[simp] theorem State.releases_spared (s : State) (k : Crew) (b : Bool) : (s.releases k b).spared = s.spared := rfl
@[simp] theorem State.releases_fwOk (s : State) (k : Crew) (b : Bool) : (s.releases k b).fwOk = s.fwOk := rfl
@[simp] theorem State.releases_coresUp (s : State) (k : Crew) (b : Bool) : (s.releases k b).coresUp = s.coresUp := rfl
@[simp] theorem State.releases_hbmUp (s : State) (k : Crew) (b : Bool) : (s.releases k b).hbmUp = s.hbmUp := rfl
@[simp] theorem State.releases_tested (s : State) (k : Crew) (b : Bool) : (s.releases k b).tested = s.tested := rfl
@[simp] theorem State.releases_schedAge (s : State) (k : Crew) (b : Bool) : (s.releases k b).schedAge = s.schedAge := rfl
@[simp] theorem State.releases_clkCtl (s : State) (k : Crew) (b : Bool) : (s.releases k b).clkCtl = s.clkCtl := rfl
@[simp] theorem State.releases_fwEcdsa (s : State) (k : Crew) (b : Bool) : (s.releases k b).fwEcdsa = s.fwEcdsa := rfl
@[simp] theorem State.releases_fwLms (s : State) (k : Crew) (b : Bool) : (s.releases k b).fwLms = s.fwLms := rfl
@[simp] theorem State.releases_fwAcc (s : State) (k : Crew) (b : Bool) : (s.releases k b).fwAcc = s.fwAcc := rfl
@[simp] theorem State.releases_fwVer (s : State) (k : Crew) (b : Bool) : (s.releases k b).fwVer = s.fwVer := rfl
@[simp] theorem State.releases_time (s : State) (k : Crew) (b : Bool) : (s.releases k b).time = s.time := rfl
@[simp] theorem State.releases_regions (s : State) (k : Crew) (b : Bool) : (s.releases k b).regions = s.regions := rfl
@[simp] theorem State.releases_requests (s : State) (k : Crew) (b : Bool) : (s.releases k b).requests = s.requests := rfl
@[simp] theorem State.releases_pageReqs (s : State) (k : Crew) (b : Bool) : (s.releases k b).pageReqs = s.pageReqs := rfl
@[simp] theorem State.releases_reqSeq (s : State) (k : Crew) (b : Bool) : (s.releases k b).reqSeq = s.reqSeq := rfl
@[simp] theorem State.releases_events (s : State) (k : Crew) (b : Bool) : (s.releases k b).events = s.events := rfl
@[simp] theorem State.releases_eventNo (s : State) (k : Crew) (b : Bool) : (s.releases k b).eventNo = s.eventNo := rfl
@[simp] theorem State.releases_eventWait (s : State) (k : Crew) (b : Bool) : (s.releases k b).eventWait = s.eventWait := rfl
@[simp] theorem State.releases_dropped (s : State) (k : Crew) (b : Bool) : (s.releases k b).dropped = s.dropped := rfl
@[simp] theorem State.releases_spares (s : State) (k : Crew) (b : Bool) : (s.releases k b).spares = s.spares := rfl
@[simp] theorem State.releases_tiles (s : State) (k : Crew) (b : Bool) : (s.releases k b).tiles = s.tiles := rfl
@[simp] theorem State.releases_matops (s : State) (k : Crew) (b : Bool) : (s.releases k b).matops = s.matops := rfl
@[simp] theorem State.releases_cmds (s : State) (k : Crew) (b : Bool) : (s.releases k b).cmds = s.cmds := rfl
@[simp] theorem State.releases_rx (s : State) (k : Crew) (b : Bool) : (s.releases k b).rx = s.rx := rfl
@[simp] theorem State.releases_serves (s : State) (k : Crew) (b : Bool) : (s.releases k b).serves = s.serves := rfl
@[simp] theorem State.releases_sweepOut (s : State) (k : Crew) (b : Bool) : (s.releases k b).sweepOut = s.sweepOut := rfl
@[simp] theorem State.releases_hlc (s : State) (k : Crew) (b : Bool) : (s.releases k b).hlc = s.hlc := rfl
@[simp] theorem State.releases_biasHost (s : State) (k : Crew) (b : Bool) : (s.releases k b).biasHost = s.biasHost := rfl
@[simp] theorem State.releases_flips (s : State) (k : Crew) (b : Bool) : (s.releases k b).flips = s.flips := rfl
@[simp] theorem State.releases_reading (s : State) (k : Crew) (b : Bool) : (s.releases k b).reading = s.reading := rfl
@[simp] theorem State.releases_cxlOut (s : State) (k : Crew) (b : Bool) : (s.releases k b).cxlOut = s.cxlOut := rfl
@[simp] theorem State.releases_granted (s : State) (k : Crew) (b : Bool) : (s.releases k b).granted = s.granted := rfl
@[simp] theorem State.releases_lostPools (s : State) (k : Crew) (b : Bool) : (s.releases k b).lostPools = s.lostPools := rfl
@[simp] theorem State.releases_atsWait (s : State) (k : Crew) (b : Bool) : (s.releases k b).atsWait = s.atsWait := rfl
@[simp] theorem State.releases_atsDone (s : State) (k : Crew) (b : Bool) : (s.releases k b).atsDone = s.atsDone := rfl
@[simp] theorem State.releases_portWidth (s : State) (k : Crew) (b : Bool) : (s.releases k b).portWidth = s.portWidth := rfl
@[simp] theorem State.releases_ring (s : State) (k : Crew) (b : Bool) : (s.releases k b).ring = s.ring := rfl
@[simp] theorem State.releases_ergs (s : State) (k : Crew) (b : Bool) : (s.releases k b).ergs = s.ergs := rfl
@[simp] theorem State.releases_pending (s : State) (k : Crew) (b : Bool) : (s.releases k b).pending = s.pending := rfl
@[simp] theorem State.releases_links (s : State) (k : Crew) (b : Bool) : (s.releases k b).links = s.links := rfl
@[simp] theorem State.releases_routes (s : State) (k : Crew) (b : Bool) : (s.releases k b).routes = s.routes := rfl
@[simp] theorem State.releases_served (s : State) (k : Crew) (b : Bool) : (s.releases k b).served = s.served := rfl
@[simp] theorem State.releases_excluded (s : State) (k : Crew) (b : Bool) : (s.releases k b).excluded = s.excluded := rfl
@[simp] theorem State.releases_lasers (s : State) (k : Crew) (b : Bool) : (s.releases k b).lasers = s.lasers := rfl
@[simp] theorem State.releases_drawInt (s : State) (k : Crew) (b : Bool) : (s.releases k b).drawInt = s.drawInt := rfl
@[simp] theorem State.releases_drawHyst (s : State) (k : Crew) (b : Bool) : (s.releases k b).drawHyst = s.drawHyst := rfl
@[simp] theorem State.releases_fresh (s : State) (k : Crew) (b : Bool) : (s.releases k b).fresh = s.fresh := rfl
@[simp] theorem State.releases_cur (s : State) (k : Crew) (b : Bool) : (s.releases k b).cur = s.cur := rfl
@[simp] theorem State.releases_issueQ (s : State) (k : Crew) (b : Bool) : (s.releases k b).issueQ = s.issueQ := rfl
@[simp] theorem State.releases_inbox (s : State) (k : Crew) (b : Bool) : (s.releases k b).inbox = s.inbox := rfl

/-! ## State.ordersAll -/

@[simp] theorem State.ordersAll_crews (s : State) (k : Crew) : (s.ordersAll k).crews = s.crews := rfl
@[simp] theorem State.ordersAll_squads (s : State) (k : Crew) : (s.ordersAll k).squads = s.squads := rfl
@[simp] theorem State.ordersAll_grids (s : State) (k : Crew) : (s.ordersAll k).grids = s.grids := rfl
@[simp] theorem State.ordersAll_gridSeq (s : State) (k : Crew) : (s.ordersAll k).gridSeq = s.gridSeq := rfl
@[simp] theorem State.ordersAll_held (s : State) (k : Crew) : (s.ordersAll k).held = s.held := rfl
@[simp] theorem State.ordersAll_launches (s : State) (k : Crew) : (s.ordersAll k).launches = s.launches := rfl
@[simp] theorem State.ordersAll_tasks (s : State) (k : Crew) : (s.ordersAll k).tasks = s.tasks := rfl
@[simp] theorem State.ordersAll_taskSeq (s : State) (k : Crew) : (s.ordersAll k).taskSeq = s.taskSeq := rfl
@[simp] theorem State.ordersAll_saved (s : State) (k : Crew) : (s.ordersAll k).saved = s.saved := rfl
@[simp] theorem State.ordersAll_arrived (s : State) (k : Crew) : (s.ordersAll k).arrived = s.arrived := rfl
@[simp] theorem State.ordersAll_boats (s : State) (k : Crew) : (s.ordersAll k).boats = s.boats := rfl
@[simp] theorem State.ordersAll_boatOut (s : State) (k : Crew) : (s.ordersAll k).boatOut = s.boatOut := rfl
@[simp] theorem State.ordersAll_lq (s : State) (k : Crew) : (s.ordersAll k).lq = s.lq := rfl
@[simp] theorem State.ordersAll_lqCount (s : State) (k : Crew) : (s.ordersAll k).lqCount = s.lqCount := rfl
@[simp] theorem State.ordersAll_lqWait (s : State) (k : Crew) : (s.ordersAll k).lqWait = s.lqWait := rfl
@[simp] theorem State.ordersAll_deck (s : State) (k : Crew) : (s.ordersAll k).deck = s.deck := rfl
@[simp] theorem State.ordersAll_hbm (s : State) (k : Crew) : (s.ordersAll k).hbm = s.hbm := rfl
@[simp] theorem State.ordersAll_host (s : State) (k : Crew) : (s.ordersAll k).host = s.host := rfl
@[simp] theorem State.ordersAll_pool (s : State) (k : Crew) : (s.ordersAll k).pool = s.pool := rfl
@[simp] theorem State.ordersAll_skm (s : State) (k : Crew) : (s.ordersAll k).skm = s.skm := rfl
@[simp] theorem State.ordersAll_hbmPoison (s : State) (k : Crew) : (s.ordersAll k).hbmPoison = s.hbmPoison := rfl
@[simp] theorem State.ordersAll_dir (s : State) (k : Crew) : (s.ordersAll k).dir = s.dir := rfl
@[simp] theorem State.ordersAll_copies (s : State) (k : Crew) : (s.ordersAll k).copies = s.copies := rfl
@[simp] theorem State.ordersAll_plain (s : State) (k : Crew) : (s.ordersAll k).plain = s.plain := rfl
@[simp] theorem State.ordersAll_notices (s : State) (k : Crew) : (s.ordersAll k).notices = s.notices := rfl
@[simp] theorem State.ordersAll_msgs (s : State) (k : Crew) : (s.ordersAll k).msgs = s.msgs := rfl
@[simp] theorem State.ordersAll_acks (s : State) (k : Crew) : (s.ordersAll k).acks = s.acks := rfl
@[simp] theorem State.ordersAll_notes (s : State) (k : Crew) : (s.ordersAll k).notes = s.notes := rfl
@[simp] theorem State.ordersAll_counts (s : State) (k : Crew) : (s.ordersAll k).counts = s.counts := rfl
@[simp] theorem State.ordersAll_tlb (s : State) (k : Crew) : (s.ordersAll k).tlb = s.tlb := rfl
@[simp] theorem State.ordersAll_walkCache (s : State) (k : Crew) : (s.ordersAll k).walkCache = s.walkCache := rfl
@[simp] theorem State.ordersAll_ctxs (s : State) (k : Crew) : (s.ordersAll k).ctxs = s.ctxs := rfl
@[simp] theorem State.ordersAll_dev (s : State) (k : Crew) : (s.ordersAll k).dev = s.dev := rfl
@[simp] theorem State.ordersAll_spared (s : State) (k : Crew) : (s.ordersAll k).spared = s.spared := rfl
@[simp] theorem State.ordersAll_fwOk (s : State) (k : Crew) : (s.ordersAll k).fwOk = s.fwOk := rfl
@[simp] theorem State.ordersAll_coresUp (s : State) (k : Crew) : (s.ordersAll k).coresUp = s.coresUp := rfl
@[simp] theorem State.ordersAll_hbmUp (s : State) (k : Crew) : (s.ordersAll k).hbmUp = s.hbmUp := rfl
@[simp] theorem State.ordersAll_tested (s : State) (k : Crew) : (s.ordersAll k).tested = s.tested := rfl
@[simp] theorem State.ordersAll_schedAge (s : State) (k : Crew) : (s.ordersAll k).schedAge = s.schedAge := rfl
@[simp] theorem State.ordersAll_clkCtl (s : State) (k : Crew) : (s.ordersAll k).clkCtl = s.clkCtl := rfl
@[simp] theorem State.ordersAll_fwEcdsa (s : State) (k : Crew) : (s.ordersAll k).fwEcdsa = s.fwEcdsa := rfl
@[simp] theorem State.ordersAll_fwLms (s : State) (k : Crew) : (s.ordersAll k).fwLms = s.fwLms := rfl
@[simp] theorem State.ordersAll_fwAcc (s : State) (k : Crew) : (s.ordersAll k).fwAcc = s.fwAcc := rfl
@[simp] theorem State.ordersAll_fwVer (s : State) (k : Crew) : (s.ordersAll k).fwVer = s.fwVer := rfl
@[simp] theorem State.ordersAll_time (s : State) (k : Crew) : (s.ordersAll k).time = s.time := rfl
@[simp] theorem State.ordersAll_regions (s : State) (k : Crew) : (s.ordersAll k).regions = s.regions := rfl
@[simp] theorem State.ordersAll_requests (s : State) (k : Crew) : (s.ordersAll k).requests = s.requests := rfl
@[simp] theorem State.ordersAll_pageReqs (s : State) (k : Crew) : (s.ordersAll k).pageReqs = s.pageReqs := rfl
@[simp] theorem State.ordersAll_reqSeq (s : State) (k : Crew) : (s.ordersAll k).reqSeq = s.reqSeq := rfl
@[simp] theorem State.ordersAll_events (s : State) (k : Crew) : (s.ordersAll k).events = s.events := rfl
@[simp] theorem State.ordersAll_eventNo (s : State) (k : Crew) : (s.ordersAll k).eventNo = s.eventNo := rfl
@[simp] theorem State.ordersAll_eventWait (s : State) (k : Crew) : (s.ordersAll k).eventWait = s.eventWait := rfl
@[simp] theorem State.ordersAll_dropped (s : State) (k : Crew) : (s.ordersAll k).dropped = s.dropped := rfl
@[simp] theorem State.ordersAll_spares (s : State) (k : Crew) : (s.ordersAll k).spares = s.spares := rfl
@[simp] theorem State.ordersAll_tiles (s : State) (k : Crew) : (s.ordersAll k).tiles = s.tiles := rfl
@[simp] theorem State.ordersAll_matops (s : State) (k : Crew) : (s.ordersAll k).matops = s.matops := rfl
@[simp] theorem State.ordersAll_cmds (s : State) (k : Crew) : (s.ordersAll k).cmds = s.cmds := rfl
@[simp] theorem State.ordersAll_rx (s : State) (k : Crew) : (s.ordersAll k).rx = s.rx := rfl
@[simp] theorem State.ordersAll_serves (s : State) (k : Crew) : (s.ordersAll k).serves = s.serves := rfl
@[simp] theorem State.ordersAll_sweepOut (s : State) (k : Crew) : (s.ordersAll k).sweepOut = s.sweepOut := rfl
@[simp] theorem State.ordersAll_hlc (s : State) (k : Crew) : (s.ordersAll k).hlc = s.hlc := rfl
@[simp] theorem State.ordersAll_biasHost (s : State) (k : Crew) : (s.ordersAll k).biasHost = s.biasHost := rfl
@[simp] theorem State.ordersAll_flips (s : State) (k : Crew) : (s.ordersAll k).flips = s.flips := rfl
@[simp] theorem State.ordersAll_reading (s : State) (k : Crew) : (s.ordersAll k).reading = s.reading := rfl
@[simp] theorem State.ordersAll_cxlOut (s : State) (k : Crew) : (s.ordersAll k).cxlOut = s.cxlOut := rfl
@[simp] theorem State.ordersAll_granted (s : State) (k : Crew) : (s.ordersAll k).granted = s.granted := rfl
@[simp] theorem State.ordersAll_lostPools (s : State) (k : Crew) : (s.ordersAll k).lostPools = s.lostPools := rfl
@[simp] theorem State.ordersAll_atsWait (s : State) (k : Crew) : (s.ordersAll k).atsWait = s.atsWait := rfl
@[simp] theorem State.ordersAll_atsDone (s : State) (k : Crew) : (s.ordersAll k).atsDone = s.atsDone := rfl
@[simp] theorem State.ordersAll_portWidth (s : State) (k : Crew) : (s.ordersAll k).portWidth = s.portWidth := rfl
@[simp] theorem State.ordersAll_ring (s : State) (k : Crew) : (s.ordersAll k).ring = s.ring := rfl
@[simp] theorem State.ordersAll_ergs (s : State) (k : Crew) : (s.ordersAll k).ergs = s.ergs := rfl
@[simp] theorem State.ordersAll_pending (s : State) (k : Crew) : (s.ordersAll k).pending = s.pending := rfl
@[simp] theorem State.ordersAll_links (s : State) (k : Crew) : (s.ordersAll k).links = s.links := rfl
@[simp] theorem State.ordersAll_routes (s : State) (k : Crew) : (s.ordersAll k).routes = s.routes := rfl
@[simp] theorem State.ordersAll_served (s : State) (k : Crew) : (s.ordersAll k).served = s.served := rfl
@[simp] theorem State.ordersAll_excluded (s : State) (k : Crew) : (s.ordersAll k).excluded = s.excluded := rfl
@[simp] theorem State.ordersAll_lasers (s : State) (k : Crew) : (s.ordersAll k).lasers = s.lasers := rfl
@[simp] theorem State.ordersAll_drawInt (s : State) (k : Crew) : (s.ordersAll k).drawInt = s.drawInt := rfl
@[simp] theorem State.ordersAll_drawHyst (s : State) (k : Crew) : (s.ordersAll k).drawHyst = s.drawHyst := rfl
@[simp] theorem State.ordersAll_fresh (s : State) (k : Crew) : (s.ordersAll k).fresh = s.fresh := rfl
@[simp] theorem State.ordersAll_cur (s : State) (k : Crew) : (s.ordersAll k).cur = s.cur := rfl
@[simp] theorem State.ordersAll_issueQ (s : State) (k : Crew) : (s.ordersAll k).issueQ = s.issueQ := rfl
@[simp] theorem State.ordersAll_inbox (s : State) (k : Crew) : (s.ordersAll k).inbox = s.inbox := rfl

/-! ## State.dropHold -/

@[simp] theorem State.dropHold_crews (s : State) (n : Nat) : (s.dropHold n).crews = s.crews := rfl
@[simp] theorem State.dropHold_squads (s : State) (n : Nat) : (s.dropHold n).squads = s.squads := rfl
@[simp] theorem State.dropHold_grids (s : State) (n : Nat) : (s.dropHold n).grids = s.grids := rfl
@[simp] theorem State.dropHold_gridSeq (s : State) (n : Nat) : (s.dropHold n).gridSeq = s.gridSeq := rfl
@[simp] theorem State.dropHold_held (s : State) (n : Nat) : (s.dropHold n).held = s.held := rfl
@[simp] theorem State.dropHold_launches (s : State) (n : Nat) : (s.dropHold n).launches = s.launches := rfl
@[simp] theorem State.dropHold_tasks (s : State) (n : Nat) : (s.dropHold n).tasks = s.tasks := rfl
@[simp] theorem State.dropHold_taskSeq (s : State) (n : Nat) : (s.dropHold n).taskSeq = s.taskSeq := rfl
@[simp] theorem State.dropHold_saved (s : State) (n : Nat) : (s.dropHold n).saved = s.saved := rfl
@[simp] theorem State.dropHold_arrived (s : State) (n : Nat) : (s.dropHold n).arrived = s.arrived := rfl
@[simp] theorem State.dropHold_boats (s : State) (n : Nat) : (s.dropHold n).boats = s.boats := rfl
@[simp] theorem State.dropHold_boatOut (s : State) (n : Nat) : (s.dropHold n).boatOut = s.boatOut := rfl
@[simp] theorem State.dropHold_lq (s : State) (n : Nat) : (s.dropHold n).lq = s.lq := rfl
@[simp] theorem State.dropHold_lqCount (s : State) (n : Nat) : (s.dropHold n).lqCount = s.lqCount := rfl
@[simp] theorem State.dropHold_lqWait (s : State) (n : Nat) : (s.dropHold n).lqWait = s.lqWait := rfl
@[simp] theorem State.dropHold_deck (s : State) (n : Nat) : (s.dropHold n).deck = s.deck := rfl
@[simp] theorem State.dropHold_hbm (s : State) (n : Nat) : (s.dropHold n).hbm = s.hbm := rfl
@[simp] theorem State.dropHold_host (s : State) (n : Nat) : (s.dropHold n).host = s.host := rfl
@[simp] theorem State.dropHold_pool (s : State) (n : Nat) : (s.dropHold n).pool = s.pool := rfl
@[simp] theorem State.dropHold_skm (s : State) (n : Nat) : (s.dropHold n).skm = s.skm := rfl
@[simp] theorem State.dropHold_hbmPoison (s : State) (n : Nat) : (s.dropHold n).hbmPoison = s.hbmPoison := rfl
@[simp] theorem State.dropHold_copies (s : State) (n : Nat) : (s.dropHold n).copies = s.copies := rfl
@[simp] theorem State.dropHold_plain (s : State) (n : Nat) : (s.dropHold n).plain = s.plain := rfl
@[simp] theorem State.dropHold_notices (s : State) (n : Nat) : (s.dropHold n).notices = s.notices := rfl
@[simp] theorem State.dropHold_writes (s : State) (n : Nat) : (s.dropHold n).writes = s.writes := rfl
@[simp] theorem State.dropHold_msgs (s : State) (n : Nat) : (s.dropHold n).msgs = s.msgs := rfl
@[simp] theorem State.dropHold_acks (s : State) (n : Nat) : (s.dropHold n).acks = s.acks := rfl
@[simp] theorem State.dropHold_notes (s : State) (n : Nat) : (s.dropHold n).notes = s.notes := rfl
@[simp] theorem State.dropHold_counts (s : State) (n : Nat) : (s.dropHold n).counts = s.counts := rfl
@[simp] theorem State.dropHold_tlb (s : State) (n : Nat) : (s.dropHold n).tlb = s.tlb := rfl
@[simp] theorem State.dropHold_walkCache (s : State) (n : Nat) : (s.dropHold n).walkCache = s.walkCache := rfl
@[simp] theorem State.dropHold_ctxs (s : State) (n : Nat) : (s.dropHold n).ctxs = s.ctxs := rfl
@[simp] theorem State.dropHold_dev (s : State) (n : Nat) : (s.dropHold n).dev = s.dev := rfl
@[simp] theorem State.dropHold_spared (s : State) (n : Nat) : (s.dropHold n).spared = s.spared := rfl
@[simp] theorem State.dropHold_fwOk (s : State) (n : Nat) : (s.dropHold n).fwOk = s.fwOk := rfl
@[simp] theorem State.dropHold_coresUp (s : State) (n : Nat) : (s.dropHold n).coresUp = s.coresUp := rfl
@[simp] theorem State.dropHold_hbmUp (s : State) (n : Nat) : (s.dropHold n).hbmUp = s.hbmUp := rfl
@[simp] theorem State.dropHold_tested (s : State) (n : Nat) : (s.dropHold n).tested = s.tested := rfl
@[simp] theorem State.dropHold_schedAge (s : State) (n : Nat) : (s.dropHold n).schedAge = s.schedAge := rfl
@[simp] theorem State.dropHold_clkCtl (s : State) (n : Nat) : (s.dropHold n).clkCtl = s.clkCtl := rfl
@[simp] theorem State.dropHold_fwEcdsa (s : State) (n : Nat) : (s.dropHold n).fwEcdsa = s.fwEcdsa := rfl
@[simp] theorem State.dropHold_fwLms (s : State) (n : Nat) : (s.dropHold n).fwLms = s.fwLms := rfl
@[simp] theorem State.dropHold_fwAcc (s : State) (n : Nat) : (s.dropHold n).fwAcc = s.fwAcc := rfl
@[simp] theorem State.dropHold_fwVer (s : State) (n : Nat) : (s.dropHold n).fwVer = s.fwVer := rfl
@[simp] theorem State.dropHold_time (s : State) (n : Nat) : (s.dropHold n).time = s.time := rfl
@[simp] theorem State.dropHold_regions (s : State) (n : Nat) : (s.dropHold n).regions = s.regions := rfl
@[simp] theorem State.dropHold_requests (s : State) (n : Nat) : (s.dropHold n).requests = s.requests := rfl
@[simp] theorem State.dropHold_pageReqs (s : State) (n : Nat) : (s.dropHold n).pageReqs = s.pageReqs := rfl
@[simp] theorem State.dropHold_reqSeq (s : State) (n : Nat) : (s.dropHold n).reqSeq = s.reqSeq := rfl
@[simp] theorem State.dropHold_events (s : State) (n : Nat) : (s.dropHold n).events = s.events := rfl
@[simp] theorem State.dropHold_eventNo (s : State) (n : Nat) : (s.dropHold n).eventNo = s.eventNo := rfl
@[simp] theorem State.dropHold_eventWait (s : State) (n : Nat) : (s.dropHold n).eventWait = s.eventWait := rfl
@[simp] theorem State.dropHold_dropped (s : State) (n : Nat) : (s.dropHold n).dropped = s.dropped := rfl
@[simp] theorem State.dropHold_spares (s : State) (n : Nat) : (s.dropHold n).spares = s.spares := rfl
@[simp] theorem State.dropHold_tiles (s : State) (n : Nat) : (s.dropHold n).tiles = s.tiles := rfl
@[simp] theorem State.dropHold_matops (s : State) (n : Nat) : (s.dropHold n).matops = s.matops := rfl
@[simp] theorem State.dropHold_cmds (s : State) (n : Nat) : (s.dropHold n).cmds = s.cmds := rfl
@[simp] theorem State.dropHold_rx (s : State) (n : Nat) : (s.dropHold n).rx = s.rx := rfl
@[simp] theorem State.dropHold_serves (s : State) (n : Nat) : (s.dropHold n).serves = s.serves := rfl
@[simp] theorem State.dropHold_sweepOut (s : State) (n : Nat) : (s.dropHold n).sweepOut = s.sweepOut := rfl
@[simp] theorem State.dropHold_hlc (s : State) (n : Nat) : (s.dropHold n).hlc = s.hlc := rfl
@[simp] theorem State.dropHold_biasHost (s : State) (n : Nat) : (s.dropHold n).biasHost = s.biasHost := rfl
@[simp] theorem State.dropHold_flips (s : State) (n : Nat) : (s.dropHold n).flips = s.flips := rfl
@[simp] theorem State.dropHold_reading (s : State) (n : Nat) : (s.dropHold n).reading = s.reading := rfl
@[simp] theorem State.dropHold_cxlOut (s : State) (n : Nat) : (s.dropHold n).cxlOut = s.cxlOut := rfl
@[simp] theorem State.dropHold_granted (s : State) (n : Nat) : (s.dropHold n).granted = s.granted := rfl
@[simp] theorem State.dropHold_lostPools (s : State) (n : Nat) : (s.dropHold n).lostPools = s.lostPools := rfl
@[simp] theorem State.dropHold_atsWait (s : State) (n : Nat) : (s.dropHold n).atsWait = s.atsWait := rfl
@[simp] theorem State.dropHold_atsDone (s : State) (n : Nat) : (s.dropHold n).atsDone = s.atsDone := rfl
@[simp] theorem State.dropHold_portWidth (s : State) (n : Nat) : (s.dropHold n).portWidth = s.portWidth := rfl
@[simp] theorem State.dropHold_ring (s : State) (n : Nat) : (s.dropHold n).ring = s.ring := rfl
@[simp] theorem State.dropHold_ergs (s : State) (n : Nat) : (s.dropHold n).ergs = s.ergs := rfl
@[simp] theorem State.dropHold_pending (s : State) (n : Nat) : (s.dropHold n).pending = s.pending := rfl
@[simp] theorem State.dropHold_links (s : State) (n : Nat) : (s.dropHold n).links = s.links := rfl
@[simp] theorem State.dropHold_routes (s : State) (n : Nat) : (s.dropHold n).routes = s.routes := rfl
@[simp] theorem State.dropHold_served (s : State) (n : Nat) : (s.dropHold n).served = s.served := rfl
@[simp] theorem State.dropHold_excluded (s : State) (n : Nat) : (s.dropHold n).excluded = s.excluded := rfl
@[simp] theorem State.dropHold_lasers (s : State) (n : Nat) : (s.dropHold n).lasers = s.lasers := rfl
@[simp] theorem State.dropHold_drawInt (s : State) (n : Nat) : (s.dropHold n).drawInt = s.drawInt := rfl
@[simp] theorem State.dropHold_drawHyst (s : State) (n : Nat) : (s.dropHold n).drawHyst = s.drawHyst := rfl
@[simp] theorem State.dropHold_fresh (s : State) (n : Nat) : (s.dropHold n).fresh = s.fresh := rfl
@[simp] theorem State.dropHold_cur (s : State) (n : Nat) : (s.dropHold n).cur = s.cur := rfl
@[simp] theorem State.dropHold_issueQ (s : State) (n : Nat) : (s.dropHold n).issueQ = s.issueQ := rfl
@[simp] theorem State.dropHold_inbox (s : State) (n : Nat) : (s.dropHold n).inbox = s.inbox := rfl

/-! ## State.freeRoom -/

@[simp] theorem State.freeRoom_squads (s : State) (on : Hold → Bool) : (s.freeRoom on).squads = s.squads := rfl
@[simp] theorem State.freeRoom_grids (s : State) (on : Hold → Bool) : (s.freeRoom on).grids = s.grids := rfl
@[simp] theorem State.freeRoom_gridSeq (s : State) (on : Hold → Bool) : (s.freeRoom on).gridSeq = s.gridSeq := rfl
@[simp] theorem State.freeRoom_held (s : State) (on : Hold → Bool) : (s.freeRoom on).held = s.held := rfl
@[simp] theorem State.freeRoom_launches (s : State) (on : Hold → Bool) : (s.freeRoom on).launches = s.launches := rfl
@[simp] theorem State.freeRoom_tasks (s : State) (on : Hold → Bool) : (s.freeRoom on).tasks = s.tasks := rfl
@[simp] theorem State.freeRoom_taskSeq (s : State) (on : Hold → Bool) : (s.freeRoom on).taskSeq = s.taskSeq := rfl
@[simp] theorem State.freeRoom_saved (s : State) (on : Hold → Bool) : (s.freeRoom on).saved = s.saved := rfl
@[simp] theorem State.freeRoom_arrived (s : State) (on : Hold → Bool) : (s.freeRoom on).arrived = s.arrived := rfl
@[simp] theorem State.freeRoom_boats (s : State) (on : Hold → Bool) : (s.freeRoom on).boats = s.boats := rfl
@[simp] theorem State.freeRoom_boatOut (s : State) (on : Hold → Bool) : (s.freeRoom on).boatOut = s.boatOut := rfl
@[simp] theorem State.freeRoom_lq (s : State) (on : Hold → Bool) : (s.freeRoom on).lq = s.lq := rfl
@[simp] theorem State.freeRoom_lqCount (s : State) (on : Hold → Bool) : (s.freeRoom on).lqCount = s.lqCount := rfl
@[simp] theorem State.freeRoom_lqWait (s : State) (on : Hold → Bool) : (s.freeRoom on).lqWait = s.lqWait := rfl
@[simp] theorem State.freeRoom_deck (s : State) (on : Hold → Bool) : (s.freeRoom on).deck = s.deck := rfl
@[simp] theorem State.freeRoom_hbm (s : State) (on : Hold → Bool) : (s.freeRoom on).hbm = s.hbm := rfl
@[simp] theorem State.freeRoom_host (s : State) (on : Hold → Bool) : (s.freeRoom on).host = s.host := rfl
@[simp] theorem State.freeRoom_pool (s : State) (on : Hold → Bool) : (s.freeRoom on).pool = s.pool := rfl
@[simp] theorem State.freeRoom_skm (s : State) (on : Hold → Bool) : (s.freeRoom on).skm = s.skm := rfl
@[simp] theorem State.freeRoom_hbmPoison (s : State) (on : Hold → Bool) : (s.freeRoom on).hbmPoison = s.hbmPoison := rfl
@[simp] theorem State.freeRoom_dir (s : State) (on : Hold → Bool) : (s.freeRoom on).dir = s.dir := rfl
@[simp] theorem State.freeRoom_copies (s : State) (on : Hold → Bool) : (s.freeRoom on).copies = s.copies := rfl
@[simp] theorem State.freeRoom_plain (s : State) (on : Hold → Bool) : (s.freeRoom on).plain = s.plain := rfl
@[simp] theorem State.freeRoom_notices (s : State) (on : Hold → Bool) : (s.freeRoom on).notices = s.notices := rfl
@[simp] theorem State.freeRoom_writes (s : State) (on : Hold → Bool) : (s.freeRoom on).writes = s.writes := rfl
@[simp] theorem State.freeRoom_msgs (s : State) (on : Hold → Bool) : (s.freeRoom on).msgs = s.msgs := rfl
@[simp] theorem State.freeRoom_acks (s : State) (on : Hold → Bool) : (s.freeRoom on).acks = s.acks := rfl
@[simp] theorem State.freeRoom_notes (s : State) (on : Hold → Bool) : (s.freeRoom on).notes = s.notes := rfl
@[simp] theorem State.freeRoom_counts (s : State) (on : Hold → Bool) : (s.freeRoom on).counts = s.counts := rfl
@[simp] theorem State.freeRoom_tlb (s : State) (on : Hold → Bool) : (s.freeRoom on).tlb = s.tlb := rfl
@[simp] theorem State.freeRoom_walkCache (s : State) (on : Hold → Bool) : (s.freeRoom on).walkCache = s.walkCache := rfl
@[simp] theorem State.freeRoom_ctxs (s : State) (on : Hold → Bool) : (s.freeRoom on).ctxs = s.ctxs := rfl
@[simp] theorem State.freeRoom_dev (s : State) (on : Hold → Bool) : (s.freeRoom on).dev = s.dev := rfl
@[simp] theorem State.freeRoom_spared (s : State) (on : Hold → Bool) : (s.freeRoom on).spared = s.spared := rfl
@[simp] theorem State.freeRoom_fwOk (s : State) (on : Hold → Bool) : (s.freeRoom on).fwOk = s.fwOk := rfl
@[simp] theorem State.freeRoom_coresUp (s : State) (on : Hold → Bool) : (s.freeRoom on).coresUp = s.coresUp := rfl
@[simp] theorem State.freeRoom_hbmUp (s : State) (on : Hold → Bool) : (s.freeRoom on).hbmUp = s.hbmUp := rfl
@[simp] theorem State.freeRoom_tested (s : State) (on : Hold → Bool) : (s.freeRoom on).tested = s.tested := rfl
@[simp] theorem State.freeRoom_schedAge (s : State) (on : Hold → Bool) : (s.freeRoom on).schedAge = s.schedAge := rfl
@[simp] theorem State.freeRoom_clkCtl (s : State) (on : Hold → Bool) : (s.freeRoom on).clkCtl = s.clkCtl := rfl
@[simp] theorem State.freeRoom_fwEcdsa (s : State) (on : Hold → Bool) : (s.freeRoom on).fwEcdsa = s.fwEcdsa := rfl
@[simp] theorem State.freeRoom_fwLms (s : State) (on : Hold → Bool) : (s.freeRoom on).fwLms = s.fwLms := rfl
@[simp] theorem State.freeRoom_fwAcc (s : State) (on : Hold → Bool) : (s.freeRoom on).fwAcc = s.fwAcc := rfl
@[simp] theorem State.freeRoom_fwVer (s : State) (on : Hold → Bool) : (s.freeRoom on).fwVer = s.fwVer := rfl
@[simp] theorem State.freeRoom_time (s : State) (on : Hold → Bool) : (s.freeRoom on).time = s.time := rfl
@[simp] theorem State.freeRoom_regions (s : State) (on : Hold → Bool) : (s.freeRoom on).regions = s.regions := rfl
@[simp] theorem State.freeRoom_requests (s : State) (on : Hold → Bool) : (s.freeRoom on).requests = s.requests := rfl
@[simp] theorem State.freeRoom_pageReqs (s : State) (on : Hold → Bool) : (s.freeRoom on).pageReqs = s.pageReqs := rfl
@[simp] theorem State.freeRoom_reqSeq (s : State) (on : Hold → Bool) : (s.freeRoom on).reqSeq = s.reqSeq := rfl
@[simp] theorem State.freeRoom_events (s : State) (on : Hold → Bool) : (s.freeRoom on).events = s.events := rfl
@[simp] theorem State.freeRoom_eventNo (s : State) (on : Hold → Bool) : (s.freeRoom on).eventNo = s.eventNo := rfl
@[simp] theorem State.freeRoom_eventWait (s : State) (on : Hold → Bool) : (s.freeRoom on).eventWait = s.eventWait := rfl
@[simp] theorem State.freeRoom_dropped (s : State) (on : Hold → Bool) : (s.freeRoom on).dropped = s.dropped := rfl
@[simp] theorem State.freeRoom_spares (s : State) (on : Hold → Bool) : (s.freeRoom on).spares = s.spares := rfl
@[simp] theorem State.freeRoom_tiles (s : State) (on : Hold → Bool) : (s.freeRoom on).tiles = s.tiles := rfl
@[simp] theorem State.freeRoom_matops (s : State) (on : Hold → Bool) : (s.freeRoom on).matops = s.matops := rfl
@[simp] theorem State.freeRoom_cmds (s : State) (on : Hold → Bool) : (s.freeRoom on).cmds = s.cmds := rfl
@[simp] theorem State.freeRoom_rx (s : State) (on : Hold → Bool) : (s.freeRoom on).rx = s.rx := rfl
@[simp] theorem State.freeRoom_serves (s : State) (on : Hold → Bool) : (s.freeRoom on).serves = s.serves := rfl
@[simp] theorem State.freeRoom_sweepOut (s : State) (on : Hold → Bool) : (s.freeRoom on).sweepOut = s.sweepOut := rfl
@[simp] theorem State.freeRoom_hlc (s : State) (on : Hold → Bool) : (s.freeRoom on).hlc = s.hlc := rfl
@[simp] theorem State.freeRoom_biasHost (s : State) (on : Hold → Bool) : (s.freeRoom on).biasHost = s.biasHost := rfl
@[simp] theorem State.freeRoom_flips (s : State) (on : Hold → Bool) : (s.freeRoom on).flips = s.flips := rfl
@[simp] theorem State.freeRoom_reading (s : State) (on : Hold → Bool) : (s.freeRoom on).reading = s.reading := rfl
@[simp] theorem State.freeRoom_cxlOut (s : State) (on : Hold → Bool) : (s.freeRoom on).cxlOut = s.cxlOut := rfl
@[simp] theorem State.freeRoom_granted (s : State) (on : Hold → Bool) : (s.freeRoom on).granted = s.granted := rfl
@[simp] theorem State.freeRoom_lostPools (s : State) (on : Hold → Bool) : (s.freeRoom on).lostPools = s.lostPools := rfl
@[simp] theorem State.freeRoom_atsWait (s : State) (on : Hold → Bool) : (s.freeRoom on).atsWait = s.atsWait := rfl
@[simp] theorem State.freeRoom_atsDone (s : State) (on : Hold → Bool) : (s.freeRoom on).atsDone = s.atsDone := rfl
@[simp] theorem State.freeRoom_portWidth (s : State) (on : Hold → Bool) : (s.freeRoom on).portWidth = s.portWidth := rfl
@[simp] theorem State.freeRoom_ring (s : State) (on : Hold → Bool) : (s.freeRoom on).ring = s.ring := rfl
@[simp] theorem State.freeRoom_ergs (s : State) (on : Hold → Bool) : (s.freeRoom on).ergs = s.ergs := rfl
@[simp] theorem State.freeRoom_pending (s : State) (on : Hold → Bool) : (s.freeRoom on).pending = s.pending := rfl
@[simp] theorem State.freeRoom_links (s : State) (on : Hold → Bool) : (s.freeRoom on).links = s.links := rfl
@[simp] theorem State.freeRoom_routes (s : State) (on : Hold → Bool) : (s.freeRoom on).routes = s.routes := rfl
@[simp] theorem State.freeRoom_served (s : State) (on : Hold → Bool) : (s.freeRoom on).served = s.served := rfl
@[simp] theorem State.freeRoom_excluded (s : State) (on : Hold → Bool) : (s.freeRoom on).excluded = s.excluded := rfl
@[simp] theorem State.freeRoom_lasers (s : State) (on : Hold → Bool) : (s.freeRoom on).lasers = s.lasers := rfl
@[simp] theorem State.freeRoom_drawInt (s : State) (on : Hold → Bool) : (s.freeRoom on).drawInt = s.drawInt := rfl
@[simp] theorem State.freeRoom_drawHyst (s : State) (on : Hold → Bool) : (s.freeRoom on).drawHyst = s.drawHyst := rfl
@[simp] theorem State.freeRoom_fresh (s : State) (on : Hold → Bool) : (s.freeRoom on).fresh = s.fresh := rfl
@[simp] theorem State.freeRoom_cur (s : State) (on : Hold → Bool) : (s.freeRoom on).cur = s.cur := rfl
@[simp] theorem State.freeRoom_issueQ (s : State) (on : Hold → Bool) : (s.freeRoom on).issueQ = s.issueQ := rfl
@[simp] theorem State.freeRoom_inbox (s : State) (on : Hold → Bool) : (s.freeRoom on).inbox = s.inbox := rfl

/-! ## State.closed -/

@[simp] theorem State.closed_squads (s : State) (k : Crew) (i : Instr) : (s.closed k i).squads = s.squads := by unfold State.closed; split <;> rfl
@[simp] theorem State.closed_grids (s : State) (k : Crew) (i : Instr) : (s.closed k i).grids = s.grids := by unfold State.closed; split <;> rfl
@[simp] theorem State.closed_gridSeq (s : State) (k : Crew) (i : Instr) : (s.closed k i).gridSeq = s.gridSeq := by unfold State.closed; split <;> rfl
@[simp] theorem State.closed_held (s : State) (k : Crew) (i : Instr) : (s.closed k i).held = s.held := by unfold State.closed; split <;> rfl
@[simp] theorem State.closed_launches (s : State) (k : Crew) (i : Instr) : (s.closed k i).launches = s.launches := by unfold State.closed; split <;> rfl
@[simp] theorem State.closed_tasks (s : State) (k : Crew) (i : Instr) : (s.closed k i).tasks = s.tasks := by unfold State.closed; split <;> rfl
@[simp] theorem State.closed_taskSeq (s : State) (k : Crew) (i : Instr) : (s.closed k i).taskSeq = s.taskSeq := by unfold State.closed; split <;> rfl
@[simp] theorem State.closed_saved (s : State) (k : Crew) (i : Instr) : (s.closed k i).saved = s.saved := by unfold State.closed; split <;> rfl
@[simp] theorem State.closed_arrived (s : State) (k : Crew) (i : Instr) : (s.closed k i).arrived = s.arrived := by unfold State.closed; split <;> rfl
@[simp] theorem State.closed_boats (s : State) (k : Crew) (i : Instr) : (s.closed k i).boats = s.boats := by unfold State.closed; split <;> rfl
@[simp] theorem State.closed_boatOut (s : State) (k : Crew) (i : Instr) : (s.closed k i).boatOut = s.boatOut := by unfold State.closed; split <;> rfl
@[simp] theorem State.closed_lq (s : State) (k : Crew) (i : Instr) : (s.closed k i).lq = s.lq := by unfold State.closed; split <;> rfl
@[simp] theorem State.closed_lqCount (s : State) (k : Crew) (i : Instr) : (s.closed k i).lqCount = s.lqCount := by unfold State.closed; split <;> rfl
@[simp] theorem State.closed_lqWait (s : State) (k : Crew) (i : Instr) : (s.closed k i).lqWait = s.lqWait := by unfold State.closed; split <;> rfl
@[simp] theorem State.closed_deck (s : State) (k : Crew) (i : Instr) : (s.closed k i).deck = s.deck := by unfold State.closed; split <;> rfl
@[simp] theorem State.closed_hbm (s : State) (k : Crew) (i : Instr) : (s.closed k i).hbm = s.hbm := by unfold State.closed; split <;> rfl
@[simp] theorem State.closed_host (s : State) (k : Crew) (i : Instr) : (s.closed k i).host = s.host := by unfold State.closed; split <;> rfl
@[simp] theorem State.closed_pool (s : State) (k : Crew) (i : Instr) : (s.closed k i).pool = s.pool := by unfold State.closed; split <;> rfl
@[simp] theorem State.closed_skm (s : State) (k : Crew) (i : Instr) : (s.closed k i).skm = s.skm := by unfold State.closed; split <;> rfl
@[simp] theorem State.closed_hbmPoison (s : State) (k : Crew) (i : Instr) : (s.closed k i).hbmPoison = s.hbmPoison := by unfold State.closed; split <;> rfl
@[simp] theorem State.closed_dir (s : State) (k : Crew) (i : Instr) : (s.closed k i).dir = s.dir := by unfold State.closed; split <;> rfl
@[simp] theorem State.closed_copies (s : State) (k : Crew) (i : Instr) : (s.closed k i).copies = s.copies := by unfold State.closed; split <;> rfl
@[simp] theorem State.closed_plain (s : State) (k : Crew) (i : Instr) : (s.closed k i).plain = s.plain := by unfold State.closed; split <;> rfl
@[simp] theorem State.closed_notices (s : State) (k : Crew) (i : Instr) : (s.closed k i).notices = s.notices := by unfold State.closed; split <;> rfl
@[simp] theorem State.closed_writes (s : State) (k : Crew) (i : Instr) : (s.closed k i).writes = s.writes := by unfold State.closed; split <;> rfl
@[simp] theorem State.closed_msgs (s : State) (k : Crew) (i : Instr) : (s.closed k i).msgs = s.msgs := by unfold State.closed; split <;> rfl
@[simp] theorem State.closed_acks (s : State) (k : Crew) (i : Instr) : (s.closed k i).acks = s.acks := by unfold State.closed; split <;> rfl
@[simp] theorem State.closed_notes (s : State) (k : Crew) (i : Instr) : (s.closed k i).notes = s.notes := by unfold State.closed; split <;> rfl
@[simp] theorem State.closed_counts (s : State) (k : Crew) (i : Instr) : (s.closed k i).counts = s.counts := by unfold State.closed; split <;> rfl
@[simp] theorem State.closed_tlb (s : State) (k : Crew) (i : Instr) : (s.closed k i).tlb = s.tlb := by unfold State.closed; split <;> rfl
@[simp] theorem State.closed_walkCache (s : State) (k : Crew) (i : Instr) : (s.closed k i).walkCache = s.walkCache := by unfold State.closed; split <;> rfl
@[simp] theorem State.closed_ctxs (s : State) (k : Crew) (i : Instr) : (s.closed k i).ctxs = s.ctxs := by unfold State.closed; split <;> rfl
@[simp] theorem State.closed_dev (s : State) (k : Crew) (i : Instr) : (s.closed k i).dev = s.dev := by unfold State.closed; split <;> rfl
@[simp] theorem State.closed_spared (s : State) (k : Crew) (i : Instr) : (s.closed k i).spared = s.spared := by unfold State.closed; split <;> rfl
@[simp] theorem State.closed_fwOk (s : State) (k : Crew) (i : Instr) : (s.closed k i).fwOk = s.fwOk := by unfold State.closed; split <;> rfl
@[simp] theorem State.closed_coresUp (s : State) (k : Crew) (i : Instr) : (s.closed k i).coresUp = s.coresUp := by unfold State.closed; split <;> rfl
@[simp] theorem State.closed_hbmUp (s : State) (k : Crew) (i : Instr) : (s.closed k i).hbmUp = s.hbmUp := by unfold State.closed; split <;> rfl
@[simp] theorem State.closed_tested (s : State) (k : Crew) (i : Instr) : (s.closed k i).tested = s.tested := by unfold State.closed; split <;> rfl
@[simp] theorem State.closed_schedAge (s : State) (k : Crew) (i : Instr) : (s.closed k i).schedAge = s.schedAge := by unfold State.closed; split <;> rfl
@[simp] theorem State.closed_clkCtl (s : State) (k : Crew) (i : Instr) : (s.closed k i).clkCtl = s.clkCtl := by unfold State.closed; split <;> rfl
@[simp] theorem State.closed_fwEcdsa (s : State) (k : Crew) (i : Instr) : (s.closed k i).fwEcdsa = s.fwEcdsa := by unfold State.closed; split <;> rfl
@[simp] theorem State.closed_fwLms (s : State) (k : Crew) (i : Instr) : (s.closed k i).fwLms = s.fwLms := by unfold State.closed; split <;> rfl
@[simp] theorem State.closed_fwAcc (s : State) (k : Crew) (i : Instr) : (s.closed k i).fwAcc = s.fwAcc := by unfold State.closed; split <;> rfl
@[simp] theorem State.closed_fwVer (s : State) (k : Crew) (i : Instr) : (s.closed k i).fwVer = s.fwVer := by unfold State.closed; split <;> rfl
@[simp] theorem State.closed_time (s : State) (k : Crew) (i : Instr) : (s.closed k i).time = s.time := by unfold State.closed; split <;> rfl
@[simp] theorem State.closed_regions (s : State) (k : Crew) (i : Instr) : (s.closed k i).regions = s.regions := by unfold State.closed; split <;> rfl
@[simp] theorem State.closed_requests (s : State) (k : Crew) (i : Instr) : (s.closed k i).requests = s.requests := by unfold State.closed; split <;> rfl
@[simp] theorem State.closed_pageReqs (s : State) (k : Crew) (i : Instr) : (s.closed k i).pageReqs = s.pageReqs := by unfold State.closed; split <;> rfl
@[simp] theorem State.closed_reqSeq (s : State) (k : Crew) (i : Instr) : (s.closed k i).reqSeq = s.reqSeq := by unfold State.closed; split <;> rfl
@[simp] theorem State.closed_events (s : State) (k : Crew) (i : Instr) : (s.closed k i).events = s.events := by unfold State.closed; split <;> rfl
@[simp] theorem State.closed_eventNo (s : State) (k : Crew) (i : Instr) : (s.closed k i).eventNo = s.eventNo := by unfold State.closed; split <;> rfl
@[simp] theorem State.closed_eventWait (s : State) (k : Crew) (i : Instr) : (s.closed k i).eventWait = s.eventWait := by unfold State.closed; split <;> rfl
@[simp] theorem State.closed_dropped (s : State) (k : Crew) (i : Instr) : (s.closed k i).dropped = s.dropped := by unfold State.closed; split <;> rfl
@[simp] theorem State.closed_spares (s : State) (k : Crew) (i : Instr) : (s.closed k i).spares = s.spares := by unfold State.closed; split <;> rfl
@[simp] theorem State.closed_tiles (s : State) (k : Crew) (i : Instr) : (s.closed k i).tiles = s.tiles := by unfold State.closed; split <;> rfl
@[simp] theorem State.closed_matops (s : State) (k : Crew) (i : Instr) : (s.closed k i).matops = s.matops := by unfold State.closed; split <;> rfl
@[simp] theorem State.closed_cmds (s : State) (k : Crew) (i : Instr) : (s.closed k i).cmds = s.cmds := by unfold State.closed; split <;> rfl
@[simp] theorem State.closed_rx (s : State) (k : Crew) (i : Instr) : (s.closed k i).rx = s.rx := by unfold State.closed; split <;> rfl
@[simp] theorem State.closed_serves (s : State) (k : Crew) (i : Instr) : (s.closed k i).serves = s.serves := by unfold State.closed; split <;> rfl
@[simp] theorem State.closed_sweepOut (s : State) (k : Crew) (i : Instr) : (s.closed k i).sweepOut = s.sweepOut := by unfold State.closed; split <;> rfl
@[simp] theorem State.closed_hlc (s : State) (k : Crew) (i : Instr) : (s.closed k i).hlc = s.hlc := by unfold State.closed; split <;> rfl
@[simp] theorem State.closed_biasHost (s : State) (k : Crew) (i : Instr) : (s.closed k i).biasHost = s.biasHost := by unfold State.closed; split <;> rfl
@[simp] theorem State.closed_flips (s : State) (k : Crew) (i : Instr) : (s.closed k i).flips = s.flips := by unfold State.closed; split <;> rfl
@[simp] theorem State.closed_reading (s : State) (k : Crew) (i : Instr) : (s.closed k i).reading = s.reading := by unfold State.closed; split <;> rfl
@[simp] theorem State.closed_cxlOut (s : State) (k : Crew) (i : Instr) : (s.closed k i).cxlOut = s.cxlOut := by unfold State.closed; split <;> rfl
@[simp] theorem State.closed_granted (s : State) (k : Crew) (i : Instr) : (s.closed k i).granted = s.granted := by unfold State.closed; split <;> rfl
@[simp] theorem State.closed_lostPools (s : State) (k : Crew) (i : Instr) : (s.closed k i).lostPools = s.lostPools := by unfold State.closed; split <;> rfl
@[simp] theorem State.closed_atsWait (s : State) (k : Crew) (i : Instr) : (s.closed k i).atsWait = s.atsWait := by unfold State.closed; split <;> rfl
@[simp] theorem State.closed_atsDone (s : State) (k : Crew) (i : Instr) : (s.closed k i).atsDone = s.atsDone := by unfold State.closed; split <;> rfl
@[simp] theorem State.closed_portWidth (s : State) (k : Crew) (i : Instr) : (s.closed k i).portWidth = s.portWidth := by unfold State.closed; split <;> rfl
@[simp] theorem State.closed_ring (s : State) (k : Crew) (i : Instr) : (s.closed k i).ring = s.ring := by unfold State.closed; split <;> rfl
@[simp] theorem State.closed_ergs (s : State) (k : Crew) (i : Instr) : (s.closed k i).ergs = s.ergs := by unfold State.closed; split <;> rfl
@[simp] theorem State.closed_pending (s : State) (k : Crew) (i : Instr) : (s.closed k i).pending = s.pending := by unfold State.closed; split <;> rfl
@[simp] theorem State.closed_links (s : State) (k : Crew) (i : Instr) : (s.closed k i).links = s.links := by unfold State.closed; split <;> rfl
@[simp] theorem State.closed_routes (s : State) (k : Crew) (i : Instr) : (s.closed k i).routes = s.routes := by unfold State.closed; split <;> rfl
@[simp] theorem State.closed_served (s : State) (k : Crew) (i : Instr) : (s.closed k i).served = s.served := by unfold State.closed; split <;> rfl
@[simp] theorem State.closed_excluded (s : State) (k : Crew) (i : Instr) : (s.closed k i).excluded = s.excluded := by unfold State.closed; split <;> rfl
@[simp] theorem State.closed_lasers (s : State) (k : Crew) (i : Instr) : (s.closed k i).lasers = s.lasers := by unfold State.closed; split <;> rfl
@[simp] theorem State.closed_drawInt (s : State) (k : Crew) (i : Instr) : (s.closed k i).drawInt = s.drawInt := by unfold State.closed; split <;> rfl
@[simp] theorem State.closed_drawHyst (s : State) (k : Crew) (i : Instr) : (s.closed k i).drawHyst = s.drawHyst := by unfold State.closed; split <;> rfl
@[simp] theorem State.closed_fresh (s : State) (k : Crew) (i : Instr) : (s.closed k i).fresh = s.fresh := by unfold State.closed; split <;> rfl
@[simp] theorem State.closed_cur (s : State) (k : Crew) (i : Instr) : (s.closed k i).cur = s.cur := by unfold State.closed; split <;> rfl
@[simp] theorem State.closed_issueQ (s : State) (k : Crew) (i : Instr) : (s.closed k i).issueQ = s.issueQ := by unfold State.closed; split <;> rfl
@[simp] theorem State.closed_inbox (s : State) (k : Crew) (i : Instr) : (s.closed k i).inbox = s.inbox := by unfold State.closed; split <;> rfl

/-! ## Crew.mapT -/

@[simp] theorem Crew.mapT_id (k : Crew) (f : Nat → Thread → Thread) : (k.mapT f).id = k.id := rfl
@[simp] theorem Crew.mapT_core (k : Crew) (f : Nat → Thread → Thread) : (k.mapT f).core = k.core := rfl
@[simp] theorem Crew.mapT_part (k : Crew) (f : Nat → Thread → Thread) : (k.mapT f).part = k.part := rfl
@[simp] theorem Crew.mapT_slot (k : Crew) (f : Nat → Thread → Thread) : (k.mapT f).slot = k.slot := rfl
@[simp] theorem Crew.mapT_asid (k : Crew) (f : Nat → Thread → Thread) : (k.mapT f).asid = k.asid := rfl
@[simp] theorem Crew.mapT_squad (k : Crew) (f : Nat → Thread → Thread) : (k.mapT f).squad = k.squad := rfl
@[simp] theorem Crew.mapT_grid (k : Crew) (f : Nat → Thread → Thread) : (k.mapT f).grid = k.grid := rfl
@[simp] theorem Crew.mapT_n (k : Crew) (f : Nat → Thread → Thread) : (k.mapT f).n = k.n := rfl
@[simp] theorem Crew.mapT_m (k : Crew) (f : Nat → Thread → Thread) : (k.mapT f).m = k.m := rfl
@[simp] theorem Crew.mapT_tileSlots (k : Crew) (f : Nat → Thread → Thread) : (k.mapT f).tileSlots = k.tileSlots := rfl
@[simp] theorem Crew.mapT_s (k : Crew) (f : Nat → Thread → Thread) : (k.mapT f).s = k.s := rfl
@[simp] theorem Crew.mapT_x (k : Crew) (f : Nat → Thread → Thread) : (k.mapT f).x = k.x := rfl
@[simp] theorem Crew.mapT_cv (k : Crew) (f : Nat → Thread → Thread) : (k.mapT f).cv = k.cv := rfl
@[simp] theorem Crew.mapT_q (k : Crew) (f : Nat → Thread → Thread) : (k.mapT f).q = k.q := rfl
@[simp] theorem Crew.mapT_rep (k : Crew) (f : Nat → Thread → Thread) : (k.mapT f).rep = k.rep := rfl
@[simp] theorem Crew.mapT_mon (k : Crew) (f : Nat → Thread → Thread) : (k.mapT f).mon = k.mon := rfl
@[simp] theorem Crew.mapT_monOvf (k : Crew) (f : Nat → Thread → Thread) : (k.mapT f).monOvf = k.monOvf := rfl
@[simp] theorem Crew.mapT_icnt (k : Crew) (f : Nat → Thread → Thread) : (k.mapT f).icnt = k.icnt := rfl
@[simp] theorem Crew.mapT_cid (k : Crew) (f : Nat → Thread → Thread) : (k.mapT f).cid = k.cid := rfl
@[simp] theorem Crew.mapT_role (k : Crew) (f : Nat → Thread → Thread) : (k.mapT f).role = k.role := rfl
@[simp] theorem Crew.mapT_raised (k : Crew) (f : Nat → Thread → Thread) : (k.mapT f).raised = k.raised := rfl
@[simp] theorem Crew.mapT_age (k : Crew) (f : Nat → Thread → Thread) : (k.mapT f).age = k.age := rfl
@[simp] theorem Crew.mapT_lastIssue (k : Crew) (f : Nat → Thread → Thread) : (k.mapT f).lastIssue = k.lastIssue := rfl
@[simp] theorem Crew.mapT_passed (k : Crew) (f : Nat → Thread → Thread) : (k.mapT f).passed = k.passed := rfl
@[simp] theorem Crew.mapT_cause (k : Crew) (f : Nat → Thread → Thread) : (k.mapT f).cause = k.cause := rfl
@[simp] theorem Crew.mapT_privSave (k : Crew) (f : Nat → Thread → Thread) : (k.mapT f).privSave = k.privSave := rfl
@[simp] theorem Crew.mapT_inh (k : Crew) (f : Nat → Thread → Thread) : (k.mapT f).inh = k.inh := rfl
@[simp] theorem Crew.mapT_trapMask (k : Crew) (f : Nat → Thread → Thread) : (k.mapT f).trapMask = k.trapMask := rfl
@[simp] theorem Crew.mapT_trapInfo (k : Crew) (f : Nat → Thread → Thread) : (k.mapT f).trapInfo = k.trapInfo := rfl
@[simp] theorem Crew.mapT_repSave (k : Crew) (f : Nat → Thread → Thread) : (k.mapT f).repSave = k.repSave := rfl
@[simp] theorem Crew.mapT_repFixed (k : Crew) (f : Nat → Thread → Thread) : (k.mapT f).repFixed = k.repFixed := rfl
@[simp] theorem Crew.mapT_scr (k : Crew) (f : Nat → Thread → Thread) : (k.mapT f).scr = k.scr := rfl
@[simp] theorem Crew.mapT_tankInfo (k : Crew) (f : Nat → Thread → Thread) : (k.mapT f).tankInfo = k.tankInfo := rfl
@[simp] theorem Crew.mapT_spill (k : Crew) (f : Nat → Thread → Thread) : (k.mapT f).spill = k.spill := rfl
@[simp] theorem Crew.mapT_spillLen (k : Crew) (f : Nat → Thread → Thread) : (k.mapT f).spillLen = k.spillLen := rfl
@[simp] theorem Crew.mapT_spillBad (k : Crew) (f : Nat → Thread → Thread) : (k.mapT f).spillBad = k.spillBad := rfl
@[simp] theorem Crew.mapT_sb (k : Crew) (f : Nat → Thread → Thread) : (k.mapT f).sb = k.sb := rfl
@[simp] theorem Crew.mapT_wait (k : Crew) (f : Nat → Thread → Thread) : (k.mapT f).wait = k.wait := rfl
@[simp] theorem Crew.mapT_waitLanes (k : Crew) (f : Nat → Thread → Thread) : (k.mapT f).waitLanes = k.waitLanes := rfl
@[simp] theorem Crew.mapT_waitc (k : Crew) (f : Nat → Thread → Thread) : (k.mapT f).waitc = k.waitc := rfl
@[simp] theorem Crew.mapT_held (k : Crew) (f : Nat → Thread → Thread) : (k.mapT f).held = k.held := rfl
@[simp] theorem Crew.mapT_haltReq (k : Crew) (f : Nat → Thread → Thread) : (k.mapT f).haltReq = k.haltReq := rfl
@[simp] theorem Crew.mapT_halted (k : Crew) (f : Nat → Thread → Thread) : (k.mapT f).halted = k.halted := rfl
@[simp] theorem Crew.mapT_loads (k : Crew) (f : Nat → Thread → Thread) : (k.mapT f).loads = k.loads := rfl
@[simp] theorem Crew.mapT_replay (k : Crew) (f : Nat → Thread → Thread) : (k.mapT f).replay = k.replay := rfl
@[simp] theorem Crew.mapT_bankOut (k : Crew) (f : Nat → Thread → Thread) : (k.mapT f).bankOut = k.bankOut := rfl
@[simp] theorem Crew.mapT_torn (k : Crew) (f : Nat → Thread → Thread) : (k.mapT f).torn = k.torn := rfl
@[simp] theorem Crew.mapT_haltCode (k : Crew) (f : Nat → Thread → Thread) : (k.mapT f).haltCode = k.haltCode := rfl
@[simp] theorem Crew.mapT_s5Start (k : Crew) (f : Nat → Thread → Thread) : (k.mapT f).s5Start = k.s5Start := rfl
@[simp] theorem Crew.mapT_pool (k : Crew) (f : Nat → Thread → Thread) : (k.mapT f).pool = k.pool := rfl
@[simp] theorem Crew.mapT_task (k : Crew) (f : Nat → Thread → Thread) : (k.mapT f).task = k.task := rfl
@[simp] theorem Crew.mapT_task_idem (k : Crew) (f : Nat → Thread → Thread) : (k.mapT f).task_idem = k.task_idem := rfl
@[simp] theorem Crew.mapT_ended (k : Crew) (f : Nat → Thread → Thread) : (k.mapT f).ended = k.ended := rfl
@[simp] theorem Crew.mapT_tilesOut (k : Crew) (f : Nat → Thread → Thread) : (k.mapT f).tilesOut = k.tilesOut := rfl

/-! ## Crew.setS -/

@[simp] theorem Crew.setS_id (k : Crew) (n : Nat) (w : Word) : (k.setS n w).id = k.id := rfl
@[simp] theorem Crew.setS_core (k : Crew) (n : Nat) (w : Word) : (k.setS n w).core = k.core := rfl
@[simp] theorem Crew.setS_part (k : Crew) (n : Nat) (w : Word) : (k.setS n w).part = k.part := rfl
@[simp] theorem Crew.setS_slot (k : Crew) (n : Nat) (w : Word) : (k.setS n w).slot = k.slot := rfl
@[simp] theorem Crew.setS_asid (k : Crew) (n : Nat) (w : Word) : (k.setS n w).asid = k.asid := rfl
@[simp] theorem Crew.setS_squad (k : Crew) (n : Nat) (w : Word) : (k.setS n w).squad = k.squad := rfl
@[simp] theorem Crew.setS_grid (k : Crew) (n : Nat) (w : Word) : (k.setS n w).grid = k.grid := rfl
@[simp] theorem Crew.setS_n (k : Crew) (n : Nat) (w : Word) : (k.setS n w).n = k.n := rfl
@[simp] theorem Crew.setS_m (k : Crew) (n : Nat) (w : Word) : (k.setS n w).m = k.m := rfl
@[simp] theorem Crew.setS_tileSlots (k : Crew) (n : Nat) (w : Word) : (k.setS n w).tileSlots = k.tileSlots := rfl
@[simp] theorem Crew.setS_threads (k : Crew) (n : Nat) (w : Word) : (k.setS n w).threads = k.threads := rfl
@[simp] theorem Crew.setS_x (k : Crew) (n : Nat) (w : Word) : (k.setS n w).x = k.x := rfl
@[simp] theorem Crew.setS_cv (k : Crew) (n : Nat) (w : Word) : (k.setS n w).cv = k.cv := rfl
@[simp] theorem Crew.setS_q (k : Crew) (n : Nat) (w : Word) : (k.setS n w).q = k.q := rfl
@[simp] theorem Crew.setS_rep (k : Crew) (n : Nat) (w : Word) : (k.setS n w).rep = k.rep := rfl
@[simp] theorem Crew.setS_mon (k : Crew) (n : Nat) (w : Word) : (k.setS n w).mon = k.mon := rfl
@[simp] theorem Crew.setS_monOvf (k : Crew) (n : Nat) (w : Word) : (k.setS n w).monOvf = k.monOvf := rfl
@[simp] theorem Crew.setS_icnt (k : Crew) (n : Nat) (w : Word) : (k.setS n w).icnt = k.icnt := rfl
@[simp] theorem Crew.setS_cid (k : Crew) (n : Nat) (w : Word) : (k.setS n w).cid = k.cid := rfl
@[simp] theorem Crew.setS_role (k : Crew) (n : Nat) (w : Word) : (k.setS n w).role = k.role := rfl
@[simp] theorem Crew.setS_raised (k : Crew) (n : Nat) (w : Word) : (k.setS n w).raised = k.raised := rfl
@[simp] theorem Crew.setS_age (k : Crew) (n : Nat) (w : Word) : (k.setS n w).age = k.age := rfl
@[simp] theorem Crew.setS_lastIssue (k : Crew) (n : Nat) (w : Word) : (k.setS n w).lastIssue = k.lastIssue := rfl
@[simp] theorem Crew.setS_passed (k : Crew) (n : Nat) (w : Word) : (k.setS n w).passed = k.passed := rfl
@[simp] theorem Crew.setS_cause (k : Crew) (n : Nat) (w : Word) : (k.setS n w).cause = k.cause := rfl
@[simp] theorem Crew.setS_privSave (k : Crew) (n : Nat) (w : Word) : (k.setS n w).privSave = k.privSave := rfl
@[simp] theorem Crew.setS_inh (k : Crew) (n : Nat) (w : Word) : (k.setS n w).inh = k.inh := rfl
@[simp] theorem Crew.setS_trapMask (k : Crew) (n : Nat) (w : Word) : (k.setS n w).trapMask = k.trapMask := rfl
@[simp] theorem Crew.setS_trapInfo (k : Crew) (n : Nat) (w : Word) : (k.setS n w).trapInfo = k.trapInfo := rfl
@[simp] theorem Crew.setS_repSave (k : Crew) (n : Nat) (w : Word) : (k.setS n w).repSave = k.repSave := rfl
@[simp] theorem Crew.setS_repFixed (k : Crew) (n : Nat) (w : Word) : (k.setS n w).repFixed = k.repFixed := rfl
@[simp] theorem Crew.setS_scr (k : Crew) (n : Nat) (w : Word) : (k.setS n w).scr = k.scr := rfl
@[simp] theorem Crew.setS_tankInfo (k : Crew) (n : Nat) (w : Word) : (k.setS n w).tankInfo = k.tankInfo := rfl
@[simp] theorem Crew.setS_spill (k : Crew) (n : Nat) (w : Word) : (k.setS n w).spill = k.spill := rfl
@[simp] theorem Crew.setS_spillLen (k : Crew) (n : Nat) (w : Word) : (k.setS n w).spillLen = k.spillLen := rfl
@[simp] theorem Crew.setS_spillBad (k : Crew) (n : Nat) (w : Word) : (k.setS n w).spillBad = k.spillBad := rfl
@[simp] theorem Crew.setS_sb (k : Crew) (n : Nat) (w : Word) : (k.setS n w).sb = k.sb := rfl
@[simp] theorem Crew.setS_wait (k : Crew) (n : Nat) (w : Word) : (k.setS n w).wait = k.wait := rfl
@[simp] theorem Crew.setS_waitLanes (k : Crew) (n : Nat) (w : Word) : (k.setS n w).waitLanes = k.waitLanes := rfl
@[simp] theorem Crew.setS_waitc (k : Crew) (n : Nat) (w : Word) : (k.setS n w).waitc = k.waitc := rfl
@[simp] theorem Crew.setS_held (k : Crew) (n : Nat) (w : Word) : (k.setS n w).held = k.held := rfl
@[simp] theorem Crew.setS_haltReq (k : Crew) (n : Nat) (w : Word) : (k.setS n w).haltReq = k.haltReq := rfl
@[simp] theorem Crew.setS_halted (k : Crew) (n : Nat) (w : Word) : (k.setS n w).halted = k.halted := rfl
@[simp] theorem Crew.setS_loads (k : Crew) (n : Nat) (w : Word) : (k.setS n w).loads = k.loads := rfl
@[simp] theorem Crew.setS_replay (k : Crew) (n : Nat) (w : Word) : (k.setS n w).replay = k.replay := rfl
@[simp] theorem Crew.setS_bankOut (k : Crew) (n : Nat) (w : Word) : (k.setS n w).bankOut = k.bankOut := rfl
@[simp] theorem Crew.setS_torn (k : Crew) (n : Nat) (w : Word) : (k.setS n w).torn = k.torn := rfl
@[simp] theorem Crew.setS_haltCode (k : Crew) (n : Nat) (w : Word) : (k.setS n w).haltCode = k.haltCode := rfl
@[simp] theorem Crew.setS_s5Start (k : Crew) (n : Nat) (w : Word) : (k.setS n w).s5Start = k.s5Start := rfl
@[simp] theorem Crew.setS_pool (k : Crew) (n : Nat) (w : Word) : (k.setS n w).pool = k.pool := rfl
@[simp] theorem Crew.setS_task (k : Crew) (n : Nat) (w : Word) : (k.setS n w).task = k.task := rfl
@[simp] theorem Crew.setS_task_idem (k : Crew) (n : Nat) (w : Word) : (k.setS n w).task_idem = k.task_idem := rfl
@[simp] theorem Crew.setS_ended (k : Crew) (n : Nat) (w : Word) : (k.setS n w).ended = k.ended := rfl
@[simp] theorem Crew.setS_tilesOut (k : Crew) (n : Nat) (w : Word) : (k.setS n w).tilesOut = k.tilesOut := rfl

/-! ## Crew.setPr -/

@[simp] theorem Crew.setPr_id (k : Crew) (n : Nat) (d : DWord) : (k.setPr n d).id = k.id := rfl
@[simp] theorem Crew.setPr_core (k : Crew) (n : Nat) (d : DWord) : (k.setPr n d).core = k.core := rfl
@[simp] theorem Crew.setPr_part (k : Crew) (n : Nat) (d : DWord) : (k.setPr n d).part = k.part := rfl
@[simp] theorem Crew.setPr_slot (k : Crew) (n : Nat) (d : DWord) : (k.setPr n d).slot = k.slot := rfl
@[simp] theorem Crew.setPr_asid (k : Crew) (n : Nat) (d : DWord) : (k.setPr n d).asid = k.asid := rfl
@[simp] theorem Crew.setPr_squad (k : Crew) (n : Nat) (d : DWord) : (k.setPr n d).squad = k.squad := rfl
@[simp] theorem Crew.setPr_grid (k : Crew) (n : Nat) (d : DWord) : (k.setPr n d).grid = k.grid := rfl
@[simp] theorem Crew.setPr_n (k : Crew) (n : Nat) (d : DWord) : (k.setPr n d).n = k.n := rfl
@[simp] theorem Crew.setPr_m (k : Crew) (n : Nat) (d : DWord) : (k.setPr n d).m = k.m := rfl
@[simp] theorem Crew.setPr_tileSlots (k : Crew) (n : Nat) (d : DWord) : (k.setPr n d).tileSlots = k.tileSlots := rfl
@[simp] theorem Crew.setPr_threads (k : Crew) (n : Nat) (d : DWord) : (k.setPr n d).threads = k.threads := rfl
@[simp] theorem Crew.setPr_x (k : Crew) (n : Nat) (d : DWord) : (k.setPr n d).x = k.x := rfl
@[simp] theorem Crew.setPr_cv (k : Crew) (n : Nat) (d : DWord) : (k.setPr n d).cv = k.cv := rfl
@[simp] theorem Crew.setPr_q (k : Crew) (n : Nat) (d : DWord) : (k.setPr n d).q = k.q := rfl
@[simp] theorem Crew.setPr_rep (k : Crew) (n : Nat) (d : DWord) : (k.setPr n d).rep = k.rep := rfl
@[simp] theorem Crew.setPr_mon (k : Crew) (n : Nat) (d : DWord) : (k.setPr n d).mon = k.mon := rfl
@[simp] theorem Crew.setPr_monOvf (k : Crew) (n : Nat) (d : DWord) : (k.setPr n d).monOvf = k.monOvf := rfl
@[simp] theorem Crew.setPr_icnt (k : Crew) (n : Nat) (d : DWord) : (k.setPr n d).icnt = k.icnt := rfl
@[simp] theorem Crew.setPr_cid (k : Crew) (n : Nat) (d : DWord) : (k.setPr n d).cid = k.cid := rfl
@[simp] theorem Crew.setPr_role (k : Crew) (n : Nat) (d : DWord) : (k.setPr n d).role = k.role := rfl
@[simp] theorem Crew.setPr_raised (k : Crew) (n : Nat) (d : DWord) : (k.setPr n d).raised = k.raised := rfl
@[simp] theorem Crew.setPr_age (k : Crew) (n : Nat) (d : DWord) : (k.setPr n d).age = k.age := rfl
@[simp] theorem Crew.setPr_lastIssue (k : Crew) (n : Nat) (d : DWord) : (k.setPr n d).lastIssue = k.lastIssue := rfl
@[simp] theorem Crew.setPr_passed (k : Crew) (n : Nat) (d : DWord) : (k.setPr n d).passed = k.passed := rfl
@[simp] theorem Crew.setPr_cause (k : Crew) (n : Nat) (d : DWord) : (k.setPr n d).cause = k.cause := rfl
@[simp] theorem Crew.setPr_privSave (k : Crew) (n : Nat) (d : DWord) : (k.setPr n d).privSave = k.privSave := rfl
@[simp] theorem Crew.setPr_inh (k : Crew) (n : Nat) (d : DWord) : (k.setPr n d).inh = k.inh := rfl
@[simp] theorem Crew.setPr_trapMask (k : Crew) (n : Nat) (d : DWord) : (k.setPr n d).trapMask = k.trapMask := rfl
@[simp] theorem Crew.setPr_trapInfo (k : Crew) (n : Nat) (d : DWord) : (k.setPr n d).trapInfo = k.trapInfo := rfl
@[simp] theorem Crew.setPr_repSave (k : Crew) (n : Nat) (d : DWord) : (k.setPr n d).repSave = k.repSave := rfl
@[simp] theorem Crew.setPr_repFixed (k : Crew) (n : Nat) (d : DWord) : (k.setPr n d).repFixed = k.repFixed := rfl
@[simp] theorem Crew.setPr_scr (k : Crew) (n : Nat) (d : DWord) : (k.setPr n d).scr = k.scr := rfl
@[simp] theorem Crew.setPr_tankInfo (k : Crew) (n : Nat) (d : DWord) : (k.setPr n d).tankInfo = k.tankInfo := rfl
@[simp] theorem Crew.setPr_spill (k : Crew) (n : Nat) (d : DWord) : (k.setPr n d).spill = k.spill := rfl
@[simp] theorem Crew.setPr_spillLen (k : Crew) (n : Nat) (d : DWord) : (k.setPr n d).spillLen = k.spillLen := rfl
@[simp] theorem Crew.setPr_spillBad (k : Crew) (n : Nat) (d : DWord) : (k.setPr n d).spillBad = k.spillBad := rfl
@[simp] theorem Crew.setPr_sb (k : Crew) (n : Nat) (d : DWord) : (k.setPr n d).sb = k.sb := rfl
@[simp] theorem Crew.setPr_wait (k : Crew) (n : Nat) (d : DWord) : (k.setPr n d).wait = k.wait := rfl
@[simp] theorem Crew.setPr_waitLanes (k : Crew) (n : Nat) (d : DWord) : (k.setPr n d).waitLanes = k.waitLanes := rfl
@[simp] theorem Crew.setPr_waitc (k : Crew) (n : Nat) (d : DWord) : (k.setPr n d).waitc = k.waitc := rfl
@[simp] theorem Crew.setPr_held (k : Crew) (n : Nat) (d : DWord) : (k.setPr n d).held = k.held := rfl
@[simp] theorem Crew.setPr_haltReq (k : Crew) (n : Nat) (d : DWord) : (k.setPr n d).haltReq = k.haltReq := rfl
@[simp] theorem Crew.setPr_halted (k : Crew) (n : Nat) (d : DWord) : (k.setPr n d).halted = k.halted := rfl
@[simp] theorem Crew.setPr_loads (k : Crew) (n : Nat) (d : DWord) : (k.setPr n d).loads = k.loads := rfl
@[simp] theorem Crew.setPr_replay (k : Crew) (n : Nat) (d : DWord) : (k.setPr n d).replay = k.replay := rfl
@[simp] theorem Crew.setPr_bankOut (k : Crew) (n : Nat) (d : DWord) : (k.setPr n d).bankOut = k.bankOut := rfl
@[simp] theorem Crew.setPr_torn (k : Crew) (n : Nat) (d : DWord) : (k.setPr n d).torn = k.torn := rfl
@[simp] theorem Crew.setPr_haltCode (k : Crew) (n : Nat) (d : DWord) : (k.setPr n d).haltCode = k.haltCode := rfl
@[simp] theorem Crew.setPr_s5Start (k : Crew) (n : Nat) (d : DWord) : (k.setPr n d).s5Start = k.s5Start := rfl
@[simp] theorem Crew.setPr_pool (k : Crew) (n : Nat) (d : DWord) : (k.setPr n d).pool = k.pool := rfl
@[simp] theorem Crew.setPr_task (k : Crew) (n : Nat) (d : DWord) : (k.setPr n d).task = k.task := rfl
@[simp] theorem Crew.setPr_task_idem (k : Crew) (n : Nat) (d : DWord) : (k.setPr n d).task_idem = k.task_idem := rfl
@[simp] theorem Crew.setPr_ended (k : Crew) (n : Nat) (d : DWord) : (k.setPr n d).ended = k.ended := rfl
@[simp] theorem Crew.setPr_tilesOut (k : Crew) (n : Nat) (d : DWord) : (k.setPr n d).tilesOut = k.tilesOut := rfl

/-! ## Crew.writeV -/

@[simp] theorem Crew.writeV_id (k : Crew) (y l : Nat) (a : Lanes) (f : Nat → Thread → List (Nat × Word)) : (k.writeV y l a f).id = k.id := rfl
@[simp] theorem Crew.writeV_core (k : Crew) (y l : Nat) (a : Lanes) (f : Nat → Thread → List (Nat × Word)) : (k.writeV y l a f).core = k.core := rfl
@[simp] theorem Crew.writeV_part (k : Crew) (y l : Nat) (a : Lanes) (f : Nat → Thread → List (Nat × Word)) : (k.writeV y l a f).part = k.part := rfl
@[simp] theorem Crew.writeV_slot (k : Crew) (y l : Nat) (a : Lanes) (f : Nat → Thread → List (Nat × Word)) : (k.writeV y l a f).slot = k.slot := rfl
@[simp] theorem Crew.writeV_asid (k : Crew) (y l : Nat) (a : Lanes) (f : Nat → Thread → List (Nat × Word)) : (k.writeV y l a f).asid = k.asid := rfl
@[simp] theorem Crew.writeV_squad (k : Crew) (y l : Nat) (a : Lanes) (f : Nat → Thread → List (Nat × Word)) : (k.writeV y l a f).squad = k.squad := rfl
@[simp] theorem Crew.writeV_grid (k : Crew) (y l : Nat) (a : Lanes) (f : Nat → Thread → List (Nat × Word)) : (k.writeV y l a f).grid = k.grid := rfl
@[simp] theorem Crew.writeV_n (k : Crew) (y l : Nat) (a : Lanes) (f : Nat → Thread → List (Nat × Word)) : (k.writeV y l a f).n = k.n := rfl
@[simp] theorem Crew.writeV_m (k : Crew) (y l : Nat) (a : Lanes) (f : Nat → Thread → List (Nat × Word)) : (k.writeV y l a f).m = k.m := rfl
@[simp] theorem Crew.writeV_tileSlots (k : Crew) (y l : Nat) (a : Lanes) (f : Nat → Thread → List (Nat × Word)) : (k.writeV y l a f).tileSlots = k.tileSlots := rfl
@[simp] theorem Crew.writeV_s (k : Crew) (y l : Nat) (a : Lanes) (f : Nat → Thread → List (Nat × Word)) : (k.writeV y l a f).s = k.s := rfl
@[simp] theorem Crew.writeV_x (k : Crew) (y l : Nat) (a : Lanes) (f : Nat → Thread → List (Nat × Word)) : (k.writeV y l a f).x = k.x := rfl
@[simp] theorem Crew.writeV_cv (k : Crew) (y l : Nat) (a : Lanes) (f : Nat → Thread → List (Nat × Word)) : (k.writeV y l a f).cv = k.cv := rfl
@[simp] theorem Crew.writeV_q (k : Crew) (y l : Nat) (a : Lanes) (f : Nat → Thread → List (Nat × Word)) : (k.writeV y l a f).q = k.q := rfl
@[simp] theorem Crew.writeV_rep (k : Crew) (y l : Nat) (a : Lanes) (f : Nat → Thread → List (Nat × Word)) : (k.writeV y l a f).rep = k.rep := rfl
@[simp] theorem Crew.writeV_mon (k : Crew) (y l : Nat) (a : Lanes) (f : Nat → Thread → List (Nat × Word)) : (k.writeV y l a f).mon = k.mon := rfl
@[simp] theorem Crew.writeV_monOvf (k : Crew) (y l : Nat) (a : Lanes) (f : Nat → Thread → List (Nat × Word)) : (k.writeV y l a f).monOvf = k.monOvf := rfl
@[simp] theorem Crew.writeV_icnt (k : Crew) (y l : Nat) (a : Lanes) (f : Nat → Thread → List (Nat × Word)) : (k.writeV y l a f).icnt = k.icnt := rfl
@[simp] theorem Crew.writeV_cid (k : Crew) (y l : Nat) (a : Lanes) (f : Nat → Thread → List (Nat × Word)) : (k.writeV y l a f).cid = k.cid := rfl
@[simp] theorem Crew.writeV_role (k : Crew) (y l : Nat) (a : Lanes) (f : Nat → Thread → List (Nat × Word)) : (k.writeV y l a f).role = k.role := rfl
@[simp] theorem Crew.writeV_raised (k : Crew) (y l : Nat) (a : Lanes) (f : Nat → Thread → List (Nat × Word)) : (k.writeV y l a f).raised = k.raised := rfl
@[simp] theorem Crew.writeV_age (k : Crew) (y l : Nat) (a : Lanes) (f : Nat → Thread → List (Nat × Word)) : (k.writeV y l a f).age = k.age := rfl
@[simp] theorem Crew.writeV_lastIssue (k : Crew) (y l : Nat) (a : Lanes) (f : Nat → Thread → List (Nat × Word)) : (k.writeV y l a f).lastIssue = k.lastIssue := rfl
@[simp] theorem Crew.writeV_passed (k : Crew) (y l : Nat) (a : Lanes) (f : Nat → Thread → List (Nat × Word)) : (k.writeV y l a f).passed = k.passed := rfl
@[simp] theorem Crew.writeV_cause (k : Crew) (y l : Nat) (a : Lanes) (f : Nat → Thread → List (Nat × Word)) : (k.writeV y l a f).cause = k.cause := rfl
@[simp] theorem Crew.writeV_privSave (k : Crew) (y l : Nat) (a : Lanes) (f : Nat → Thread → List (Nat × Word)) : (k.writeV y l a f).privSave = k.privSave := rfl
@[simp] theorem Crew.writeV_inh (k : Crew) (y l : Nat) (a : Lanes) (f : Nat → Thread → List (Nat × Word)) : (k.writeV y l a f).inh = k.inh := rfl
@[simp] theorem Crew.writeV_trapMask (k : Crew) (y l : Nat) (a : Lanes) (f : Nat → Thread → List (Nat × Word)) : (k.writeV y l a f).trapMask = k.trapMask := rfl
@[simp] theorem Crew.writeV_trapInfo (k : Crew) (y l : Nat) (a : Lanes) (f : Nat → Thread → List (Nat × Word)) : (k.writeV y l a f).trapInfo = k.trapInfo := rfl
@[simp] theorem Crew.writeV_repSave (k : Crew) (y l : Nat) (a : Lanes) (f : Nat → Thread → List (Nat × Word)) : (k.writeV y l a f).repSave = k.repSave := rfl
@[simp] theorem Crew.writeV_repFixed (k : Crew) (y l : Nat) (a : Lanes) (f : Nat → Thread → List (Nat × Word)) : (k.writeV y l a f).repFixed = k.repFixed := rfl
@[simp] theorem Crew.writeV_scr (k : Crew) (y l : Nat) (a : Lanes) (f : Nat → Thread → List (Nat × Word)) : (k.writeV y l a f).scr = k.scr := rfl
@[simp] theorem Crew.writeV_tankInfo (k : Crew) (y l : Nat) (a : Lanes) (f : Nat → Thread → List (Nat × Word)) : (k.writeV y l a f).tankInfo = k.tankInfo := rfl
@[simp] theorem Crew.writeV_spill (k : Crew) (y l : Nat) (a : Lanes) (f : Nat → Thread → List (Nat × Word)) : (k.writeV y l a f).spill = k.spill := rfl
@[simp] theorem Crew.writeV_spillLen (k : Crew) (y l : Nat) (a : Lanes) (f : Nat → Thread → List (Nat × Word)) : (k.writeV y l a f).spillLen = k.spillLen := rfl
@[simp] theorem Crew.writeV_spillBad (k : Crew) (y l : Nat) (a : Lanes) (f : Nat → Thread → List (Nat × Word)) : (k.writeV y l a f).spillBad = k.spillBad := rfl
@[simp] theorem Crew.writeV_sb (k : Crew) (y l : Nat) (a : Lanes) (f : Nat → Thread → List (Nat × Word)) : (k.writeV y l a f).sb = k.sb := rfl
@[simp] theorem Crew.writeV_wait (k : Crew) (y l : Nat) (a : Lanes) (f : Nat → Thread → List (Nat × Word)) : (k.writeV y l a f).wait = k.wait := rfl
@[simp] theorem Crew.writeV_waitLanes (k : Crew) (y l : Nat) (a : Lanes) (f : Nat → Thread → List (Nat × Word)) : (k.writeV y l a f).waitLanes = k.waitLanes := rfl
@[simp] theorem Crew.writeV_waitc (k : Crew) (y l : Nat) (a : Lanes) (f : Nat → Thread → List (Nat × Word)) : (k.writeV y l a f).waitc = k.waitc := rfl
@[simp] theorem Crew.writeV_held (k : Crew) (y l : Nat) (a : Lanes) (f : Nat → Thread → List (Nat × Word)) : (k.writeV y l a f).held = k.held := rfl
@[simp] theorem Crew.writeV_haltReq (k : Crew) (y l : Nat) (a : Lanes) (f : Nat → Thread → List (Nat × Word)) : (k.writeV y l a f).haltReq = k.haltReq := rfl
@[simp] theorem Crew.writeV_halted (k : Crew) (y l : Nat) (a : Lanes) (f : Nat → Thread → List (Nat × Word)) : (k.writeV y l a f).halted = k.halted := rfl
@[simp] theorem Crew.writeV_loads (k : Crew) (y l : Nat) (a : Lanes) (f : Nat → Thread → List (Nat × Word)) : (k.writeV y l a f).loads = k.loads := rfl
@[simp] theorem Crew.writeV_replay (k : Crew) (y l : Nat) (a : Lanes) (f : Nat → Thread → List (Nat × Word)) : (k.writeV y l a f).replay = k.replay := rfl
@[simp] theorem Crew.writeV_bankOut (k : Crew) (y l : Nat) (a : Lanes) (f : Nat → Thread → List (Nat × Word)) : (k.writeV y l a f).bankOut = k.bankOut := rfl
@[simp] theorem Crew.writeV_torn (k : Crew) (y l : Nat) (a : Lanes) (f : Nat → Thread → List (Nat × Word)) : (k.writeV y l a f).torn = k.torn := rfl
@[simp] theorem Crew.writeV_haltCode (k : Crew) (y l : Nat) (a : Lanes) (f : Nat → Thread → List (Nat × Word)) : (k.writeV y l a f).haltCode = k.haltCode := rfl
@[simp] theorem Crew.writeV_s5Start (k : Crew) (y l : Nat) (a : Lanes) (f : Nat → Thread → List (Nat × Word)) : (k.writeV y l a f).s5Start = k.s5Start := rfl
@[simp] theorem Crew.writeV_pool (k : Crew) (y l : Nat) (a : Lanes) (f : Nat → Thread → List (Nat × Word)) : (k.writeV y l a f).pool = k.pool := rfl
@[simp] theorem Crew.writeV_task (k : Crew) (y l : Nat) (a : Lanes) (f : Nat → Thread → List (Nat × Word)) : (k.writeV y l a f).task = k.task := rfl
@[simp] theorem Crew.writeV_task_idem (k : Crew) (y l : Nat) (a : Lanes) (f : Nat → Thread → List (Nat × Word)) : (k.writeV y l a f).task_idem = k.task_idem := rfl
@[simp] theorem Crew.writeV_ended (k : Crew) (y l : Nat) (a : Lanes) (f : Nat → Thread → List (Nat × Word)) : (k.writeV y l a f).ended = k.ended := rfl
@[simp] theorem Crew.writeV_tilesOut (k : Crew) (y l : Nat) (a : Lanes) (f : Nat → Thread → List (Nat × Word)) : (k.writeV y l a f).tilesOut = k.tilesOut := rfl

/-! ## Crew.writeP -/

@[simp] theorem Crew.writeP_id (k : Crew) (a : Lanes) (n : Nat) (f : Nat → Thread → Bool) : (k.writeP a n f).id = k.id := rfl
@[simp] theorem Crew.writeP_core (k : Crew) (a : Lanes) (n : Nat) (f : Nat → Thread → Bool) : (k.writeP a n f).core = k.core := rfl
@[simp] theorem Crew.writeP_part (k : Crew) (a : Lanes) (n : Nat) (f : Nat → Thread → Bool) : (k.writeP a n f).part = k.part := rfl
@[simp] theorem Crew.writeP_slot (k : Crew) (a : Lanes) (n : Nat) (f : Nat → Thread → Bool) : (k.writeP a n f).slot = k.slot := rfl
@[simp] theorem Crew.writeP_asid (k : Crew) (a : Lanes) (n : Nat) (f : Nat → Thread → Bool) : (k.writeP a n f).asid = k.asid := rfl
@[simp] theorem Crew.writeP_squad (k : Crew) (a : Lanes) (n : Nat) (f : Nat → Thread → Bool) : (k.writeP a n f).squad = k.squad := rfl
@[simp] theorem Crew.writeP_grid (k : Crew) (a : Lanes) (n : Nat) (f : Nat → Thread → Bool) : (k.writeP a n f).grid = k.grid := rfl
@[simp] theorem Crew.writeP_n (k : Crew) (a : Lanes) (n : Nat) (f : Nat → Thread → Bool) : (k.writeP a n f).n = k.n := rfl
@[simp] theorem Crew.writeP_m (k : Crew) (a : Lanes) (n : Nat) (f : Nat → Thread → Bool) : (k.writeP a n f).m = k.m := rfl
@[simp] theorem Crew.writeP_tileSlots (k : Crew) (a : Lanes) (n : Nat) (f : Nat → Thread → Bool) : (k.writeP a n f).tileSlots = k.tileSlots := rfl
@[simp] theorem Crew.writeP_s (k : Crew) (a : Lanes) (n : Nat) (f : Nat → Thread → Bool) : (k.writeP a n f).s = k.s := rfl
@[simp] theorem Crew.writeP_x (k : Crew) (a : Lanes) (n : Nat) (f : Nat → Thread → Bool) : (k.writeP a n f).x = k.x := rfl
@[simp] theorem Crew.writeP_cv (k : Crew) (a : Lanes) (n : Nat) (f : Nat → Thread → Bool) : (k.writeP a n f).cv = k.cv := rfl
@[simp] theorem Crew.writeP_q (k : Crew) (a : Lanes) (n : Nat) (f : Nat → Thread → Bool) : (k.writeP a n f).q = k.q := rfl
@[simp] theorem Crew.writeP_rep (k : Crew) (a : Lanes) (n : Nat) (f : Nat → Thread → Bool) : (k.writeP a n f).rep = k.rep := rfl
@[simp] theorem Crew.writeP_mon (k : Crew) (a : Lanes) (n : Nat) (f : Nat → Thread → Bool) : (k.writeP a n f).mon = k.mon := rfl
@[simp] theorem Crew.writeP_monOvf (k : Crew) (a : Lanes) (n : Nat) (f : Nat → Thread → Bool) : (k.writeP a n f).monOvf = k.monOvf := rfl
@[simp] theorem Crew.writeP_icnt (k : Crew) (a : Lanes) (n : Nat) (f : Nat → Thread → Bool) : (k.writeP a n f).icnt = k.icnt := rfl
@[simp] theorem Crew.writeP_cid (k : Crew) (a : Lanes) (n : Nat) (f : Nat → Thread → Bool) : (k.writeP a n f).cid = k.cid := rfl
@[simp] theorem Crew.writeP_role (k : Crew) (a : Lanes) (n : Nat) (f : Nat → Thread → Bool) : (k.writeP a n f).role = k.role := rfl
@[simp] theorem Crew.writeP_raised (k : Crew) (a : Lanes) (n : Nat) (f : Nat → Thread → Bool) : (k.writeP a n f).raised = k.raised := rfl
@[simp] theorem Crew.writeP_age (k : Crew) (a : Lanes) (n : Nat) (f : Nat → Thread → Bool) : (k.writeP a n f).age = k.age := rfl
@[simp] theorem Crew.writeP_lastIssue (k : Crew) (a : Lanes) (n : Nat) (f : Nat → Thread → Bool) : (k.writeP a n f).lastIssue = k.lastIssue := rfl
@[simp] theorem Crew.writeP_passed (k : Crew) (a : Lanes) (n : Nat) (f : Nat → Thread → Bool) : (k.writeP a n f).passed = k.passed := rfl
@[simp] theorem Crew.writeP_cause (k : Crew) (a : Lanes) (n : Nat) (f : Nat → Thread → Bool) : (k.writeP a n f).cause = k.cause := rfl
@[simp] theorem Crew.writeP_privSave (k : Crew) (a : Lanes) (n : Nat) (f : Nat → Thread → Bool) : (k.writeP a n f).privSave = k.privSave := rfl
@[simp] theorem Crew.writeP_inh (k : Crew) (a : Lanes) (n : Nat) (f : Nat → Thread → Bool) : (k.writeP a n f).inh = k.inh := rfl
@[simp] theorem Crew.writeP_trapMask (k : Crew) (a : Lanes) (n : Nat) (f : Nat → Thread → Bool) : (k.writeP a n f).trapMask = k.trapMask := rfl
@[simp] theorem Crew.writeP_trapInfo (k : Crew) (a : Lanes) (n : Nat) (f : Nat → Thread → Bool) : (k.writeP a n f).trapInfo = k.trapInfo := rfl
@[simp] theorem Crew.writeP_repSave (k : Crew) (a : Lanes) (n : Nat) (f : Nat → Thread → Bool) : (k.writeP a n f).repSave = k.repSave := rfl
@[simp] theorem Crew.writeP_repFixed (k : Crew) (a : Lanes) (n : Nat) (f : Nat → Thread → Bool) : (k.writeP a n f).repFixed = k.repFixed := rfl
@[simp] theorem Crew.writeP_scr (k : Crew) (a : Lanes) (n : Nat) (f : Nat → Thread → Bool) : (k.writeP a n f).scr = k.scr := rfl
@[simp] theorem Crew.writeP_tankInfo (k : Crew) (a : Lanes) (n : Nat) (f : Nat → Thread → Bool) : (k.writeP a n f).tankInfo = k.tankInfo := rfl
@[simp] theorem Crew.writeP_spill (k : Crew) (a : Lanes) (n : Nat) (f : Nat → Thread → Bool) : (k.writeP a n f).spill = k.spill := rfl
@[simp] theorem Crew.writeP_spillLen (k : Crew) (a : Lanes) (n : Nat) (f : Nat → Thread → Bool) : (k.writeP a n f).spillLen = k.spillLen := rfl
@[simp] theorem Crew.writeP_spillBad (k : Crew) (a : Lanes) (n : Nat) (f : Nat → Thread → Bool) : (k.writeP a n f).spillBad = k.spillBad := rfl
@[simp] theorem Crew.writeP_sb (k : Crew) (a : Lanes) (n : Nat) (f : Nat → Thread → Bool) : (k.writeP a n f).sb = k.sb := rfl
@[simp] theorem Crew.writeP_wait (k : Crew) (a : Lanes) (n : Nat) (f : Nat → Thread → Bool) : (k.writeP a n f).wait = k.wait := rfl
@[simp] theorem Crew.writeP_waitLanes (k : Crew) (a : Lanes) (n : Nat) (f : Nat → Thread → Bool) : (k.writeP a n f).waitLanes = k.waitLanes := rfl
@[simp] theorem Crew.writeP_waitc (k : Crew) (a : Lanes) (n : Nat) (f : Nat → Thread → Bool) : (k.writeP a n f).waitc = k.waitc := rfl
@[simp] theorem Crew.writeP_held (k : Crew) (a : Lanes) (n : Nat) (f : Nat → Thread → Bool) : (k.writeP a n f).held = k.held := rfl
@[simp] theorem Crew.writeP_haltReq (k : Crew) (a : Lanes) (n : Nat) (f : Nat → Thread → Bool) : (k.writeP a n f).haltReq = k.haltReq := rfl
@[simp] theorem Crew.writeP_halted (k : Crew) (a : Lanes) (n : Nat) (f : Nat → Thread → Bool) : (k.writeP a n f).halted = k.halted := rfl
@[simp] theorem Crew.writeP_loads (k : Crew) (a : Lanes) (n : Nat) (f : Nat → Thread → Bool) : (k.writeP a n f).loads = k.loads := rfl
@[simp] theorem Crew.writeP_replay (k : Crew) (a : Lanes) (n : Nat) (f : Nat → Thread → Bool) : (k.writeP a n f).replay = k.replay := rfl
@[simp] theorem Crew.writeP_bankOut (k : Crew) (a : Lanes) (n : Nat) (f : Nat → Thread → Bool) : (k.writeP a n f).bankOut = k.bankOut := rfl
@[simp] theorem Crew.writeP_torn (k : Crew) (a : Lanes) (n : Nat) (f : Nat → Thread → Bool) : (k.writeP a n f).torn = k.torn := rfl
@[simp] theorem Crew.writeP_haltCode (k : Crew) (a : Lanes) (n : Nat) (f : Nat → Thread → Bool) : (k.writeP a n f).haltCode = k.haltCode := rfl
@[simp] theorem Crew.writeP_s5Start (k : Crew) (a : Lanes) (n : Nat) (f : Nat → Thread → Bool) : (k.writeP a n f).s5Start = k.s5Start := rfl
@[simp] theorem Crew.writeP_pool (k : Crew) (a : Lanes) (n : Nat) (f : Nat → Thread → Bool) : (k.writeP a n f).pool = k.pool := rfl
@[simp] theorem Crew.writeP_task (k : Crew) (a : Lanes) (n : Nat) (f : Nat → Thread → Bool) : (k.writeP a n f).task = k.task := rfl
@[simp] theorem Crew.writeP_task_idem (k : Crew) (a : Lanes) (n : Nat) (f : Nat → Thread → Bool) : (k.writeP a n f).task_idem = k.task_idem := rfl
@[simp] theorem Crew.writeP_ended (k : Crew) (a : Lanes) (n : Nat) (f : Nat → Thread → Bool) : (k.writeP a n f).ended = k.ended := rfl
@[simp] theorem Crew.writeP_tilesOut (k : Crew) (a : Lanes) (n : Nat) (f : Nat → Thread → Bool) : (k.writeP a n f).tilesOut = k.tilesOut := rfl

/-! ## Crew.advance -/

@[simp] theorem Crew.advance_id (k : Crew) (i : Instr) (a : Lanes) (n : Nat) : (k.advance i a n).id = k.id := by unfold Crew.advance; split <;> rfl
@[simp] theorem Crew.advance_core (k : Crew) (i : Instr) (a : Lanes) (n : Nat) : (k.advance i a n).core = k.core := by unfold Crew.advance; split <;> rfl
@[simp] theorem Crew.advance_part (k : Crew) (i : Instr) (a : Lanes) (n : Nat) : (k.advance i a n).part = k.part := by unfold Crew.advance; split <;> rfl
@[simp] theorem Crew.advance_slot (k : Crew) (i : Instr) (a : Lanes) (n : Nat) : (k.advance i a n).slot = k.slot := by unfold Crew.advance; split <;> rfl
@[simp] theorem Crew.advance_asid (k : Crew) (i : Instr) (a : Lanes) (n : Nat) : (k.advance i a n).asid = k.asid := by unfold Crew.advance; split <;> rfl
@[simp] theorem Crew.advance_squad (k : Crew) (i : Instr) (a : Lanes) (n : Nat) : (k.advance i a n).squad = k.squad := by unfold Crew.advance; split <;> rfl
@[simp] theorem Crew.advance_grid (k : Crew) (i : Instr) (a : Lanes) (n : Nat) : (k.advance i a n).grid = k.grid := by unfold Crew.advance; split <;> rfl
@[simp] theorem Crew.advance_n (k : Crew) (i : Instr) (a : Lanes) (n : Nat) : (k.advance i a n).n = k.n := by unfold Crew.advance; split <;> rfl
@[simp] theorem Crew.advance_m (k : Crew) (i : Instr) (a : Lanes) (n : Nat) : (k.advance i a n).m = k.m := by unfold Crew.advance; split <;> rfl
@[simp] theorem Crew.advance_tileSlots (k : Crew) (i : Instr) (a : Lanes) (n : Nat) : (k.advance i a n).tileSlots = k.tileSlots := by unfold Crew.advance; split <;> rfl
@[simp] theorem Crew.advance_s (k : Crew) (i : Instr) (a : Lanes) (n : Nat) : (k.advance i a n).s = k.s := by unfold Crew.advance; split <;> rfl
@[simp] theorem Crew.advance_x (k : Crew) (i : Instr) (a : Lanes) (n : Nat) : (k.advance i a n).x = k.x := by unfold Crew.advance; split <;> rfl
@[simp] theorem Crew.advance_cv (k : Crew) (i : Instr) (a : Lanes) (n : Nat) : (k.advance i a n).cv = k.cv := by unfold Crew.advance; split <;> rfl
@[simp] theorem Crew.advance_q (k : Crew) (i : Instr) (a : Lanes) (n : Nat) : (k.advance i a n).q = k.q := by unfold Crew.advance; split <;> rfl
@[simp] theorem Crew.advance_mon (k : Crew) (i : Instr) (a : Lanes) (n : Nat) : (k.advance i a n).mon = k.mon := by unfold Crew.advance; split <;> rfl
@[simp] theorem Crew.advance_monOvf (k : Crew) (i : Instr) (a : Lanes) (n : Nat) : (k.advance i a n).monOvf = k.monOvf := by unfold Crew.advance; split <;> rfl
@[simp] theorem Crew.advance_icnt (k : Crew) (i : Instr) (a : Lanes) (n : Nat) : (k.advance i a n).icnt = k.icnt := by unfold Crew.advance; split <;> rfl
@[simp] theorem Crew.advance_cid (k : Crew) (i : Instr) (a : Lanes) (n : Nat) : (k.advance i a n).cid = k.cid := by unfold Crew.advance; split <;> rfl
@[simp] theorem Crew.advance_role (k : Crew) (i : Instr) (a : Lanes) (n : Nat) : (k.advance i a n).role = k.role := by unfold Crew.advance; split <;> rfl
@[simp] theorem Crew.advance_cause (k : Crew) (i : Instr) (a : Lanes) (n : Nat) : (k.advance i a n).cause = k.cause := by unfold Crew.advance; split <;> rfl
@[simp] theorem Crew.advance_privSave (k : Crew) (i : Instr) (a : Lanes) (n : Nat) : (k.advance i a n).privSave = k.privSave := by unfold Crew.advance; split <;> rfl
@[simp] theorem Crew.advance_inh (k : Crew) (i : Instr) (a : Lanes) (n : Nat) : (k.advance i a n).inh = k.inh := by unfold Crew.advance; split <;> rfl
@[simp] theorem Crew.advance_trapMask (k : Crew) (i : Instr) (a : Lanes) (n : Nat) : (k.advance i a n).trapMask = k.trapMask := by unfold Crew.advance; split <;> rfl
@[simp] theorem Crew.advance_trapInfo (k : Crew) (i : Instr) (a : Lanes) (n : Nat) : (k.advance i a n).trapInfo = k.trapInfo := by unfold Crew.advance; split <;> rfl
@[simp] theorem Crew.advance_repSave (k : Crew) (i : Instr) (a : Lanes) (n : Nat) : (k.advance i a n).repSave = k.repSave := by unfold Crew.advance; split <;> rfl
@[simp] theorem Crew.advance_repFixed (k : Crew) (i : Instr) (a : Lanes) (n : Nat) : (k.advance i a n).repFixed = k.repFixed := by unfold Crew.advance; split <;> rfl
@[simp] theorem Crew.advance_scr (k : Crew) (i : Instr) (a : Lanes) (n : Nat) : (k.advance i a n).scr = k.scr := by unfold Crew.advance; split <;> rfl
@[simp] theorem Crew.advance_tankInfo (k : Crew) (i : Instr) (a : Lanes) (n : Nat) : (k.advance i a n).tankInfo = k.tankInfo := by unfold Crew.advance; split <;> rfl
@[simp] theorem Crew.advance_spill (k : Crew) (i : Instr) (a : Lanes) (n : Nat) : (k.advance i a n).spill = k.spill := by unfold Crew.advance; split <;> rfl
@[simp] theorem Crew.advance_spillLen (k : Crew) (i : Instr) (a : Lanes) (n : Nat) : (k.advance i a n).spillLen = k.spillLen := by unfold Crew.advance; split <;> rfl
@[simp] theorem Crew.advance_spillBad (k : Crew) (i : Instr) (a : Lanes) (n : Nat) : (k.advance i a n).spillBad = k.spillBad := by unfold Crew.advance; split <;> rfl
@[simp] theorem Crew.advance_sb (k : Crew) (i : Instr) (a : Lanes) (n : Nat) : (k.advance i a n).sb = k.sb := by unfold Crew.advance; split <;> rfl
@[simp] theorem Crew.advance_wait (k : Crew) (i : Instr) (a : Lanes) (n : Nat) : (k.advance i a n).wait = k.wait := by unfold Crew.advance; split <;> rfl
@[simp] theorem Crew.advance_waitLanes (k : Crew) (i : Instr) (a : Lanes) (n : Nat) : (k.advance i a n).waitLanes = k.waitLanes := by unfold Crew.advance; split <;> rfl
@[simp] theorem Crew.advance_waitc (k : Crew) (i : Instr) (a : Lanes) (n : Nat) : (k.advance i a n).waitc = k.waitc := by unfold Crew.advance; split <;> rfl
@[simp] theorem Crew.advance_held (k : Crew) (i : Instr) (a : Lanes) (n : Nat) : (k.advance i a n).held = k.held := by unfold Crew.advance; split <;> rfl
@[simp] theorem Crew.advance_haltReq (k : Crew) (i : Instr) (a : Lanes) (n : Nat) : (k.advance i a n).haltReq = k.haltReq := by unfold Crew.advance; split <;> rfl
@[simp] theorem Crew.advance_halted (k : Crew) (i : Instr) (a : Lanes) (n : Nat) : (k.advance i a n).halted = k.halted := by unfold Crew.advance; split <;> rfl
@[simp] theorem Crew.advance_replay (k : Crew) (i : Instr) (a : Lanes) (n : Nat) : (k.advance i a n).replay = k.replay := by unfold Crew.advance; split <;> rfl
@[simp] theorem Crew.advance_bankOut (k : Crew) (i : Instr) (a : Lanes) (n : Nat) : (k.advance i a n).bankOut = k.bankOut := by unfold Crew.advance; split <;> rfl
@[simp] theorem Crew.advance_torn (k : Crew) (i : Instr) (a : Lanes) (n : Nat) : (k.advance i a n).torn = k.torn := by unfold Crew.advance; split <;> rfl
@[simp] theorem Crew.advance_haltCode (k : Crew) (i : Instr) (a : Lanes) (n : Nat) : (k.advance i a n).haltCode = k.haltCode := by unfold Crew.advance; split <;> rfl
@[simp] theorem Crew.advance_s5Start (k : Crew) (i : Instr) (a : Lanes) (n : Nat) : (k.advance i a n).s5Start = k.s5Start := by unfold Crew.advance; split <;> rfl
@[simp] theorem Crew.advance_pool (k : Crew) (i : Instr) (a : Lanes) (n : Nat) : (k.advance i a n).pool = k.pool := by unfold Crew.advance; split <;> rfl
@[simp] theorem Crew.advance_task (k : Crew) (i : Instr) (a : Lanes) (n : Nat) : (k.advance i a n).task = k.task := by unfold Crew.advance; split <;> rfl
@[simp] theorem Crew.advance_task_idem (k : Crew) (i : Instr) (a : Lanes) (n : Nat) : (k.advance i a n).task_idem = k.task_idem := by unfold Crew.advance; split <;> rfl
@[simp] theorem Crew.advance_ended (k : Crew) (i : Instr) (a : Lanes) (n : Nat) : (k.advance i a n).ended = k.ended := by unfold Crew.advance; split <;> rfl
@[simp] theorem Crew.advance_tilesOut (k : Crew) (i : Instr) (a : Lanes) (n : Nat) : (k.advance i a n).tilesOut = k.tilesOut := by unfold Crew.advance; split <;> rfl

/-! ## Crew.issued -/

@[simp] theorem Crew.issued_id (k : Crew) (n : Nat) : (k.issued n).id = k.id := rfl
@[simp] theorem Crew.issued_core (k : Crew) (n : Nat) : (k.issued n).core = k.core := rfl
@[simp] theorem Crew.issued_part (k : Crew) (n : Nat) : (k.issued n).part = k.part := rfl
@[simp] theorem Crew.issued_slot (k : Crew) (n : Nat) : (k.issued n).slot = k.slot := rfl
@[simp] theorem Crew.issued_asid (k : Crew) (n : Nat) : (k.issued n).asid = k.asid := rfl
@[simp] theorem Crew.issued_squad (k : Crew) (n : Nat) : (k.issued n).squad = k.squad := rfl
@[simp] theorem Crew.issued_grid (k : Crew) (n : Nat) : (k.issued n).grid = k.grid := rfl
@[simp] theorem Crew.issued_n (k : Crew) (n : Nat) : (k.issued n).n = k.n := rfl
@[simp] theorem Crew.issued_m (k : Crew) (n : Nat) : (k.issued n).m = k.m := rfl
@[simp] theorem Crew.issued_tileSlots (k : Crew) (n : Nat) : (k.issued n).tileSlots = k.tileSlots := rfl
@[simp] theorem Crew.issued_threads (k : Crew) (n : Nat) : (k.issued n).threads = k.threads := rfl
@[simp] theorem Crew.issued_s (k : Crew) (n : Nat) : (k.issued n).s = k.s := rfl
@[simp] theorem Crew.issued_x (k : Crew) (n : Nat) : (k.issued n).x = k.x := rfl
@[simp] theorem Crew.issued_cv (k : Crew) (n : Nat) : (k.issued n).cv = k.cv := rfl
@[simp] theorem Crew.issued_q (k : Crew) (n : Nat) : (k.issued n).q = k.q := rfl
@[simp] theorem Crew.issued_rep (k : Crew) (n : Nat) : (k.issued n).rep = k.rep := rfl
@[simp] theorem Crew.issued_mon (k : Crew) (n : Nat) : (k.issued n).mon = k.mon := rfl
@[simp] theorem Crew.issued_monOvf (k : Crew) (n : Nat) : (k.issued n).monOvf = k.monOvf := rfl
@[simp] theorem Crew.issued_icnt (k : Crew) (n : Nat) : (k.issued n).icnt = k.icnt := rfl
@[simp] theorem Crew.issued_cid (k : Crew) (n : Nat) : (k.issued n).cid = k.cid := rfl
@[simp] theorem Crew.issued_role (k : Crew) (n : Nat) : (k.issued n).role = k.role := rfl
@[simp] theorem Crew.issued_cause (k : Crew) (n : Nat) : (k.issued n).cause = k.cause := rfl
@[simp] theorem Crew.issued_privSave (k : Crew) (n : Nat) : (k.issued n).privSave = k.privSave := rfl
@[simp] theorem Crew.issued_inh (k : Crew) (n : Nat) : (k.issued n).inh = k.inh := rfl
@[simp] theorem Crew.issued_trapMask (k : Crew) (n : Nat) : (k.issued n).trapMask = k.trapMask := rfl
@[simp] theorem Crew.issued_trapInfo (k : Crew) (n : Nat) : (k.issued n).trapInfo = k.trapInfo := rfl
@[simp] theorem Crew.issued_repSave (k : Crew) (n : Nat) : (k.issued n).repSave = k.repSave := rfl
@[simp] theorem Crew.issued_repFixed (k : Crew) (n : Nat) : (k.issued n).repFixed = k.repFixed := rfl
@[simp] theorem Crew.issued_scr (k : Crew) (n : Nat) : (k.issued n).scr = k.scr := rfl
@[simp] theorem Crew.issued_tankInfo (k : Crew) (n : Nat) : (k.issued n).tankInfo = k.tankInfo := rfl
@[simp] theorem Crew.issued_spill (k : Crew) (n : Nat) : (k.issued n).spill = k.spill := rfl
@[simp] theorem Crew.issued_spillLen (k : Crew) (n : Nat) : (k.issued n).spillLen = k.spillLen := rfl
@[simp] theorem Crew.issued_spillBad (k : Crew) (n : Nat) : (k.issued n).spillBad = k.spillBad := rfl
@[simp] theorem Crew.issued_sb (k : Crew) (n : Nat) : (k.issued n).sb = k.sb := rfl
@[simp] theorem Crew.issued_wait (k : Crew) (n : Nat) : (k.issued n).wait = k.wait := rfl
@[simp] theorem Crew.issued_waitLanes (k : Crew) (n : Nat) : (k.issued n).waitLanes = k.waitLanes := rfl
@[simp] theorem Crew.issued_waitc (k : Crew) (n : Nat) : (k.issued n).waitc = k.waitc := rfl
@[simp] theorem Crew.issued_held (k : Crew) (n : Nat) : (k.issued n).held = k.held := rfl
@[simp] theorem Crew.issued_haltReq (k : Crew) (n : Nat) : (k.issued n).haltReq = k.haltReq := rfl
@[simp] theorem Crew.issued_halted (k : Crew) (n : Nat) : (k.issued n).halted = k.halted := rfl
@[simp] theorem Crew.issued_loads (k : Crew) (n : Nat) : (k.issued n).loads = k.loads := rfl
@[simp] theorem Crew.issued_replay (k : Crew) (n : Nat) : (k.issued n).replay = k.replay := rfl
@[simp] theorem Crew.issued_bankOut (k : Crew) (n : Nat) : (k.issued n).bankOut = k.bankOut := rfl
@[simp] theorem Crew.issued_torn (k : Crew) (n : Nat) : (k.issued n).torn = k.torn := rfl
@[simp] theorem Crew.issued_haltCode (k : Crew) (n : Nat) : (k.issued n).haltCode = k.haltCode := rfl
@[simp] theorem Crew.issued_s5Start (k : Crew) (n : Nat) : (k.issued n).s5Start = k.s5Start := rfl
@[simp] theorem Crew.issued_pool (k : Crew) (n : Nat) : (k.issued n).pool = k.pool := rfl
@[simp] theorem Crew.issued_task (k : Crew) (n : Nat) : (k.issued n).task = k.task := rfl
@[simp] theorem Crew.issued_task_idem (k : Crew) (n : Nat) : (k.issued n).task_idem = k.task_idem := rfl
@[simp] theorem Crew.issued_ended (k : Crew) (n : Nat) : (k.issued n).ended = k.ended := rfl
@[simp] theorem Crew.issued_tilesOut (k : Crew) (n : Nat) : (k.issued n).tilesOut = k.tilesOut := rfl

/-! ## Crew.endYield -/

@[simp] theorem Crew.endYield_id (k : Crew) : (k.endYield).id = k.id := rfl
@[simp] theorem Crew.endYield_core (k : Crew) : (k.endYield).core = k.core := rfl
@[simp] theorem Crew.endYield_part (k : Crew) : (k.endYield).part = k.part := rfl
@[simp] theorem Crew.endYield_slot (k : Crew) : (k.endYield).slot = k.slot := rfl
@[simp] theorem Crew.endYield_asid (k : Crew) : (k.endYield).asid = k.asid := rfl
@[simp] theorem Crew.endYield_squad (k : Crew) : (k.endYield).squad = k.squad := rfl
@[simp] theorem Crew.endYield_grid (k : Crew) : (k.endYield).grid = k.grid := rfl
@[simp] theorem Crew.endYield_n (k : Crew) : (k.endYield).n = k.n := rfl
@[simp] theorem Crew.endYield_m (k : Crew) : (k.endYield).m = k.m := rfl
@[simp] theorem Crew.endYield_tileSlots (k : Crew) : (k.endYield).tileSlots = k.tileSlots := rfl
@[simp] theorem Crew.endYield_s (k : Crew) : (k.endYield).s = k.s := rfl
@[simp] theorem Crew.endYield_x (k : Crew) : (k.endYield).x = k.x := rfl
@[simp] theorem Crew.endYield_cv (k : Crew) : (k.endYield).cv = k.cv := rfl
@[simp] theorem Crew.endYield_q (k : Crew) : (k.endYield).q = k.q := rfl
@[simp] theorem Crew.endYield_rep (k : Crew) : (k.endYield).rep = k.rep := rfl
@[simp] theorem Crew.endYield_mon (k : Crew) : (k.endYield).mon = k.mon := rfl
@[simp] theorem Crew.endYield_monOvf (k : Crew) : (k.endYield).monOvf = k.monOvf := rfl
@[simp] theorem Crew.endYield_icnt (k : Crew) : (k.endYield).icnt = k.icnt := rfl
@[simp] theorem Crew.endYield_cid (k : Crew) : (k.endYield).cid = k.cid := rfl
@[simp] theorem Crew.endYield_role (k : Crew) : (k.endYield).role = k.role := rfl
@[simp] theorem Crew.endYield_raised (k : Crew) : (k.endYield).raised = k.raised := rfl
@[simp] theorem Crew.endYield_age (k : Crew) : (k.endYield).age = k.age := rfl
@[simp] theorem Crew.endYield_lastIssue (k : Crew) : (k.endYield).lastIssue = k.lastIssue := rfl
@[simp] theorem Crew.endYield_passed (k : Crew) : (k.endYield).passed = k.passed := rfl
@[simp] theorem Crew.endYield_cause (k : Crew) : (k.endYield).cause = k.cause := rfl
@[simp] theorem Crew.endYield_privSave (k : Crew) : (k.endYield).privSave = k.privSave := rfl
@[simp] theorem Crew.endYield_inh (k : Crew) : (k.endYield).inh = k.inh := rfl
@[simp] theorem Crew.endYield_trapMask (k : Crew) : (k.endYield).trapMask = k.trapMask := rfl
@[simp] theorem Crew.endYield_trapInfo (k : Crew) : (k.endYield).trapInfo = k.trapInfo := rfl
@[simp] theorem Crew.endYield_repSave (k : Crew) : (k.endYield).repSave = k.repSave := rfl
@[simp] theorem Crew.endYield_repFixed (k : Crew) : (k.endYield).repFixed = k.repFixed := rfl
@[simp] theorem Crew.endYield_scr (k : Crew) : (k.endYield).scr = k.scr := rfl
@[simp] theorem Crew.endYield_tankInfo (k : Crew) : (k.endYield).tankInfo = k.tankInfo := rfl
@[simp] theorem Crew.endYield_spill (k : Crew) : (k.endYield).spill = k.spill := rfl
@[simp] theorem Crew.endYield_spillLen (k : Crew) : (k.endYield).spillLen = k.spillLen := rfl
@[simp] theorem Crew.endYield_spillBad (k : Crew) : (k.endYield).spillBad = k.spillBad := rfl
@[simp] theorem Crew.endYield_sb (k : Crew) : (k.endYield).sb = k.sb := rfl
@[simp] theorem Crew.endYield_wait (k : Crew) : (k.endYield).wait = k.wait := rfl
@[simp] theorem Crew.endYield_waitLanes (k : Crew) : (k.endYield).waitLanes = k.waitLanes := rfl
@[simp] theorem Crew.endYield_waitc (k : Crew) : (k.endYield).waitc = k.waitc := rfl
@[simp] theorem Crew.endYield_held (k : Crew) : (k.endYield).held = k.held := rfl
@[simp] theorem Crew.endYield_haltReq (k : Crew) : (k.endYield).haltReq = k.haltReq := rfl
@[simp] theorem Crew.endYield_halted (k : Crew) : (k.endYield).halted = k.halted := rfl
@[simp] theorem Crew.endYield_loads (k : Crew) : (k.endYield).loads = k.loads := rfl
@[simp] theorem Crew.endYield_replay (k : Crew) : (k.endYield).replay = k.replay := rfl
@[simp] theorem Crew.endYield_bankOut (k : Crew) : (k.endYield).bankOut = k.bankOut := rfl
@[simp] theorem Crew.endYield_torn (k : Crew) : (k.endYield).torn = k.torn := rfl
@[simp] theorem Crew.endYield_haltCode (k : Crew) : (k.endYield).haltCode = k.haltCode := rfl
@[simp] theorem Crew.endYield_s5Start (k : Crew) : (k.endYield).s5Start = k.s5Start := rfl
@[simp] theorem Crew.endYield_pool (k : Crew) : (k.endYield).pool = k.pool := rfl
@[simp] theorem Crew.endYield_task (k : Crew) : (k.endYield).task = k.task := rfl
@[simp] theorem Crew.endYield_task_idem (k : Crew) : (k.endYield).task_idem = k.task_idem := rfl
@[simp] theorem Crew.endYield_ended (k : Crew) : (k.endYield).ended = k.ended := rfl
@[simp] theorem Crew.endYield_tilesOut (k : Crew) : (k.endYield).tilesOut = k.tilesOut := rfl

/-! ## Crew.wake -/

@[simp] theorem Crew.wake_id (k : Crew) : (k.wake).id = k.id := rfl
@[simp] theorem Crew.wake_core (k : Crew) : (k.wake).core = k.core := rfl
@[simp] theorem Crew.wake_part (k : Crew) : (k.wake).part = k.part := rfl
@[simp] theorem Crew.wake_slot (k : Crew) : (k.wake).slot = k.slot := rfl
@[simp] theorem Crew.wake_asid (k : Crew) : (k.wake).asid = k.asid := rfl
@[simp] theorem Crew.wake_squad (k : Crew) : (k.wake).squad = k.squad := rfl
@[simp] theorem Crew.wake_grid (k : Crew) : (k.wake).grid = k.grid := rfl
@[simp] theorem Crew.wake_n (k : Crew) : (k.wake).n = k.n := rfl
@[simp] theorem Crew.wake_m (k : Crew) : (k.wake).m = k.m := rfl
@[simp] theorem Crew.wake_tileSlots (k : Crew) : (k.wake).tileSlots = k.tileSlots := rfl
@[simp] theorem Crew.wake_s (k : Crew) : (k.wake).s = k.s := rfl
@[simp] theorem Crew.wake_x (k : Crew) : (k.wake).x = k.x := rfl
@[simp] theorem Crew.wake_cv (k : Crew) : (k.wake).cv = k.cv := rfl
@[simp] theorem Crew.wake_q (k : Crew) : (k.wake).q = k.q := rfl
@[simp] theorem Crew.wake_rep (k : Crew) : (k.wake).rep = k.rep := rfl
@[simp] theorem Crew.wake_mon (k : Crew) : (k.wake).mon = k.mon := rfl
@[simp] theorem Crew.wake_monOvf (k : Crew) : (k.wake).monOvf = k.monOvf := rfl
@[simp] theorem Crew.wake_icnt (k : Crew) : (k.wake).icnt = k.icnt := rfl
@[simp] theorem Crew.wake_cid (k : Crew) : (k.wake).cid = k.cid := rfl
@[simp] theorem Crew.wake_role (k : Crew) : (k.wake).role = k.role := rfl
@[simp] theorem Crew.wake_raised (k : Crew) : (k.wake).raised = k.raised := rfl
@[simp] theorem Crew.wake_age (k : Crew) : (k.wake).age = k.age := rfl
@[simp] theorem Crew.wake_lastIssue (k : Crew) : (k.wake).lastIssue = k.lastIssue := rfl
@[simp] theorem Crew.wake_passed (k : Crew) : (k.wake).passed = k.passed := rfl
@[simp] theorem Crew.wake_cause (k : Crew) : (k.wake).cause = k.cause := rfl
@[simp] theorem Crew.wake_privSave (k : Crew) : (k.wake).privSave = k.privSave := rfl
@[simp] theorem Crew.wake_inh (k : Crew) : (k.wake).inh = k.inh := rfl
@[simp] theorem Crew.wake_trapMask (k : Crew) : (k.wake).trapMask = k.trapMask := rfl
@[simp] theorem Crew.wake_trapInfo (k : Crew) : (k.wake).trapInfo = k.trapInfo := rfl
@[simp] theorem Crew.wake_repSave (k : Crew) : (k.wake).repSave = k.repSave := rfl
@[simp] theorem Crew.wake_repFixed (k : Crew) : (k.wake).repFixed = k.repFixed := rfl
@[simp] theorem Crew.wake_scr (k : Crew) : (k.wake).scr = k.scr := rfl
@[simp] theorem Crew.wake_tankInfo (k : Crew) : (k.wake).tankInfo = k.tankInfo := rfl
@[simp] theorem Crew.wake_spill (k : Crew) : (k.wake).spill = k.spill := rfl
@[simp] theorem Crew.wake_spillLen (k : Crew) : (k.wake).spillLen = k.spillLen := rfl
@[simp] theorem Crew.wake_spillBad (k : Crew) : (k.wake).spillBad = k.spillBad := rfl
@[simp] theorem Crew.wake_sb (k : Crew) : (k.wake).sb = k.sb := rfl
@[simp] theorem Crew.wake_waitc (k : Crew) : (k.wake).waitc = k.waitc := rfl
@[simp] theorem Crew.wake_held (k : Crew) : (k.wake).held = k.held := rfl
@[simp] theorem Crew.wake_haltReq (k : Crew) : (k.wake).haltReq = k.haltReq := rfl
@[simp] theorem Crew.wake_halted (k : Crew) : (k.wake).halted = k.halted := rfl
@[simp] theorem Crew.wake_replay (k : Crew) : (k.wake).replay = k.replay := rfl
@[simp] theorem Crew.wake_bankOut (k : Crew) : (k.wake).bankOut = k.bankOut := rfl
@[simp] theorem Crew.wake_torn (k : Crew) : (k.wake).torn = k.torn := rfl
@[simp] theorem Crew.wake_haltCode (k : Crew) : (k.wake).haltCode = k.haltCode := rfl
@[simp] theorem Crew.wake_s5Start (k : Crew) : (k.wake).s5Start = k.s5Start := rfl
@[simp] theorem Crew.wake_pool (k : Crew) : (k.wake).pool = k.pool := rfl
@[simp] theorem Crew.wake_task (k : Crew) : (k.wake).task = k.task := rfl
@[simp] theorem Crew.wake_task_idem (k : Crew) : (k.wake).task_idem = k.task_idem := rfl
@[simp] theorem Crew.wake_ended (k : Crew) : (k.wake).ended = k.ended := rfl
@[simp] theorem Crew.wake_tilesOut (k : Crew) : (k.wake).tilesOut = k.tilesOut := rfl

/-! ## Crew.closeWin -/

@[simp] theorem Crew.closeWin_id (k : Crew) (i : Instr) (a : Lanes) : (k.closeWin i a).id = k.id := by unfold Crew.closeWin; split <;> rfl
@[simp] theorem Crew.closeWin_core (k : Crew) (i : Instr) (a : Lanes) : (k.closeWin i a).core = k.core := by unfold Crew.closeWin; split <;> rfl
@[simp] theorem Crew.closeWin_part (k : Crew) (i : Instr) (a : Lanes) : (k.closeWin i a).part = k.part := by unfold Crew.closeWin; split <;> rfl
@[simp] theorem Crew.closeWin_slot (k : Crew) (i : Instr) (a : Lanes) : (k.closeWin i a).slot = k.slot := by unfold Crew.closeWin; split <;> rfl
@[simp] theorem Crew.closeWin_asid (k : Crew) (i : Instr) (a : Lanes) : (k.closeWin i a).asid = k.asid := by unfold Crew.closeWin; split <;> rfl
@[simp] theorem Crew.closeWin_squad (k : Crew) (i : Instr) (a : Lanes) : (k.closeWin i a).squad = k.squad := by unfold Crew.closeWin; split <;> rfl
@[simp] theorem Crew.closeWin_grid (k : Crew) (i : Instr) (a : Lanes) : (k.closeWin i a).grid = k.grid := by unfold Crew.closeWin; split <;> rfl
@[simp] theorem Crew.closeWin_n (k : Crew) (i : Instr) (a : Lanes) : (k.closeWin i a).n = k.n := by unfold Crew.closeWin; split <;> rfl
@[simp] theorem Crew.closeWin_m (k : Crew) (i : Instr) (a : Lanes) : (k.closeWin i a).m = k.m := by unfold Crew.closeWin; split <;> rfl
@[simp] theorem Crew.closeWin_tileSlots (k : Crew) (i : Instr) (a : Lanes) : (k.closeWin i a).tileSlots = k.tileSlots := by unfold Crew.closeWin; split <;> rfl
@[simp] theorem Crew.closeWin_s (k : Crew) (i : Instr) (a : Lanes) : (k.closeWin i a).s = k.s := by unfold Crew.closeWin; split <;> rfl
@[simp] theorem Crew.closeWin_x (k : Crew) (i : Instr) (a : Lanes) : (k.closeWin i a).x = k.x := by unfold Crew.closeWin; split <;> rfl
@[simp] theorem Crew.closeWin_cv (k : Crew) (i : Instr) (a : Lanes) : (k.closeWin i a).cv = k.cv := by unfold Crew.closeWin; split <;> rfl
@[simp] theorem Crew.closeWin_q (k : Crew) (i : Instr) (a : Lanes) : (k.closeWin i a).q = k.q := by unfold Crew.closeWin; split <;> rfl
@[simp] theorem Crew.closeWin_rep (k : Crew) (i : Instr) (a : Lanes) : (k.closeWin i a).rep = k.rep := by unfold Crew.closeWin; split <;> rfl
@[simp] theorem Crew.closeWin_mon (k : Crew) (i : Instr) (a : Lanes) : (k.closeWin i a).mon = k.mon := by unfold Crew.closeWin; split <;> rfl
@[simp] theorem Crew.closeWin_monOvf (k : Crew) (i : Instr) (a : Lanes) : (k.closeWin i a).monOvf = k.monOvf := by unfold Crew.closeWin; split <;> rfl
@[simp] theorem Crew.closeWin_icnt (k : Crew) (i : Instr) (a : Lanes) : (k.closeWin i a).icnt = k.icnt := by unfold Crew.closeWin; split <;> rfl
@[simp] theorem Crew.closeWin_cid (k : Crew) (i : Instr) (a : Lanes) : (k.closeWin i a).cid = k.cid := by unfold Crew.closeWin; split <;> rfl
@[simp] theorem Crew.closeWin_role (k : Crew) (i : Instr) (a : Lanes) : (k.closeWin i a).role = k.role := by unfold Crew.closeWin; split <;> rfl
@[simp] theorem Crew.closeWin_raised (k : Crew) (i : Instr) (a : Lanes) : (k.closeWin i a).raised = k.raised := by unfold Crew.closeWin; split <;> rfl
@[simp] theorem Crew.closeWin_age (k : Crew) (i : Instr) (a : Lanes) : (k.closeWin i a).age = k.age := by unfold Crew.closeWin; split <;> rfl
@[simp] theorem Crew.closeWin_lastIssue (k : Crew) (i : Instr) (a : Lanes) : (k.closeWin i a).lastIssue = k.lastIssue := by unfold Crew.closeWin; split <;> rfl
@[simp] theorem Crew.closeWin_passed (k : Crew) (i : Instr) (a : Lanes) : (k.closeWin i a).passed = k.passed := by unfold Crew.closeWin; split <;> rfl
@[simp] theorem Crew.closeWin_cause (k : Crew) (i : Instr) (a : Lanes) : (k.closeWin i a).cause = k.cause := by unfold Crew.closeWin; split <;> rfl
@[simp] theorem Crew.closeWin_privSave (k : Crew) (i : Instr) (a : Lanes) : (k.closeWin i a).privSave = k.privSave := by unfold Crew.closeWin; split <;> rfl
@[simp] theorem Crew.closeWin_inh (k : Crew) (i : Instr) (a : Lanes) : (k.closeWin i a).inh = k.inh := by unfold Crew.closeWin; split <;> rfl
@[simp] theorem Crew.closeWin_trapMask (k : Crew) (i : Instr) (a : Lanes) : (k.closeWin i a).trapMask = k.trapMask := by unfold Crew.closeWin; split <;> rfl
@[simp] theorem Crew.closeWin_trapInfo (k : Crew) (i : Instr) (a : Lanes) : (k.closeWin i a).trapInfo = k.trapInfo := by unfold Crew.closeWin; split <;> rfl
@[simp] theorem Crew.closeWin_repSave (k : Crew) (i : Instr) (a : Lanes) : (k.closeWin i a).repSave = k.repSave := by unfold Crew.closeWin; split <;> rfl
@[simp] theorem Crew.closeWin_repFixed (k : Crew) (i : Instr) (a : Lanes) : (k.closeWin i a).repFixed = k.repFixed := by unfold Crew.closeWin; split <;> rfl
@[simp] theorem Crew.closeWin_scr (k : Crew) (i : Instr) (a : Lanes) : (k.closeWin i a).scr = k.scr := by unfold Crew.closeWin; split <;> rfl
@[simp] theorem Crew.closeWin_tankInfo (k : Crew) (i : Instr) (a : Lanes) : (k.closeWin i a).tankInfo = k.tankInfo := by unfold Crew.closeWin; split <;> rfl
@[simp] theorem Crew.closeWin_spill (k : Crew) (i : Instr) (a : Lanes) : (k.closeWin i a).spill = k.spill := by unfold Crew.closeWin; split <;> rfl
@[simp] theorem Crew.closeWin_spillLen (k : Crew) (i : Instr) (a : Lanes) : (k.closeWin i a).spillLen = k.spillLen := by unfold Crew.closeWin; split <;> rfl
@[simp] theorem Crew.closeWin_spillBad (k : Crew) (i : Instr) (a : Lanes) : (k.closeWin i a).spillBad = k.spillBad := by unfold Crew.closeWin; split <;> rfl
@[simp] theorem Crew.closeWin_sb (k : Crew) (i : Instr) (a : Lanes) : (k.closeWin i a).sb = k.sb := by unfold Crew.closeWin; split <;> rfl
@[simp] theorem Crew.closeWin_wait (k : Crew) (i : Instr) (a : Lanes) : (k.closeWin i a).wait = k.wait := by unfold Crew.closeWin; split <;> rfl
@[simp] theorem Crew.closeWin_waitLanes (k : Crew) (i : Instr) (a : Lanes) : (k.closeWin i a).waitLanes = k.waitLanes := by unfold Crew.closeWin; split <;> rfl
@[simp] theorem Crew.closeWin_waitc (k : Crew) (i : Instr) (a : Lanes) : (k.closeWin i a).waitc = k.waitc := by unfold Crew.closeWin; split <;> rfl
@[simp] theorem Crew.closeWin_held (k : Crew) (i : Instr) (a : Lanes) : (k.closeWin i a).held = k.held := by unfold Crew.closeWin; split <;> rfl
@[simp] theorem Crew.closeWin_haltReq (k : Crew) (i : Instr) (a : Lanes) : (k.closeWin i a).haltReq = k.haltReq := by unfold Crew.closeWin; split <;> rfl
@[simp] theorem Crew.closeWin_halted (k : Crew) (i : Instr) (a : Lanes) : (k.closeWin i a).halted = k.halted := by unfold Crew.closeWin; split <;> rfl
@[simp] theorem Crew.closeWin_replay (k : Crew) (i : Instr) (a : Lanes) : (k.closeWin i a).replay = k.replay := by unfold Crew.closeWin; split <;> rfl
@[simp] theorem Crew.closeWin_bankOut (k : Crew) (i : Instr) (a : Lanes) : (k.closeWin i a).bankOut = k.bankOut := by unfold Crew.closeWin; split <;> rfl
@[simp] theorem Crew.closeWin_torn (k : Crew) (i : Instr) (a : Lanes) : (k.closeWin i a).torn = k.torn := by unfold Crew.closeWin; split <;> rfl
@[simp] theorem Crew.closeWin_haltCode (k : Crew) (i : Instr) (a : Lanes) : (k.closeWin i a).haltCode = k.haltCode := by unfold Crew.closeWin; split <;> rfl
@[simp] theorem Crew.closeWin_s5Start (k : Crew) (i : Instr) (a : Lanes) : (k.closeWin i a).s5Start = k.s5Start := by unfold Crew.closeWin; split <;> rfl
@[simp] theorem Crew.closeWin_pool (k : Crew) (i : Instr) (a : Lanes) : (k.closeWin i a).pool = k.pool := by unfold Crew.closeWin; split <;> rfl
@[simp] theorem Crew.closeWin_task (k : Crew) (i : Instr) (a : Lanes) : (k.closeWin i a).task = k.task := by unfold Crew.closeWin; split <;> rfl
@[simp] theorem Crew.closeWin_task_idem (k : Crew) (i : Instr) (a : Lanes) : (k.closeWin i a).task_idem = k.task_idem := by unfold Crew.closeWin; split <;> rfl
@[simp] theorem Crew.closeWin_ended (k : Crew) (i : Instr) (a : Lanes) : (k.closeWin i a).ended = k.ended := by unfold Crew.closeWin; split <;> rfl
@[simp] theorem Crew.closeWin_tilesOut (k : Crew) (i : Instr) (a : Lanes) : (k.closeWin i a).tilesOut = k.tilesOut := by unfold Crew.closeWin; split <;> rfl

/-! ## Thread.countWin -/

@[simp] theorem Thread.countWin_v (t : Thread) : (t.countWin).v = t.v := rfl
@[simp] theorem Thread.countWin_p (t : Thread) : (t.countWin).p = t.p := rfl
@[simp] theorem Thread.countWin_pcv (t : Thread) : (t.countWin).pcv = t.pcv := rfl
@[simp] theorem Thread.countWin_live (t : Thread) : (t.countWin).live = t.live := rfl
@[simp] theorem Thread.countWin_yex (t : Thread) : (t.countWin).yex = t.yex := rfl
@[simp] theorem Thread.countWin_rwait (t : Thread) : (t.countWin).rwait = t.rwait := rfl
@[simp] theorem Thread.countWin_rsd (t : Thread) : (t.countWin).rsd = t.rsd := rfl
@[simp] theorem Thread.countWin_rs (t : Thread) : (t.countWin).rs = t.rs := rfl
@[simp] theorem Thread.countWin_inreg (t : Thread) : (t.countWin).inreg = t.inreg := rfl
@[simp] theorem Thread.countWin_pcvSave (t : Thread) : (t.countWin).pcvSave = t.pcvSave := rfl
@[simp] theorem Thread.countWin_trapAddr (t : Thread) : (t.countWin).trapAddr = t.trapAddr := rfl
@[simp] theorem Thread.countWin_trapTcause (t : Thread) : (t.countWin).trapTcause = t.trapTcause := rfl
@[simp] theorem Thread.countWin_trapTstate (t : Thread) : (t.countWin).trapTstate = t.trapTstate := rfl

/-! ## Thread.setPc -/

@[simp] theorem Thread.setPc_v (t : Thread) (a : Nat) : (t.setPc a).v = t.v := rfl
@[simp] theorem Thread.setPc_p (t : Thread) (a : Nat) : (t.setPc a).p = t.p := rfl
@[simp] theorem Thread.setPc_live (t : Thread) (a : Nat) : (t.setPc a).live = t.live := rfl
@[simp] theorem Thread.setPc_yex (t : Thread) (a : Nat) : (t.setPc a).yex = t.yex := rfl
@[simp] theorem Thread.setPc_rwait (t : Thread) (a : Nat) : (t.setPc a).rwait = t.rwait := rfl
@[simp] theorem Thread.setPc_rsd (t : Thread) (a : Nat) : (t.setPc a).rsd = t.rsd := rfl
@[simp] theorem Thread.setPc_rs (t : Thread) (a : Nat) : (t.setPc a).rs = t.rs := rfl
@[simp] theorem Thread.setPc_inreg (t : Thread) (a : Nat) : (t.setPc a).inreg = t.inreg := rfl
@[simp] theorem Thread.setPc_pcvSave (t : Thread) (a : Nat) : (t.setPc a).pcvSave = t.pcvSave := rfl
@[simp] theorem Thread.setPc_trapAddr (t : Thread) (a : Nat) : (t.setPc a).trapAddr = t.trapAddr := rfl
@[simp] theorem Thread.setPc_trapTcause (t : Thread) (a : Nat) : (t.setPc a).trapTcause = t.trapTcause := rfl
@[simp] theorem Thread.setPc_trapTstate (t : Thread) (a : Nat) : (t.setPc a).trapTstate = t.trapTstate := rfl
@[simp] theorem Thread.setPc_win (t : Thread) (a : Nat) : (t.setPc a).win = t.win := rfl

/-! ## Thread.setP -/

@[simp] theorem Thread.setP_v (t : Thread) (n : Nat) (b : Bool) : (t.setP n b).v = t.v := rfl
@[simp] theorem Thread.setP_pcv (t : Thread) (n : Nat) (b : Bool) : (t.setP n b).pcv = t.pcv := rfl
@[simp] theorem Thread.setP_live (t : Thread) (n : Nat) (b : Bool) : (t.setP n b).live = t.live := rfl
@[simp] theorem Thread.setP_yex (t : Thread) (n : Nat) (b : Bool) : (t.setP n b).yex = t.yex := rfl
@[simp] theorem Thread.setP_rwait (t : Thread) (n : Nat) (b : Bool) : (t.setP n b).rwait = t.rwait := rfl
@[simp] theorem Thread.setP_rsd (t : Thread) (n : Nat) (b : Bool) : (t.setP n b).rsd = t.rsd := rfl
@[simp] theorem Thread.setP_rs (t : Thread) (n : Nat) (b : Bool) : (t.setP n b).rs = t.rs := rfl
@[simp] theorem Thread.setP_inreg (t : Thread) (n : Nat) (b : Bool) : (t.setP n b).inreg = t.inreg := rfl
@[simp] theorem Thread.setP_pcvSave (t : Thread) (n : Nat) (b : Bool) : (t.setP n b).pcvSave = t.pcvSave := rfl
@[simp] theorem Thread.setP_trapAddr (t : Thread) (n : Nat) (b : Bool) : (t.setP n b).trapAddr = t.trapAddr := rfl
@[simp] theorem Thread.setP_trapTcause (t : Thread) (n : Nat) (b : Bool) : (t.setP n b).trapTcause = t.trapTcause := rfl
@[simp] theorem Thread.setP_trapTstate (t : Thread) (n : Nat) (b : Bool) : (t.setP n b).trapTstate = t.trapTstate := rfl
@[simp] theorem Thread.setP_win (t : Thread) (n : Nat) (b : Bool) : (t.setP n b).win = t.win := rfl

end Sys2Proof.Machine
end

