-- ==== Sys2Proof/Tests/Slice0.lean ====
section
/-! SUPPORT. Tests of the model: ill-formed terms, words of every instruction written out from the spec's encoding tables, single steps, and for
every statement with hypotheses a state and operands that meet them. -/

open Sys2Proof Sys2Proof.Machine

namespace Sys2Proof.Tests

set_option Elab.async false

/-! ## Decoding -/

/-- A word: the fixed bits of its row, and the value and lowest bit of each field. -/
def word (base : Nat) (fields : List (Nat × Nat)) : Nat := fields.foldl (fun w f => w + f.1 * 2 ^ f.2) base
/-- The word of n bits decodes to the instruction, and encodes it. -/
def decodesTo (n : Nat) (p : Nat × Instr) : Bool := decodeTableWord n p.1 == some p.2 && p.2.wellFormed && encodeNat p.2 == p.1
/-- The codes of the members of a field. -/
def codes {α : Type} (at' : Nat → Nat) (mk : α → Instr) (cs : List α) : Bool :=
  (List.range cs.length).all fun n => match cs[n]? with
    | some c => decodesTo 32 (at' n, mk c)
    | none => false
/-- spec/03_control.md. -/
def samples_control : List (Nat × Instr) := [
  (word 0x01 [(0x9a5c3e, 8)], .bra 0x9a5c3e),
  (word 0x03 [(0x15a3c, 15), (1, 14), (41, 8)], .brp 0x15a3c 1 41),
  (word 0x05 [(0x15a3c, 15), (1, 14), (45, 8)], .brs 0x15a3c 1 45),
  (word 0x07 [(5, 26), (34, 14)], .jmpv 5 34),
  (word 0x09 [(0x9a5c3e, 8)], .call 0x9a5c3e),
  (word 0x0B [(5, 26), (34, 14)], .callv 5 34),
  (word 0x0D [(5, 26)], .ret 5),
  (word 0x0F [(0x15a3c, 15), (28, 8)], .switch 0x15a3c 28),
  (word 0x1C000011 [], .refuse),
  (word 0x13 [(5, 26)], .exit 5),
  (word 0x25 [(5, 26)], .yield 5)]
theorem test_decode_control : samples_control.all (decodesTo 32) = true := by decide +kernel

/-- spec/04_work.md. -/
def samples_work : List (Nat × Instr) := [
  (word 0x15 [(21, 27), (50, 21), (34, 15), (77, 8)], .spawn 21 50 34 77),
  (word 0x17 [(21, 27), (34, 15)], .launch 21 34),
  (word 0x19 [(21, 27), (50, 21), (34, 15)], .waitcCounter 21 50 34),
  (word 0x119 [(21, 27), (34, 15)], .waitcHandle 21 34),
  (word 0x1B [(21, 27), (34, 15)], .fork 21 34),
  (word 0x1D [(21, 27)], .join 21),
  (word 0x1F [(21, 27), (34, 15)], .taskq 21 34),
  (word 0xF8000021 [], .taskend),
  (word 0x23 [(2, 17)], .role .computer)]
theorem test_decode_work : samples_work.all (decodesTo 32) = true := by decide +kernel

/-- spec/05_integer.md. -/
def samples_integer : List (Nat × Instr) := [
  (word 0x29 [(2, 29), (5, 26), (50, 20), (34, 14), (24, 8)], .add .addSatI 5 50 34 24),
  (word 0x2B [(4, 29), (5, 26), (50, 20), (34, 14), (24, 8)], .mul .satN 5 50 34 24),
  (word 0x2D [(4, 29), (5, 26), (50, 20), (34, 14), (24, 8)], .mad .satN 5 50 34 24),
  (word 0x2F [(3, 29), (5, 26), (50, 20), (34, 14), (24, 8)], .log .andn 5 50 34 24),
  (word 0x31 [(2, 29), (5, 26), (50, 20), (34, 14), (24, 8)], .shf .shrI 5 50 34 24),
  (word 0x33 [(5, 29), (5, 26), (50, 20), (34, 14), (24, 8)], .minmax .clampN 5 50 34 24),
  (word 0x35 [(5, 29), (5, 26), (34, 14), (24, 8)], .bit .cls 5 34 24),
  (word 0x37 [(9, 28), (1, 26), (50, 20), (34, 14), (24, 8)], .bfx 9 .signed 50 34 24),
  (word 0x39 [(9, 28), (50, 20), (34, 14), (24, 8)], .bfi 9 50 34 24),
  (word 0x3B [(6, 29), (5, 26), (50, 20), (34, 14), (24, 8)], .sel 6 5 50 34 24),
  (word 0x3D [(7, 29), (346, 20), (34, 14), (24, 8)], .opi .muli 346 34 24),
  (word 0x3F [(0x2a5c3, 14), (24, 8)], .lih 0x2a5c3 24)]
theorem test_decode_integer : samples_integer.all (decodesTo 32) = true := by decide +kernel

/-- spec/05_integer.md and R43. -/
def samples_lanes_scalars : List (Nat × Instr) := [
  (word 0x41 [(2, 29), (6, 26), (50, 20), (34, 14), (41, 8)], .cmp .f32 .nan 50 34 41),
  (word 0x43 [(4, 26), (50, 20), (34, 14), (41, 8)], .plog .porn 50 34 41),
  (word 0x45 [(34, 14), (41, 8)], .pmov 34 41),
  (word 0x20000045 [(1, 26), (41, 8)], .pset 1 41),
  (word 0x40000045 [(32, 14), (28, 8)], .p2v 32 28),
  (word 0x60000045 [(28, 14), (32, 8)], .v2p 28 32),
  (word 0x47 [(9, 28), (2, 26), (13, 20), (34, 14), (24, 8)], .shfl 9 .down 13 34 24),
  (word 0x49 [(3, 29), (34, 14), (41, 8)], .vote .ballot 34 41),
  (word 0x4B [(9, 28), (2, 26), (8, 20), (34, 14), (24, 8)], .redx 9 .scan .addF 34 24),
  (word 0x4D [(2, 29), (23, 23), (260, 14), (28, 8)], .s2v .lane 23 260 28),
  (word 0x4F [(2, 29), (19, 23), (260, 14), (28, 8)], .v2s .pair 19 260 28),
  (word 0x51 [(33, 26), (258, 17), (300, 8)], .sop .dadd 258 300),
  (word 0x53 [(0x5a3c, 17), (300, 8)], .sli 0x5a3c 300),
  (word 0x55 [(0x5a3c, 17), (300, 8)], .saddi 0x5a3c 300),
  (word 0x57 [(0x5a3c, 17), (300, 8)], .slih 0x5a3c 300),
  (word 0x59 [(0xc9, 17), (2, 8)], .xsetImm 0xc9 2),
  (word 0x459 [(77, 17), (2, 8)], .xsetScalar 77 2),
  (word 0x5B [(0x5a3c, 17), (2, 8)], .xadd 0x5a3c 2),
  (word 0x5D [(3, 18), (10, 14), (44, 8)], .rep 3 10 44)]
theorem test_decode_lanes_scalars : samples_lanes_scalars.all (decodesTo 32) = true := by decide +kernel

/-- spec/06_float.md. -/
def samples_float : List (Nat × Instr) := [
  (word 0x61 [(5, 29), (5, 26), (50, 20), (34, 14), (24, 8)], .far .copysign 5 50 34 24),
  (word 0x63 [(2, 29), (5, 26), (50, 20), (34, 14), (24, 8)], .ffma .fnma 5 50 34 24),
  (word 0x65 [(4, 29), (5, 26), (34, 14), (24, 8)], .fun .fract 5 34 24),
  (word 0x67 [(9, 28), (5, 20), (34, 14), (24, 8)], .sfu 9 .sinpi 34 24),
  (word 0x69 [(9, 28), (1, 26), (4, 20), (34, 14), (24, 8)], .cvt 9 .widen 4 34 24),
  (word 0x6B [(9, 28), (2, 26), (3, 20), (34, 14), (24, 8)], .icvt 9 .rdn .f2n 34 24),
  (word 0x6D [(6, 29), (5, 26), (50, 20), (34, 14), (24, 8)], .pack .p4b3 5 50 34 24),
  (word 0x6F [(9, 28), (2, 26), (3, 23), (4, 20), (34, 14), (24, 8)], .unpk 9 .raws 3 4 34 24),
  (word 0x71 [(6, 29), (5, 26), (50, 20), (34, 14), (24, 8)], .hop .mulF16 5 50 34 24),
  (word 0x73 [(9, 28), (1, 26), (34, 14), (24, 8)], .renc 9 .sat 34 24),
  (word 0x75 [(9, 28), (3, 20), (34, 14), (24, 8)], .rdec 9 .r257 34 24),
  (word 0x77 [(3, 29), (309, 20), (34, 14), (41, 8)], .fcls .e4m3 309 34 41)]
theorem test_decode_float : samples_float.all (decodesTo 32) = true := by decide +kernel

/-- spec/07_memory.md R199, spec/08_ordering.md. -/
def samples_memory : List (Nat × Instr) := [
  (word 0x79 [(9, 28), (5, 25), (19, 20), (35, 14), (16, 8)], .ld 9 .w64 19 35 16),
  (word 0x7B [(5, 25), (19, 20), (35, 14), (16, 8)], .st .w64 19 35 16),
  (word 0x7D [(2, 30), (5, 25), (19, 20), (35, 14), (16, 8)], .lda .pkg .w64 19 35 16),
  (word 0x7F [(2, 30), (5, 25), (19, 20), (35, 14), (16, 8)], .stl .pkg .w64 19 35 16),
  (word 0x81 [(9, 28), (5, 25), (19, 20), (35, 14), (16, 8)], .lds 9 .w64 19 35 16),
  (word 0x83 [(5, 25), (19, 20), (35, 14), (16, 8)], .sts .w64 19 35 16),
  (word 0x85 [(1, 31), (2, 29), (7, 25), (19, 20), (35, 14), (16, 8)], .atom 1 .release .minN 19 35 16),
  (word 0x87 [(2, 29), (6, 25), (19, 20), (35, 14), (16, 8)], .cas .release .c128 19 35 16),
  (word 0x89 [(2, 17)], .fence .pkg),
  (word 0x80089 [(2, 17)], .fenceAcq .pkg),
  (word 0x100089 [(2, 17)], .fenceRel .pkg),
  (word 0x8B [(21, 21), (6, 17), (300, 8)], .bar 21 6 300),
  (word 0x8D [(21, 27), (50, 21), (34, 15)], .bbarArm 21 50 34),
  (word 0x88D [(21, 27), (34, 15)], .bbarWait 21 34),
  (word 0x108D [(21, 27), (34, 15)], .bbarTake 21 34),
  (word 0x800008F [(9, 28), (19, 20), (35, 14), (16, 8)], .pres 9 19 35 16),
  (word 0x8000091 [(9, 28), (19, 20), (35, 14), (16, 8)], .mon 9 19 35 16),
  (word 0x93 [(0x5a3c, 17), (300, 8)], .mwait 0x5a3c 300)]
theorem test_decode_memory : samples_memory.all (decodesTo 32) = true := by decide +kernel

/-- spec/09_subscribe.md. -/
def samples_subscribe : List (Nat × Instr) := [
  (word 0x99 [(21, 27), (50, 21), (34, 15), (1, 11), (3, 8)], .subs 21 50 34 1 .e4m3),
  (word 0x9B [(21, 27), (34, 15)], .unsub 21 34),
  (word 0x9D [(21, 27), (34, 15), (3, 8)], .subup 21 34 .e4m3),
  (word 0x9F [(21, 27), (34, 15)], .subqLine 21 34),
  (word 0x19F [(21, 27), (34, 15)], .subqSlot 21 34),
  (word 0x29F [(21, 27)], .subqCnt 21)]
theorem test_decode_subscribe : samples_subscribe.all (decodesTo 32) = true := by decide +kernel

/-- spec/10_matrix.md. -/
def samples_matrix : List (Nat × Instr) := [
  (word 0xA1 [(258, 17), (11, 8)], .cvset 258 11),
  (word 0x40000A1 [(11, 8)], .cvsetLive 11),
  (word 0x80000A1 [(90, 17), (11, 8)], .cvsetImm 90 11),
  (word 0xA3 [(11, 20), (4, 17), (6, 14), (5, 11), (3, 8)], .mma 11 4 6 5 3),
  (word 0x100000A3 [(11, 20), (4, 17), (6, 14), (5, 11), (3, 8)], .mmaSet 11 4 6 5 3),
  (word 0xA5 [(11, 20), (4, 17), (6, 14), (5, 11), (3, 8)], .mmr 11 4 6 5 3),
  (word 0x100000A5 [(11, 20), (4, 17), (6, 14), (5, 11), (3, 8)], .mmrSet 11 4 6 5 3),
  (word 0xA7 [(3, 8)], .mzero 3),
  (word 0xA9 [(9, 24), (4, 17), (2, 11), (3, 8)], .mepi 9 4 2 3),
  (word 0xAB [(19, 20), (37, 14), (4, 11), (3, 8)], .mstConv 19 37 4 3),
  (word 0x20000AB [(19, 20), (37, 14), (3, 8)], .mstRaw 19 37 3),
  (word 0xAD [(19, 20), (37, 14), (4, 11), (3, 8)], .mldConv 19 37 4 3),
  (word 0x20000AD [(19, 20), (37, 14), (3, 8)], .mldRawF32 19 37 3),
  (word 0x40000AD [(19, 20), (37, 14), (3, 8)], .mldRawRes 19 37 3),
  (word 0xAF [(9, 28), (3, 20), (24, 8)], .movfGet 9 3 24),
  (word 0x40000AF [(9, 28), (3, 20), (40, 14)], .movfPutF32 9 3 40),
  (word 0x80000AF [(9, 28), (3, 20), (40, 14)], .movfPutI32 9 3 40)]
theorem test_decode_matrix : samples_matrix.all (decodesTo 32) = true := by decide +kernel

/-- spec/11_engines.md, spec/15_links.md. -/
def samples_engines : List (Nat × Instr) := [
  (word 0x8B1 [(21, 27), (50, 21), (34, 15), (1, 14), (3, 8)], .copy1 21 50 34 1 3),
  (word 0x10B1 [(21, 27), (50, 21), (34, 15), (1, 14), (3, 8)], .copy2 21 50 34 1 3),
  (word 0x18B1 [(21, 27), (50, 21), (34, 15), (1, 14), (3, 8)], .copyt 21 50 34 1 3),
  (word 0x20B1 [(21, 27), (34, 15), (1, 14), (3, 8)], .fill 21 0 34 1 3),
  (word 0x28B1 [(21, 27), (50, 21), (34, 15), (1, 14), (3, 8)], .copyr 21 50 34 1 3),
  (word 0x30B1 [(21, 27), (50, 21), (34, 15), (1, 14), (3, 8)], .copyh 21 50 34 1 3),
  (word 0x8B3 [(21, 27), (50, 21), (34, 15), (1, 14), (3, 8)], .gather 21 50 34 1 3),
  (word 0x10B3 [(21, 27), (50, 21), (34, 15), (1, 14), (3, 8)], .scatter 21 50 34 1 3),
  (word 0x18B3 [(21, 27), (50, 21), (34, 15), (1, 14), (3, 8)], .scatadd 21 50 34 1 3),
  (word 0x20B3 [(21, 27), (50, 21), (1, 14), (3, 8)], .gatherq 21 50 1 3),
  (word 0x8B5 [(21, 27), (50, 21), (34, 15), (1, 14), (3, 8)], .allred 21 50 34 1 3),
  (word 0x10B5 [(21, 27), (50, 21), (34, 15), (1, 14), (3, 8)], .redscat 21 50 34 1 3),
  (word 0x18B5 [(21, 27), (50, 21), (34, 15), (1, 14), (3, 8)], .allgath 21 50 34 1 3),
  (word 0x20B5 [(21, 27), (34, 15), (1, 14), (3, 8)], .barrier 21 34 1 3),
  (word 0xB7 [(21, 27), (34, 15)], .xlnStat 21 34),
  (word 0x8B7 [(21, 27), (50, 21), (34, 15), (3, 8)], .ease 21 50 34 3),
  (word 0x10B7 [(21, 27), (50, 21), (34, 15), (3, 8)], .wake 21 50 34 3),
  (word 0xB9 [(258, 17), (5, 8)], .qpush 258 5),
  (word 0x40000B9 [(258, 17), (5, 8)], .qpushS 258 5),
  (word 0xBB [(5, 17), (300, 8)], .qpop 5 300),
  (word 0xBD [(21, 27), (34, 15), (3, 8)], .tlwait 21 34 3),
  (word 0xBF [(21, 27), (34, 15), (3, 8)], .tlrdSt 21 34 3),
  (word 0x8BF [(21, 27), (3, 8)], .tlrdIssued 21 3),
  (word 0x10BF [(21, 27), (3, 8)], .tlrdDone 21 3),
  (word 0x18BF [(21, 27), (3, 8)], .tlrdFails 21 3)]
theorem test_decode_engines : samples_engines.all (decodesTo 32) = true := by decide +kernel

/-- spec/12_stroke.md. -/
def samples_strokes : List (Nat × Instr) := [
  (word 0x1C1 [(21, 27), (50, 21), (34, 15), (1, 13), (1, 12)], .skStore 21 50 34 1 1),
  (word 0x2C1 [(21, 27), (50, 21), (34, 15), (1, 13), (1, 12)], .skAdd 21 50 34 1 1),
  (word 0x3C1 [(21, 27), (50, 21), (34, 15), (1, 13), (1, 12)], .skClaim 21 50 34 1 1),
  (word 0x4C1 [(21, 27), (50, 21), (34, 15), (1, 13), (1, 12)], .skSwap 21 50 34 1 1),
  (word 0x5C1 [(21, 27), (50, 21), (34, 15), (1, 13), (1, 12)], .skMax 21 50 34 1 1),
  (word 0x8C1 [(21, 27), (50, 21), (1, 13)], .skGen 21 50 1),
  (word 0x9C1 [(21, 27), (50, 21), (1, 13)], .skLaunch 21 50 1),
  (word 0xAC1 [(21, 27), (50, 21), (1, 13)], .skNote 21 50 1),
  (word 0xC3 [(21, 27), (34, 15)], .wstrk 21 34),
  (word 0x8C3 [(21, 27), (50, 21), (34, 15)], .wstrkNote 21 50 34),
  (word 0xC5 [(21, 27)], .strkn 21),
  (word 0x8C5 [(21, 27), (34, 15)], .strknNote 21 34),
  (word 0x10C5 [(21, 27)], .strknStat 21)]
theorem test_decode_strokes : samples_strokes.all (decodesTo 32) = true := by decide +kernel

/-- spec/13_approx.md. -/
def samples_approx : List (Nat × Instr) := [
  (word 0xF80000C9 [(13, 8)], .apxe 13),
  (word 0xF80000CB [(13, 8)], .apxl 13),
  (word 0xCD [(21, 27), (13, 8)], .apxi 21 13),
  (word 0x10CD [(21, 27)], .apxiAll 21),
  (word 0xCF [(21, 27), (13, 8)], .apxqStat 21 13),
  (word 0x10CF [(21, 27), (13, 8)], .apxqCount 21 13),
  (word 0x20CF [(21, 27), (13, 8)], .apxqErr 21 13),
  (word 0x30CF [(21, 27), (13, 8)], .apxqMisc 21 13),
  (word 0xD1 [(21, 27), (13, 8)], .apxcRetire 21 13),
  (word 0x10D1 [(21, 27), (13, 8)], .apxcReset 21 13),
  (word 0x20D1 [(21, 27), (34, 15), (13, 8)], .apxcShift 21 34 13),
  (word 0x30D1 [(21, 27), (34, 15), (13, 8)], .apxcDet 21 34 13),
  (word 0x40D1 [(21, 27), (34, 15), (13, 8)], .apxcLoadw 21 34 13),
  (word 0x50D1 [(21, 27), (34, 15), (13, 8)], .apxcDumpw 21 34 13),
  (word 0xD3 [(21, 27), (34, 15), (13, 8)], .apxsSave 21 34 13),
  (word 0x10D3 [(21, 27), (34, 15), (13, 8)], .apxsLoad 21 34 13),
  (word 0x20D3 [(21, 27), (13, 8)], .apxsDrop 21 13)]
theorem test_decode_approx : samples_approx.all (decodesTo 32) = true := by decide +kernel

/-- spec/14_system.md. -/
def samples_system : List (Nat × Instr) := [
  (word 0xD5 [(0x5a3c, 17)], .trap 0x5a3c),
  (word 0x1C0000D7 [], .rett),
  (word 0xD9 [(42, 17), (300, 8)], .gsr .trapInfo 300),
  (word 0x200000D9 [(33, 17), (28, 8)], .gsrV .trapAddr 28),
  (word 0xDB [(65, 17), (300, 8)], .ssr .ctxRoot 300),
  (word 0x200000DB [(32, 17), (28, 8)], .ssrV .pcvSave 28),
  (word 0xDD [(21, 27), (50, 21), (34, 15), (77, 8)], .svcall 21 50 34 77),
  (word 0xDF [(21, 27), (34, 15)], .svwait 21 34),
  (word 0xE1 [(21, 27), (34, 15), (3, 8)], .tksv 21 34 3),
  (word 0xE3 [(21, 27), (34, 15), (3, 8)], .tkld 21 34 3),
  (word 0xE5 [(21, 27), (50, 21), (34, 15)], .ctxsvCrew 21 50 34),
  (word 0x8E5 [(21, 27), (50, 21), (34, 15)], .ctxsvTiles 21 50 34),
  (word 0x10E5 [(21, 27), (50, 21), (34, 15)], .ctxsvSquad 21 50 34),
  (word 0xE7 [(21, 27), (50, 21), (34, 15)], .ctxldCrew 21 50 34),
  (word 0x8E7 [(21, 27), (50, 21), (34, 15)], .ctxldTiles 21 50 34),
  (word 0x10E7 [(21, 27), (34, 15)], .ctxldSquad 21 34),
  (word 0xE9 [(0x5a3c, 17)], .halt 0x5a3c),
  (word 0xEB [(0x2a5c, 17)], .crend 0x2a5c),
  (word 0x800000EB [(300, 8)], .crendS 300),
  (word 0xED [(300, 8)], .cyc 300),
  (word 0x200ED [(300, 8)], .cycTime 300)]
theorem test_decode_system : samples_system.all (decodesTo 32) = true := by decide +kernel

/-- R30. -/
def samples_short : List (Nat × Instr) := [
  (word 0x00 [(27, 10), (14, 5)], .mov16 27 14),
  (word 0x02 [(27, 10), (14, 5)], .add16I32 27 14),
  (word 0x8002 [(27, 10), (14, 5)], .add16F32 27 14),
  (word 0x04 [(27, 10), (14, 5)], .sub16I32 27 14),
  (word 0x8004 [(27, 10), (14, 5)], .sub16F32 27 14),
  (word 0x06 [(27, 10), (14, 5)], .mul16I32 27 14),
  (word 0x8006 [(27, 10), (14, 5)], .mul16F32 27 14),
  (word 0x08 [(27, 10), (14, 5)], .and16 27 14),
  (word 0x0A [(27, 10), (14, 5)], .or16 27 14),
  (word 0x0C [(27, 10), (14, 5)], .xor16 27 14),
  (word 0x0E [(27, 10), (14, 5)], .shl16 27 14),
  (word 0x10 [(27, 10), (14, 5)], .shr16N32 27 14),
  (word 0x8010 [(27, 10), (14, 5)], .shr16I32 27 14),
  (word 0x12 [(27, 10), (14, 5)], .min16I32 27 14),
  (word 0x8012 [(27, 10), (14, 5)], .min16F32 27 14),
  (word 0x14 [(27, 10), (14, 5)], .max16I32 27 14),
  (word 0x8014 [(27, 10), (14, 5)], .max16F32 27 14),
  (word 0x16 [(27, 10), (14, 5)], .neg16I32 27 14),
  (word 0x8016 [(27, 10), (14, 5)], .neg16F32 27 14),
  (word 0x18 [(27, 10), (14, 5)], .not16 27 14),
  (word 0x8018 [(27, 10), (14, 5)], .abs16F32 27 14),
  (word 0x1A [(22, 10), (14, 5)], .addi5 22 14),
  (word 0x1C [(22, 10), (14, 5)], .movi5 22 14),
  (word 0x1E [(29, 10), (14, 5)], .s2v16 29 14)]
theorem test_decode_short : samples_short.all (decodesTo 16) = true := by decide +kernel
/-! The codes of every enumerated field, in the order of the chapters' tables from code 0. -/

/-- R121 to R129. -/
theorem test_codes_integer :
    codes (fun n => word 0x29 [(n, 29), (7, 26), (3, 20), (2, 14), (4, 8)]) (.add · 7 3 2 4)
      [.add, .sub, .addSatI, .subSatI, .addSatN, .subSatN, .adiffI, .adiffN] = true
    ∧ codes (fun n => word 0x2D [(n, 29), (7, 26), (3, 20), (2, 14), (4, 8)]) (.mad · 7 3 2 4)
      [.lo, .hiI, .hiN, .satI, .satN, .wideI, .wideN] = true
    ∧ codes (fun n => word 0x2F [(n, 29), (7, 26), (3, 20), (2, 14), (4, 8)]) (.log · 7 3 2 4)
      [.and, .or, .xor, .andn, .orn, .xnor, .nand, .nor] = true
    ∧ codes (fun n => word 0x31 [(n, 29), (7, 26), (3, 20), (2, 14), (4, 8)]) (.shf · 7 3 2 4) [.shl, .shrN, .shrI, .rol, .ror] = true
    ∧ codes (fun n => word 0x33 [(n, 29), (7, 26), (0, 20), (2, 14), (4, 8)]) (.minmax · 7 0 2 4)
      [.minI, .maxI, .minN, .maxN, .clampI, .clampN, .absI, .absSatI] = true
    ∧ codes (fun n => word 0x35 [(n, 29), (7, 26), (2, 14), (4, 8)]) (.bit · 7 2 4) [.popc, .clz, .ctz, .brev, .bswap, .cls] = true
    ∧ codes (fun n => word 0x37 [(n, 26), (3, 20), (2, 14), (4, 8)]) (.bfx 0 · 3 2 4) [.unsigned, .signed] = true
    ∧ codes (fun n => word 0x3D [(n, 29), (9, 20), (2, 14), (4, 8)]) (.opi · 9 2 4)
      [.addi, .andi, .ori, .xori, .shli, .shriN, .shriI, .muli] = true := by decide +kernel
/-- R133 to R142. -/
theorem test_codes_lanes_scalars :
    codes (fun n => word 0x41 [(n, 29), (2, 26), (3, 20), (2, 14), (4, 8)]) (.cmp · .lt 3 2 4) [.i32, .n32, .f32] = true
    ∧ codes (fun n => word 0x41 [(2, 29), (n, 26), (3, 20), (2, 14), (4, 8)]) (.cmp .f32 · 3 2 4) [.eq, .ne, .lt, .le, .gt, .ge, .nan, .num] = true
    ∧ codes (fun n => word 0x43 [(n, 26), (3, 20), (2, 14), (4, 8)]) (.plog · 3 2 4)
      [.pand, .por, .pxor, .pandn, .porn, .pnand, .pnor, .pxnor] = true
    ∧ codes (fun n => word 0x47 [(n, 26), (3, 20), (2, 14), (4, 8)]) (.shfl 0 · 3 2 4) [.idx, .up, .down, .xor] = true
    ∧ codes (fun n => word 0x49 [(n, 29), (2, 14), (4, 8)]) (.vote · 2 4) [.all, .any, .uni, .ballot] = true
    ∧ codes (fun n => word 0x4B [(n, 26), (2, 14), (4, 8)]) (.redx 0 · .add 2 4) [.crew, .four, .scan] = true
    ∧ codes (fun n => word 0x4B [(n, 20), (2, 14), (4, 8)]) (.redx 0 .crew · 2 4)
      [.add, .minI, .maxI, .minN, .maxN, .and, .or, .xor, .addF, .minF, .maxF] = true
    ∧ codes (fun n => word 0x4D [(n, 29), (2, 14), (4, 8)]) (.s2v · 0 2 4) [.w, .pair, .lane] = true
    ∧ codes (fun n => word 0x4F [(n, 29), (2, 14), (4, 8)]) (.v2s · 0 2 4) [.lane, .first, .pair] = true
    ∧ codes (fun n => word 0x51 [(n, 26), (2, 17), (4, 8)]) (.sop · 2 4)
      [.smov, .sadd, .ssub, .smul, .smulhiI, .smulhiN, .sand, .sor, .sxor, .sandn, .sshl, .sshr, .ssar, .sminI, .smaxI, .sminN, .smaxN, .snot
      , .sneg, .spopc, .sclz, .sctz, .saddSat, .ssubSat, .sseq, .ssltI, .ssltN] = true
    ∧ codes (fun n => word 0x51 [(n + 32, 26), (2, 17), (4, 8)]) (.sop · 2 4) [.dmov, .dadd, .dsub] = true := by decide +kernel
/-- R161 to R173. -/
theorem test_codes_float :
    codes (fun n => word 0x61 [(n, 29), (7, 26), (3, 20), (2, 14), (4, 8)]) (.far · 7 3 2 4) [.add, .sub, .mul, .min, .max, .copysign, .adiff] = true
    ∧ codes (fun n => word 0x63 [(n, 29), (7, 26), (3, 20), (2, 14), (4, 8)]) (.ffma · 7 3 2 4) [.fma, .fms, .fnma, .fnms] = true
    ∧ codes (fun n => word 0x65 [(n, 29), (7, 26), (2, 14), (4, 8)]) (.fun · 7 2 4) [.floor, .ceil, .trunc, .rint, .fract, .sign] = true
    ∧ codes (fun n => word 0x67 [(n, 20), (2, 14), (4, 8)]) (.sfu 0 · 2 4) [.rcp, .rsqrt, .sqrt, .exp2, .log2, .sinpi, .cospi, .tanh] = true
    ∧ codes (fun n => word 0x69 [(n, 26), (1, 20), (2, 14), (4, 8)]) (.cvt 0 · 1 2 4) [.narrow, .widen] = true
    ∧ codes (fun n => word 0x6B [(n, 26), (2, 14), (4, 8)]) (.icvt 0 · .i2f 2 4) [.rne, .rtz, .rdn, .rup] = true
    ∧ codes (fun n => word 0x6B [(n, 20), (2, 14), (4, 8)]) (.icvt 0 .rne · 2 4) [.i2f, .n2f, .f2i, .f2n] = true
    ∧ codes (fun n => word 0x6D [(n, 29), (7, 26), (3, 20), (2, 14), (4, 8)]) (.pack · 7 3 2 4) [.p16, .p8lo, .p8hi, .p4b0, .p4b1, .p4b2, .p4b3] = true
    ∧ codes (fun n => word 0x6F [(n, 26), (2, 14), (4, 8)]) (.unpk 0 · 0 0 2 4) [.widen, .raw, .raws] = true
    ∧ codes (fun n => word 0x71 [(n, 29), (7, 26), (3, 20), (2, 14), (4, 8)]) (.hop · 7 3 2 4)
      [.addBf, .subBf, .mulBf, .fmaBf, .addF16, .subF16, .mulF16, .fmaF16] = true
    ∧ codes (fun n => word 0x73 [(n, 26), (2, 14), (4, 8)]) (.renc 0 · 2 4) [.plain, .sat] = true
    ∧ codes (fun n => word 0x75 [(n, 20), (2, 14), (4, 8)]) (.rdec 0 · 2 4) [.i32, .r255, .r256, .r257] = true
    ∧ codes (fun n => word 0x77 [(n, 29), (257, 20), (2, 14), (4, 8)]) (.fcls · 257 2 4) [.f32, .bf16, .f16, .e4m3, .e5m2] = true := by decide +kernel
/-- R34, R116, R199, R205, R207, R217, R232, R240. -/
theorem test_codes_memory :
    codes (fun n => word 0x79 [(n, 25), (3, 20), (2, 14), (4, 8)]) (.ld 0 · 3 2 4) [.s8, .n8, .s16, .n16, .w32, .w64, .w128] = true
    ∧ codes (fun n => word 0x7F [(n, 30), (4, 25), (3, 20), (2, 14), (4, 8)]) (.stl · .w32 3 2 4) [.crew, .squad, .pkg, .pod] = true
    ∧ codes (fun n => word 0x85 [(n, 29), (3, 20), (2, 14), (4, 8)]) (.atom 0 · .swap 3 2 4) [.relaxed, .acquire, .release, .acqrel] = true
    ∧ codes (fun n => word 0x85 [(n, 25), (3, 20), (2, 14), (4, 8)]) (.atom 0 .relaxed · 3 2 4)
      [.swap, .add, .and, .or, .xor, .minI, .maxI, .minN, .maxN, .inc, .dec, .addF] = true
    ∧ codes (fun n => word 0x87 [(n + 4, 25), (3, 20), (2, 14), (8, 8)]) (.cas .relaxed · 3 2 8) [.c32, .c64, .c128] = true
    ∧ codes (fun n => word 0x89 [(n, 17)]) .fence [.crew, .squad, .pkg, .pod] = true
    ∧ codes (fun n => word 0x99 [(1, 27), (3, 21), (2, 15), (n, 8)]) (.subs 1 3 2 0 ·) [.exact, .bf16, .f16, .e4m3, .e5m2] = true
    ∧ codes (fun n => word 0x23 [(n, 17)]) .role [.loader, .storer, .computer] = true := by decide +kernel
/-- R374: the numbers of the system registers. -/
theorem test_codes_system :
    codes (fun n => word 0xD9 [(n, 17), (30, 8)]) (.gsr · 30) [.devState, .devId, .coreId] = true
    ∧ codes (fun n => word 0xD9 [(0x8 + n, 17), (30, 8)]) (.gsr · 30)
      [.schedAge, .genRaise, .preemptReq, .lqPush, .lqStat, .clkCtl, .fwState, .taskReady] = true
    ∧ codes (fun n => word 0x200000D9 [(0x20 + n, 17), (30, 8)]) (.gsrV · 30) [.pcvSave, .trapAddr, .trapTcause, .trapTstate] = true
    ∧ codes (fun n => word 0xDB [(0x28 + n, 17), (30, 8)]) (.ssr · 30)
      [.trapCause, .trapMask, .trapInfo, .repSave, .trapScr0, .trapScr1, .trapScr2, .trapScr3, .tankInfo] = true
    ∧ codes (fun n => word 0xDB [(0x40 + n, 17), (30, 8)]) (.ssr · 30) [.ctxAsid, .ctxRoot, .trapBase, .skmWin, .ctxKey, .ctxFlags] = true := by
  decide +kernel
/-- Words that the chapters give beside their instructions. -/
theorem test_decode_spec_examples : ([
    (0x5C308129, .add .addSatI 7 3 2 1), (0x001089A5, .mmr 1 0 2 1 1), (0x09FE01A1, .cvsetImm 0xFF 1), (0x000A00D5, .trap 5), (0x1C0000D7, .rett),
    (0x00583CDB, .ssr .trapScr0 60), (0x00543CD9, .gsr .trapInfo 60), (0x04782851, .sop .sadd 60 40), (0xF80700BD, .tlwait 31 14 0),
    (0x800700BF, .tlrdSt 16 14 0), (0x00220259, .xsetImm 17 2), (0x00110669, .cvt 0 .narrow 1 4 6), (0x04118769, .cvt 0 .widen 1 6 7),
    (0x00008373, .renc 0 .plain 2 3), (0x00040089, .fence .pkg), (0x000A0089, .fenceAcq .squad), (0x00160089, .fenceRel .pod),
    (0x4002001F, .taskq 8 4)] : List (Nat × Instr)).all (decodesTo 32) = true := by decide +kernel
/-- R27: reserved function values, nonzero reserved bits, illegal operands and unassigned opcodes are refused. -/
theorem test_reserved_refused : [
    word 0x2B [(7, 29)], word 0x31 [(5, 29)], word 0x35 [(6, 29)], word 0x35 [(1, 20)], word 0x37 [(2, 26)], word 0x41 [(3, 29)],
    word 0x41 [(6, 26)], word 0x4B [(3, 26)], word 0x4B [(11, 20)], word 0x51 [(27, 26)], word 0x51 [(32, 26), (1, 8)], word 0x53 [(384, 8)],
    word 0x61 [(7, 29)], word 0x67 [(8, 20)], word 0x69 [(2, 26)], word 0x69 [(1, 23)], word 0x79 [(7, 25)], word 0x79 [(5, 25), (1, 8)],
    word 0x7B [(1, 25)], word 0x7B [(1, 28), (4, 25)], word 0x85 [(12, 25)], word 0x87 [(3, 25)], word 0x89 [(3, 19)], word 0x89 [(1, 8)],
    word 0x99 [(5, 8)], word 0x23 [(3, 17)], word 0xD9 [(3, 17)], word 0xD9 [(0x20, 17)], word 0x0D [(7, 26), (1, 8)], word 0x15 [],
    word 0x19 [(31, 27)], word 0xB1 [], word 0xBB [(1, 8)], word 0xC1 [], 0xFF, 0xEF].all (fun w => decodeTableWord 32 w == none) = true
    ∧ [0x0000, word 0x8000 [(1, 10)], word 0x8008 [], word 0x801A [], word 0x801E []].all (fun w => decodeTableWord 16 w == none) = true := by
  decide +kernel
/-- The smoke of WellFormed: one ill-formed term for every check refuses. -/
theorem test_ill_formed : ([
    .jmpv 7 1, .callv 7 1, .spawn 0 0 0 0, .waitcCounter 31 0 0, .waitcHandle 31 0, .mul .wideI 7 0 0 1, .mad .wideN 7 0 0 1, .minmax .absI 7 1 0 0,
    .minmax .absSatI 7 1 0 0, .opi .shli 32 0 0, .opi .shriN 32 0 0, .opi .shriI 32 0 0, .cmp .i32 .nan 0 0 0, .cmp .n32 .num 0 0 0, .p2v 1 0, .v2p 0 1,
    .shfl 0 .up 32 0 0, .s2v .w 0 384 0, .s2v .w 1 0 0, .s2v .pair 0 1 0, .s2v .pair 0 0 1, .v2s .lane 0 384 0, .v2s .first 1 0 0, .v2s .pair 0 0 1,
    .v2s .pair 0 1 0, .sop .smov 384 0, .sop .smov 0 384, .sop .dmov 1 0, .sop .dadd 0 1, .sli 0 384, .saddi 0 384, .slih 0 384, .xsetImm 256 0,
    .xsetScalar 384 0, .ld 0 .w64 0 0 1, .ld 0 .w128 0 0 2, .st .n8 0 0 0, .st .n16 0 0 0, .st .w64 0 0 1, .lda .pkg .w64 0 0 1, .stl .pkg .n8 0 0 0,
    .stl .pkg .w64 0 0 1, .lds 0 .w64 0 0 1, .sts .n16 0 0 0, .sts .w128 0 0 2, .atom 1 .relaxed .swap 0 0 1, .atom 1 .relaxed .addF 0 0 0,
    .cas .relaxed .c32 0 0 1, .cas .relaxed .c64 0 0 2, .cas .relaxed .c128 0 0 4, .bar 49 0 0, .bar 0 0 384, .mwait 0 384, .subs 31 0 0 0 .bf16,
    .subqLine 31 0, .subqSlot 31 0, .subqCnt 31, .cvset 384 0, .movfGet 0 0 1, .movfPutF32 0 0 1, .movfPutI32 0 0 4, .xlnStat 31 0, .qpush 384 0,
    .qpush 1 0, .qpushS 384 0, .qpop 2 384, .qpop 2 1, .tlrdSt 31 0 0, .tlrdIssued 31 0, .tlrdDone 31 0, .tlrdFails 31 0, .strkn 31, .strknNote 31 0,
    .strknStat 31, .apxqStat 31 0, .apxqCount 31 0, .apxqErr 31 0, .apxqMisc 31 0, .gsr .pcvSave 0, .gsr .devId 384, .gsr .devId 1, .gsrV .devId 0,
    .gsrV .pcvSave 1, .ssr .pcvSave 0, .ssr .ctxRoot 384, .ssr .ctxRoot 1, .ssrV .ctxRoot 0, .ssrV .pcvSave 1, .ctxsvCrew 31 0 0, .ctxsvTiles 31 0 0,
    .ctxsvSquad 31 0 0, .ctxldCrew 31 0 0, .ctxldTiles 31 0 0, .ctxldSquad 31 0, .crendS 384, .cyc 384, .cyc 1, .cycTime 384, .cycTime 1, .mov16 0 0]
    : List Instr).all (fun i => !i.wellFormed) = true := by decide +kernel
/-! ## States that meet the hypotheses of the statements

A loaded machine (log 23): crew 1 of squad 0 stands at 0x40000, privileged, with 64 vector and 384 scalar registers, and has its turn. -/

def me : Crew := bootCrew 1 0
/-- The loaded machine with crew k in place of crew 1. -/
def on (k : Crew) : State := ({ State.reset.load 0 with cur := some 1, issueQ := [] } : State).setCrew k
/-- s.runs k i, as a computation. -/
def runs (s : State) (k : Crew) (i : Instr) : Bool := s.curCrew == some k && s.issues k i
theorem runs_iff (s : State) (k : Crew) (i : Instr) : s.runs k i ↔ runs s k i = true := by simp [State.runs, runs]
/-- Scalar pairs of crew k. -/
def pairs (k : Crew) (l : List (Nat × Nat)) : Crew :=
  l.foldl (fun (k : Crew) p => { k with s := (k.s.set (2 * p.1) (BitVec.ofNat 32 p.2)).set (2 * p.1 + 1) (BitVec.ofNat 32 (p.2 / 2 ^ 32)) }) k
/-- Crew k with one live thread. -/
def single (k : Crew) : Crew := k.mapT fun l t => { t with live := l == 0 }
/-- Vector register r of every thread of crew k. -/
def vector (k : Crew) (r : Nat) (f : Nat → Nat) : Crew := k.mapT fun l t => { t with v := t.v.set r (BitVec.ofNat 32 (f l)) }
/-- Is it `ok x`, is it `error c`? -/
def isOk {ε α : Type} [BEq α] (x : Except ε α) (a : α) : Bool := match x with | .ok b => b == a | .error _ => false
def isError {ε α : Type} [BEq ε] (x : Except ε α) (e : ε) : Bool := match x with | .ok _ => false | .error d => d == e

/-- Every word of the decode tests runs in the loaded machine: the hypotheses of the clauses that have no other, of every statement. -/
theorem witness_every_word_runs :
    (samples_control ++ samples_work ++ samples_integer ++ samples_lanes_scalars ++ samples_float ++ samples_memory ++ samples_subscribe
      ++ samples_matrix ++ samples_engines ++ samples_strokes ++ samples_approx ++ samples_system ++ samples_short).all
      (fun p => runs (on me) me p.2) = true := by decide +kernel

/-- IssueAddress. -/
theorem witness_issue_address : me.held = 0 ∧ me.issueAddr = some 0x40000 := by decide +kernel
/-- DecodeEncode, EncodeDecode. -/
theorem witness_decode_encode :
    (Instr.cas .acqrel .c128 31 63 56).isWord = true ∧ (Instr.cas .acqrel .c128 31 63 56).wellFormed = true
    ∧ decode [0x29, 0x81, 0x30, 0x5C, 0xFF] = some (.add .addSatI 7 3 2 1, [0xFF]) := by decide +kernel

/-- A loaded machine in the course of its step. -/
def loaded (w : Nat) : State := State.reset.load w
def fetching (w : Nat) : State := ({ loaded w with issueQ := [], cur := some 1 } : State).settle 1
/-- Crew k as its turn begins in s. -/
def turn (s : State) (k : Crew) : Crew := { k with held := 0, lastIssue := (s.cycles k.core).toNat, passed := 0 }
/-- StepRunsDecoded: a 16-bit and a 32-bit word at the issue address; a boat whose turns are over. -/
theorem witness_step_runs :
    (loaded 0x0822).issueQ = [1] ∧ (fetching 0x0822).crew? 1 = some me ∧ me.mayIssue = true ∧ me.rep.active = false ∧ (∀ v ∈ me.cv, v.sigs = [])
    ∧ (turn (fetching 0x0822) me).issueAddr = some 0x40000 ∧ isOk ((fetching 0x0822).fetchAt (turn (fetching 0x0822) me) 0x40000) 0x40000 = true
    ∧ decode ((fetching 0x0822).deck.readN 0x40000 2) = some (.add16I32 2 1, [])
    ∧ (fetching 0x5C308129).crew? 1 = some me ∧ (turn (fetching 0x5C308129) me).issueAddr = some 0x40000
    ∧ isOk ((fetching 0x5C308129).fetchAt (turn (fetching 0x5C308129) me) 0x40000) 0x40000 = true
    ∧ isOk ((fetching 0x5C308129).fetchAt (turn (fetching 0x5C308129) me) 0x40002) 0x40002 = true
    ∧ ((fetching 0x5C308129).deck.read 0x40000).toNat % 2 = 1
    ∧ decode ((fetching 0x5C308129).deck.readN 0x40000 2 ++ (fetching 0x5C308129).deck.readN 0x40002 2) = some (.add .addSatI 7 3 2 1, [])
    ∧ State.reset.issueQ = [] ∧ State.reset.boatOut = [] ∧ State.reset.inbox = [] ∧ ({ State.reset with inbox := [.drawRun] } : State).inbox = .drawRun :: []
    ∧ ({ State.reset with boatOut := [(0, 0)] } : State).boatOut ≠ [] := by
  decide +kernel

/-- A REP prefix and its I at the issue address, and crew 1 in its repeats. -/
def repeating (rep : Rep) (i : Nat) : State :=
  let s := State.reset.load (0x0000405D + 3 * 256 + i * 2 ^ 32)
  { s with crews := [{ me with rep := rep }] }
def inRepeat (rep : Rep) (i : Nat) : State := ({ repeating rep i with issueQ := [], cur := some 1 } : State).settle 1
def third : Rep := { active := true, i := 3, ctl := Rep.idle.ctl, fixed := some 0xFFFFFFFF }
/-- RepeatsAndFetchFaults: a legal pair before and in its repeats, and a prefix before a branch. -/
theorem witness_repeats :
    (let s := inRepeat Rep.idle 0x5C308129
     (repeating Rep.idle 0x5C308129).issueQ = [1] ∧ s.crew? 1 = some me ∧ me.mayIssue = true ∧ (turn s me).issueAddr = some 0x40000
     ∧ (∀ v ∈ me.cv, v.sigs = [])
     ∧ isOk (s.fetchInstr (turn s me) 0x40000) (.rep 0 1 3) = true ∧ isOk (s.fetchInstr (turn s me) 0x40004) (.add .addSatI 7 3 2 1) = true
     ∧ repLegal 1 (.add .addSatI 7 3 2 1) = true ∧ me.rep.active = false)
    ∧ (let s := inRepeat third 0x5C308129
       let k : Crew := { me with rep := third }
       (repeating third 0x5C308129).issueQ = [1] ∧ s.crew? 1 = some k ∧ k.mayIssue = true ∧ (turn s k).issueAddr = some 0x40000
       ∧ isOk (s.fetchInstr (turn s k) 0x40000) (.rep 0 1 3) = true ∧ isOk (s.fetchInstr (turn s k) 0x40004) (.add .addSatI 7 3 2 1) = true
       ∧ k.rep.active = true ∧ k.rep.i.toNat ≤ 3)
    ∧ (let s := inRepeat Rep.idle 1
       s.crew? 1 = some me ∧ isOk (s.fetchInstr (turn s me) 0x40000) (.rep 0 1 3) = true ∧ isOk (s.fetchInstr (turn s me) 0x40004) (.bra 0) = true
       ∧ repLegal 1 (.bra 0) = false) := by decide +kernel
/-- RepeatsAndFetchFaults: a fetch without a translation and one at 2^47. -/
def astray : Crew := { me with threads := me.threads.map fun t => { t with pcv := 0x800000 } }
theorem witness_fetch_faults :
    isError ((on me).fetchAt me 0x800000) .page = true ∧ (on me).translate me.core me.asid 0x800000 = none
    ∧ isError ((on me).fetchAt me (2 ^ 47)) .farAccess = true ∧ ((on me).translate me.core me.asid 0x7FFFFE).isSome = true
    ∧ (let s := ({ on astray with cur := some 1 } : State).settle 1
       ({ on astray with issueQ := [1] } : State).issueQ = 1 :: [] ∧ s.crew? 1 = some astray ∧ astray.mayIssue = true
       ∧ (turn s astray).issueAddr = some 0x800000 ∧ isError (s.fetchAt (turn s astray) 0x800000) .page = true) := by
  decide +kernel
/-- MemoriesStayCanonical and ReadAfterWrite. -/
theorem witness_canonical : (on me).memWf = true ∧ (on me).deck.length = 3 ∧ (on me).deck.wf = true := by decide +kernel

/-- TrapEntry: marks, outside a handler and in one. -/
theorem witness_trap_entry :
    ([⟨3, .misalign, 0x123⟩, ⟨5, .page, 0x456⟩] : List Mark) ≠ [] ∧ me.inh = false ∧ topCause [⟨3, .misalign, 0x123⟩, ⟨5, .page, 0x456⟩] ≠ .page
    ∧ ({ me with inh := true } : Crew).inh = true ∧ topCause [⟨5, .page, 0x456⟩] = .page ∧ me.task_idem = false ∧ me.task = none := by decide +kernel
/-- TrapReturn: in a handler and outside one. -/
theorem witness_trap_return :
    runs (on { me with inh := true }) { me with inh := true } .rett = true ∧ runs (on me) me .rett = true ∧ me.inh = false := by decide +kernel
/-- PrivilegeAndBoundTraps: an unprivileged crew, and registers at and above the allotments. -/
def unprivileged : State := (on me).setCtx { Ctx.reset 0 with root := 0 }
theorem witness_privilege :
    unprivileged.curCrew = some me ∧ me.mayIssue = true ∧ me.active ≠ 0 ∧ (unprivileged.ctx me.asid).priv = false ∧ me.inh = false
    ∧ SysReg.ctxRoot ∉ [SysReg.devState, .devId, .coreId, .schedAge, .lqStat, .clkCtl, .fwState, .ctxAsid, .skmWin, .ctxFlags] := by decide +kernel
def small : Crew := { me with n := 16, m := 32, threads := me.threads.map fun t => { t with v := t.v.take 16 }, s := me.s.take 32 }
theorem witness_bound :
    (on small).curCrew = some small ∧ small.mayIssue = true ∧ small.active ≠ 0 ∧ (on small).privileged small = true
    ∧ (uses ((on small).slots small) small (.add .add 7 0 16 1)).inBounds small = false
    ∧ small.guarded small.active (guardOf (.add .add 7 0 16 1)) ≠ 0
    ∧ (uses ((on small).slots small) small (.sli 0 32)).inBounds small = false
    ∧ (uses ((on small).slots small) small (.add .add 7 0 15 1)).inBounds small = true := by decide +kernel
/-! ### Control flow -/

/-- Every thread's return stack holds n entries, the newest 0x1000. -/
def stacked (n : Nat) : Crew := me.mapT fun _ t => { t with rsd := BitVec.ofNat 16 n, rs := List.replicate (min n 16) 0x1000 }
def withDeck (s : State) (a : Nat) (bs : List Byte) : State := { s with deck := s.deck.writeN a bs }
/-- BranchesAndCalls: even and odd targets, a case table of two entries, stacks at both ends of the spill window (1,024 bytes: 19 entries may spill
to it by a call, 20 pop from it). -/
theorem witness_jumps :
    runs (on me) me (.jmpv 7 34) = true
    ∧ (∀ l < 32, (me.guarded me.active 7).getLsbD l = true →
      ((me.reg l (me.vnum .va 34 + 1)).toNat % 2 ^ 16 * 2 ^ 32 + (me.reg l (me.vnum .va 34)).toNat) % 2 = 0)
    ∧ (let k := vector me 34 fun l => 2 * l + 1
       runs (on k) k (.jmpv 7 34) = true ∧ runs (on k) k (.callv 7 34) = true
       ∧ ∀ l ∈ (List.range 32).filter fun l => k.active.getLsbD l, (k.reg l (k.vnum .va 34)).toNat % 2 = 1) := by decide +kernel
def cased : Crew := vector me 28 fun l => l % 3
def caseTable : State := withDeck (on cased) 0x40010 (leBytes 4 2 ++ leBytes 4 0x20 ++ leBytes 4 0xFFFFFF00)
theorem witness_switch :
    runs caseTable cased (.switch 8 28) = true ∧ isOk (caseTable.bump.fetch32 cased 0x40010) 2 = true
    ∧ isOk (caseTable.bump.fetch32 cased 0x40014) 0x20 = true ∧ isOk (caseTable.bump.fetch32 cased 0x40018) 0xFFFFFF00 = true
    ∧ cased.pc = 0x40000 ∧ (cased.reg 2 (cased.vnum .vd 28)).toNat = 2 := by decide +kernel
theorem witness_calls :
    (stacked 19).spillLen / 256 * 256 = 1024 ∧ (stacked 19).spillBad = []
    ∧ runs (on (stacked 19)) (stacked 19) (.call 4) = true
    ∧ (∀ l < 32, (stacked 19).active.getLsbD l = true → 16 ≤ ((stacked 19).thread l).rsd.toNat → 256 * (((stacked 19).thread l).rsd.toNat - 15) ≤ 1024)
    ∧ runs (on (stacked 19)) (stacked 19) (.callv 7 34) = true
    ∧ (∀ l < 32, ((stacked 19).reg l ((stacked 19).vnum .va 34)).toNat % 2 = 0)
    ∧ runs (on (stacked 20)) (stacked 20) (.ret 7) = true
    ∧ (∀ l < 32, ((stacked 20).thread l).rsd ≠ 0 ∧ 256 * (((stacked 20).thread l).rsd.toNat - 16) ≤ 1024)
    ∧ runs (on me) me (.ret 7) = true ∧ (∀ l < 32, (me.thread l).rsd = 0)
    ∧ runs (on (stacked 20)) (stacked 20) (.call 4) = true
    ∧ (∀ l < 32, 16 ≤ ((stacked 20).thread l).rsd.toNat ∧ 1024 < 256 * (((stacked 20).thread l).rsd.toNat - 15))
    ∧ runs (on (stacked 21)) (stacked 21) (.ret 7) = true
    ∧ (∀ l < 32, 16 < ((stacked 21).thread l).rsd.toNat ∧ 1024 < 256 * (((stacked 21).thread l).rsd.toNat - 16)) := by decide +kernel
/-- Crews whose spill window is poisoned where a call spills to, the lines 6 and 7, and where a return refills from, the lines 0 and 1. -/
def spoilt (n : Nat) (lines : List Nat) : Crew := { stacked n with spillBad := lines }
theorem witness_spill_poison :
    runs (on (spoilt 16 [6, 7])) (spoilt 16 [6, 7]) (.call 4) = true
    ∧ (∀ l < 32, 16 ≤ ((spoilt 16 [6, 7]).thread l).rsd.toNat ∧ 256 * (((spoilt 16 [6, 7]).thread l).rsd.toNat - 15) ≤ 1024
      ∧ (spoilt 16 [6, 7]).spillBad.contains ((1024 + 8 * l - 256 * (((spoilt 16 [6, 7]).thread l).rsd.toNat - 15)) / 128) = true)
    ∧ runs (on (spoilt 20 [0, 1])) (spoilt 20 [0, 1]) (.ret 7) = true
    ∧ (∀ l < 32, 16 < ((spoilt 20 [0, 1]).thread l).rsd.toNat ∧ 256 * (((spoilt 20 [0, 1]).thread l).rsd.toNat - 16) ≤ 1024
      ∧ (spoilt 20 [0, 1]).spillBad.contains ((1024 + 8 * l - 256 * (((spoilt 20 [0, 1]).thread l).rsd.toNat - 16)) / 128) = true) := by decide +kernel
/-- ThreadFlow: every thread has yielded; every thread waits in a REFUSE, of two addresses; a task crew. -/
def yielded : Crew := me.mapT fun _ t => { t with yex := true }
def refused : Crew := me.mapT fun l t => { t with rwait := true, pcv := if l < 4 then 0x40000 else 0x40010 }
theorem witness_settles :
    (on yielded).crew? 1 = some yielded ∧ yielded.ended = false ∧ yielded.liveSet ≠ 0 ∧ yielded.issueAddr = none ∧ (∀ v ∈ yielded.cv, v.pend = false)
    ∧ yielded.threads.length = 32 ∧ ((yielded.thread 0).live = true ∧ (yielded.thread 0).yex = true)
    ∧ (on refused).crew? 1 = some refused ∧ refused.ended = false ∧ refused.liveSet ≠ 0 ∧ refused.issueAddr = none
    ∧ (∀ v ∈ refused.cv, v.pend = false) ∧ refused.threads.length = 32
    ∧ (∀ l < 32, (refused.thread l).live = true → (refused.thread l).yex = false)
    ∧ ((refused.thread 0).live = true ∧ (refused.thread 0).pcv.toNat = 0x40000)
    ∧ (∀ l < 32, (refused.thread l).live = true → 0x40000 ≤ (refused.thread l).pcv.toNat ∧ (refused.thread l).rwait = true) := by decide +kernel
def tasked : Crew := { me with task := some (0, 0) }
theorem witness_taskend : runs (on tasked) tasked .taskend = true ∧ tasked.task.isSome = true := by decide +kernel
/-- CrewEndsAndHalts. -/
theorem witness_crew_ends : (on me).crew? me.id = some me ∧ bootGrid ∈ (on me).grids ∧ bootGrid.handle = me.grid := by decide +kernel
/-- FloatArithmetic: a NaN, and a finite negative input of RSQRT, SQRT and LOG2. -/
theorem witness_float :
    (f32v 0x7F800001).isNan = true ∧ (match f32v 0xBF800000 with | .fin neg n _ => neg && decide (0 < n) | _ => false) = true
    ∧ (-8388480 : Int) ≤ 8388479 := by decide +kernel
/-- RepeatPrefixAndLookahead: a thread inside and outside a window. -/
theorem witness_lookahead :
    let t : Thread := (me.thread 0).opens 7 3 [(5, 9)] (me.thread 0)
    (t.win.find? (·.reg == 5)).isSome = true ∧ t.win.any (·.reg == 6) = false := by decide +kernel
/-! ### Work creation and the scheduler -/

/-- A launch record: entry 0x60000, one squad of one crew, 16 vector and 32 scalar registers, a spill window of 256 bytes. -/
def record (crews : Nat) : List Byte :=
  leBytes 8 0x60000 ++ leBytes 4 1 ++ leBytes 4 1 ++ leBytes 4 1 ++ leBytes 4 crews ++ leBytes 2 16 ++ leBytes 2 32 ++ leBytes 4 0 ++ leBytes 4 256
def launcher : Crew := pairs me [(34, 0x50000)]
def launching (crews : Nat) : State := withDeck (on launcher) 0x50000 (record crews)
/-- LaunchForkJoin: a record that may be read, good or without a crew; a launch under way, ready, refused and not ready. -/
theorem witness_launch :
    runs (launching 1) launcher (.launch 3 34) = true ∧ runs (launching 1) launcher (.fork 3 34) = true ∧ (launching 1).e7 launcher = true
    ∧ launcher.sc 7 ≠ 10 ∧ (launcher.pr 34).toNat % 256 = 0 ∧ (launcher.pr 34).toNat < 2 ^ 47
    ∧ isOk ((launching 1).bump.checkPage launcher .load 0x50000) (.deck 0x50000) = true := by decide +kernel
def aLaunch (fork : Bool) : PendingLaunch :=
  { crew := 1, squad := 0, core := 0, asid := 0, off := 0x50000, depth := 1, parent := 0, reply := 3, fork := fork, after := [9] }
def resolving (crews : Nat) (fork : Bool) : State := { launching crews with launches := [aLaunch fork] }
theorem witness_resolve :
    (∀ c ∈ [0, 1], ∀ fork ∈ [false, true], (resolving c fork).present 0xA00 = true ∧ (resolving c fork).present 0xA01 = true
      ∧ (resolving c fork).writes = [] ∧ (resolving c fork).crew? 1 = some launcher)
    ∧ (launching 1).refusal 0 0 ((launching 1).deck.readN 0x50000 256) false = none
    ∧ (launching 0).refusal 0 0 ((launching 0).deck.readN 0x50000 256) false = some 2
    ∧ (launching 1).poisoned 0xA00 = false ∧ (launching 1).poisoned 0xA01 = false
    ∧ ({ launching 1 with dir := [{ DirEntry.reset 0xA00 with absentBy := [7] }] } : State).present 0xA00 = false := by decide +kernel
def parent : State := { on me with grids := [bootGrid, { bootGrid with handle := 4097, parentSquad := some 0 }] }
theorem witness_join :
    runs (on me) me (.join 3) = true ∧ (on me).e7 me = true ∧ (on me).childrenOf me.squad = 0 ∧ (on me).launches = []
    ∧ runs parent me (.join 3) = true ∧ parent.childrenOf me.squad ≠ 0
    ∧ (on me).grids.length < 4096 ∧ 4096 ≤ ({ on me with grids := List.replicate 4096 bootGrid } : State).grids.length
    ∧ (let c : Crew := { me with wait := some (.join 3 0 none), waitLanes := me.active }
       let s : State := { parent with crews := [c], cur := none }
       c.inJoin = true ∧ c.performing = false ∧ s.launches = [] ∧ s.issueQ = [] ∧ s.childrenOf (bootSquad 0).id ≠ 0
       ∧ s.crews.filter (fun c => c.squad == (bootSquad 0).id && !c.ended) = [c]) := by decide +kernel
/-- WaitcCompletes, WaitForCounterOrGrid: a counter in the deck, in squad memory, in stroke memory, at both ends of the spill window and at a
misaligned address; a handle; a wait that is met. -/
def counting (a : Nat) : Crew := pairs me [(34, a), (50, 7)]
theorem witness_waitc :
    runs (on (counting 0x50000)) (counting 0x50000) (.waitcCounter 3 50 34) = true
    ∧ isOk ((on (counting 0x50000)).bump.check (counting 0x50000) .load 8 8 0x50000) (.deck 0x50000) = true
    ∧ runs (on (counting 0xFFF0000003F8)) (counting 0xFFF0000003F8) (.waitcCounter 3 50 34) = true
    ∧ isOk ((on (counting 0xFFF0000003F8)).bump.check (counting 0xFFF0000003F8) .load 8 8 0xFFF0000003F8) (.squad 0x3F8) = true
    ∧ runs (on (counting 0xFFFC003FFFF8)) (counting 0xFFFC003FFFF8) (.waitcCounter 3 50 34) = true
    ∧ isOk ((on (counting 0xFFFC003FFFF8)).bump.check (counting 0xFFFC003FFFF8) .load 8 8 0xFFFC003FFFF8) (.skm 0x3FFFF8) = true
    ∧ ((counting 0xFFFC003FFFF8).pr 34).toNat = 0xFFFC003FFFF8
    ∧ (∀ a ∈ [0xFFF800000000, 0xFFFBFFFFFFF8, 0x50004], runs (on (counting a)) (counting a) (.waitcCounter 3 50 34) = true)
    ∧ 0xFFF800000000 % 8 = 0 ∧ 0xFFFBFFFFFFF8 % 8 = 0 ∧ 0xFFFBFFFFFFF8 < 0xFFFC00000000 ∧ 0x50004 % 8 ≠ 0
    ∧ isError ((on (counting 0x50004)).bump.check (counting 0x50004) .load 8 8 0x50004) .misalign = true
    ∧ runs (on (counting 5)) (counting 5) (.waitcHandle 3 34) = true
    ∧ (on me).squad? me.squad = some (bootSquad 0) ∧ (∀ g ∈ (on me).grids, g.handle = 5 → g.asid ≠ me.asid)
    ∧ bootGrid ∈ (on me).grids ∧ bootGrid.asid = me.asid
    ∧ (let c : Crew := { me with waitc := [⟨.skm 0 0, 3⟩] }
       c.waitc = [⟨.skm 0 0, 3⟩] ∧ (on c).waitcMet c ⟨.skm 0 0, 3⟩ = some 0) := by decide +kernel
/-- SpawnCrews: an entry table of one entry. -/
def spawner : Crew := pairs me [(50, 3)]
def spawning : State := withDeck (on spawner) 0x3FFF8 (leBytes 4 0x100 ++ leBytes 4 1)
theorem witness_spawn :
    runs spawning spawner (.spawn 3 50 34 1) = true ∧ spawning.spawnIllegal spawner 1 = false ∧ spawning.grid? spawner.grid = some bootGrid
    ∧ isOk (spawning.bump.spawnEntry spawner 0x40000 1) (some 0x40100) = true
    ∧ 0 < (spawning.bump.poolFree 0 64 3).length := by decide +kernel
/-- TaskQueue: a good record, a bad FLAGS word, a full range table; entries ready, draining and in PAGEWAIT. -/
def queueing : Crew := pairs me [(34, 0x50000)]
def aTask (entry : Nat) (st : TaskState) : Task :=
  { die := 0, entry := entry, id := 1024, asid := 0, grid := 0, state := st, conflicts := [], code := 0x60000, arg := 0, tile := 0, counter := 0x50008
    rBase := 0, rLen := 0, wBase := 0, wLen := 0, flags := 0, recVa := 0x50000, crew := 9, normal := true, add := none }
def queued (flags : Nat) (ts : List Task) : State := { withDeck (on queueing) 0x50038 (leBytes 4 flags) with tasks := ts }
def fullTable : List Task := (List.range 256).map fun j => aTask j .held
theorem witness_taskq :
    runs (queued 0 []) queueing (.taskq 3 34) = true ∧ runs (queued 3 []) queueing (.taskq 3 34) = true
    ∧ runs (queued 0x102 fullTable) queueing (.taskq 3 34) = true
    ∧ (queueing.pr 34).toNat = 0x50000 ∧ isOk ((queued 0 []).bump.checkPage queueing .load 0x50000) (.deck 0x50000) = true
    ∧ (queued 0 []).bump.present 0xA00 = true ∧ (queued 0 []).bump.coveredDone 1 = true
    ∧ leNat ((((queued 3 []).bump.deck.readN 0x50000 64).drop 0x38).take 4) = 3
    ∧ leNat ((((queued 0x102 []).bump.deck.readN 0x50000 64).drop 0x38).take 4) = 0x102
    ∧ 256 ≤ ((queued 0x102 fullTable).bump.tasks.filter (·.die == 0)).length := by decide +kernel
def inService (s : State) : State := { s with coresUp := [0, 1] }
theorem witness_tasks :
    (let s := inService (queued 0 [aTask 4 .ready])
     s.tasks.find? (fun (x : Task) => x.die == 0 && x.entry == 4 && x.state == .ready) = some (aTask 4 .ready)
     ∧ s.grid? (aTask 4 .ready).grid = some bootGrid ∧ 1 / 80 = 0 ∧ s.coresUp.contains 1 = true
     ∧ (s.fits bootGrid 1 1).map List.length = some 1)
    ∧ (let s := queued 0 [aTask 4 .draining]
       s.tasks.find? (fun (x : Task) => x.die == 0 && x.entry == 4 && x.state == .draining) = some (aTask 4 .draining)
       ∧ s.crewWritesDone 9 = true ∧ s.coveredDone 9 = true ∧ (s.counterAdd 0 0x50008 none).2.1 = true ∧ s.crew? 9 = none ∧ (aTask 4 .draining).normal = true) := by decide +kernel
/-- LaunchArrivals: the queue's oldest entry with a good record, a bad one and a misaligned one; a held launch; a squad of a grid to admit, with and
without a producer in flight. -/
def hostQueue (crews : Nat) (va : Pc) : State := { launching crews with lq := [(va, 0)] }
def heldGrid (crew : Option Nat) : HeldLaunch := { grid := { bootGrid with recOff := 0x50000 }, crew := crew, reply := 3, fork := false }
theorem witness_arrivals :
    (hostQueue 1 0x50000).lq = (0x50000, 0) :: [] ∧ (hostQueue 1 0x50000).deckByte 0 0 0x50000 = some 0x50000
    ∧ (hostQueue 1 0x50000).present 0xA00 = true ∧ (hostQueue 1 0x50000).present 0xA01 = true
    ∧ (hostQueue 1 0x50000).refusal 0 0 ((hostQueue 1 0x50000).deck.readN 0x50000 256) false = none
    ∧ (hostQueue 0 0x50000).refusal 0 0 ((hostQueue 0 0x50000).deck.readN 0x50000 256) false = some 2
    ∧ (0x50001 : Pc).toNat % 256 ≠ 0 ∧ (hostQueue 1 0x800000).deckByte 0 0 0x800000 = none
    ∧ ({ on me with held := [heldGrid none] } : State).held = heldGrid none :: [] ∧ (heldGrid (some 1)).crew = some 1 := by decide +kernel
def toAdmit : Grid := { bootGrid with handle := 4098, next := 0, waitOn := 4097 }
def producing (g : Grid) (next : Nat) : State := inService { on me with grids := [{ bootGrid with handle := 4097, next := next }, g] }
theorem witness_admission :
    (let s := inService { on me with grids := [{ toAdmit with waitOn := 0 }] }
     s.grid? 4098 = some { toAdmit with waitOn := 0 } ∧ s.coresUp.contains 1 = true ∧ (s.fits { toAdmit with waitOn := 0 } 1 1).isSome = true)
    ∧ (producing toAdmit 0).grid? 4098 = some toAdmit ∧ toAdmit.next < toAdmit.dimX * toAdmit.dimY * toAdmit.dimZ
    ∧ ((producing toAdmit 0).fits toAdmit 1 1).isSome = true ∧ toAdmit.crewsPer = 1
    ∧ ((producing toAdmit 0).grids.find? (fun p => p.handle == toAdmit.waitOn && p.asid == toAdmit.asid && toAdmit.waitOn != 0)).isSome = true
    ∧ ((producing { toAdmit with early := true } 1).grids.find? fun p => p.handle == 4097 && p.asid == 0).map
        (fun p => decide (p.dimX * p.dimY * p.dimZ ≤ p.next)) = some true
    ∧ ((producing { toAdmit with early := true } 1).fits { toAdmit with early := true } 1 1).isSome = true := by decide +kernel
/-- EndsSwapsBoats: an ended crew, a grid with nothing left, a squad stopped in WAITC, a swapped-out squad, ready crews and their boats. -/
def gone : Crew := { me with ended := true }
def retired : Grid := { bootGrid with handle := 4097, counter := 0x50008 }
def retiring : State := { on gone with grids := [retired], crews := [], squads := [] }
theorem witness_ends :
    (on gone).crew? 1 = some gone ∧ gone.ended = true ∧ (on gone).crewWritesDone 1 = true ∧ (on gone).owesAccess gone = false ∧ gone.sb = [] ∧ (on gone).cmds = [] ∧ (on gone).matops = []
    ∧ retiring.grid? 4097 = some retired ∧ retiring.canRetire retired = true ∧ (retiring.counterAdd 0 0x50008 none).2.1 = true
    ∧ (({ retiring with dir := [{ DirEntry.reset 0xA00 with bcast := true }] } : State).counterAdd 0 0x50008 none).2.1 = false := by decide +kernel
def stoppedCrew : Crew := { me with waitc := [⟨.handle 0, 3⟩], sb := [3] }
def stopped : State := withDeck (({ on stoppedCrew with grids := [bootGrid, { toAdmit with waitOn := 0 }], time := 10000 } : State).setCtx
    { bootCtx with swap := true }) 0x40000 (leBytes 4 (word 0x51 [(6, 17), (40, 8)]))
def away : Squad := { bootSquad 0 with swapped := [me] }
def swappedOut : State := inService (({ on me with crews := [] } : State).setSquad away)
theorem witness_swaps :
    (stopped.stoppedInWaitc stoppedCrew = true ∧ stopped.crews = [stoppedCrew] ∧ stoppedCrew.squad = 0 ∧ stoppedCrew.ended = false
      ∧ (stopped.ctx stoppedCrew.asid).swap = true ∧ { toAdmit with waitOn := 0 } ∈ stopped.grids ∧ toAdmit.since + 10000 ≤ stopped.time.toNat)
    ∧ (swappedOut.squad? 0 = some away ∧ away.swapped ≠ [] ∧ swappedOut.childrenOf 0 = 0 ∧ swappedOut.coresUp.contains 1 = true
      ∧ away.memLen ≤ swappedOut.memFree 1
      ∧ (away.swapped.map (·.tileSlots.length)).sum ≤ (swappedOut.freeTiles 1 (away.asid, (swappedOut.ctx away.asid).key)).length
      ∧ swappedOut.writes = [] ∧ swappedOut.subsFit 1 away = true ∧ (swappedOut.placement 1 64 1 []).isSome = true) := by decide +kernel
def aBoat (ran : Bool) : Boat := { core := 0, part := 0, members := [1], cls := 0, ran := ran, issued := 0 }
theorem witness_boats :
    (on me).ready me = true ∧ ((on me).cycles 0).toNat % 4 = 0
    ∧ (let s : State := { on me with boats := [aBoat false] }
       ((s.boats.filter fun b => b.core == 0 && b.part == 0).filter fun b =>
          !b.members.isEmpty && b.members.all fun id => ((s.crew? id).map s.ready).getD false) ≠ [])
    ∧ (let s : State := { on me with boats := [aBoat true], boatOut := [(0, 0)] }
       let address (id : Nat) : Option Nat := (s.crew? id).bind fun c => (s.issuePoint c).1.issueAddr
       aBoat true ∈ s.boats ∧ (aBoat true).members = 1 :: []
       ∧ [1].filter (fun id => ((s.crew? id).map s.ready).getD false && address id == address 1) ≠ [])
    ∧ me ∈ (on me).crews ∧ ((on me).region (me.core / 20)).stopped = false
    ∧ (let k : Crew := { me with role := .computer, raised := 1, age := 64 }
       (on k).crew? 1 = some k ∧ (on k).ready k = true ∧ (on k).schedAge ≤ k.age) := by decide +kernel
/-! ### System registers, service calls, pre-emption, start-up -/

/-- SystemRegisters: a full launch queue, and one with room. -/
theorem witness_lq_push :
    runs ({ on me with lq := List.replicate 256 (0, 0) }) me (.ssr .lqPush 300) = true
    ∧ 256 ≤ ({ on me with lq := List.replicate 256 (0, 0) } : State).lq.length ∧ (on me).lq.length < 256 := by decide +kernel
/-- ServiceCalls: a reply line, DONE clear and set, and a triggered wait. -/
def servant : Crew := pairs me [(34, 0x50000), (50, 0x50080)]
def waitingFor (c : Crew) (w : Wait) : Crew := { c with wait := some w, waitLanes := c.active }
def asked : State := (on servant).bump.learnAll servant [0x50000]
def answered_ : State := (withDeck (on servant) 0x50007 [0x80]).bump.learnAll servant [0x50000]
theorem witness_service :
    runs (on servant) servant (.svcall 3 50 34 5) = true ∧ (on servant).bump.cmdHeld servant = false
    ∧ isOk ((on servant).bump.checkLine servant .rmw 0x50080) 0x50080 = true ∧ (on servant).requests.length < 4096
    ∧ (let s : State := { on servant with requests := List.replicate 4096 [] }
       runs s servant (.svcall 3 50 34 5) = true ∧ s.bump.cmdHeld servant = false ∧ isOk (s.bump.checkLine servant .rmw 0x50080) 0x50080 = true
       ∧ 4096 ≤ s.requests.length) := by decide +kernel
theorem witness_service_waits :
    (∀ s ∈ [on servant, withDeck (on servant) 0x50007 [0x80]],
      runs s servant (.svwait 3 34) = true ∧ s.bump.memHeld servant = false ∧ isOk (s.bump.checkLine servant .load 0x50000) 0x50000 = true
      ∧ s.bump.present 0xA00 = true ∧ s.bump.poisoned 0xA00 = false ∧ s.bump.shutAt servant .load [(.deck 0x50000, 8)] = [])
    ∧ (asked.reads .exact servant 32 (.deck 0x50000) 8).crew? 1 = some servant
    ∧ (BitVec.ofNat 64 ((asked.reads .exact servant 32 (.deck 0x50000) 8).locRead servant (.deck 0x50000) 8)).getLsbD 63 = false
    ∧ (answered_.reads .exact servant 32 (.deck 0x50000) 8).crew? 1 = some servant
    ∧ (BitVec.ofNat 64 ((answered_.reads .exact servant 32 (.deck 0x50000) 8).locRead servant (.deck 0x50000) 8)).getLsbD 63 = true
    ∧ (let c := waitingFor me (.svwait 3 0x50000 true)
       (on c).crew? 1 = some c ∧ ((on c).reads .exact c 32 (.deck 0x50000) 8).crew? 1 = some c) := by decide +kernel
/-- PreemptionRequests: a named crew that is not in an issued boat; a generation about to wrap. -/
theorem witness_preemption :
    ((on { me with haltReq := true }).region 0).stopped = false
    ∧ (∀ c ∈ (on { me with haltReq := true }).crews, c.core = 0 → c.haltReq = true → c.ended = false → c.id ∉ (on { me with haltReq := true }).issueQ ∧ c.performing = false)
    ∧ (waitingFor me (.bar 3 40)).wait = some (.bar 3 40) ∧ (waitingFor me (.join 3 1 none)).wait = some (.join 3 1 none)
    ∧ (((on me).setCtx { bootCtx with gen := 0xFFFFF }).ctx 0).gen = 0xFFFFF ∧ ((on me).ctx 0).gen ≠ 0xFFFFF
    ∧ ({ me with halted := true } : Crew).halted = true ∧ me.halted = false := by decide +kernel
/-- PreemptionRequests: an event with and without a record of a narrowing that precedes it. -/
def narrowing : State := { on me with time := 9, links := (on me).links.map fun x => { x with state := .narrowing, lostAt := some 8 } }
theorem witness_events :
    narrowing.eventWait = [] ∧ (∃ t ∈ narrowing.owedTimes, t < narrowing.time.toNat)
    ∧ (on me).eventWait = [] ∧ (∀ t ∈ (on me).owedTimes, (on me).time.toNat ≤ t) := by decide +kernel
/-- StartUp: parts under test, regions that differ from the request, and one that is stopped. -/
def starting : State := { State.reset with fwOk := true }
def slower : State := { State.reset with dev := .full, clkCtl := 1300 }
def stoppedRegion : State := { slower with regions := slower.regions.set 3 { slower.region 3 with stopped := true } }
theorem witness_start_up :
    starting.fwOk = true ∧ starting.dev = .starting ∧ slower.dev = .full ∧ (slower.region 20).freq ≠ slower.clkCtl
    ∧ (∀ r ∈ slower.regions, r.stopped = false) ∧ (stoppedRegion.region 3).stopped = true
    ∧ 4 ≤ ([.core 0, .core 1, .core 2, .core 79] : List SparePart).length ∧ 79 / 80 = 0 ∧ ([] : List SparePart).length < 4 := by decide +kernel
/-! ### Memory access, fences and barriers -/

/-- Base pair d19 at an address, the offsets of v35 all 0. -/
def reaching (a : Nat) : Crew := pairs me [(19, a)]
/-- A deck line that command 7 holds absent, one that is poisoned. -/
def absent (s : State) (line : Nat) : State := { s with dir := [{ DirEntry.reset line with absentBy := [7] }] }
def poisonedAt (s : State) (line : Nat) : State := { s with dir := [{ DirEntry.reset line with poison := true }] }
def ea (k : Crew) (l : Nat) : Nat := (k.pr 19 + (k.operand l .va 35).signExtend 64).toNat
/-- AccessChecks: the translated region, and the last bytes of each window. -/
theorem witness_access :
    0x7FFFFC % 4 = 0 ∧ ((on me).translate 0 0 0x7FFFFC).isSome = true ∧ (on me).translate 0 0 0x800000 = none
    ∧ isOk ((on me).check me .load 4 4 0xFFF0000003FC) (.squad 0x3FC) = true ∧ isError ((on me).check me .load 4 4 0xFFF000000400) .prot = true
    ∧ isOk ((on me).check me .store 4 4 0xFFF8000003FC) (.spill 0x3FC) = true ∧ isError ((on me).check me .mon 4 4 0xFFF8000003FC) .prot = true
    ∧ isOk ((on me).check me .load 4 4 0xFFFC003FFFFC) (.skm 0x3FFFFC) = true ∧ isError ((on me).check me .store 4 4 0xFFFC003FFFFC) .prot = true
    ∧ isError ((on me).check me .load 4 4 0x2) .misalign = true ∧ isError ((on me).check me .load 4 4 (2 ^ 48)) .farAccess = true
    ∧ isOk ((on me).checkSquad me 4 0x3FC) (.squad 0x3FC) = true ∧ isError ((on me).checkSquad me 4 (-4)) .prot = true := by decide +kernel
/-- Loads: the deck, squad memory, the spill window; a misaligned address, an absent line and a poisoned one; a pending load; a core with no copy, an
exact one and a reduced one. -/
def checkedFor (s : State) (k : Crew) (n : Nat) (x : Loc) : Bool :=
  !s.memHeld k && (s.shutLines k (ea k) ((List.range 32).map fun l => (l, x)) n).isEmpty
    && (List.range 32).all fun l => isOk (s.check k .load n n (ea k l)) x && !k.collides n (l, x)
theorem witness_loads :
    runs (on (reaching 0x50000)) (reaching 0x50000) (.ld 3 .w32 19 35 4) = true ∧ runs (on (reaching 0x50000)) (reaching 0x50000) (.lda .pkg .w32 19 35 4) = true
    ∧ checkedFor (on (reaching 0x50000)).bump (reaching 0x50000) 4 (.deck 0x50000) = true
    ∧ (on (reaching 0x50000)).bump.present 0xA00 = true ∧ (on (reaching 0x50000)).bump.poisoned 0xA00 = false
    ∧ runs (on (reaching 0xFFF8000003FC)) (reaching 0xFFF8000003FC) (.ld 0 .w32 19 35 4) = true
    ∧ checkedFor (on (reaching 0xFFF8000003FC)).bump (reaching 0xFFF8000003FC) 4 (.spill 0x3FC) = true
    ∧ runs (on (reaching 0x3FC)) (reaching 0x3FC) (.lds 0 .w32 19 35 4) = true
    ∧ (on (reaching 0x3FC)).bump.shutLines (reaching 0x3FC) (fun _ => 0xFFF0000003FC) ((List.range 32).map fun l => (l, .squad 0x3FC)) 4 = []
    ∧ (∀ l < 32, isOk ((on (reaching 0x3FC)).bump.checkSquad (reaching 0x3FC) 4 (ea (reaching 0x3FC) l)) (.squad 0x3FC) = true
      ∧ (reaching 0x3FC).collides 4 (l, .squad 0x3FC) = false) := by decide +kernel
def spoiltLine : State := poisonedAt (on (reaching 0x50000)) 0xA00
theorem witness_load_traps :
    runs (on (reaching 0x50002)) (reaching 0x50002) (.ld 0 .w32 19 35 4) = true
    ∧ isError ((on (reaching 0x50002)).bump.check (reaching 0x50002) .load 4 4 0x50002) .misalign = true
    ∧ runs (absent (on (reaching 0x50000)) 0xA00) (reaching 0x50000) (.ld 0 .w32 19 35 4) = true
    ∧ isOk ((absent (on (reaching 0x50000)) 0xA00).bump.check (reaching 0x50000) .load 4 4 0x50000) (.deck 0x50000) = true
    ∧ (absent (on (reaching 0x50000)) 0xA00).bump.present 0xA00 = false ∧ (absent (on (reaching 0x50000)) 0xA00).bump.memHeld (reaching 0x50000) = false
    ∧ runs spoiltLine (reaching 0x50000) (.ld 0 .w32 19 35 4) = true ∧ spoiltLine.bump.memHeld (reaching 0x50000) = false
    ∧ isOk (spoiltLine.bump.check (reaching 0x50000) .load 4 4 0x50000) (.deck 0x50000) = true
    ∧ spoiltLine.bump.poisoned 0xA00 = true ∧ spoiltLine.bump.present 0xA00 = true
    ∧ (on me).crew? 1 = some me ∧ ((on me).reads .exact me 3 (.deck 0x50000) 4).crew? 1 = some me ∧ me.threads.length = 32 := by decide +kernel
def copied (f : SubFmt) : State := { on me with copies := [{
  core := 0, line := 0xA00, va := 0x50000, asid := 0, fmt := f, upd := false, words := List.replicate 32 0, under := [] }] }
theorem witness_copies :
    (on me).writes = [] ∧ (on me).copyOf 0 0xA00 = none ∧ 0x50004 % 4 = 0
    ∧ ((copied .exact).copyOf 0 0xA00).map (·.words) = some ((List.range 32).map fun j => BitVec.ofNat 32 (leNat ((copied .exact).deck.readN (0x50000 + 4 * j) 4)))
    ∧ ((copied .bf16).copyOf 0 0xA00).map (·.fmt) = some .bf16 := by decide +kernel
/-- Stores: the deck, squad memory, the spill window. -/
theorem witness_stores :
    runs (on (reaching 0x50000)) (reaching 0x50000) (.st .w128 19 35 4) = true ∧ runs (on (reaching 0x50000)) (reaching 0x50000) (.stl .pod .s8 19 35 4) = true
    ∧ (∀ l < 32, isOk ((on (reaching 0x50000)).bump.check (reaching 0x50000) .store 16 16 (ea (reaching 0x50000) l)) (.deck 0x50000) = true
      ∧ (reaching 0x50000).collides 16 (l, .deck 0x50000) = false)
    ∧ (∀ l < 32, isOk ((on (reaching 0x50000)).bump.check (reaching 0x50000) .store 1 1 (ea (reaching 0x50000) l)) (.deck 0x50000) = true)
    ∧ runs (on (reaching 0x3F0)) (reaching 0x3F0) (.sts .w128 19 35 4) = true
    ∧ (∀ l < 32, isOk ((on (reaching 0x3F0)).bump.checkSquad (reaching 0x3F0) 16 (ea (reaching 0x3F0) l)) (.squad 0x3F0) = true)
    ∧ (on me).crew? me.id = some me ∧ (∀ l < 32, (me.thread l).inreg = none) := by decide +kernel
/-- Atomics: every width, every order. -/
theorem witness_atomics :
    runs (on (reaching 0x50000)) (reaching 0x50000) (.atom 1 .acqrel .add 19 35 4) = true
    ∧ runs (on (reaching 0x50000)) (reaching 0x50000) (.cas .release .c128 19 35 8) = true
    ∧ (on (reaching 0x50000)).bump.memHeld (reaching 0x50000) = false ∧ (on (reaching 0x50000)).bump.coveredDone 1 = true
    ∧ ((on (reaching 0x50000)).bump.squad? 0).map (fun q => q.bank) = some []
    ∧ (∀ l < 32, isOk ((on (reaching 0x50000)).bump.check (reaching 0x50000) .rmw 8 8 (ea (reaching 0x50000) l)) (.deck 0x50000) = true
      ∧ (reaching 0x50000).collides 8 (l, .deck 0x50000) = false)
    ∧ (∀ l < 32, isOk ((on (reaching 0x50000)).bump.check (reaching 0x50000) .rmw 16 16 (ea (reaching 0x50000) l)) (.deck 0x50000) = true)
    ∧ (on (reaching 0x50000)).bump.present 0xA00 = true ∧ (on (reaching 0x50000)).bump.poisoned 0xA00 = false
    ∧ ((on (reaching 0x50000)).bump.dirOf 0xA00).bcast = false ∧ ((on (reaching 0x50000)).bump.dirOf 0xA00).busy = false
    ∧ (on (reaching 0x50000)).bump.sliceWaits 0 0x50000 = false := by decide +kernel
/-- Monitors: one thread on a present line; the table empty, overflown, triggered, waiting; the waits and their ends. -/
def watcher : Crew := single (reaching 0x50000)
def armedEntry (hit : Bool) : MonEntry := { space := .deck, line := 0xA00, va := 0x50000, triggered := hit }
def monitoring (ms : List MonEntry) (ovf : Bool) : Crew := { me with mon := ms, monOvf := ovf }
theorem witness_monitors :
    runs (on (reaching 0x50000)) (reaching 0x50000) (.pres 0 19 35 4) = true
    ∧ (∀ l < 32, isOk ((on (reaching 0x50000)).bump.check (reaching 0x50000) .pres 1 1 (ea (reaching 0x50000) l)) (.deck 0x50000) = true)
    ∧ runs (on watcher) watcher (.mon 0 19 35 4) = true ∧ (on watcher).bump.memHeld watcher = false ∧ watcher.active = 1#32 <<< 0
    ∧ isOk ((on watcher).bump.check watcher .mon 4 4 (ea watcher 0)) (.deck 0x50000) = true ∧ (on watcher).bump.present 0xA00 = true
    ∧ (on watcher).bump.poisoned 0xA00 = false ∧ watcher.collides 4 (0, .deck 0x50000) = false
    ∧ (on watcher).bump.shutLines watcher (ea watcher) [(0, .deck 0x50000)] 4 = []
    ∧ runs (on me) me (.mwait 4 300) = true ∧ me.mon = []
    ∧ runs (on (monitoring [armedEntry false] true)) (monitoring [armedEntry false] true) (.mwait 4 300) = true
    ∧ runs (on (monitoring [armedEntry true] false)) (monitoring [armedEntry true] false) (.mwait 4 300) = true
    ∧ runs (on (monitoring [armedEntry false] false)) (monitoring [armedEntry false] false) (.mwait 4 300) = true
    ∧ (∀ m ∈ (monitoring [armedEntry false] false).mon, m.triggered = false)
    ∧ (∃ m ∈ (monitoring [armedEntry true] false).mon, m.triggered = true)
    ∧ (let c := waitingFor (monitoring [armedEntry false] false) (.mwait 300 (some 0))
       (on c).crew? 1 = some c ∧ 0 ≤ ((on c).cycles c.core).toNat)
    ∧ (let c := waitingFor me (.park [0xA00])
       (on c).crew? 1 = some c ∧ ∀ j ∈ [0xA00], (on c).lineOpen c.core c.id j = true)
    ∧ me ∈ (on me).crews := by decide +kernel
/-- FencesAndBarriers: no write and a write under way, an incomplete copy, the waits; a barrier open and idle, with its count and without;
a record of squad memory that has landed and one that has not. -/
def aWrite (id : Nat) : Write :=
  { id := id, core := some 0, crew := some 1, lane := 2, instr := 5, off := 0x50000, bytes := [1, 2], plus := false, after := [], before := [], known := [1], ordered := []
    shown := false, seen := [], bcast := false, applied := false, acks := 0, done := false, turn := 0, old := [] }
def writing : State := { on me with writes := [aWrite 9] }
theorem witness_fences :
    (on me).bump.cmdHeld me = false ∧ runs (on me) me (.fence .pod) = true ∧ (∀ w ∈ (on me).writes, 1 ∉ w.known) ∧ (on me).cmds = []
    ∧ writing.bump.cmdHeld me = false ∧ runs writing me (.fenceRel .pkg) = true ∧ runs writing me (.fenceAcq .pkg) = true
    ∧ (∃ w ∈ writing.writes, 1 ∈ w.known)
    ∧ (let c := waitingFor me (.fence true true true)
       (on c).crew? 1 = some c ∧ ({ on c with writes := [aWrite 9] } : State).crew? 1 = some c)
    ∧ (let c := waitingFor me (.perform 3 0)
       (on c).crew? 1 = some c ∧ c.replay = [] ∧ ∀ w ∈ (on c).writes, w.crew ≠ some 1) := by decide +kernel
def openBar (need arrived : BitVec 6) : Squad :=
  { bootSquad 0 with bars := (bootSquad 0).bars.set 6 { isOpen := true, need := need, arrived := arrived, all := false } }
def barred (need arrived : BitVec 6) : State := (on (waitingFor me (.bar 6 40))).setSquad (openBar need arrived)
theorem witness_barriers :
    runs (on me) me (.bar 0 6 300) = true ∧ (on me).squad? me.squad = some (bootSquad 0) ∧ me.squad = (bootSquad 0).id
    ∧ ((bootSquad 0).bars.getD 6 Bar.idle).isOpen = false
    ∧ runs ((on me).setSquad (openBar 2 1)) me (.bar 0 6 300) = true ∧ ((openBar 2 1).bars.getD 6 Bar.idle).isOpen = true
    ∧ (barred 1 1).squad? 0 = some (openBar 1 1) ∧ ((openBar 1 1).bars.getD 6 Bar.idle).need ≤ ((openBar 1 1).bars.getD 6 Bar.idle).arrived
    ∧ (barred 2 1).squad? 0 = some (openBar 2 1) ∧ ((openBar 2 1).bars.getD 6 Bar.idle).arrived < ((openBar 2 1).bars.getD 6 Bar.idle).need
    ∧ (∀ c ∈ (barred 2 1).squadCrews 0, c.wait = some (.bar 6 40)) ∧ (barred 2 1).squadCrews 0 ≠ [] ∧ (barred 2 1).saved = [] := by decide +kernel
def counted (e l : Nat) : Squad := { bootSquad 0 with mem := (bootSquad 0).mem.writeN 0x3F0 (leBytes 8 e ++ leBytes 8 l) }
def counter : Crew := pairs me [(34, 0xFFF0000003F0), (50, 5)]
theorem witness_records :
    runs ((on counter).setSquad (counted 5 4)) counter (.bbarArm 3 50 34) = true ∧ runs ((on counter).setSquad (counted 5 4)) counter (.bbarWait 3 34) = true
    ∧ runs ((on counter).setSquad (counted 5 5)) counter (.bbarTake 3 34) = true ∧ runs ((on counter).setSquad (counted 5 5)) counter (.bbarWait 3 34) = true
    ∧ ((on counter).setSquad (counted 5 4)).squad? 0 = some (counted 5 4) ∧ (counter.pr 34).toNat = 0xFFF000000000 + 0x3F0
    ∧ 0x3F0 + 16 ≤ (counted 5 4).memLen ∧ leNat ((counted 5 4).mem.readN 0x3F0 8) = 5 ∧ leNat ((counted 5 4).mem.readN 0x3F8 8) = 4
    ∧ leNat ((counted 5 5).mem.readN 0x3F8 8) = 5 ∧ ((on counter).setSquad (counted 5 4)).bump.cmdHeld counter = false
    ∧ (let c := waitingFor counter (.bbar true 3 0x3F0)
       ((on c).setSquad (counted 5 5)).crew? c.id = some c ∧ ((on c).setSquad (counted 5 4)).crew? c.id = some c ∧ c.squad = counter.squad) := by decide +kernel
/-! ### Subscriptions, the home slices, the tanks -/

def aCopy (f : SubFmt) : Copy := { core := 0, line := 0xA00, va := 0x50000, asid := 0, fmt := f, upd := false, words := List.replicate 32 0, under := [] }

/-- Subscriptions: a range of 1 line and an empty one, free and full slots, a current handle and a stale one, of lower and higher rank. -/
def subscriber (a len : Nat) : Crew := pairs me [(34, a), (50, len)]
def subbed (k : Crew) (f : SubFmt) (n : Nat) : State :=
  (on k).setSquad { bootSquad 0 with
    subs := List.replicate n { valid := true, fmt := f, upd := false, count := 1, base := 0xA00, seq := 3 } ++ List.replicate (16 - n) SubSlot.empty }
theorem witness_subs :
    runs (on (subscriber 0x50000 128)) (subscriber 0x50000 128) (.subs 3 50 34 1 .bf16) = true
    ∧ isOk ((on (subscriber 0x50000 128)).bump.check (subscriber 0x50000 128) .load 1 1 0x50000) (.deck 0x50000) = true
    ∧ (on (subscriber 0x50000 128)).squad? 0 = some (bootSquad 0) ∧ (on (subscriber 0x50000 128)).bump.subEntries 0 < 128
    ∧ ((bootSquad 0).subs.getD 0 SubSlot.empty).valid = false
    ∧ runs (on (subscriber 0x50000 0)) (subscriber 0x50000 0) (.subs 3 50 34 1 .bf16) = true
    ∧ runs (subbed (subscriber 0x50000 128) .bf16 16) (subscriber 0x50000 128) (.subs 3 50 34 1 .bf16) = true
    ∧ (((subbed (subscriber 0x50000 128) .bf16 16).squad? 0).map fun q => q.subs.all (·.valid)) = some true := by decide +kernel
theorem witness_unsub :
    runs (subbed (subscriber 0x32 0) .bf16 3) (subscriber 0x32 0) (.unsub 3 34) = true
    ∧ (((subbed (subscriber 0x32 0) .bf16 3).squad? 0).map fun q => ((q.subs.getD 2 SubSlot.empty).valid, (q.subs.getD 2 SubSlot.empty).seq.toNat))
      = some (true, 0x32 / 16 % 65536)
    ∧ runs (subbed (subscriber 0x35 0) .bf16 3) (subscriber 0x35 0) (.unsub 3 34) = true ∧ 0x35 % 16 = 5
    ∧ runs (subbed (subscriber 0x32 0) .bf16 3) (subscriber 0x32 0) (.subup 3 34 .f16) = true ∧ subRank .bf16 < subRank .f16
    ∧ (let s : State := { subbed (subscriber 0x32 0) .bf16 3 with copies := [aCopy .bf16] }
       runs s (subscriber 0x32 0) (.subup 3 34 .f16) = true ∧ (aCopy .bf16) ∈ s.copies ∧ s.bump.lineOpen 0 1 0xA00 = true
       ∧ runs { s with dir := [{ DirEntry.reset 0xA00 with absentBy := [7] }] } (subscriber 0x32 0) (.subup 3 34 .f16) = true
       ∧ ({ s with dir := [{ DirEntry.reset 0xA00 with absentBy := [7] }] } : State).bump.lineOpen 0 1 0xA00 = false)
    ∧ subRank .e5m2 ≤ subRank .bf16
    ∧ isOk ((on (subscriber 0x50000 0)).bump.check (subscriber 0x50000 0) .pres 1 1 0x50000) (.deck 0x50000) = true
    ∧ runs (on (subscriber 0x50000 0)) (subscriber 0x50000 0) (.subqLine 3 34) = true := by decide +kernel
/-- HomeSlices: a mapped line that the core does not hold; a write whose turn it is, without and with BCAST, and one that adds; messages,
acknowledgements of a write and of a clear, the last ones among them; an eviction notice. -/
def mapped : State := { on me with tlb := [{
  place := .core 0, asid := 0, gen := 0, page := 0, leaf := { bits := 23, r := true, w := true, x := true, p := false, tgt := 0, pkg := 0, frame := 0 } }] }
def shared (b : Bool) : State :=
  { writing with dir := [{ DirEntry.reset 0xA00 with ptrs := [⟨3, .exact, false⟩, ⟨4, .bf16, true⟩], bcast := b }] }
def aMsg (up : Bool) : Msg := { id := 8, core := 0, line := 0xA00, upd := up, words := [], silent := false, ackTo := .write 9 }
theorem witness_home :
    mapped.present 0xA00 = true ∧ mapped.poisoned 0xA00 = false ∧ (mapped.dirOf 0xA00).busy = false ∧ mapped.sliceWaits 0 (0xA00 * 128) = false
    ∧ mapped.copyOf 0 0xA00 = none ∧ mapped.mappedAt 0 0xA00 = some (0x50000, 0)
    ∧ (∀ b ∈ [false, true], (shared b).writes.find? (fun w' => w'.id == 9 && !w'.applied) = some (aWrite 9) ∧ (shared b).mayApply (aWrite 9) = true
      ∧ ((shared b).dirOf ((aWrite 9).off / 128)).bcast = b)
    ∧ (let w : Write := { aWrite 9 with plus := true, bytes := leBytes 8 0 }
       let s : State := { on me with writes := [w] }
       s.writes.find? (fun w' => w'.id == 9 && !w'.applied) = some w ∧ s.mayApply w = true ∧ w.plus = true) := by decide +kernel
def aClear (acks : Nat) (write : Option Nat) : LineClear := { id := 30, acks := acks, bcast := true, but := some 0, write := write }
def clearing (acks : Nat) (write : Option Nat) : State :=
  { writing with acks := [{ id := 8, ackTo := .clear 0xA00 30 }], dir := [{ DirEntry.reset 0xA00 with bcast := true, clears := [aClear acks write] }] }
theorem witness_messages :
    ({ on me with msgs := [aMsg false] } : State).firstMsg (aMsg false) = true
    ∧ ({ on me with msgs := [aMsg false] } : State).msgs.find? (fun x => x.id == 8 && !x.upd) = some (aMsg false)
    ∧ ({ on me with msgs := [aMsg true] } : State).firstMsg (aMsg true) = true
    ∧ ({ on me with msgs := [aMsg true] } : State).msgs.find? (fun x => x.id == 8 && x.upd) = some (aMsg true)
    ∧ me ∈ ((on me).triggerCore 3 0xA00).crews
    ∧ (∀ n ∈ [1, 2], ∀ w ∈ [none, some 9],
      (clearing n w).acks.find? (fun x => x.id == 8) = some { id := 8, ackTo := .clear 0xA00 30 }
      ∧ ((clearing n w).dirOf 0xA00).clears.find? (fun x => x.id == 30) = some (aClear n w))
    ∧ (clearing 1 (some 9)).writes.find? (fun x => x.id == (aWrite 9).id && !x.applied) = some (aWrite 9) ∧ (aWrite 9).plus = false
    ∧ (∀ n ∈ [1, 2],
      let w : Write := { aWrite 9 with applied := true, acks := n }
      let s : State := { on me with writes := [w], acks := [{ id := 8, ackTo := .write 9 }] }
      s.acks.find? (fun x => x.id == 8) = some { id := 8, ackTo := .write 9 } ∧ s.writes.find? (fun x => x.id == 9) = some w)
    ∧ (∀ b ∈ [false, true], ({ on me with notices := [{ core := 0, line := 0xA00, asked := b }] } : State).notices.find? (fun n => n.core == 0 && n.line == 0xA00)
      = some { core := 0, line := 0xA00, asked := b }) ∧ (on me).sliceWaits 0 (0xA00 * 128) = false ∧ writing.sliceWaits 0 (0xA00 * 128) = true := by decide +kernel
/-- Signatures, MatrixOperations: slots of BF16 and of I8; an unsigned, a pending and a signed convergence register. -/
def elements (k : Crew) (code : DWord) : State := { on k with grids := [{ bootGrid with slots := List.replicate 8 code }] }
def pendingOn (i : Instr) : Crew :=
  { me with cv := me.cv.set 1 { signed := 0xFF, decl := 0xFF, pend := true, opword := BitVec.ofNat 32 (encodeNat i) &&& 0xF0FE07FF, sigs := [] } }
def signing (s : State) (k : Crew) (i : Instr) (resid : Bool) : Bool :=
  runs s k i && !k.rep.active && ((List.range 32).any fun l => k.active.getLsbD l && !(k.cvN 1).signed.getLsbD l)
    && s.kindAfter 0 (k.tileSlot 1) != (if resid then .f32 else .res) && !s.foreign k (k.tileSlot 1) && decide (1 < k.tileSlots.length)
theorem witness_signs :
    signing (elements me 1) me (.mma 1 0 2 1 1) false = true ∧ signing (elements me 1) me (.mmaSet 1 0 2 1 1) false = true
    ∧ signing (elements me 5) me (.mmr 1 0 2 1 1) true = true ∧ signing (elements me 5) me (.mmrSet 1 0 2 1 1) true = true
    ∧ slotElem ((elements me 1).slot me 0) = .flt .bf16 ∧ slotElem ((elements me 5).slot me 1) = .int 8
    ∧ signing (elements (pendingOn (.mma 1 0 2 1 1)) 1) (pendingOn (.mma 1 0 2 1 1)) (.mma 1 0 2 1 1) false = true
    ∧ ((pendingOn (.mma 1 0 2 1 1)).cvN 1).pend = true ∧ ((pendingOn (.mma 1 0 2 1 1)).cvN 1).decl = 0xFF
    ∧ runs (on me) me (.cvsetLive 1) = true ∧ (me.cvN 1).pend = false := by decide +kernel
def issuing : Crew := pendingOn (.mma 1 0 2 1 1)
theorem witness_issues :
    runs (elements issuing 1) issuing (.cvsetImm 0xFF 1) = true
    ∧ (((elements issuing 1).bump.issueConv 1 1).crew? 1).map (fun (k1 : Crew) =>
        !k1.ended && k1.inh == issuing.inh && k1.rep == issuing.rep && k1.core == issuing.core
          && (List.range 32).all fun l => (k1.thread l).pcv == (issuing.thread l).pcv)
      = some true
    ∧ opOf (issuing.cvN 1).opword = some (false, false, 0, 1) ∧ (elements issuing 1).foreign issuing (issuing.tileSlot 1) = false
    ∧ (elements issuing 1).crew? issuing.id = some issuing := by decide +kernel
def anOp (resid : Bool) : MatOp :=
  { core := 0, crew := 1, slot := 1, isSet := false, resid := resid, lost := false, fa := if resid then 5 else 1, fb := if resid then 5 else 1
    frags := List.replicate 32 (List.replicate 8 0x3F803F80, List.replicate 8 0x01010101) }
def operated (resid : Bool) (t : Tile) : State := ({ on me with matops := [anOp resid] } : State).setTile t
theorem witness_operations :
    (operated false (Tile.zero 0 1 none)).matops.find? (·.core == 0) = some (anOp false) ∧ (anOp false).lost = false ∧ (anOp false).resid = false
    ∧ (operated true { Tile.zero 0 1 none with kind := .res, depth := 7 }).matops.find? (·.core == 0) = some (anOp true) ∧ (anOp true).resid = true
    ∧ ((operated true { Tile.zero 0 1 none with kind := .res, depth := 7 }).tile 0 1).depth = 7 ∧ slotSym (anOp true).fa = false := by decide +kernel
/-- TileRegisters, TileMemory: a tile without operations; sixteen rows of 64 bytes at 0x50000. -/
def tiler : Crew := pairs me [(19, 0x50000), (37, 64)]
def rows : List (Nat × Nat) := (List.range 16).flatMap fun i => (List.range 4).map fun j => (0x50000 + 64 * i + 16 * j, 16)
theorem witness_tiles :
    (on tiler).foreign tiler (tiler.tileSlot 3) = false ∧ (on tiler).tileBusy tiler.core (tiler.tileSlot 3) = false
    ∧ (on tiler).kindAfter tiler.core (tiler.tileSlot 3) = .empty ∧ ((on tiler).tileOf tiler 3).elems.length = 256
    ∧ runs (on tiler) tiler (.mstConv 19 37 4 3) = true ∧ runs (on tiler) tiler (.mstRaw 19 37 3) = true ∧ runs (on tiler) tiler (.mldConv 19 37 4 3) = true
    ∧ runs (on tiler) tiler (.mldRawF32 19 37 3) = true ∧ (slotElem ((on tiler).slot tiler 4)).width = 32
    ∧ (on tiler).bump.memHeld tiler = false ∧ (tiler.pr 19).toNat % 16 = 0 ∧ (tiler.pr 37).toNat % 16 = 0
    ∧ (∀ p ∈ rows, isOk ((on tiler).bump.check tiler .load 1 p.2 p.1) (.deck p.1) = true ∧ (on tiler).bump.present (p.1 / 128) = true
      ∧ (on tiler).bump.poisoned (p.1 / 128) = false ∧ (on tiler).bump.lineOpen 0 1 (p.1 / 128) = true)
    ∧ (∀ p ∈ rows ++ [(0x50400, 4)], isOk ((on tiler).bump.check tiler .store 1 p.2 p.1) (.deck p.1) = true ∧ (on tiler).bump.present (p.1 / 128) = true)
    := by decide +kernel
def wide : Crew := pairs me [(19, 0x50000), (37, 128)]
theorem witness_tiles_res :
    runs (on wide) wide (.mldRawRes 19 37 3) = true
    ∧ (∀ i < 16, ∀ j < 8, isOk ((on wide).bump.check wide .load 1 16 (0x50000 + 128 * i + 16 * j)) (.deck (0x50000 + 128 * i + 16 * j)) = true
      ∧ (on wide).bump.lineOpen 0 1 ((0x50000 + 128 * i + 16 * j) / 128) = true) := by
  decide +kernel
/-! ### Engine commands, queues and timelines -/

/-- EngineCommands: a crew whose queues hold four words each, one whose queues are empty, one with a command that waits for acceptance. -/
def fed : Crew := { me with q := List.replicate 6 [1, 2, 3, 4] }
def aCmd (fn : EngFn) (number : Nat) : Cmd :=
  { id := 20, fn := fn, rel := false, after := [], crew := 1, squad := 0, grid := 0, asid := 0, priv := true, core := 0, tl := 2, reply := 3, opA := 0x50000, opB := 0x60000
    args := [0, 40, 0], number := number, delivered := 0, landed := 0, status := none, since := 5, timeout := 1000, early := [], cleared := [], waitLines := [], before := [], link := none, out := false, peers := []
    ranks := 1, inbuf := [], tag := 77, sent := false, acked := false, again := none }
def commanding (c : Cmd) : State := { on me with cmds := [c] }
theorem witness_commands :
    (on fed).bump.cmdHeld fed = false ∧ (∀ q < 6, 4 ≤ (fed.q.getD q []).length)
    ∧ runs (on fed) fed (.copyt 3 50 34 1 2) = true ∧ runs (on fed) fed (.gatherq 3 50 1 2) = true ∧ runs (on fed) fed (.barrier 3 34 1 2) = true
    ∧ runs (on fed) fed (.wake 3 50 34 2) = true ∧ (me.q.getD 0 []).length < 2 ∧ runs (on me) me (.copy1 3 50 34 1 2) = true
    ∧ (commanding (aCmd .copy1 0)).bump.cmdHeld me = true ∧ runs (commanding (aCmd .copy1 0)) me (.copy1 3 50 34 1 2) = true
    ∧ (∀ l < 32, (fed.thread l).inreg = none) := by decide +kernel
/-- EngineCommands: an input buffer with room and a full one (its size is free, log 20). -/
def crowded (n : Nat) : State := { on fed with cmds := List.replicate (n + 1) { aCmd .copy1 0 with crew := 2 } }
theorem witness_buffers :
    (on fed).bump.bufferFull .copy1 0 0 = false ∧ runs (crowded (Config.engineBuffer 0)) fed (.copyt 3 50 34 1 2) = true
    ∧ (crowded (Config.engineBuffer 0)).bump.cmdHeld fed = false ∧ (crowded (Config.engineBuffer 0)).bump.bufferFull .copyt 0 0 = true := by
  refine ⟨?_, ?_, ?_, ?_⟩
  · rw [State.bufferFull, show (on fed).bump.cmds = [] by decide +kernel]; simp
  · decide +kernel
  · show (List.replicate (Config.engineBuffer 0 + 1) ({ aCmd .copy1 0 with crew := 2 } : Cmd)).any
      (fun m => m.crew == fed.id && m.number == 0 && m.fn.clears) = false
    rw [show fed.id = 1 by decide +kernel]
    simp [aCmd]
  · show decide (Config.engineBuffer 0 < ((List.replicate (Config.engineBuffer 0 + 1) ({ aCmd .copy1 0 with crew := 2 } : Cmd)).filter
      fun c => c.number == 0 && c.fn.unit == 0 && c.fn.at_ c.core c.opA == 0).length) = true
    rw [List.filter_replicate_of_pos (by decide)]
    simp
/-- EngineProgress: a command to accept; commands of every sort under way; a complete one; commands that a timeout, a leaving peer, a silent link or
a teardown end. -/
def isReady (p : Prepared) (id : Nat) : Bool := match p with | .ready d => d.id == id | .wait _ => false
theorem witness_acceptance :
    (commanding (aCmd .copy1 0)).cmd? 20 = some (aCmd .copy1 0) ∧ (aCmd .copy1 0).number = 0 ∧ (commanding (aCmd .copy1 0)).orderedDone (aCmd .copy1 0).after = true
    ∧ isReady ((commanding (aCmd .copy1 0)).prepare { aCmd .copy1 0 with waitLines := (commanding (aCmd .copy1 0)).absentNow }) 20 = true := by decide +kernel
theorem witness_under_way :
    (commanding (aCmd .copy1 1)).cmd? 20 = some (aCmd .copy1 1) ∧ (aCmd .copy1 1).number ≠ 0 ∧ (aCmd .copy1 1).status = none ∧ (aCmd .copy1 1).acked = false
    ∧ (aCmd .gatherq 1).fn = .gatherq ∧ ({ aCmd .copyr 1 with out := true } : Cmd).out = true
    ∧ ({ aCmd .copyr 1 with peers := [9] } : Cmd).peers ≠ [] ∧ (aCmd .copyr 1).out = false := by decide +kernel
def chunk : Chunk := { s := commanding (aCmd .copy1 1), c := { aCmd .copy1 1 with delivered := 32 }, pend := [], stop := none }
theorem witness_unit :
    chunk.c.delivered < chunk.c.total ∧ min (16 - (0x50000 + 32) % 16) (chunk.c.total - 32) = 8
    ∧ (∀ j < 8, isOk (match chunk.s.dstPlace chunk.c [] (32 + j) with | .ok p => Except.ok (ε := Unit) p | .error _ => .error ()) (0x50020 + j) = true
      ∧ isOk (match chunk.s.srcPlace chunk.c [] (32 + j) with | .ok p => Except.ok (ε := Unit) p | .error _ => .error ()) (0x60020 + j) = true
      ∧ (chunk.s.writeStop (0x50020 + j)).isNone = true ∧ (chunk.s.readStop chunk.c (0x60020 + j)).isNone = true) := by decide +kernel
theorem witness_complete :
    ({ aCmd .copy1 1 with delivered := 40 } : Cmd).complete = true ∧ (commanding { aCmd .copy1 1 with delivered := 40 }).cmd? 20 = some { aCmd .copy1 1 with delivered := 40 }
    ∧ (commanding { aCmd .copy1 1 with delivered := 40 }).owesWrites { aCmd .copy1 1 with delivered := 40 } = false
    ∧ ({ aCmd .copy1 1 with status := some (5, 1) } : Cmd).complete = true
    ∧ (commanding { aCmd .copy1 1 with status := some (5, 1) }).owesWrites { aCmd .copy1 1 with status := some (5, 1) } = false
    ∧ (let c : Cmd := { aCmd .copy1 0 with after := [9] }
       let s : State := { commanding c with writes := [aWrite 9] }
       s.cmd? 20 = some c ∧ c.number = 0 ∧ s.orderedDone c.after = false) := by decide +kernel
/-- EngineProgress: a collective of this package and package 5, whose command agrees, and one whose function differs. -/
def gathered : Cmd := { aCmd .barrier 1 with peers := [Config.packageId, 5], ranks := 2 }
def peerCommand (fn : Nat) : PeerCommand := { tag := 77, fn := fn, peers := [Config.packageId, 5], e := 0, ok := true, bytes := [] }
theorem witness_collective :
    (commanding gathered).cmd? 20 = some gathered ∧ gathered.number ≠ 0 ∧ gathered.status = none ∧ gathered.acked = false
    ∧ ∀ fn ∈ [1, 4], let peers := [peerCommand 4, peerCommand fn]
      peers.length = gathered.ranks ∧ peers.eraseIdx (gathered.peers.idxOf Config.packageId) = [peerCommand fn]
      ∧ (∀ p ∈ [peerCommand fn], p.tag.zeroExtend 64 = gathered.tag) ∧ (peerCommand fn).ok = true ∧ (peerCommand fn).peers = gathered.peers := by
  refine ⟨by simp [commanding, State.cmd?, gathered, aCmd], by decide, rfl, rfl, fun fn _ => ⟨rfl, ?_, ?_, rfl, rfl⟩⟩
  · simp [gathered]
  · intro p hp
    rw [List.mem_singleton.1 hp]
    rfl

theorem witness_failures :
    ((commanding (aCmd .barrier 1)).cmds.map fun x => x.id).Nodup ∧ (aCmd .barrier 1).fn ∈ [EngFn.allred, .redscat, .allgath, .barrier]
    ∧ (aCmd .barrier 1).number ≠ 0 ∧ (aCmd .barrier 1).acked = false ∧ (commanding (aCmd .barrier 1)).cmd? 20 = some (aCmd .barrier 1)
    ∧ 5 ≤ (aCmd .barrier 1).since ∧ 5 + (aCmd .barrier 1).timeout ≤ ({ commanding (aCmd .barrier 1) with time := 1005 } : State).time.toNat
    ∧ ({ aCmd .copyr 1 with peers := [9] } : Cmd).complete = false
    ∧ (commanding { aCmd .copyr 1 with link := some 4 }).cmd? 20 = some { aCmd .copyr 1 with link := some 4 }
    ∧ ((commanding { aCmd .copyr 1 with link := some 4 }).link 4).speaks = false ∧ (on me).ergs = [] := by decide +kernel
/-- QueuesAndTimelines: queues full, with room, empty and not; timelines reached and not. -/
def full : Crew := { me with q := List.replicate 6 (List.replicate 16 7) }
def gatheringState : State := commanding (aCmd .gatherq 1)
def timed (done : DWord) : State :=
  (on (pairs me [(34, 5)])).setSquad { bootSquad 0 with tls := List.replicate 8 { issued := 9, done := done, fails := 2, window := [(4, 0x11)] } }
theorem witness_queues :
    runs (on me) me (.qpush 258 2) = true ∧ runs (on me) me (.qpush 258 6) = true
    ∧ runs (on full) full (.qpush 258 5) = true ∧ 16 ≤ (full.q.getD 5 []).length ∧ (me.q.getD 5 []).length < 16
    ∧ runs (on me) me (.qpop 2 300) = true ∧ me.q.getD 2 [] = [] ∧ (on me).cmds = []
    ∧ runs gatheringState me (.qpop 2 300) = true ∧ (∃ c ∈ gatheringState.cmds, c.squad = me.squad ∧ c.fn ∈ [EngFn.gather, .scatter, .scatadd, .gatherq])
    ∧ runs (on full) full (.qpop 2 300) = true ∧ full.q.getD 2 [] = 7 :: List.replicate 15 7
    ∧ (let c := waitingFor me (.queue 5 true)
       (on c).crew? 1 = some c ∧ (c.q.getD 5 []).length < 16)
    ∧ (let c := waitingFor full (.queue 2 false)
       (on c).crew? 1 = some c ∧ c.q.getD 2 [] ≠ []) := by decide +kernel
theorem witness_timelines :
    runs (timed 5) (pairs me [(34, 5)]) (.tlwait 3 34 2) = true ∧ ((timed 5).timeline 0 2).done.toNat = 5 ∧ ((timed 5).timeline 0 2).issued.toNat = 9
    ∧ runs (timed 4) (pairs me [(34, 5)]) (.tlwait 3 34 2) = true ∧ ((timed 4).timeline 0 2).done.toNat < min 5 9
    ∧ (let c := waitingFor me (.tlwait 2 5 3)
       ((timed 5).setCrew c).crew? 1 = some c ∧ 5 ≤ (((timed 5).setCrew c).timeline c.squad 2).done.toNat) := by decide +kernel
/-! ### Strokes and the Cox ring -/

/-- Strokes: the whole replica as the window, a word of it, a ring in service with room, one that is DOWN and one in FAULT. -/
def stroker : Crew := { pairs me [(34, 0xFFFC003FFFF8), (50, 5)] with q := me.q.set 5 [0x1000, 2] }
def ringed (st : RingState) (k : Crew) : State :=
  let s := (on k).setCtx { bootCtx with skmWin := BitVec.ofNat 64 (2 ^ 22 * 2 ^ 22) }
  { s with ring := { s.ring with state := st, applied := 5, counted := 5, notes := [(7, 3)], faulted := st == .fault } }
theorem witness_strokes :
    runs (ringed .inService stroker) stroker (.skStore 3 50 34 1 1) = true ∧ runs (ringed .inService stroker) stroker (.skClaim 3 50 34 1 1) = true
    ∧ runs (ringed .inService stroker) stroker (.skSwap 3 50 34 1 1) = true ∧ runs (ringed .inService stroker) stroker (.skGen 3 50 1) = true
    ∧ (stroker.pr 34).toNat = 0xFFFC003FFFF8 ∧ 0x3FFFF8 % 8 = 0 ∧ 0x3FFFF8 + 8 ≤ 2 ^ 22
    ∧ ((ringed .inService stroker).ctx 0).skmWin.toNat % 2 ^ 22 = 0 ∧ ((ringed .inService stroker).ctx 0).skmWin.toNat / 2 ^ 22 % 2 ^ 23 = 2 ^ 22
    ∧ stroker.q.getD 5 [] = 0x1000 :: [2] ∧ 0x1000 % 8 = 0 ∧ (ringed .inService stroker).bump.cmdHeld stroker = false
    ∧ (ringed .inService stroker).bump.coveredDone 1 = true ∧ (ringed .inService stroker).bump.remoteAcked 1 = true
    ∧ (ringed .inService stroker).ring.outq.length < 64 ∧ (ringed .inService stroker).ring.state ≠ .down
    ∧ (∀ l < 32, (stroker.thread l).inreg = none)
    ∧ runs (ringed .down stroker) stroker (.skNote 3 50 0) = true ∧ (ringed .down stroker).ring.state = .down := by decide +kernel
def aStroke : Stroke := { kind := 1, flags := 0x20, core := 0, offset := 0x1000, p0 := 9, p1 := 0 }
theorem witness_stroke_waits :
    (let c := waitingFor me (.strk aStroke false 3)
     (ringed .inService c).crew? c.id = some c ∧ aStroke.flags.getLsbD 5 = true ∧ (ringed .inService c).coveredDone c.id = true
     ∧ (ringed .inService c).remoteAcked c.id = true ∧ (ringed .inService c).ring.outq.length < 64 ∧ (ringed .inService c).ring.state ≠ .down)
    ∧ (∀ st ∈ [RingState.fault, .inService], ∀ a ∈ [5, 6],
      runs (ringed st (pairs me [(34, a)])) (pairs me [(34, a)]) (.wstrk 3 34) = true
      ∧ runs (ringed st (pairs me [(34, a), (50, 7)])) (pairs me [(34, a), (50, 7)]) (.wstrkNote 3 50 34) = true)
    ∧ (ringed .fault me).ring.faulted = true ∧ (ringed .inService me).ring.faulted = false
    ∧ ((pairs me [(34, 5)]).pr 34).toNat ≤ (ringed .inService me).ring.applied
    ∧ (ringed .inService me).ring.applied < ((pairs me [(34, 6)]).pr 34).toNat
    ∧ (∀ st ∈ [RingState.fault, .inService],
      let c := waitingFor me (.wstrk (some 7) 3 3)
      (ringed st c).crew? c.id = some c ∧ ((ringed st c).ring.notes.find? fun x => x.1 == 7) = some (7, 3))
    ∧ (∀ n ∈ [5, 6],
      let c := waitingFor me (.wstrk none n 3)
      (ringed .inService c).crew? c.id = some c) := by decide +kernel
/-- CoxRing: a token at its turn, records of every kind with the next number, a repair request. -/
def aRecord (kind flags off p0 p1 : Nat) : BitVec 512 :=
  recordWith (leBytes 1 kind ++ leBytes 1 flags ++ leBytes 2 0 ++ leBytes 4 6 ++ leBytes 8 off ++ leBytes 8 p0 ++ leBytes 8 p1 ++ leBytes 28 0)
theorem witness_token :
    (ringed .inService me).ring.state = .inService ∧ (ringed .inService me).ring.missing = [] ∧ (ringed .inService me).ring.owed = []
    ∧ (ringed .inService me).ring.alone = false ∧ (6 : BitVec 32) = BitVec.ofNat 32 ((ringed .inService me).ring.counted + 1)
    ∧ ({ (ringed .inService me).ring with outq := [(aStroke, some (1, 3))] } : Ring).outq = [(aStroke, some (1, 3))]
    ∧ 1 ≤ (ringed .inService me).ring.burst ∧ (ringed .down me).ring.state = .down ∧ (ringed .inService me).ring.sent ≤ 5
    ∧ (5 : BitVec 64).toNat ≤ (ringed .inService me).ring.counted := by decide +kernel
theorem witness_records_received :
    (ringed .inService me).ring.held = [] ∧ (ringed .inService me).ring.applied = (ringed .inService me).ring.counted
    ∧ leNat ((ringed .inService me).skm.readN 0x1000 8) = 0 ∧ 0x1000 % 8 = 0 ∧ 0x2000 % 8 = 0 := by decide +kernel
/-- The checksum with every step's word evaluated before the next, as the kernel computes it quickly. -/
def forced (c : Nat) (f : Nat → Nat) : Nat :=
  match c with
  | 0 => f 0
  | n + 1 => f (n + 1)
theorem forced_eq (c : Nat) (f : Nat → Nat) : forced c f = f c := by cases c <;> rfl
def crcFast : Nat → List Byte → Nat
  | c, [] => c
  | c, b :: r => forced (crcBits 8 (BitVec.ofNat 32 c ^^^ b.zeroExtend 32)).toNat fun d => crcFast d r
theorem crcFast_eq (bs : List Byte) (c : BitVec 32) :
    crcFast c.toNat bs = (bs.foldl (fun c b => crcBits 8 (c ^^^ b.zeroExtend 32)) c).toNat := by
  induction bs generalizing c with
  | nil => rfl
  | cons b r ih => rw [crcFast, forced_eq, BitVec.ofNat_toNat, BitVec.setWidth_eq, ih, List.foldl_cons]
theorem crc32c_fast (bs : List Byte) : crc32c bs = ~~~ BitVec.ofNat 32 (crcFast 0xFFFFFFFF bs) := by
  have h := crcFast_eq bs 0xFFFFFFFF
  rw [show (0xFFFFFFFF : BitVec 32).toNat = 0xFFFFFFFF from rfl] at h
  rw [h, BitVec.ofNat_toNat, BitVec.setWidth_eq, crc32c]
/-- The checksum of "123456789" is the standard one of CRC-32C (R326). -/
theorem test_crc32c : crc32c [0x31, 0x32, 0x33, 0x34, 0x35, 0x36, 0x37, 0x38, 0x39] = 0xE3069283 := by
  rw [crc32c_fast]; decide +kernel
/-- A record with the fields, its checksum good. -/
def fielded (kind low : Nat) : Bool :=
  let x := aRecord kind 1 0x1000 8 low
  let r := x.toNat
  recGood x && (r % 256 == kind) && (r / 0x100 % 256 == 1) && (r / 0x100000000 % 0x100000000 == 6)
    && (r / 0x10000000000000000 % 0x10000000000000000 == 0x1000)
    && ((r >>> 192) % 0x10000000000000000 == low) && ((r >>> 16) % 65536 == 0) && ((r >>> 448) % 0x100000000 == 0)
theorem witness_records_of_each_kind : ([(1, 9), (2, 9), (3, 0), (3, 1), (4, 0x2000), (5, 9), (8, 9), (10, 9), (77, 9)].all fun p : Nat × Nat =>
    fielded p.1 p.2) = true := by
  simp only [fielded, recGood, aRecord, recordWith, crc32c_fast]; decide +kernel
theorem witness_window_record : (recGood (aRecord 0x0F 0 0 2 4) && ((aRecord 0x0F 0 0 2 4).toNat % 256 == 0x0F)) = true := by
  simp only [recGood, aRecord, recordWith, crc32c_fast]; decide +kernel
theorem witness_resync : Memory.wf [(0x10, 7), (0x3FFFFF, 1)] = true ∧ (∀ c ∈ [((0x10 : Nat), (7 : Byte)), (0x3FFFFF, 1)], c.1 < 2 ^ 22)
    ∧ (ringed .fault me).ring.counted ≤ (5 : BitVec 64).toNat := by decide +kernel
/-! ### Approximation -/

/-- Slot 3 of die 0, armed by a region of one input (v10) and one output (v11) at 0x40000, bound by the grid. -/
def region : Desc :=
  { Desc.none with
    ok := true, nin := 1, nout := 1, h1 := 4, h2 := 0, ins := [10], outs := [11], entry := 0, exit := 0x40,
    dom := [(0xBF800000, 0x3F800000)], scale := [0x3F800000], window := 4, epochs := 2, minsamp := 64, trial := 4 }
def armedSlot (st : ErgState) : ErgSlot :=
  { ErgSlot.idle 0 3 with
      state := st, shift := 15, asid := 0, descVa := 0x40100, base := 0x40000, desc := region,
      weights := List.replicate region.params 0 }
def bound (k : Crew) (st : ErgState) : State :=
  { (on k) with grids := [{ bootGrid with binds := bootGrid.binds.set 3 0x80000100 }], ergs := [armedSlot st] }
def one : Crew := single me
def outside : Crew := vector one 10 fun _ => 0x40000000
/-- ApproximatedRegions: an unbound slot; a RETIRED, a FITTED and an OBSERVE slot; an input in the box and one outside. -/
theorem witness_regions :
    runs (on me) me (.apxe 3) = true ∧ (on me).bindVa me 3 = none ∧ runs (bound me .retired) me (.apxe 3) = true
    ∧ (bound me .retired).bindVa me 3 = some 0x40100 ∧ (bound me .retired).ergMine me ((bound me .retired).erg 0 3) = true
    ∧ ((bound me .retired).erg (dieOf me.core) 3).state = .retired
    ∧ runs (bound one .fitted) one (.apxe 3) = true ∧ one.active = 1#32 <<< 0 ∧ one.pc = rel48 0x40000 0
    ∧ (((bound one .fitted).grid? one.grid).map (·.entry.toNat)).getD 0 = 0x40000 ∧ (∀ r ∈ region.ins ++ region.outs, r < one.n)
    ∧ (one.thread 0).inreg = none ∧ region.inBox (region.ins.map fun r => (one.thread 0).val 0 r) = true
    ∧ sampled 3 15 0 one.cid (one.icnt.getD 3 0 + 1) = false ∧ (bound one .observe).pending = []
    ∧ runs (bound outside .observe) outside (.apxe 3) = true ∧ region.inBox (region.ins.map fun r => (outside.thread 0).val 0 r) = false := by decide +kernel
def inRegion : Crew := one.mapT fun _ t => { t with inreg := some { slot := 3, recd := true } }
def entered : ErgPending := { die := 0, slot := 3, crew := 1, lane := 0, x := [0], p := none, epoch := 0, icnt := 1 }
theorem witness_leaves :
    runs (bound inRegion .observe) inRegion (.apxl 3) = true ∧ (bound inRegion .observe).bindVa inRegion 3 = some 0x40100
    ∧ (∀ o ∈ region.outs, o < inRegion.n) ∧ inRegion.active = 1#32 <<< 0 ∧ (inRegion.thread 0).inreg = some { slot := 3, recd := true }
    ∧ (bound inRegion .observe).pending = []
    ∧ ({ bound inRegion .observe with pending := [entered] } : State).pending.find?
        (fun p => p.die == 0 && p.slot == 3 && p.crew == 1 && p.lane == 0) = some entered
    ∧ entered.epoch = (armedSlot .observe).epoch ∧ (armedSlot .observe).buffer.length + 1 < region.minsamp := by decide +kernel
/-- ApproximationControl: bound and unbound slots in every state; weight images in the deck; a notification; training. -/
def controller : Crew := pairs me [(34, 0x50000)]
def loading (st : ErgState) : State := bound controller st
def areaOk (s : State) (acc : Acc) (n : Nat) : Bool := (List.range ((n + 15) / 16)).all fun j =>
  isOk (s.check controller acc 1 (min 16 (n - 16 * j)) (0x50000 + 16 * j)) (.deck (0x50000 + 16 * j)) && s.present ((0x50000 + 16 * j) / 128)
    && !s.poisoned ((0x50000 + 16 * j) / 128) && s.lineOpen 0 1 ((0x50000 + 16 * j) / 128)
theorem witness_control :
    runs (on me) me (.apxi 3 3) = true ∧ (on me).bindVa me 3 = none ∧ runs (loading .fitted) controller (.apxi 3 3) = true
    ∧ (loading .fitted).bindVa controller 3 ≠ none ∧ (loading .fitted).ergMine controller ((loading .fitted).erg 0 3) = true
    ∧ (armedSlot .observe).state ≠ .idle ∧ (armedSlot .observe).state ≠ .retired ∧ region.preload = false
    ∧ runs (loading .trial) controller (.apxcLoadw 3 34 3) = true ∧ runs (loading .retired) controller (.apxcLoadw 3 34 3) = true
    ∧ ((loading .retired).erg 0 3).reason ≠ 2 ∧ (loading .trial).bump.memHeld controller = false ∧ (controller.pr 34).toNat % 16 = 0
    ∧ (loading .trial).bump.crewWritesDone 1 = true ∧ areaOk (loading .trial).bump .load region.imageSize = true
    ∧ runs (loading .fitted) controller (.apxcDumpw 3 34 3) = true ∧ areaOk (loading .fitted).bump .store region.imageSize = true
    ∧ 0 < region.imageSize ∧ (let k := pairs me [(34, 15)]; runs (bound k .fitted) k (.apxcShift 3 34 3) = true ∧ (k.pr 34).toNat < 16)
    ∧ (let k := pairs me [(34, 16)]; runs (bound k .fitted) k (.apxcShift 3 34 3) = true ∧ 16 ≤ (k.pr 34).toNat) := by decide +kernel
def trained (n : Nat) : State := { on me with ergs := [{ armedSlot .train with trained := n }] }
theorem witness_training :
    ((trained 0).erg 0 3).state = .train ∧ ((trained 0).erg 0 3).trained + 1 < region.epochs * (region.minsamp / 64)
    ∧ ((trained 1).erg 0 3).state = .train ∧ region.epochs * (region.minsamp / 64) ≤ ((trained 1).erg 0 3).trained + 1
    ∧ (let n : Note := { id := 4, die := 0, line := 0xA00, write := some 9 }
       ({ on me with notes := [n] } : State).notes.find? (fun m => m.id == 4) = some n)
    ∧ runs (on me) me (.apxsDrop 3 3) = true ∧ ((on me).erg (dieOf me.core) 3).state = .idle
    ∧ runs (bound me .fitted) me (.apxsDrop 3 3) = true ∧ ((bound me .fitted).erg (dieOf me.core) 3).state ≠ .idle := by decide +kernel
theorem witness_save_area :
    runs (bound controller .fitted) controller (.apxsSave 3 34 3) = true ∧ runs (on controller) controller (.apxsSave 3 34 3) = true
    ∧ runs (on controller) controller (.apxsLoad 3 34 3) = true ∧ (on controller).bump.memHeld controller = false
    ∧ (controller.pr 34).toNat % 256 = 0 ∧ areaOk (on controller).bump .store 0x1000 = true ∧ areaOk (on controller).bump .load 0x1000 = true := by
  decide +kernel
/-! ### Context save and load -/

/-! The page tables of the loaded machine reach every address under 2^23 at its own deck offset, whatever translations are cached (log 6). -/

def leaf8M : Leaf := { bits := 23, r := true, w := true, x := true, p := false, tgt := 0, pkg := 0, frame := 0 }
def Mapped (s : State) : Prop := (s.ctx 0).root.toNat = 0 ∧ s.tableN 0 8 = 0x10001 ∧ s.tableN 0x10000 8 = 0x3D ∧ (∀ e ∈ s.tlb, e.leaf = leaf8M)
  ∧ ∀ e ∈ s.walkCache, (e.level = 1 → e.entry = 0x10001) ∧ (e.level = 2 → e.entry = 0x3D)
theorem walkHeld_mapped {s : State} (h : Mapped s) {asid : BitVec 12} {level key v : Nat} (hv : s.walkHeld 0 asid level key = some v) :
    (level = 1 → v = 0x10001) ∧ (level = 2 → v = 0x3D) := by
  unfold State.walkHeld at hv
  obtain ⟨e, he, rfl⟩ := Option.map_eq_some_iff.1 hv
  obtain ⟨he, -⟩ := Option.filter_eq_some_iff.1 he
  have hl : e.level = level := by have := List.find?_some he; simp at this; exact this.1.1.2
  obtain ⟨h1, h2⟩ := h.2.2.2.2 e (List.mem_of_find?_eq_some he)
  exact ⟨fun h => by rw [h1 (hl.trans h)]; rfl, fun h => by rw [h2 (hl.trans h)]; rfl⟩
theorem rootOf_mapped : rootOf 0x10001 = some 0x10000 := by decide
theorem dirOf_mapped : dirOfEntry 0x3D = some (.whole leaf8M) := by decide
theorem rootEntry_mapped {s : State} (h : Mapped s) {va : Nat} (hv : va < 2 ^ 23) : s.rootEntry 0 0 va = 0x10001 := by
  have h1 : va / 2 ^ 35 = 0 := by omega
  unfold State.rootEntry
  cases hw : s.walkHeld 0 0 1 (va / 2 ^ 35) with
  | none => simp only [h1, h.1, Nat.zero_mod, Nat.mul_zero, Nat.add_zero, Option.getD_none]; exact h.2.1
  | some e => exact (walkHeld_mapped h hw).1 rfl
theorem dirEntry_mapped {s : State} (h : Mapped s) {va : Nat} (hv : va < 2 ^ 23) : s.dirEntry 0 0 va = some 0x3D := by
  have h2 : va / 2 ^ 23 = 0 := by omega
  unfold State.dirEntry
  cases hw : s.walkHeld 0 0 2 (va / 2 ^ 23) with
  | none =>
    simp only [rootEntry_mapped h hv, rootOf_mapped, Option.map_some, h2, Nat.zero_mod, Nat.mul_zero, Nat.add_zero]
    rw [h.2.2.1]
  | some e => exact congrArg some ((walkHeld_mapped h hw).2 rfl)
theorem walk_mapped {s : State} (h : Mapped s) {va : Nat} (hv : va < 2 ^ 23) : s.walk 0 0 va = some leaf8M := by
  unfold State.walk
  rw [if_neg (by rw [h.1]; decide), dirEntry_mapped h hv, Option.bind_some, dirOf_mapped]
  rfl
theorem translate_mapped {s : State} (h : Mapped s) {va : Nat} (hv : va < 2 ^ 23) : s.translate 0 0 va = some leaf8M := by
  unfold State.translate
  split
  · next e he =>
    obtain ⟨he, -⟩ := Option.filter_eq_some_iff.1 he
    rw [h.2.2.2.1 e (List.mem_of_find?_eq_some he)]
  · exact walk_mapped h hv
theorem mem_cached {α : Type} [DecidableEq α] {x e : α} {mine : α → Bool} {cap : Nat} {es : List α} (h : x ∈ cached e mine cap es) : x = e ∨ x ∈ es := by
  unfold cached at h
  rcases List.mem_append.1 h with h | h
  · rcases List.mem_cons.1 (List.mem_of_mem_take h) with rfl | h
    · exact .inl rfl
    · exact .inr (List.mem_filter.1 (List.mem_filter.1 h).1).1
  · exact .inr (List.mem_filter.1 h).1
theorem learn_mapped {s : State} (h : Mapped s) {va : Nat} (hv : va < 2 ^ 23) : Mapped (s.learn 0 0 va) := by
  have h1 : va / 2 ^ 35 = 0 := by omega
  have h2 : va / 2 ^ 23 = 0 := by omega
  unfold State.learn
  rw [translate_mapped h hv]
  refine ⟨h.1, h.2.1, h.2.2.1, fun e he => ?_, fun e he => ?_⟩
  · rcases mem_cached he with rfl | he
    · rfl
    · rcases mem_cached he with rfl | he
      · rfl
      · exact h.2.2.2.1 e he
  · dsimp only at he
    split at he
    · exact h.2.2.2.2 e he
    · unfold State.walked at he
      simp only [show dieOf 0 = 0 from rfl, rootEntry_mapped h hv, dirEntry_mapped h hv, rootOf_mapped, dirOf_mapped, Option.bind_some, Option.map_some] at he
      split at he
      · exact h.2.2.2.2 e he
      · rcases mem_cached he with rfl | he
        · exact ⟨fun _ => rfl, fun h => absurd (show (1 : Nat) = 2 from h) (by decide)⟩
        · exact h.2.2.2.2 e (List.mem_filter.1 he).1
theorem learn_eq (s : State) (c : Nat) (a : BitVec 12) (va : Nat) : ∃ t w, s.learn c a va = { s with tlb := t, walkCache := w } := by
  unfold State.learn
  split
  · exact ⟨s.tlb, s.walkCache, rfl⟩
  · exact ⟨_, _, rfl⟩
theorem learns_mapped (ps : List Nat) (hp : ∀ p ∈ ps, p < 2 ^ 9) (s : State) (h : Mapped s) :
    Mapped (ps.foldl (fun (s : State) p => s.learn 0 0 (p * 2 ^ 14)) s)
    ∧ ∃ t w, ps.foldl (fun (s : State) p => s.learn 0 0 (p * 2 ^ 14)) s = { s with tlb := t, walkCache := w } := by
  induction ps generalizing s with
  | nil => exact ⟨h, s.tlb, s.walkCache, rfl⟩
  | cons p r ih =>
    have hv : p * 2 ^ 14 < 2 ^ 23 := by have := hp p (by simp); omega
    obtain ⟨t, w, e⟩ := learn_eq s 0 0 (p * 2 ^ 14)
    obtain ⟨hm, t', w', h'⟩ := ih (fun q hq => hp q (by simp [hq])) _ (learn_mapped h hv)
    exact ⟨hm, t', w', by rw [List.foldl_cons, h', e]⟩
/-- After an access of addresses under 2^23: only the caches differ, and the pages are still reached. -/
theorem learnAll_mapped {s : State} (h : Mapped s) {k : Crew} (hk : k.core = 0) (ha : k.asid = 0) (vas : List Nat) (hv : ∀ v ∈ vas, v < 2 ^ 23) :
    Mapped (s.learnAll k vas) ∧ ∃ t w, s.learnAll k vas = { s with tlb := t, walkCache := w } := by
  unfold State.learnAll
  rw [hk, ha]
  refine learns_mapped _ (fun p hp => ?_) s h
  simp only [List.mem_dedup, List.mem_map, List.mem_filter] at hp
  obtain ⟨v, ⟨hm, -⟩, rfl⟩ := hp
  have := hv v hm
  omega
/-- Nothing is on its way: reading changes nothing. -/
theorem reads_quiet {s : State} (hw : s.writes = []) (hm : s.msgs = []) (f : SubFmt) (k : Crew) (lane : Nat) (l : Loc) (n : Nat) :
    s.reads f k lane l n = s := by
  have hd : ∀ off, s.deliver k.core off = s := fun off => by simp [State.deliver, hm]
  have hm' : ∀ f : Write → Write, s.writes.map f = s.writes := fun f => by rw [hw]; rfl
  have hg : ∀ all off, s.glimpse all k lane off n = s := fun all off => by simp only [State.glimpse, hm']
  cases l with
  | deck off =>
    simp only [State.reads]
    split
    · rw [hd, hg]
    · rw [hg]
  | squad _ => rfl
  | spill _ => rfl
  | skm _ => rfl
theorem readsAll_quiet {s : State} (hw : s.writes = []) (hm : s.msgs = []) (k : Crew) (ls : List (Loc × Nat)) : s.readsAll k ls = s := by
  unfold State.readsAll
  induction ls with
  | nil => rfl
  | cons x r ih => rw [List.foldl_cons, reads_quiet hw hm, ih]
theorem check_mapped {s : State} (h : Mapped s) {k : Crew} {a : Acc} {n va : Nat} (hk : k.core = 0) (ha : k.asid = 0) (hv : va < 2 ^ 23) :
    s.check k a 1 n va = .ok (.deck va) := by
  have h1 : ¬ 2 ^ 48 ≤ va := by omega
  have h2 : va < 2 ^ 47 := by omega
  rw [State.check, if_neg (by simp [Nat.mod_one]), if_neg h1, if_pos h2, State.checkPage, hk, ha, translate_mapped h hv]
  have h3 : (0 : Nat) + va % 2 ^ 23 = va := by omega
  simp [leaf8M, Leaf.phys] at h3 ⊢
  omega
/-- The condition of the statements on a piece of an area. -/
def Reached (s : State) (k : Crew) (a : Acc) (n va : Nat) : Prop :=
  s.check k a 1 n va = .ok (.deck va) ∧ s.present (va / 128) = true ∧ s.poisoned (va / 128) = false ∧ s.agentWaits va n = false
    ∧ s.lineOpen k.core k.id (va / 128) = true
theorem reached_of {s : State} (h : Mapped s) (hd : s.dir = []) (hw : s.writes = []) {k : Crew} (a : Acc) {n va : Nat} (hk : k.core = 0)
    (ha : k.asid = 0) (hv : va < 2 ^ 23) : Reached s k a n va :=
  ⟨check_mapped h hk ha hv, by simp [State.present, State.dirOf, hd, DirEntry.reset], by simp [State.poisoned, State.dirOf, hd, DirEntry.reset],
    by simp [State.agentWaits, hw], by simp [State.lineOpen, State.dirOf, hd, DirEntry.reset, State.sliceWaits, hw]⟩
/-- The condition on a state, as a computation. -/
def mapped8M (s : State) : Bool :=
  (s.ctx 0).root.toNat == 0 && s.tableN 0 8 == 0x10001 && s.tableN 0x10000 8 == 0x3D && s.tlb.isEmpty && s.walkCache.isEmpty
theorem mapped_of {s : State} (h : mapped8M s = true) : Mapped s := by
  simp only [mapped8M, Bool.and_eq_true, beq_iff_eq, List.isEmpty_iff] at h
  obtain ⟨⟨⟨⟨h1, h2⟩, h3⟩, h4⟩, h5⟩ := h
  exact ⟨h1, h2, h3, by simp [h4], by simp [h5]⟩
/-- Areas are reached in s, for a crew of core 0 that nothing holds. -/
def areas (s : State) (k : Crew) : Bool :=
  mapped8M s && s.dir.isEmpty && s.writes.isEmpty && s.msgs.isEmpty && !s.memHeld k && k.core == 0 && k.asid == 0
/-- Such areas meet the condition, an approximation slot's save area of 0x8410 pieces among them (R369), before and after the reads of one. -/
theorem areas_reached {s : State} {k : Crew} (h : areas s k = true) (vas : List Nat) (hvs : ∀ v ∈ vas, v < 2 ^ 23) (ls : List (Loc × Nat)) (a : Acc)
    (va n : Nat) (hv : va + n ≤ 2 ^ 23) :
    (s.memHeld k = false ∧ ∀ j < (n + 15) / 16, Reached s k a (min 16 (n - 16 * j)) (va + 16 * j))
    ∧ (let u := (s.learnAll k vas).readsAll k ls
       u.memHeld k = false ∧ ∀ j < (n + 15) / 16, Reached u k a (min 16 (n - 16 * j)) (va + 16 * j)) := by
  simp only [areas, Bool.and_eq_true, beq_iff_eq, List.isEmpty_iff, Bool.not_eq_true'] at h
  obtain ⟨⟨⟨⟨⟨⟨hm, hd⟩, hw⟩, hq⟩, hh⟩, hc⟩, hi⟩ := h
  obtain ⟨hM, t, w, e⟩ := learnAll_mapped (mapped_of hm) hc hi vas hvs
  refine ⟨⟨hh, fun j hj => reached_of (mapped_of hm) hd hw a hc hi (by omega)⟩, ?_⟩
  rw [e] at hM
  dsimp only
  rw [readsAll_quiet (by rw [e]; exact hw) (by rw [e]; exact hq), e]
  exact ⟨hh, fun j hj => reached_of hM hd hw a hc hi (by omega)⟩
theorem witness_save_area_whole : areas (on controller).bump controller = true ∧ 0x50000 + 16 * 0x8410 ≤ 2 ^ 23 := by decide +kernel

/-- TileImages: an area for the image, a status word that is taken and one that is not. -/
theorem witness_tile_images :
    runs (on controller) controller (.tksv 3 34 1) = true ∧ runs (on controller) controller (.tkld 3 34 1) = true
    ∧ (controller.pr 34).toNat = 0x50000 ∧ 0x50000 % 64 = 0 ∧ areas (on controller).bump controller = true
    ∧ (on controller).tileBusy 0 (controller.tileSlot 1) = false
    ∧ ((on controller).tileOf controller 1).elems.length = 256 ∧ leNat ((on controller).deck.readN 0x50800 4) = 0
    ∧ leNat ((withDeck (on controller) 0x50800 [3]).deck.readN 0x50800 4) % 4 = 3
    ∧ areas (withDeck (on controller) 0x50800 [3]).bump controller = true := by decide +kernel

/-- A halted crew of 8 registers and one tile in context slot 5, in a squad of its own. -/
def halted : Crew := { me with id := 9, slot := 5, squad := 7, n := 8, m := 16, tileSlots := [8], halted := true }
def squad7 : Squad := { bootSquad 7 with memLen := 256 }
def named (b a : Nat) : Crew := pairs me [(40, b), (34, a)]
def saving (a : Nat) : State := let s := on (named 5 a); { s with crews := s.crews ++ [halted], squads := s.squads ++ [squad7] }
theorem witness_crew_saves :
    runs (on (named 5 0x50000)) (named 5 0x50000) (.ctxsvCrew 3 40 34) = true ∧ runs (on (named 5 0x50000)) (named 5 0x50000) (.ctxsvTiles 3 40 34) = true
    ∧ ((on (named 5 0x50000)).crews.all fun (c : Crew) => !(c.core == 0 && c.slot == 5 && !c.ended && c.halted)) = true
    ∧ runs (saving 0x50010) (named 5 0x50010) (.ctxsvCrew 3 40 34) = true ∧ 0x50010 % 256 ≠ 0
    ∧ runs (saving 0x50000) (named 5 0x50000) (.ctxsvCrew 3 40 34) = true ∧ runs (saving 0x50000) (named 5 0x50000) (.ctxsvTiles 3 40 34) = true
    ∧ ((saving 0x50000).crews.find? fun (c : Crew) => c.core == 0 && c.slot == 5 && !c.ended && c.halted) = some halted
    ∧ ((named 5 0x50000).pr 40).toNat = 5 ∧ ((named 5 0x50000).pr 34).toNat = 0x50000
    ∧ areas (saving 0x50000).bump (named 5 0x50000) = true
    ∧ halted.id ≠ (named 5 0x50000).id
    ∧ ((saving 0x50000).crews.all fun (d : Crew) => !(d.id == 1) || d == named 5 0x50000) = true := by decide +kernel

/-- A squad that is saved: its only crew is, and nothing of its commands is in flight. -/
def savingSquad (a : Nat) : State := let s := on (named 5 a)
  { s with saved := [{ blocks := [0x60000], crew := halted }], squads := s.squads ++ [squad7] }
theorem witness_squad_saves :
    runs (on (named 5 0x50000)) (named 5 0x50000) (.ctxsvSquad 3 40 34) = true ∧ (on (named 5 0x50000)).squadBySlot 0 5 = none
    ∧ runs (saving 0x50000) (named 5 0x50000) (.ctxsvSquad 3 40 34) = true ∧ (saving 0x50000).squadBySlot 0 5 = some squad7
    ∧ halted ∈ (saving 0x50000).crews ∧ halted.squad = squad7.id ∧ halted.ended = false
    ∧ runs (savingSquad 0x50010) (named 5 0x50010) (.ctxsvSquad 3 40 34) = true ∧ (savingSquad 0x50010).squadBySlot 0 5 = some squad7
    ∧ runs (savingSquad 0x50000) (named 5 0x50000) (.ctxsvSquad 3 40 34) = true ∧ (savingSquad 0x50000).squadBySlot 0 5 = some squad7
    ∧ ((savingSquad 0x50000).crews.all fun (c : Crew) => c.squad != 7) = true ∧ (savingSquad 0x50000).cmds = [] ∧ squad7.bank = []
    ∧ (let c := { aCmd .copy1 1 with squad := 7 }
       c.number ≠ 0 ∧ c.status = none ∧ runs { savingSquad 0x50000 with cmds := [c] } (named 5 0x50000) (.ctxsvSquad 3 40 34) = true)
    ∧ areas (savingSquad 0x50000).bump (named 5 0x50000) = true := by decide +kernel

/-- ContextImages, loads: squad slot 5 and a crew image at 0x50000 of the crew that squad 7 saved there: its header is core c, 8 registers, 1 tile. -/
def loadingCrew (a c : Nat) : State := withDeck
  (let s := on (named 5 a)
   { s with squads := s.squads ++ [{ squad7 with slotNo := some 5 }], saved := [{ blocks := [0x50000], crew := halted }] })
  0x50000 (leBytes 8 (8 + 16 * 2 ^ 16 + 2 ^ 32 + c * 2 ^ 42))
theorem witness_crew_loads :
    runs (on (named 5 0x50000)) (named 5 0x50000) (.ctxldCrew 3 40 34) = true ∧ runs (on (named 5 0x50000)) (named 5 0x50000) (.ctxldTiles 3 40 34) = true
    ∧ ((on (named 5 0x50000)).squads.all fun (q : Squad) => q.slotNo != some 5) = true
    ∧ runs (loadingCrew 0x50010 0) (named 5 0x50010) (.ctxldCrew 3 40 34) = true
    ∧ runs (loadingCrew 0x50000 1) (named 5 0x50000) (.ctxldCrew 3 40 34) = true
    ∧ runs (loadingCrew 0x50000 0) (named 5 0x50000) (.ctxldCrew 3 40 34) = true ∧ runs (loadingCrew 0x50000 0) (named 5 0x50000) (.ctxldTiles 3 40 34) = true
    ∧ ((loadingCrew 0x50000 0).squads.find? fun (q : Squad) => q.core == 0 && q.slotNo == some 5 && !q.ended) = some { squad7 with slotNo := some 5 }
    ∧ areas (loadingCrew 0x50000 1).bump (named 5 0x50000) = true
    ∧ areas (loadingCrew 0x50000 0).bump (named 5 0x50000) = true
    ∧ leNat ((loadingCrew 0x50000 1).deck.readN 0x50000 8) / 2 ^ 42 % 2 ^ 9 ≠ (named 5 0x50000).core
    ∧ leNat ((loadingCrew 0x50000 0).deck.readN 0x50000 8) = 8 + 16 * 2 ^ 16 + 2 ^ 32
    ∧ (let bs := (loadingCrew 0x50000 0).deck.readN 0x50008 16
       BitVec.ofNat 64 (leNat (bs.take 8)) = halted.grid ∧ leNat ((bs.drop 8).take 4) = squad7.index
       ∧ BitVec.ofNat 32 (leNat ((bs.drop 12).take 4)) = halted.s5Start)
    ∧ (loadingCrew 0x50000 0).crewPlace halted 0 8 = some (1, 16) ∧ halted.core = (named 5 0x50000).core
    ∧ 8 ∈ (loadingCrew 0x50000 0).freeTiles 0 (0, ((loadingCrew 0x50000 0).ctx 0).key)
    ∧ (loadingCrew 0x50000 0).copies = [] ∧ (1 : Nat) ∉ (loadingCrew 0x50000 0).saved.map fun o => o.crew.id := by decide +kernel

/-- ContextImages: the image of a squad of 256 bytes of squad memory; room for it, and none. -/
def loadingSquad (held_ : Nat) : State := withDeck
  (let s := on (named 0 0x50000)
   { s with squads := s.squads.map fun (q : Squad) => { q with memLen := held_ } }) 0x50000 (leBytes 8 (256 + 2 ^ 18))
theorem witness_squad_loads :
    (∀ n ∈ [1024, 262144],
      runs (loadingSquad n) (named 0 0x50000) (.ctxldSquad 3 34) = true ∧ areas (loadingSquad n).bump (named 0 0x50000) = true
      ∧ leNat ((loadingSquad n).deck.readN 0x50000 8) % 2 ^ 18 = 256 ∧ ((loadingSquad n).squads.find? fun (q : Squad) => q.out == some 0x50000) = none
      ∧ ((loadingSquad n).squads.all fun (q : Squad) => q.slotNo != some 0) = true)
    ∧ runs (on (named 0 0x50010)) (named 0 0x50010) (.ctxldSquad 3 34) = true
    ∧ 256 ≤ (loadingSquad 1024).memFree 0 ∧ (loadingSquad 262144).memFree 0 < 256
    ∧ (let q := squadOf ((loadingSquad 1024).deck.readN 0x50000 (0x1300 + 256)) 2 0 0 256 none
       (loadingSquad 1024).subsFit 0 q = true)
    ∧ (loadingSquad 1024).crewRoom 0 1 [] = true := by decide +kernel
/-! ### Host memory and the far links -/

/-- HostMemory: a page with reads under way, a line of the caches in each state, requests on the ports, a command on a failed shelf. -/
def caching (st : HlcState) : State := { on me with hlc := [{ line := 7, pool := true, st := st, by_ := 3, pois := false }] }
def asking (kind : CxlKind) (pool : Bool) : State := { on me with cxlOut := [⟨kind, 7, pool, false⟩] }
/-- A request of the kind for the line stands on the port, as the statement asks it. -/
def has (s : State) (kind : CxlKind) (pool : Bool) : Bool := s.cxlOut.any fun r => r.kind == kind && r.line == 7 && r.pool == pool
def readingPage : State := { on me with reading := [(5, 1)] }
def startFlip : State := { readingPage with flips := [5] }
theorem witness_host_pages :
    (on me).dead = false ∧ ({ on me with dev := .failed, fwOk := false } : State).dead = true ∧ (on me).flips = [] ∧ 5 ∉ (on me).biasHost
    ∧ (on me).reading = [] ∧ (on me).midWrite 5 = false
    ∧ readingPage.dead = false ∧ readingPage.flips = [] ∧ 5 ∉ readingPage.biasHost ∧ (readingPage.reading.any fun x : Nat × Nat => x.1 == 5) = true
    ∧ (caching .m).hlcState 7 true = .m ∧ (caching .o).hlcState 7 true = .o ∧ (caching .s).hlcState 7 true = .s ∧ (caching .m).dead = false
    ∧ (caching .m).hlc.length < 131072 := by
  decide +kernel
theorem witness_host_flip : startFlip.flips = [5]
    ∧ (let u : State := { startFlip with
         cmds := startFlip.cmds.map fun (c : Cmd) => if startFlip.reading.contains (5, c.id) then startFlip.restartRead 5 c else c
         reading := startFlip.reading.filter fun x => x.1 != 5 }
       u.midWrite 5 = false) := by decide +kernel
theorem witness_host_answers :
    has (asking .memRdData true) .memRdData true = true ∧ has (asking .rdShared false) .rdShared false = true ∧ has (asking .memRd true) .memRd true = true
    ∧ has (asking .rdOwn false) .rdOwn false = true ∧ has (asking .biSnpInv false) .biSnpInv false = true
    ∧ has (asking .biSnpData false) .biSnpData false = true ∧ has (asking .biSnpData false) .biSnpInv false = false
    ∧ (asking .memRdData true).hlc.length < 131072 ∧ (asking .memRdData true).dead = false := by decide +kernel
theorem witness_host_write_answers :
    ([CxlKind.memWr, .writeBack, .dirtyEvict, .cleanEvict].all fun (kind : CxlKind) => [false, true].all fun (pool : Bool) =>
      has (asking kind pool) kind pool && !has (asking kind pool) .biSnpInv pool && !has (asking kind pool) .biSnpData pool
        && [CxlKind.memWr, .writeBack, .dirtyEvict, .cleanEvict].all fun (other : CxlKind) => other == kind || !has (asking kind pool) other pool) = true := by
  decide +kernel
/-- The command's source and destination lie in HBM, so a page of the host is touched by none. -/
def toHost : State := commanding (aCmd .copy1 1)
theorem witness_host_failures :
    (∃ r ∈ (asking .memRdData true).cxlOut, r.pool = true ∧ 256 ≤ r.line * 64 ∧ r.line * 64 < 256 + 4096)
    ∧ (toHost.cmds.map fun c => c.id).Nodup ∧ (aCmd .copy1 1).status = none ∧ (aCmd .copy1 1).number ≠ 0
    ∧ (aCmd .copy1 1).complete = false ∧ toHost.touches (aCmd .copy1 1) (fun _ => true) = true
    ∧ toHost.touches (aCmd .copy1 1) (fun p => placeTgt p == 3 && placeOff p / 16384 == 9) = false := by decide +kernel

/-- Flits: link 9 up to package 5, the next flit expected 4, one flit sent and not acknowledged. -/
def aLink (st : LinkState) : Link :=
  { Link.reset with state := st, lit := 0xFFFF, rxLit := 0xFFFF, dark := 0, peer := 5, rxSeq := 4, txSeq := 1, acked := 0, replay := [0], stage := 7 }
def linked (x : Link) : State := { on me with links := (on me).links.set 9 x }
def aFlit (seq : BitVec 16) (type : Nat) (words : List Nat) : BitVec 576 := flitOf seq type (BitVec.ofNat 512 (leNat (words.flatMap fun w => leBytes 4 w)))
def piece : RxPiece := { peer := 5, tag := 0, answer := false, base := 0x50000, count := 128, got := 0, ranges := [], key := 1, lines := [], link := some 9 }
/-- The flit's checksum is good, and it has the type, the SEQ, the kind and the second word. -/
def isFlit (f : BitVec 576) (type seq kind word : Nat) : Bool :=
  let n := f.toNat
  ((crc32c (leBytes 68 n)).toNat == (n >>> 544) % 0x100000000) && ((n >>> 16) % 256 == type) && (n % 65536 == seq)
    && ((n >>> 32) % 0x100000000 == kind) && ((n >>> 64) % 0x100000000 == word)
theorem witness_flits :
    (isFlit (aFlit 4 0 [1, 128, 0x50000]) 0 4 1 128 && isFlit (aFlit 4 0 [2, 0]) 0 4 2 0 && isFlit (aFlit 4 0 [3, 64]) 0 4 3 64
      && isFlit (aFlit 3 0 [1, 0]) 0 3 1 0 && isFlit (aFlit 5 0 [1, 0]) 0 5 1 0) = true := by
  simp only [isFlit, aFlit, flitOf, flitTail, crc32c_fast]; decide +kernel
theorem witness_control_flits :
    (isFlit (aFlit 4 1 [1]) 1 4 1 0 && isFlit (aFlit 4 2 [1]) 2 4 1 0 && isFlit (aFlit 4 3 []) 3 4 0 0 && isFlit (aFlit 4 4 []) 4 4 0 0
      && isFlit (aFlit 4 5 []) 5 4 0 0) = true := by
  simp only [isFlit, aFlit, flitOf, flitTail, crc32c_fast]; decide +kernel
theorem witness_bad_flit : isFlit (aFlit 4 5 [] ^^^ 1) 5 5 0 0 = false := by
  simp only [isFlit, aFlit, flitOf, flitTail, crc32c_fast]; decide +kernel
theorem witness_link_states :
    9 < (linked (aLink .up)).links.length ∧ (linked (aLink .up)).link 9 = aLink .up ∧ (aLink .up).rx = none ∧ (aLink .up).rxSeq = 4
    ∧ ({ aLink .up with rx := some piece } : Link).rx = some piece ∧ ((aLink .up).rxSeq - 3).toNat < 2 ^ 15 ∧ 2 ^ 15 ≤ ((aLink .up).rxSeq - 5).toNat
    ∧ (linked (aLink .down)).link 9 = aLink .down ∧ (linked (aLink .up)).deck.wf = true ∧ 0x50000 + 128 ≤ 0x18000000
    ∧ (let d := (on me).dirOf (0x50000 / 128); d.ptrs = [] ∧ d.bcast = false ∧ d.busy = false) ∧ (on me).writes = [] := by decide +kernel

/-- LinkLightAndBringup: some light lost and all of it, an ease at its boundary, every stage. -/
def losing : Link := { aLink .narrowing with lost := 0xF, rxLost := 0xF0, lostAt := some 40, rxLostAt := some 41 }
theorem witness_light :
    (0x00FF &&& (aLink .up).lit) ≠ 0 ∧ (aLink .up).lit &&& ~~~((aLink .up).lost ||| (0x00FF &&& (aLink .up).lit)) ≠ 0
    ∧ (aLink .up).rxLit &&& ~~~(aLink .up).rxLost ≠ 0 ∧ (aLink .up).lit &&& ~~~((aLink .up).lost ||| (0xFFFF &&& (aLink .up).lit)) = 0
    ∧ (aLink .up).rxLit &&& ~~~((aLink .up).rxLost ||| (0xFFFF &&& (aLink .up).rxLit)) = 0
    ∧ (let x : Link := { aLink .up with cmds := [⟨none, true, 0x00FF, true⟩] }
       x.state ≠ .narrowing ∧ (0x00FF : BitVec 16) &&& x.lit ≠ x.lit ∧ (linked x).link 9 = x)
    ∧ (linked losing).link 9 = losing ∧ losing.state = .narrowing ∧ losing.cmds = [] ∧ losing.lost ≠ 0
    ∧ 5 < 16 ∧ 5 ∉ (on me).lasers ∧ 9 / 8 = 5 / 4 ∧ 9 < (on me).links.length := by decide +kernel
def bringing (stage fails : Nat) : Link := { aLink .bringup with stage := stage, fails := fails, found := 0xFFFF, rxFound := 0xFFFF }
theorem witness_bringup :
    ([1, 2, 3, 4, 5, 6, 7].all fun n : Nat => (linked (bringing n 0)).link 9 == bringing n 0) = true ∧ (linked (bringing 1 0)).dead = false
    ∧ (linked { aLink .down with stage := 1 }).link 9 = { aLink .down with stage := 1 }
    ∧ (0xFFFF : BitVec 16) &&& (bringing 2 0).found ≠ 0 ∧ (bringing 7 0).cmds = []
    ∧ (let x : Link := { bringing 6 0 with dest := some 5 }; (linked x).expected 9 = some 5)
    ∧ (bringing 1 1).fails < 2 ∧ 2 ≤ (bringing 1 2).fails := by decide +kernel
/-- A copy given to the fixed link 3, which meets the wrong package, and one that waits for a link. -/
def misled : State :=
  { on me with
    links := (on me).links.set 3 (bringing 6 0), routes := [(3, 7)]
    cmds := [{ aCmd .copyr 1 with link := some 3 }, { aCmd .copyr 2 with id := 21 }] }
theorem witness_wrong_peer :
    3 < misled.links.length ∧ misled.dead = false ∧ (misled.link 3).stage = 6 ∧ (misled.link 3).state = .bringup ∧ misled.expected 3 = some 7
    ∧ (7 : BitVec 13) ≠ 5 ∧ (misled.link 3).cmds = [] ∧ (misled.cmds.map fun c => c.id).Nodup
    ∧ (misled.cmds.all fun (c : Cmd) => c.complete == false && c.status.isNone) = true ∧ misled.cmds.map (fun c => c.link) = [some 3, none] := by
  decide +kernel

/-- LinkWidthAndRoutes: a wake under way, a deep queue, one flit short of it, a drained link, one that switches, a setting of Draw. -/
def deep : Link := { aLink .up with parked := 0xF, lit := 0xFFF0, wakeDepth := 2, egress := [(5, 0), (5, 0)] }
def filling : Link := { deep with egress := [(5, 0)] }
theorem witness_width :
    (let x : Link := { aLink .waking with cmds := [⟨none, false, 0xFFFF, true⟩], waking := 0xF }
     (linked x).link 9 = x)
    ∧ (let x : Link := { aLink .draining with cmds := [⟨none, false, 0xFFFF, true⟩], replay := [] }
       (linked x).link 9 = x ∧ x.replay = [])
    ∧ (linked deep).link 9 = deep ∧ deep.auto = true ∧ deep.speaks = true ∧ deep.parked ≠ 0 ∧ deep.wakeDepth ≤ deep.egress.length ∧ deep.cmds = []
    ∧ (linked filling).link 9 = filling ∧ filling.egress.length + 1 = filling.wakeDepth
    ∧ (linked (aLink .switching)).link 9 = aLink .switching := by decide +kernel
def pulled : State := { linked { aLink .up with dest := some 6, egress := [(5, 0)] } with
  served := [5], excluded := ((List.range 32).filter fun (j : Nat) => j != 9).map fun (j : Nat) => (j, 5) }
theorem witness_draw :
    pulled.setting = [(9, 5)] ∧ (pulled.link 9).state = .up ∧ (pulled.link 9).dest = some 6 ∧ pulled.drawHyst * pulled.queued 6 ≤ pulled.queued 5
    ∧ (on me).setting = [] ∧ ((List.range 8).all fun (j : Nat) => ((on me).link j).state != .quarantine) = true := by decide +kernel
theorem witness_link_stat :
    (let k := pairs me [(34, 31)]; runs (on k) k (.xlnStat 3 34) = true ∧ (k.pr 34).toNat = 31)
    ∧ (let k := pairs me [(34, 32)]; runs (on k) k (.xlnStat 3 34) = true ∧ 31 < (k.pr 34).toNat) := by decide +kernel
/-! ### Where instructions trap, park and wait: the hypotheses of those clauses -/

/-- PrivilegeAndBoundTraps: a register out of bounds of an unprivileged crew. -/
theorem witness_bound_unprivileged :
    (let s := (on small).setCtx { Ctx.reset 0 with root := 0 }
     s.curCrew = some small ∧ s.privileged small = false ∧ small.mayIssue = true ∧ small.active ≠ 0
     ∧ (uses (s.slots small) small (.add .add 7 0 16 1)).inBounds small = false) ∧ small.guarded small.active (guardOf (.add .add 7 0 16 1)) ≠ 0 := by
  decide +kernel
/-- CrewEndsAndHalts: a crew in a running task, in a squad of which a barrier for all is open. -/
def running (st : TaskState) : State :=
  { (on tasked).setSquad { bootSquad 0 with bars := (bootSquad 0).bars.set 6 { isOpen := true, need := 2, arrived := 1, all := true } } with
    tasks := [aTask 0 st] }
theorem witness_crew_ends_task :
    (running .running).crew? tasked.id = some tasked ∧ aTask 0 .running ∈ (running .running).tasks ∧ tasked.task = some (0, 0)
    ∧ ((running .running).squads.any fun (q : Squad) => q.id == tasked.squad && q.bars.any fun b => b.isOpen && b.all) = true := by decide +kernel
/-- LaunchForkJoin, TaskQueue, ServiceCalls: records at a misaligned address, at 2^47 and above, on an unmapped page; depth 10. -/
def at34 (a : Nat) : Crew := pairs me [(34, a)]
def atDepth (d : Nat) : Crew := { at34 0x50000 with s := me.s.set 7 (BitVec.ofNat 32 d) }
theorem witness_record_traps :
    (∀ i ∈ [Instr.launch 3 34, .fork 3 34], runs (on (atDepth 10)) (atDepth 10) i = true) ∧ (atDepth 10).sc 7 = 10
    ∧ (∀ a ∈ [0x50001, 2 ^ 47, 0x800000], (∀ i ∈ [Instr.launch 3 34, .fork 3 34, .taskq 3 34], runs (on (at34 a)) (at34 a) i = true)
      ∧ ((at34 a).pr 34).toNat = a ∧ (at34 a).sc 7 ≠ 10 ∧ (on (at34 a)).e7 (at34 a) = true)
    ∧ 0x50001 % 64 ≠ 0 ∧ 2 ^ 47 % 256 = 0 ∧ 0x800000 % 256 = 0 ∧ 0x800000 < 2 ^ 47
    ∧ isError ((on (at34 0x800000)).bump.checkPage (at34 0x800000) .load 0x800000) .page = true := by decide +kernel
/-- SpawnCrews: an entry table that may not be fetched. -/
def spawnAstray : State := let g : Grid := { bootGrid with entry := 0x900000 }
  { on spawner with grids := [g] }
theorem witness_spawn_trap :
    runs spawnAstray spawner (.spawn 3 50 34 1) = true ∧ (spawnAstray.grid? spawner.grid).isSome = true
    ∧ isError (spawnAstray.bump.spawnEntry spawner 0x900000 1) .page = true := by decide +kernel
/-- TaskQueue, EndsSwapsBoats: a counter's line under BCAST takes the addition up, and the entry stays until it is made. -/
theorem witness_counter_waits :
    (let s := { queued 0 [aTask 4 .draining] with dir := [{ DirEntry.reset 0xA00 with bcast := true }] }
     s.tasks.find? (fun (x : Task) => x.die == 0 && x.entry == 4 && x.state == .draining) = some (aTask 4 .draining)
     ∧ s.crewWritesDone 9 = true ∧ s.coveredDone 9 = true ∧ (s.counterAdd 0 0x50008 none).2.1 = false)
    ∧ (let s := queued 0 [aTask 4 .draining, { aTask 5 .held with conflicts := [4] }]
       ∀ x ∈ (s.counterAdd 0 0x50008 none).1.tasks, x.entry = 4 ∨ x.state = .held ∧ x.conflicts.all (· == 4) = true) := by decide +kernel
/-- EndsSwapsBoats: the last crew of its squad, and one that another crew outlives; two ready crews at one address in one boat. -/
def partner : Crew := { me with id := 2, slot := 1 }
theorem witness_last_crew :
    bootSquad 0 ∈ (on gone).squads ∧ (bootSquad 0).swapped = [] ∧ (on gone).saved = [] ∧ ((on gone).crews.all fun x => x.squad != 0 || x.id == 1) = true
    ∧ (let s := { on me with crews := [me, partner] }
       s.ready me = true ∧ s.ready partner = true ∧ s.crew? me.id = some me ∧ me.part = partner.part) := by decide +kernel
/-- ServiceCalls: reply lines that are misaligned, out of the deck, unmapped, absent and poisoned; a waiting crew. -/
theorem witness_service_traps :
    (∀ a ∈ [0x50001, 2 ^ 47, 0x800000],
      let k := pairs me [(34, a), (50, a)]
      runs (on k) k (.svcall 3 50 34 5) = true ∧ runs (on k) k (.svwait 3 34) = true ∧ (on k).bump.cmdHeld k = false ∧ (on k).bump.memHeld k = false
      ∧ ∀ acc ∈ [Acc.load, .rmw],
        isError ((on k).bump.checkLine k acc a) (if a = 0x50001 then Cause.misalign else if a = 2 ^ 47 then .farAccess else .page) = true)
    ∧ 0x50001 % 128 ≠ 0 ∧ 2 ^ 47 % 128 = 0 ∧ isError ((on me).checkPage me .load 0x800000) .page = true
    ∧ runs (poisonedAt (on servant) 0xA00) servant (.svwait 3 34) = true
    ∧ (poisonedAt (on servant) 0xA00).bump.memHeld servant = false ∧ isOk ((poisonedAt (on servant) 0xA00).bump.checkLine servant .load 0x50000) 0x50000 = true
    ∧ (poisonedAt (on servant) 0xA00).bump.present 0xA00 = true ∧ (poisonedAt (on servant) 0xA00).bump.poisoned 0xA00 = true
    ∧ runs (absent (on servant) 0xA00) servant (.svwait 3 34) = true ∧ (absent (on servant) 0xA00).bump.memHeld servant = false
    ∧ isOk ((absent (on servant) 0xA00).bump.checkLine servant .load 0x50000) 0x50000 = true ∧ (absent (on servant) 0xA00).bump.present 0xA00 = false := by
  decide +kernel
/-- PreemptionRequests: a halted crew with a store to send out again; a cached translation and a walk entry of the next generation. -/
def replaying : Crew := { me with halted := true, replay := [aWrite 9], mon := [armedEntry false] }
def generation (n : BitVec 20) : State :=
  { (on me).setCtx { bootCtx with gen := n } with
    tlb := [{ place := .core 0, asid := 0, gen := n + 1, page := 0x10, leaf := leaf8M }]
    walkCache := [{ die := 0, asid := 0, gen := n + 1, level := 1, key := 0, entry := 0x10001 }] }
theorem witness_generations :
    replaying.halted = true ∧ replaying.replay ≠ [] ∧ (on me).crew? 1 = some me ∧ writing.crew? 1 = some me ∧ aWrite 9 ∈ writing.writes
    ∧ ((generation 5).ctx 0).gen = 5 ∧ ((generation 0xFFFFF).ctx 0).gen = 0xFFFFF
    ∧ (match exec (.genRaise 0) (generation 5) with
      | .next t => (t.walkCache.any fun e => e.die == 0 && e.asid == 0 && e.level == 1 && e.key == 0 && e.gen == (t.ctx 0).gen)
          && t.tlb.any fun e => e.place == .core 0 && e.asid == 0 && e.gen == (t.ctx 0).gen && e.page == 0x10
      | .fault _ => false
      | .refused _ => false) = true := by decide +kernel
/-- StartUp: a device that has failed; parts with a spare left and without one; a channel of a stack that has one already. -/
def dead : State := { on me with dev := .failed, fwOk := false }
def sparing (l : List SparePart) : State := { starting with spares := l }
def onDie (p : SparePart) (c : Nat) : Bool := match p with
  | .core d => d / 80 == c / 80
  | .deckLine _ | .hbmChannel _ | .laser _ | .coxWaveguide => false
def coresOut : List SparePart := [.core 0, .core 1, .core 2, .core 79]
theorem witness_spares :
    dead.dev = .failed ∧ dead.fwOk = false ∧ (sparing []).fwOk = true ∧ (sparing []).dev = .starting
    ∧ (coresOut.filter (onDie · 5)).length = 4
    ∧ (sparing []).spares = [] ∧ (sparing [.hbmChannel 3]).spares = [.hbmChannel 3] ∧ (sparing []).ring.standby = false
    ∧ ({ sparing [] with ring := { (sparing []).ring with standby := true } } : State).ring.standby = true
    ∧ 5 ∉ (sparing []).lasers ∧ 5 ∈ ({ sparing [] with lasers := [5] } : State).lasers := by decide +kernel
/-- Loads, Stores, Atomics, Monitors: in every form, threads that are misaligned, that lie on an absent line, and on a poisoned one. -/
def accesses : List (Instr × Bool × Nat) :=
  [(.ld 0 .w32 19 35 4, false, 4), (.lda .pkg .w32 19 35 4, false, 4), (.st .w32 19 35 4, true, 4), (.stl .pod .w32 19 35 4, true, 4)
    , (.atom 0 .acqrel .add 19 35 4, true, 4), (.cas .release .c32 19 35 4, true, 4), (.mon 0 19 35 4, false, 4)]
def accOf (i : Instr) : Acc := match i with
  | .st .. | .stl .. => .store
  | .atom .. | .cas .. => .rmw
  | .mon .. => .mon
  | _ => .load
theorem witness_access_stops :
    (accesses.all fun p =>
      let k := reaching 0x50002
      runs (on k) k p.1 && !(on k).bump.memHeld k && isError ((on k).bump.check k (accOf p.1) 4 4 (ea k 0)) .misalign) = true
    ∧ (accesses.all fun p =>
      let k := reaching 0x50000
      let s := absent (on k) 0xA00
      runs s k p.1 && !s.bump.memHeld k && isOk (s.bump.check k (accOf p.1) 4 4 (ea k 0)) (.deck 0x50000) && !s.bump.present 0xA00) = true
    ∧ (accesses.all fun p =>
      let k := reaching 0x50000
      let s := poisonedAt (on k) 0xA00
      runs s k p.1 && !s.bump.memHeld k && isOk (s.bump.check k (accOf p.1) 4 4 (ea k 0)) (.deck 0x50000) && s.bump.present 0xA00
        && s.bump.poisoned 0xA00) = true
    ∧ ([Instr.lds 0 .w32 19 35 4, .sts .w32 19 35 4].all fun i =>
      let k := reaching 0x400
      runs (on k) k i && !(on k).bump.memHeld k && isError ((on k).bump.checkSquad k 4 0x400) .prot) = true := by decide +kernel
/-- Loads: a performed load whose thread is in no lookahead window; a core without a copy and a format asked for; a copy below it. -/
theorem witness_performed :
    (let p : PendLoad := { key := 7, lane := 3, reg := 4, size := .w32, loc := .deck 0x50000, va := 0x50000, fmt := .bf16, upd := false, left := 0, age := 0 }
     (on { me with loads := [p] }).crew? 1 = some { me with loads := [p] } ∧ ((on { me with loads := [p] }).reads .bf16 { me with loads := [p] } 3 p.loc 4).crew? 1 = some { me with loads := [p] }
     ∧ p.lane < me.threads.length ∧ 4 < (me.thread 3).v.length ∧ (me.thread 3).win = [])
    ∧ subRank .bf16 ≤ subRank .bf16 ∧ subRank .bf16 < subRank .exact ∧ (SubFmt.bf16 ≠ .exact) := by decide +kernel
/-- FencesAndBarriers: records of squad memory that are misaligned, in no squad window, or beyond the squad's memory; nothing kept for a resumption. -/
theorem witness_record_stops :
    (∀ a ∈ [0xFFF000000008, 0x50000, 0xFFF800000000, 0xFFF000000400],
      let k := pairs me [(34, a), (50, 5)]
      (∀ i ∈ [Instr.bbarArm 3 50 34, .bbarWait 3 34, .bbarTake 3 34], runs (on k) k i = true) ∧ (on k).bump.cmdHeld k = false
      ∧ (on k).squad? k.squad = some (bootSquad 0) ∧ (k.pr 34).toNat = a)
    ∧ 0xFFF000000008 % 16 ≠ 0 ∧ 0x50000 % 16 = 0 ∧ 0xFFF800000000 % 16 = 0 ∧ (bootSquad 0).memLen < 0x400 + 16 ∧ me.bankOut = [] ∧ me.replay = [] := by
  decide +kernel
/-- Subscriptions: addresses that may not be read, and one in squad memory; a slice that the core's stores are under way to. -/
theorem witness_subs_traps :
    (let k := subscriber 0x800000 128
     runs (on k) k (.subs 3 50 34 1 .bf16) = true ∧ runs (on k) k (.subqLine 3 34) = true
     ∧ isError ((on k).bump.check k .load 1 1 0x800000) .page = true ∧ isError ((on k).bump.check k .pres 1 1 0x800000) .page = true)
    ∧ (let k := subscriber 0xFFF000000010 128
       runs (on k) k (.subqLine 3 34) = true ∧ isOk ((on k).bump.check k .pres 1 1 0xFFF000000010) (.squad 0x10) = true)
    ∧ (let k := subscriber 0x50000 128
       let s := { on k with writes := [aWrite 9] }
       runs s k (.subqLine 3 34) = true ∧ s.bump.sliceWaits 0 0x50000 = true) := by decide +kernel
/-! Approximated regions: a slot of another tag, a region that stands elsewhere, registers out of bounds; a descriptor that arms its slot, with and
without PRELOAD, on a present and an absent line; a sampled thread; a full table; a thread inside a region. -/

def slotted (k : Crew) (e : ErgSlot) : State :=
  { (on k) with grids := [{ bootGrid with binds := bootGrid.binds.set 3 0x80000100 }], ergs := [e] }
def descBytes (flags weights : Nat) : List Byte :=
  leBytes 8 (word 3 [(1, 8), (1, 16), (4, 24), (15, 40), (flags, 56)]) ++ leBytes 16 10 ++ leBytes 8 11 ++ leBytes 4 0 ++ leBytes 4 0x40 ++ leBytes 24 0
    ++ leBytes 4 0xBF800000 ++ leBytes 124 0x3F800000 ++ leBytes 32 0x3F800000 ++ leBytes 8 0 ++ leBytes 4 0x3F800000 ++ leBytes 2 4 ++ leBytes 2 2
    ++ leBytes 2 64 ++ leBytes 2 4 ++ leBytes 4 1 ++ leBytes 8 weights ++ leBytes 64 0
def arming (k : Crew) (flags weights : Nat) : State := withDeck (withDeck (withDeck
  { (on k) with grids := [{ bootGrid with binds := bootGrid.binds.set 3 0x80000100 }] } 0x40100 (descBytes flags weights))
  0x40000 (leBytes 4 0xF80003C9)) 0x4003C (leBytes 4 0xF80003CB)
theorem witness_region_stops :
    (let e : ErgSlot := { armedSlot .observe with asid := 5 }
     runs (slotted me e) me (.apxe 3) = true ∧ (slotted me e).bindVa me 3 = some 0x40100 ∧ e.state ≠ .idle ∧ (slotted me e).ergMine me ((slotted me e).erg 0 3) = false)
    ∧ (let e : ErgSlot := { armedSlot .observe with desc := { region with entry := 0x10 } }
       runs (slotted me e) me (.apxe 3) = true ∧ (slotted me e).ergMine me ((slotted me e).erg 0 3) = true ∧ me.pc ≠ rel48 0x40000 0x10)
    ∧ (let e : ErgSlot := { armedSlot .observe with desc := { region with outs := [64] } }
       runs (slotted me e) me (.apxe 3) = true ∧ (slotted me e).ergMine me ((slotted me e).erg 0 3) = true ∧ me.n ≤ 64
       ∧ runs (slotted me e) me (.apxl 3) = true) := by decide +kernel
theorem witness_arming_waits :
    let s := absent (arming me 2 0x50000) 0xA00
    runs s me (.apxe 3) = true ∧ runs s me (.apxcRetire 3 3) = true ∧ s.bindVa me 3 = some 0x40100 ∧ (s.erg 0 3).state = .idle
    ∧ s.bump.armAbsent me 3 0x40100 ≠ [] := by decide +kernel
theorem witness_arming :
    let s := arming one 2 0x50000
    runs s one (.apxe 3) = true ∧ runs s one (.apxcRetire 3 3) = true ∧ runs s one (.apxcReset 3 3) = true ∧ s.bindVa one 3 = some 0x40100
    ∧ (s.erg 0 3).state = .idle ∧ s.bump.armAbsent one 3 0x40100 = [] := by decide +kernel
/-- What an arming finds: all well, an image that is misaligned, no descriptor, no APXL before EXIT, and a dependence that is not in the deck. -/
def found (s : State) (va : Nat) : Option (Bool × Bool × Bool) := (s.readDesc me va 3 me.n).map fun d =>
  (s.regionMarked me 0x40000 3 d.2, (s.preloadImage 0 0 true d.2).isSome, (s.watchLines me 0x40000 0x40100 d.2).isSome)
theorem witness_arms :
    found (arming me 6 0x50000) 0x40100 = some (true, true, true) ∧ found (arming me 2 0x50008) 0x40100 = some (true, false, true)
    ∧ found (on me) 0x40108 = none := by decide +kernel
theorem witness_arms_not :
    found (withDeck (arming me 0 0) 0x4003C [0]) 0x40100 = some (false, true, true)
    ∧ found (withDeck (withDeck (arming me 0 0) 0x40106 [1]) 0x40200 (leBytes 8 0x800000 ++ leBytes 4 128)) 0x40100 = some (true, true, false) := by
  decide +kernel
/-- The slots whose APXE the statement follows: sampled in FITTED with SHIFT 0, in TRIAL and FALLBACK, at the end of COOLDOWN, in OBSERVE with
the table of pending entries full. -/
def picked (st : ErgState) (shift : BitVec 4) (cooldown : Nat) : ErgSlot :=
  { armedSlot st with shift := shift, desc := { region with cooldown := cooldown } }
theorem witness_entries :
    (∀ p ∈ [(ErgState.fitted, 0), (.trial, 15), (.fallback, 15), (.observe, 15)],
      let s := slotted one (picked p.1 p.2 2)
      runs s one (.apxe 3) = true ∧ s.ergMine one (s.erg 0 3) = true ∧ (s.erg 0 3).state = p.1 ∧ (one.thread 0).inreg = none
      ∧ (s.erg 0 3).desc.inBox ((s.erg 0 3).desc.ins.map fun r => (one.thread 0).val 0 r) = true ∧ s.pending = [])
    ∧ sampled 3 0 0 one.cid (one.icnt.getD 3 0 + 1) = true
    ∧ (0 : Nat) + 1 < 2 ∧ (1 : Nat) ≤ 0 + 1
    ∧ runs (slotted outside (picked .trial 15 2)) outside (.apxe 3) = true
    ∧ (let s : State := { slotted one (picked .observe 15 2) with pending := List.replicate 4096 entered }
       runs s one (.apxe 3) = true ∧ 4096 ≤ (s.pending.filter fun p => p.die == (armedSlot .observe).die).length)
    ∧ (let k : Crew := one.mapT fun _ t => { t with inreg := some { slot := 2, recd := true } }
       ∀ st ∈ [ErgState.observe, .fallback], runs (slotted k (picked st 15 2)) k (.apxe 3) = true ∧ (k.thread 0).inreg ≠ none) := by decide +kernel
/-- The slots whose APXL ends a region with an entry: a sample that completes MINSAMP, with and without DET; comparisons in TRIAL and FITTED that stay,
that spike, and that end the trial. -/
def leavesFrom (st : ErgState) (samples compared tries : Nat) (det : Bool) : State :=
  { slotted inRegion { armedSlot st with
      buffer := List.replicate samples { x := [0], y := [0], cid := 0, icnt := 0, lane := 0 }, compared := compared, tries := tries, det := det } with
    pending := [{ entered with p := if st = .observe then none else some [0x40000000] }] }
theorem witness_leaves_compared :
    (∀ det ∈ [false, true], let s := leavesFrom .observe 63 0 0 det
      runs s inRegion (.apxl 3) = true ∧ s.ergMine inRegion (s.erg 0 3) = true ∧ (s.erg 0 3).desc.minsamp ≤ (s.erg 0 3).buffer.length + 1 ∧ (s.erg 0 3).det = det)
    ∧ (∀ p ∈ [(ErgState.fitted, 0, 0), (.trial, 0, 0), (.trial, 3, 0), (.trial, 0, 3)],
      let s := leavesFrom p.1 0 p.2.1 p.2.2 false
      runs s inRegion (.apxl 3) = true ∧ s.ergMine inRegion (s.erg 0 3) = true
      ∧ (s.pending.find? fun p => p.die == 0 && p.slot == 3 && p.crew == 1 && p.lane == 0).map (fun p => (p.p, p.epoch)) = some (some [0x40000000], (s.erg 0 3).epoch))
    ∧ (∀ o ∈ region.outs, o < inRegion.n) := by decide +kernel
/-- ApproximationControl: a slot of another tag, an unarmed one, RETIRED with reason 2; images that are misaligned, out of bounds, absent and
poisoned. -/
def atSlot (a : Nat) (st : ErgState) : State := slotted (at34 a) (armedSlot st)
theorem witness_control_stops :
    (let s := slotted (at34 15) { armedSlot .observe with asid := 5 }
     (∀ i ∈ [Instr.apxi 3 3, .apxcRetire 3 3, .apxcReset 3 3, .apxcShift 3 34 3, .apxcDet 3 34 3, .apxcLoadw 3 34 3, .apxcDumpw 3 34 3],
       runs s (at34 15) i = true) ∧ s.bindVa (at34 15) 3 ≠ none ∧ (s.erg 0 3).state ≠ .idle ∧ s.ergMine (at34 15) (s.erg 0 3) = false)
    ∧ (let s := slotted (at34 1) { armedSlot .retired with reason := 2 }
       runs s (at34 1) (.apxcLoadw 3 34 3) = true ∧ runs s (at34 1) (.apxcDumpw 3 34 3) = true ∧ s.ergMine (at34 1) (s.erg 0 3) = true
       ∧ runs s (at34 1) (.apxcDet 3 34 3) = true)
    ∧ (∀ i ∈ [Instr.apxcLoadw 3 34 3, .apxcDumpw 3 34 3, .apxsSave 3 34 3, .apxsLoad 3 34 3],
      (∀ a ∈ [0x50008, 0x800000, 0x50000], runs (atSlot a .fitted) (at34 a) i = true)
      ∧ runs (absent (atSlot 0x50000 .fitted) 0xA00) (at34 0x50000) i = true ∧ runs (poisonedAt (atSlot 0x50000 .fitted) 0xA00) (at34 0x50000) i = true)
    ∧ (atSlot 0x50000 .fitted).ergMine (at34 0x50000) ((atSlot 0x50000 .fitted).erg 0 3) = true
    ∧ (atSlot 0x50000 .fitted).bump.memHeld (at34 0x50000) = false ∧ (atSlot 0x50000 .fitted).bump.crewWritesDone 1 = true
    ∧ (∀ acc ∈ [Acc.load, .store], isError ((atSlot 0x800000 .fitted).bump.check (at34 0x800000) acc 1 16 0x800000) .page = true
      ∧ isError ((atSlot 0x800000 .fitted).bump.check (at34 0x800000) acc 1 1 0x800000) .page = true)
    ∧ (absent (atSlot 0x50000 .fitted) 0xA00).bump.present 0xA00 = false
    ∧ (poisonedAt (atSlot 0x50000 .fitted) 0xA00).bump.poisonAt (at34 0x50000) (.deck 0x50000) = true := by decide +kernel
/-! The tanks, engines, strokes, context images and links. -/

/-- Tile statements: a tile of another context; a base and a stride that are misaligned, an unmapped row, absent and poisoned rows. -/
def owned (s : State) (k : Crew) (x : BitVec 3) : State := s.setTile { Tile.zero 0 (k.tileSlot x) (some (5, 7)) with kind := .f32 }
theorem witness_foreign_tiles :
    (∀ i ∈ [Instr.mzero 3, .mepi 0 4 1 3, .movfGet 0 3 8, .movfPutF32 0 3 8, .movfPutI32 0 3 8, .mstConv 19 37 4 3, .mstRaw 19 37 3
        , .mldConv 19 37 4 3, .mldRawF32 19 37 3, .mldRawRes 19 37 3], runs (owned (on tiler) tiler 3) tiler i = true)
    ∧ (owned (on tiler) tiler 3).foreign tiler (tiler.tileSlot 3) = true ∧ ((owned (on tiler) tiler 3).tileOf tiler 3).tag = some (5, 7)
    ∧ (∀ p ∈ [(Instr.mma 1 0 2 1 1, 1), (.mmaSet 1 0 2 1 1, 1), (.mmr 1 0 2 1 1, 5), (.mmrSet 1 0 2 1 1, 5)],
      let s := owned (elements me p.2) me 1
      runs s me p.1 = true ∧ me.rep.active = false ∧ s.foreign me (me.tileSlot 1) = true ∧ (me.cvN 1).signed = 0 ∧ me.active ≠ 0 ∧ 1 < me.tileSlots.length) := by
  decide +kernel
/-- TileRegisters: conversions of every kind, of an infinity, a NaN and a number. -/
theorem witness_conversions :
    slotElem 6 = .int 4 ∧ slotElem 5 = .int 8 ∧ slotElem 7 = .int 16 ∧ slotElem 8 = .int 32 ∧ slotElem 9 = .res ∧ slotElem 3 = .flt .e4m3
    ∧ slotSym 0x85 = true ∧ Fmt.e4m3.infs = false ∧ slotSat 0x41 = true ∧ slotElem 0x41 = .flt .bf16
    ∧ (let t (n : DWord) : Tile := { Tile.zero 0 1 none with kind := .f32, elems := [n] }
       ((f32v (lo32 ((t 0x7FC00000).elem 0))).mul (slotScale 5) == .nan) = true
       ∧ ((f32v (lo32 ((t 0x7F800000).elem 0))).mul (slotScale 5) == .inf false) = true
       ∧ (match (f32v (lo32 ((t 0xC3000000).elem 0))).mul (slotScale 5) with | .fin neg n d => neg && n == 128 * d | _ => false) = true) := by
  decide +kernel
def striding (base stride : Nat) : Crew := pairs me [(19, base), (37, stride)]
def tileAccesses : List Instr := [.mstConv 19 37 4 3, .mstRaw 19 37 3, .mldConv 19 37 4 3, .mldRawF32 19 37 3, .mldRawRes 19 37 3]
theorem witness_tile_stops :
    (∀ p ∈ [(0x50008, 64), (0x50000, 72), (0x800000, 128), (0x50000, 128)], let k := striding p.1 p.2
      (∀ i ∈ tileAccesses, runs (on k) k i = true) ∧ (on k).foreign k (k.tileSlot 3) = false ∧ (on k).tileBusy k.core (k.tileSlot 3) = false
      ∧ (on k).bump.memHeld k = false ∧ (k.pr 19).toNat = p.1 ∧ (k.pr 37).toNat = p.2)
    ∧ 0x50008 % 16 ≠ 0 ∧ 72 % 16 ≠ 0
    ∧ (∀ acc ∈ [Acc.load, .store], isError ((on (striding 0x800000 128)).bump.check (striding 0x800000 128) acc 1 16 0x800000) .page = true
      ∧ isError ((on (striding 0x800000 128)).bump.check (striding 0x800000 128) acc 1 1 0x800000) .page = true)
    ∧ (∀ i ∈ tileAccesses, runs (absent (on wide) 0xA00) wide i = true ∧ runs (poisonedAt (on wide) 0xA00) wide i = true)
    ∧ (absent (on wide) 0xA00).bump.present 0xA00 = false ∧ (absent (on wide) 0xA00).bump.memHeld wide = false
    ∧ (poisonedAt (on wide) 0xA00).bump.poisoned 0xA00 = true ∧ (poisonedAt (on wide) 0xA00).bump.present 0xA00 = true
    ∧ (on wide).copyOf 0 0xA00 = none ∧ ((copied .exact).copyOf 0 0xA00).map (·.fmt) = some .exact := by decide +kernel
/-- EngineProgress: a read that starts again; HostMemory: the functions whose restart reads again. -/
theorem witness_rereads :
    (let c : Cmd := { aCmd .scatadd 1 with again := some 0, delivered := 8 }
     (commanding c).cmd? 20 = some c ∧ c.number ≠ 0 ∧ c.status = none ∧ c.acked = false)
    ∧ ({ aCmd .copyr 1 with out := true } : Cmd).fn = .copyr ∧ (aCmd .copyr 1).out = false ∧ (aCmd .copy1 1).fn ≠ .scatadd := by decide +kernel
/-- Strokes: addresses that are misaligned, in no stroke space, outside the window; q5 empty; receipts of a swap likewise; CoxRing: a device that works. -/
def windowed (k : Crew) : State := (on k).setCtx { bootCtx with skmWin := BitVec.ofNat 64 (8 * 2 ^ 22) }
def stroking (va : Nat) (q5 : List DWord) : Crew := { pairs me [(34, va), (50, 5)] with q := me.q.set 5 q5 }
theorem witness_stroke_traps :
    (∀ va ∈ [0xFFFC00000004, 0x50000, 0xFFFC00000008, 0xFFFC00000000], let k := stroking va [0x1000]
      (∀ i ∈ [Instr.skStore 3 50 34 1 1, .skAdd 3 50 34 1 1, .skMax 3 50 34 1 1, .skClaim 3 50 34 1 1, .skSwap 3 50 34 1 1], runs (windowed k) k i = true)
      ∧ (windowed k).bump.cmdHeld k = false ∧ (k.pr 34).toNat = va)
    ∧ 0xFFFC00000004 % 8 ≠ 0 ∧ ((windowed me).ctx 0).skmWin.toNat = 8 * 2 ^ 22
    ∧ (let k := stroking 0xFFFC00000000 []
       (∀ i ∈ [Instr.skClaim 3 50 34 1 1, .skSwap 3 50 34 1 1], runs (windowed k) k i = true) ∧ k.q.getD 5 [] = [] ∧ (windowed k).bump.cmdHeld k = false)
    ∧ (∀ n ∈ [0x4, 0x400000000, 0x1000], let k := stroking 0xFFFC00000000 [BitVec.ofNat 64 n]
       k.q.getD 5 [] = BitVec.ofNat 64 n :: [] ∧ runs (windowed k) k (.skSwap 3 50 34 1 1) = true)
    ∧ (0xFFFC00000000 + 0x400000000) % 2 ^ 64 = 2 ^ 48 ∧ (on me).dev ≠ .failed ∧ (ringed .inService me).dev ≠ .failed := by decide +kernel
/-- ContextImages: the image of a crew with one tile. -/
def loadingTiles : State := withDeck (loadingCrew 0x50000 0) 0x50000 (leBytes 8 (8 + 16 * 2 ^ 16 + 2 ^ 32 + 2 ^ 41))
theorem witness_tile_loads :
    runs loadingTiles (named 5 0x50000) (.ctxldTiles 3 40 34) = true ∧ areas loadingTiles.bump (named 5 0x50000) = true
    ∧ leNat (loadingTiles.deck.readN 0x50000 8) / 2 ^ 41 % 2 = 1 ∧ leNat (loadingTiles.deck.readN 0x50000 8) / 2 ^ 32 % 16 = 1
    ∧ (let bs := loadingTiles.deck.readN 0x50008 16
       BitVec.ofNat 64 (leNat (bs.take 8)) = halted.grid ∧ leNat ((bs.drop 8).take 4) = squad7.index
       ∧ BitVec.ofNat 32 (leNat ((bs.drop 12).take 4)) = halted.s5Start)
    ∧ loadingTiles.crewPlace halted 0 8 = some (1, 16) ∧ 1 ≤ (loadingTiles.freeTiles 0 (0, (loadingTiles.ctx 0).key)).length
    ∧ loadingTiles.writes = [] ∧ (1 : Nat) ∉ loadingTiles.saved.map fun o => o.crew.id := by decide +kernel
/-- HostMemory: a page with host bias, one that a flip waits for; an answer of the port with a poisoned line. -/
theorem witness_host_bias :
    dead.dead = true ∧ ({ on me with biasHost := [5] } : State).dead = false ∧ 5 ∈ ({ on me with biasHost := [5] } : State).biasHost
    ∧ startFlip.dead = false ∧ 5 ∈ startFlip.flips
    ∧ has (asking .rdOwn false) .rdShared false = false ∧ has (asking .memRd true) .memRdData true = false := by decide +kernel
/-- LinkLightAndBringup, LinkWidthAndRoutes: the peer's lists under way; a draining link that narrows; a wake whose part of the agreement is sent, one
whose code is not locked; budgets that leave wavelengths to wake and that leave none; a link in quarantine that the setting names. -/
theorem witness_peer_width :
    (let x : Link := { aLink .up with rxNext := some (0xFF, 0, 0) }
     (linked x).link 9 = x ∧ x.speaks = true ∧ x.rxNext = some (0xFF, 0, 0))
    ∧ (aLink .up).rxNext = none ∧ (aLink .narrowing).state = .narrowing
    ∧ (let x : Link := { aLink .up with cmds := [⟨none, true, 0xFFFF, true⟩] }
       (linked x).link 9 = x ∧ (0xFFFF : BitVec 16) &&& x.lit = x.lit)
    ∧ (let x : Link := { aLink .narrowing with drain := true }
       (linked x).link 9 = x ∧ x.drain = true) ∧ dead.dead = true := by decide +kernel
theorem witness_stages :
    ([1, 2, 3, 4, 5, 6, 7].all fun n : Nat => (linked (bringing n 0)).link 9 == bringing n 0 && (bringing n 0).found != 0 && (bringing n 0).rxFound != 0) = true
    ∧ (0xFF : BitVec 16) &&& (~~~((bringing 1 0).parked ||| (linked (bringing 1 0)).unfed 9)) ≠ 0 ∧ (0xFF : BitVec 16) &&& ~~~(bringing 1 0).rxParked ≠ 0
    ∧ (0xFF : BitVec 16) &&& (bringing 3 0).found ≠ 0 ∧ (0xFF : BitVec 16) &&& (bringing 3 0).rxFound ≠ 0 ∧ (0 : BitVec 16) &&& (bringing 3 0).found = 0
    ∧ (let x : Link := { bringing 5 0 with found := 0 }
       (linked x).link 9 = x ∧ x.found = 0) := by decide +kernel
def waking (told : Bool) : Link := { aLink .waking with cmds := [⟨none, false, 0xFFFF, true⟩], waking := 0xF, told := told }
theorem witness_wakes :
    (linked (waking true)).link 9 = waking true ∧ (waking true).told = true ∧ (waking true).state = .waking
    ∧ (linked (waking false)).link 9 = waking false ∧ (waking false).told = false
    ∧ (waking false).waking &&& ~~~(0x3 : BitVec 16) ≠ 0 ∧ (waking false).waking &&& ~~~(0xF : BitVec 16) = 0
    ∧ (let x : Link := { waking false with state := .narrowing }
       (linked x).link 9 = x)
    ∧ (let s : State := { pulled with links := pulled.links.set 9 { aLink .quarantine with dest := some 6, egress := [(5, 0)] } }
       s.setting = [(9, 5)] ∧ (s.link 9).state = .quarantine)
    ∧ (let s : State := { pulled with links := pulled.links.set 9 { aLink .up with dest := some 5 } }
       (s.link 9).state = .up ∧ (s.link 9).dest = some 5)
    ∧ (9, 5) ∈ pulled.setting ∧ ((on me).setting.all fun p => p.1 != 9) = true := by decide +kernel
/-! ### Single steps

Each runs one instruction in the loaded machine and looks at what the rule cited gives. -/

/-- Crew 1 after the instruction. -/
def ran (k : Crew) (i : Instr) : Crew := match exec i (on k) with
  | .next t => (t.crew? 1).getD k
  | .fault _ => k
  | .refused _ => k
/-- Register 9 of thread l after an instruction on v7 = x and v8 = y. -/
def v9 (i : Instr) (x y : Nat) (l : Nat := 3) : Nat :=
  (((ran (vector (vector me 7 fun _ => x) 8 fun _ => y) i).thread l).val l 9).toNat
/-- R121: ADD wraps, ADD.sat.i32 stops at the largest number. -/
theorem test_add : v9 (.add .add 7 8 7 9) 0x7FFFFFFF 1 = 0x80000000 ∧ v9 (.add .addSatI 7 8 7 9) 0x7FFFFFFF 1 = 0x7FFFFFFF
    ∧ v9 (.add .sub 7 8 7 9) 3 5 = 0xFFFFFFFE := by decide +kernel
/-- R124: shift counts of 32 and more; a rotation. -/
theorem test_shf : v9 (.shf .shl 7 8 7 9) 1 32 = 0 ∧ v9 (.shf .shrI 7 8 7 9) 0x80000000 40 = 0xFFFFFFFF ∧ v9 (.shf .rol 7 8 7 9) 0x80000001 33 = 3 := by
  decide +kernel
/-- R125: the absolute value of the most negative number, plain and saturating. -/
theorem test_minmax : v9 (.minmax .absI 7 8 7 9) 0x80000000 0 = 0x80000000 ∧ v9 (.minmax .absSatI 7 8 7 9) 0x80000000 0 = 0x7FFFFFFF
    ∧ v9 (.minmax .minN 7 8 7 9) 0xFFFFFFFF 2 = 2 := by decide +kernel
/-- R122: the high words of the signed and the unsigned product. -/
theorem test_mul : v9 (.mul .hiI 7 8 7 9) 0xFFFFFFFF 2 = 0xFFFFFFFF ∧ v9 (.mul .hiN 7 8 7 9) 0xFFFFFFFF 2 = 1 := by decide +kernel
/-- R127: a signed field. -/
theorem test_bfx : v9 (.bfx 0 .signed 8 7 9) 0xF00 0x408 = 0xFFFFFFFF ∧ v9 (.bfx 0 .unsigned 8 7 9) 0xF00 0x408 = 0xF := by decide +kernel
/-- R131, R148: 1 + 1 = 2; infinity less infinity is the canonical NaN. -/
theorem test_add16_f32 :
    (((ran (vector (vector me 7 fun _ => 0x3F800000) 8 fun _ => 0x3F800000) (.add16F32 7 8)).thread 0).val 0 8).toNat = 0x40000000
    ∧ (((ran (vector (vector me 7 fun _ => 0x7F800000) 8 fun _ => 0x7F800000) (.sub16F32 7 8)).thread 0).val 0 8).toNat = 0x7FC00000 := by decide +kernel
/-- R142: SADD wraps, DSUB borrows across the pair. -/
theorem test_sop : (ran (pairs me [(34, 1), (50, 0xFFFFFFFF)]) (.sop .sadd 68 100)).sc 100 = 0 ∧ (ran (pairs me [(34, 1), (50, 0x100000000)]) (.sop .dsub 68 100)).pr 50 = 0xFFFFFFFF := by
  decide +kernel
/-- R380, R382: TRAP enters the handler with its number and keeps the address after it; R381: RETT goes back there. -/
def inTrap : Crew := ran me (.trap 77)
theorem test_trap : inTrap.inh = true ∧ inTrap.trapInfo = 77 ∧ (inTrap.thread 5).pcvSave.toNat = 0x40004 := by decide +kernel
theorem test_rett : (ran inTrap .rett).inh = false ∧ ((ran inTrap .rett).thread 5).pcv.toNat = 0x40004 := by decide +kernel
/-- R74: a branch goes twice its displacement from its own address. -/
theorem test_bra : ((ran me (.bra 0x10)).thread 0).pcv.toNat = 0x40000 + 2 * 0x10 := by decide +kernel
/-- R2, R203: a store of four bytes, little-endian, on its way to its home. -/
def storing : State := match exec (.st .w32 19 35 4) (on (vector (single (reaching 0x50000)) 4 fun _ => 0x11223344)) with
  | .next t => t
  | .fault _ => on me
  | .refused _ => on me
theorem test_st : storing.writes.map (fun w => (w.off, w.bytes)) = [(0x50000, [0x44, 0x33, 0x22, 0x11])] := by decide +kernel
/-- R202: a load of squad memory goes on to the next instruction. -/
theorem test_lds : (match exec (.lds 0 .w32 19 35 4) (on (reaching 0)) with
    | .next t => (t.crew? 1).map fun k => (k.thread 0).pcv.toNat
    | .fault _ => none
    | .refused _ => none) = some 0x40004 := by decide +kernel
/-- R56: a push of a scalar pair to q5. -/
theorem test_qpush : (ran (pairs me [(129, 0x123456789)]) (.qpush 258 5)).q.getD 5 [] = [0x123456789] := by decide +kernel
/-- R26, R30: a step fetches, decodes and runs a 16-bit word, `add16.i32`. -/
theorem test_step : (match step (State.reset.withFetchWord 16 0x0822) with
    | .next t => (t.crew? 1).map fun k => (k.thread 0).pcv.toNat
    | .fault _ => none
    | .refused _ => none) = some 0x40002 := by decide +kernel
end Sys2Proof.Tests
end

section
/-! The decoder on words written as numbers: what `decode` answers is what the form's table gives for the word, when no check of R27 refuses it. -/

namespace Sys2Proof

theorem decode16_of_raw16 {w : Nat} {i : Instr} (hraw : raw16 w = some i) (hwf : i.wellFormed = true) : decode16 w = some i := by
  simp [decode16, hraw, hwf]

theorem decode32_of_raw32 {w : Nat} {i : Instr} (hraw : raw32 w = some i) (hwf : i.wellFormed = true) : decode32 w = some i := by
  simp [decode32, hraw, hwf]

/-- R2, R26: a first halfword with bit 0 clear is a whole instruction. -/
theorem decode_halfword {a b : Byte} {rest : List Byte} {w : Nat} {i : Instr} (hbytes : a.toNat + 256 * b.toNat = w)
    (heven : w % 2 = 0) (hraw : raw16 w = some i) (hwf : i.wellFormed = true) : decode (a :: b :: rest) = some (i, rest) := by
  have hdec : decode16 w = some i := decode16_of_raw16 hraw hwf
  simp [decode, hbytes, heven, hdec]

/-- R2, R26: a first halfword with bit 0 set begins a 32-bit word, its low half first. -/
theorem decode_word {a b c d : Byte} {rest : List Byte} {w : Nat} {i : Instr}
    (hbytes : a.toNat + 256 * b.toNat + 65536 * (c.toNat + 256 * d.toNat) = w)
    (hodd : w % 2 = 1) (hraw : raw32 w = some i) (hwf : i.wellFormed = true) : decode (a :: b :: c :: d :: rest) = some (i, rest) := by
  have hlong : ¬ (a.toNat + 256 * b.toNat) % 2 = 0 := by omega
  have hdec : decode32 w = some i := decode32_of_raw32 hraw hwf
  simp [decode, hbytes, hlong, hdec]

/-- Settles O1: each word of the examples through its form (R26) and its major (R47), the decoder of which each case names. -/
theorem decodeSample : Obligations.DecodeSample := by
  unfold Obligations.DecodeSample
  refine ⟨?andi, ?cmp, ?exit, ?redx, ?shfl, ?v2s, ?sli, ?slih, ?s2v, ?addSat, ?mov16⟩
  case andi => exact decode_word (w := 0x2010043D) rfl rfl (rfl : dec32_1e _ = _) rfl
  case cmp => exact decode_word (w := 0x04510141) rfl rfl (rfl : dec32_20 _ = _) rfl
  case exit => exact decode_word (w := 0x04000013) rfl rfl (rfl : dec32_09 _ = _) rfl
  case redx => exact decode_word (w := 0x0000064B) rfl rfl (rfl : dec32_25 _ = _) rfl
  case shfl => exact decode_word (w := 0x0C100847) rfl rfl (rfl : dec32_23 _ = _) rfl
  case v2s => exact decode_word (w := 0x0205064F) rfl rfl (rfl : dec32_27 _ = _) rfl
  case sli => exact decode_word (w := 0x48D01553) rfl rfl (rfl : dec32_29 _ = _) rfl
  case slih => exact decode_word (w := 0xACF01557) rfl rfl (rfl : dec32_2b _ = _) rfl
  case s2v => exact decode_word (w := 0x0005494D) rfl rfl (rfl : dec32_26 _ = _) rfl
  case addSat => exact decode_word (w := 0x5C308129) rfl rfl (rfl : dec32_14 _ = _) rfl
  case mov16 => exact decode_halfword (w := 0x0420) rfl rfl (rfl : dec16_00 _ = _) rfl

end Sys2Proof
end

section
/-! Fields of a word (spec/02_encoding.md R30, R31): what a field reads after a value is put into a word, and a word as the sum of its fields. -/

namespace Sys2Proof

@[simp] theorem bv_toNat (w lo n : Nat) : (bv w lo n).toNat = fld w lo n := by simp [bv, fld]

theorem bv_eq_ofNat_fld (w lo n : Nat) : bv w lo n = BitVec.ofNat n (fld w lo n) := by
  apply BitVec.eq_of_toNat_eq
  simp [fld]

theorem fld_put_above {v lo w lo' n' : Nat} (h : lo' + n' ≤ lo) : fld (put v lo w) lo' n' = fld w lo' n' := by
  obtain ⟨k, rfl⟩ := Nat.exists_eq_add_of_le h
  rw [fld, fld, put, Nat.add_assoc lo', Nat.pow_add, Nat.mul_left_comm, Nat.add_mul_div_left _ _ (Nat.two_pow_pos _),
    Nat.pow_add, Nat.mul_left_comm, Nat.add_mul_mod_self_left]

/-- The bits above a field of zeros stay when the field takes a value. -/
theorem put_div {v lo w n m : Nat} (hv : v < 2 ^ n) (hgap : fld w lo n = 0) (h : lo + n ≤ m) : put v lo w / 2 ^ m = w / 2 ^ m := by
  obtain ⟨k, rfl⟩ := Nat.exists_eq_add_of_le h
  obtain ⟨c, hc⟩ := Nat.dvd_of_mod_eq_zero hgap
  simp only [Nat.pow_add, ← Nat.div_div_eq_div_mul]
  rw [put, Nat.add_mul_div_right _ _ (Nat.two_pow_pos lo), hc, Nat.add_comm, Nat.add_mul_div_left _ _ (Nat.two_pow_pos n),
    Nat.div_eq_of_lt hv, Nat.zero_add, Nat.mul_div_cancel_left _ (Nat.two_pow_pos n)]

theorem fld_put_below {v lo w lo' n n' : Nat} (hv : v < 2 ^ n) (hgap : fld w lo n = 0) (h : lo + n ≤ lo') :
    fld (put v lo w) lo' n' = fld w lo' n' := by
  rw [fld, fld, put_div hv hgap h]

theorem fld_put_same {v lo w n : Nat} (hv : v < 2 ^ n) (hgap : fld w lo n = 0) : fld (put v lo w) lo n = v := by
  rw [fld] at *
  rw [put, Nat.add_mul_div_right _ _ (Nat.two_pow_pos lo), Nat.add_mod, hgap, Nat.zero_add, Nat.mod_mod, Nat.mod_eq_of_lt hv]

theorem put_lt_iff {v lo w n m : Nat} (hv : v < 2 ^ n) (hgap : fld w lo n = 0) (h : lo + n ≤ m) :
    put v lo w < 2 ^ m ↔ w < 2 ^ m := by
  rw [← Nat.div_eq_zero_iff_lt (Nat.two_pow_pos m), ← Nat.div_eq_zero_iff_lt (Nat.two_pow_pos m), put_div hv hgap h]

section
variable {n : Nat} {v : BitVec n} {lo w : Nat} (hgap : fld w lo n = 0)
include hgap

theorem fld_putBv_below {lo' n' : Nat} (h : lo + n ≤ lo') : fld (put v.toNat lo w) lo' n' = fld w lo' n' :=
  fld_put_below v.isLt hgap h

theorem fld_putBv_same : fld (put v.toNat lo w) lo n = v.toNat := fld_put_same v.isLt hgap

theorem putBv_lt_iff {m : Nat} (h : lo + n ≤ m) : put v.toNat lo w < 2 ^ m ↔ w < 2 ^ m := put_lt_iff v.isLt hgap h

end

/-- A field has a value as soon as its n low bits and the bits above them have theirs. -/
theorem fld_eq_iff_low_high {w lo k v : Nat} (n : Nat) (h : n ≤ k) :
    fld w lo k = v ↔ fld w lo n = v % 2 ^ n ∧ fld w (lo + n) (k - n) = v / 2 ^ n := by
  obtain ⟨m, rfl⟩ := Nat.exists_eq_add_of_le h
  rw [Nat.add_sub_cancel_left, fld, fld, fld, Nat.pow_add, Nat.pow_add, Nat.mod_mul, ← Nat.div_div_eq_div_mul]
  have hpos := Nat.two_pow_pos n
  have hlt := Nat.mod_lt (w / 2 ^ lo) hpos
  constructor
  · rintro rfl
    rw [Nat.add_mul_mod_self_left, Nat.mod_mod, Nat.add_mul_div_left _ _ hpos, Nat.div_eq_of_lt hlt, Nat.zero_add]
    exact ⟨rfl, rfl⟩
  · rintro ⟨hlow, hhigh⟩
    rw [hlow, hhigh, Nat.mod_add_div]

/-- The fields of w from bit lo upward, of the widths ns, where they stand in w. -/
def sumFields (w : Nat) : Nat → List Nat → Nat
  | _, [] => 0
  | lo, n :: ns => fld w lo n * 2 ^ lo + sumFields w (lo + n) ns

theorem sumFields_eq (w lo : Nat) (ns : List Nat) : sumFields w lo ns = w / 2 ^ lo % 2 ^ ns.sum * 2 ^ lo := by
  induction ns generalizing lo with
  | nil => simp [sumFields, Nat.mod_one]
  | cons n ns ih =>
    rw [sumFields, ih, fld, List.sum_cons, Nat.pow_add 2 n, Nat.mod_mul, Nat.pow_add 2 lo, ← Nat.div_div_eq_div_mul, Nat.add_mul]
    ring

/-- A field of n bits holds the code of a member: no code is too large for it, and the reading of codes inverts their writing. -/
structure FieldCode {α : Type} (code : α → Nat) (ofCode : Nat → Option α) (n : Nat) : Prop where
  lt : ∀ x, code x < 2 ^ n
  ofCode_eq_some_iff : ∀ k x, ofCode k = some x ↔ code x = k

namespace FieldCode
variable {α : Type} {code : α → Nat} {ofCode : Nat → Option α} {n : Nat}

theorem of_inverse (hread : ∀ x, code x < 2 ^ n ∧ ofCode (code x) = some x) (hwrite : ∀ k x, ofCode k = some x → code x = k) :
    FieldCode code ofCode n where
  lt x := (hread x).1
  ofCode_eq_some_iff k x := ⟨hwrite k x, by rintro rfl; exact (hread x).2⟩

/-- What a put of a code changes, and that the code reads back as its member. -/
theorem put_rules (h : FieldCode code ofCode n) :
    (∀ {x lo w lo' n'}, fld w lo n = 0 → lo + n ≤ lo' → fld (put (code x) lo w) lo' n' = fld w lo' n')
    ∧ (∀ {x lo w}, fld w lo n = 0 → fld (put (code x) lo w) lo n = code x)
    ∧ (∀ {x lo w m}, fld w lo n = 0 → lo + n ≤ m → (put (code x) lo w < 2 ^ m ↔ w < 2 ^ m))
    ∧ ∀ x, ofCode (code x) = some x :=
  ⟨fun hgap => fld_put_below (h.lt _) hgap, fun hgap => fld_put_same (h.lt _) hgap, fun hgap => put_lt_iff (h.lt _) hgap,
    fun x => (h.ofCode_eq_some_iff _ x).2 rfl⟩

end FieldCode

end Sys2Proof
end

section
/-! The member codes of the fields (the function, type, size, scope and order fields of the chapters' encoding tables). -/

namespace Sys2Proof

theorem AddOp.fieldCode : FieldCode AddOp.code AddOp.ofCode 3 :=
  .of_inverse (by rintro ⟨⟩ <;> decide) fun k => by fun_cases AddOp.ofCode k <;> rintro _ ⟨⟩ <;> rfl

theorem MulOp.fieldCode : FieldCode MulOp.code MulOp.ofCode 3 :=
  .of_inverse (by rintro ⟨⟩ <;> decide) fun k => by fun_cases MulOp.ofCode k <;> rintro _ ⟨⟩ <;> rfl

theorem LogOp.fieldCode : FieldCode LogOp.code LogOp.ofCode 3 :=
  .of_inverse (by rintro ⟨⟩ <;> decide) fun k => by fun_cases LogOp.ofCode k <;> rintro _ ⟨⟩ <;> rfl

theorem ShfOp.fieldCode : FieldCode ShfOp.code ShfOp.ofCode 3 :=
  .of_inverse (by rintro ⟨⟩ <;> decide) fun k => by fun_cases ShfOp.ofCode k <;> rintro _ ⟨⟩ <;> rfl

theorem MinMaxOp.fieldCode : FieldCode MinMaxOp.code MinMaxOp.ofCode 3 :=
  .of_inverse (by rintro ⟨⟩ <;> decide) fun k => by fun_cases MinMaxOp.ofCode k <;> rintro _ ⟨⟩ <;> rfl

theorem BitOp.fieldCode : FieldCode BitOp.code BitOp.ofCode 3 :=
  .of_inverse (by rintro ⟨⟩ <;> decide) fun k => by fun_cases BitOp.ofCode k <;> rintro _ ⟨⟩ <;> rfl

theorem BfxOp.fieldCode : FieldCode BfxOp.code BfxOp.ofCode 2 :=
  .of_inverse (by rintro ⟨⟩ <;> decide) fun k => by fun_cases BfxOp.ofCode k <;> rintro _ ⟨⟩ <;> rfl

theorem OpiOp.fieldCode : FieldCode OpiOp.code OpiOp.ofCode 3 :=
  .of_inverse (by rintro ⟨⟩ <;> decide) fun k => by fun_cases OpiOp.ofCode k <;> rintro _ ⟨⟩ <;> rfl

theorem CmpCond.fieldCode : FieldCode CmpCond.code CmpCond.ofCode 3 :=
  .of_inverse (by rintro ⟨⟩ <;> decide) fun k => by fun_cases CmpCond.ofCode k <;> rintro _ ⟨⟩ <;> rfl

theorem CmpType.fieldCode : FieldCode CmpType.code CmpType.ofCode 3 :=
  .of_inverse (by rintro ⟨⟩ <;> decide) fun k => by fun_cases CmpType.ofCode k <;> rintro _ ⟨⟩ <;> rfl

theorem PlogOp.fieldCode : FieldCode PlogOp.code PlogOp.ofCode 3 :=
  .of_inverse (by rintro ⟨⟩ <;> decide) fun k => by fun_cases PlogOp.ofCode k <;> rintro _ ⟨⟩ <;> rfl

theorem ShflOp.fieldCode : FieldCode ShflOp.code ShflOp.ofCode 2 :=
  .of_inverse (by rintro ⟨⟩ <;> decide) fun k => by fun_cases ShflOp.ofCode k <;> rintro _ ⟨⟩ <;> rfl

theorem VoteOp.fieldCode : FieldCode VoteOp.code VoteOp.ofCode 3 :=
  .of_inverse (by rintro ⟨⟩ <;> decide) fun k => by fun_cases VoteOp.ofCode k <;> rintro _ ⟨⟩ <;> rfl

theorem RedxScope.fieldCode : FieldCode RedxScope.code RedxScope.ofCode 2 :=
  .of_inverse (by rintro ⟨⟩ <;> decide) fun k => by fun_cases RedxScope.ofCode k <;> rintro _ ⟨⟩ <;> rfl

theorem RedxOp.fieldCode : FieldCode RedxOp.code RedxOp.ofCode 6 :=
  .of_inverse (by rintro ⟨⟩ <;> decide) fun k => by fun_cases RedxOp.ofCode k <;> rintro _ ⟨⟩ <;> rfl

theorem S2vOp.fieldCode : FieldCode S2vOp.code S2vOp.ofCode 3 :=
  .of_inverse (by rintro ⟨⟩ <;> decide) fun k => by fun_cases S2vOp.ofCode k <;> rintro _ ⟨⟩ <;> rfl

theorem V2sOp.fieldCode : FieldCode V2sOp.code V2sOp.ofCode 3 :=
  .of_inverse (by rintro ⟨⟩ <;> decide) fun k => by fun_cases V2sOp.ofCode k <;> rintro _ ⟨⟩ <;> rfl

theorem SopOp.fieldCode : FieldCode SopOp.code SopOp.ofCode 6 :=
  .of_inverse (by rintro ⟨⟩ <;> decide) fun k => by fun_cases SopOp.ofCode k <;> rintro _ ⟨⟩ <;> rfl

theorem FarOp.fieldCode : FieldCode FarOp.code FarOp.ofCode 3 :=
  .of_inverse (by rintro ⟨⟩ <;> decide) fun k => by fun_cases FarOp.ofCode k <;> rintro _ ⟨⟩ <;> rfl

theorem FfmaOp.fieldCode : FieldCode FfmaOp.code FfmaOp.ofCode 3 :=
  .of_inverse (by rintro ⟨⟩ <;> decide) fun k => by fun_cases FfmaOp.ofCode k <;> rintro _ ⟨⟩ <;> rfl

theorem FunOp.fieldCode : FieldCode FunOp.code FunOp.ofCode 3 :=
  .of_inverse (by rintro ⟨⟩ <;> decide) fun k => by fun_cases FunOp.ofCode k <;> rintro _ ⟨⟩ <;> rfl

theorem SfuOp.fieldCode : FieldCode SfuOp.code SfuOp.ofCode 6 :=
  .of_inverse (by rintro ⟨⟩ <;> decide) fun k => by fun_cases SfuOp.ofCode k <;> rintro _ ⟨⟩ <;> rfl

theorem CvtOp.fieldCode : FieldCode CvtOp.code CvtOp.ofCode 2 :=
  .of_inverse (by rintro ⟨⟩ <;> decide) fun k => by fun_cases CvtOp.ofCode k <;> rintro _ ⟨⟩ <;> rfl

theorem Rnd.fieldCode : FieldCode Rnd.code Rnd.ofCode 2 :=
  .of_inverse (by rintro ⟨⟩ <;> decide) fun k => by fun_cases Rnd.ofCode k <;> rintro _ ⟨⟩ <;> rfl

theorem IcvtOp.fieldCode : FieldCode IcvtOp.code IcvtOp.ofCode 6 :=
  .of_inverse (by rintro ⟨⟩ <;> decide) fun k => by fun_cases IcvtOp.ofCode k <;> rintro _ ⟨⟩ <;> rfl

theorem PackOp.fieldCode : FieldCode PackOp.code PackOp.ofCode 3 :=
  .of_inverse (by rintro ⟨⟩ <;> decide) fun k => by fun_cases PackOp.ofCode k <;> rintro _ ⟨⟩ <;> rfl

theorem UnpkOp.fieldCode : FieldCode UnpkOp.code UnpkOp.ofCode 2 :=
  .of_inverse (by rintro ⟨⟩ <;> decide) fun k => by fun_cases UnpkOp.ofCode k <;> rintro _ ⟨⟩ <;> rfl

theorem HopOp.fieldCode : FieldCode HopOp.code HopOp.ofCode 3 :=
  .of_inverse (by rintro ⟨⟩ <;> decide) fun k => by fun_cases HopOp.ofCode k <;> rintro _ ⟨⟩ <;> rfl

theorem RencOp.fieldCode : FieldCode RencOp.code RencOp.ofCode 2 :=
  .of_inverse (by rintro ⟨⟩ <;> decide) fun k => by fun_cases RencOp.ofCode k <;> rintro _ ⟨⟩ <;> rfl

theorem RdecOp.fieldCode : FieldCode RdecOp.code RdecOp.ofCode 6 :=
  .of_inverse (by rintro ⟨⟩ <;> decide) fun k => by fun_cases RdecOp.ofCode k <;> rintro _ ⟨⟩ <;> rfl

theorem FclsType.fieldCode : FieldCode FclsType.code FclsType.ofCode 3 :=
  .of_inverse (by rintro ⟨⟩ <;> decide) fun k => by fun_cases FclsType.ofCode k <;> rintro _ ⟨⟩ <;> rfl

theorem MSize.fieldCode : FieldCode MSize.code MSize.ofCode 3 :=
  .of_inverse (by rintro ⟨⟩ <;> decide) fun k => by fun_cases MSize.ofCode k <;> rintro _ ⟨⟩ <;> rfl

theorem Scope.fieldCode : FieldCode Scope.code Scope.ofCode 2 :=
  .of_inverse (by rintro ⟨⟩ <;> decide) fun k => by fun_cases Scope.ofCode k <;> rintro _ ⟨⟩ <;> rfl

theorem Order.fieldCode : FieldCode Order.code Order.ofCode 2 :=
  .of_inverse (by rintro ⟨⟩ <;> decide) fun k => by fun_cases Order.ofCode k <;> rintro _ ⟨⟩ <;> rfl

theorem Aop.fieldCode : FieldCode Aop.code Aop.ofCode 4 :=
  .of_inverse (by rintro ⟨⟩ <;> decide) fun k => by fun_cases Aop.ofCode k <;> rintro _ ⟨⟩ <;> rfl

theorem CasSize.fieldCode : FieldCode CasSize.code CasSize.ofCode 4 :=
  .of_inverse (by rintro ⟨⟩ <;> decide) fun k => by fun_cases CasSize.ofCode k <;> rintro _ ⟨⟩ <;> rfl

theorem SubFmt.fieldCode : FieldCode SubFmt.code SubFmt.ofCode 3 :=
  .of_inverse (by rintro ⟨⟩ <;> decide) fun k => by fun_cases SubFmt.ofCode k <;> rintro _ ⟨⟩ <;> rfl

theorem RoleClass.fieldCode : FieldCode RoleClass.code RoleClass.ofCode 15 :=
  .of_inverse (by rintro ⟨⟩ <;> decide) fun k => by fun_cases RoleClass.ofCode k <;> rintro _ ⟨⟩ <;> rfl

theorem SysReg.fieldCode : FieldCode SysReg.code SysReg.ofCode 12 :=
  .of_inverse (by rintro ⟨⟩ <;> decide) fun k => by fun_cases SysReg.ofCode k <;> rintro _ ⟨⟩ <;> rfl

end Sys2Proof
end

section
/-! The encoder after the decoder: the words a form of R31 accepts are the encodings of what it answers. -/

namespace Sys2Proof

/- One proof after the other: each unfolds the tables of every word (encodeNat, raw32), and side by side they take more memory than the check has. -/
set_option Elab.async false

/-- Every instruction the answer o holds has the word w and n bytes. -/
def IsWordOf (n w : Nat) (o : Option Instr) : Prop := ∀ i, o = some i → encodeNat i = w ∧ i.length = n

section
variable {n w : Nat}

@[simp] theorem isWordOf_none : IsWordOf n w none := by rintro i ⟨⟩

@[simp] theorem isWordOf_some {i : Instr} : IsWordOf n w (some i) ↔ encodeNat i = w ∧ i.length = n := by simp [IsWordOf]

@[simp] theorem isWordOf_ite {c : Prop} [Decidable c] {a b : Option Instr} :
    IsWordOf n w (if c then a else b) ↔ (c → IsWordOf n w a) ∧ (¬ c → IsWordOf n w b) := by
  split <;> simp [*]

theorem FieldCode.isWordOf_bind {α : Type} {code : α → Nat} {ofCode : Nat → Option α} {l : Nat} (h : FieldCode code ofCode l)
    {k : Nat} {f : α → Option Instr} : IsWordOf n w ((ofCode k).bind f) ↔ ∀ x, code x = k → IsWordOf n w (f x) := by
  simp only [← h.ofCode_eq_some_iff]
  cases ofCode k <;> simp [IsWordOf]

end

/-- The form of the major m (R31, R47): the table sends its words to dec, which accepts only words of what it answers. -/
abbrev Form (m : Nat) (dec : Nat → Option Instr) : Prop :=
  (∀ w, fld w 1 7 = m → raw32 w = dec w) ∧ ∀ w, w < 2 ^ 32 → w % 2 ^ 8 = 2 * m + 1 → IsWordOf 4 w (dec w)

/-- A word is the sum of its low byte and of the fields above it, in each way to cut these. -/
theorem Form.of_cuts {m : Nat} {dec : Nat → Option Instr} (hraw : ∀ w, fld w 1 7 = m → raw32 w = dec w)
    (cuts : List (List Nat)) (hsum : ∀ ns ∈ cuts, ns.sum = 24)
    (h : ∀ w, (∀ ns ∈ cuts, 2 * m + 1 + sumFields w 8 ns = w) → IsWordOf 4 w (dec w)) : Form m dec := by
  refine ⟨hraw, fun w hw hlow => h w fun ns hns => ?_⟩
  rw [sumFields_eq, hsum ns hns]
  omega

/-- Format J: disp24; and the words without a field (R82, R115, R381). -/
theorem form_j :
    Form 0x00 dec32_00 ∧ Form 0x04 dec32_04 ∧ Form 0x08 dec32_08 ∧ Form 0x10 dec32_10 ∧ Form 0x6b dec32_6b := by
  refine ⟨?_, ?_, ?_, ?_, ?_⟩
  all_goals
    refine .of_cuts (fun w h => by rw [raw32, h]; rfl) [[24]] (by decide) fun w hcut => ?_
    simp only [List.forall_mem_cons, sumFields] at hcut
    simp [encodeNat, Instr.length, put, dec32_00, dec32_04, dec32_08, dec32_10, dec32_6b]
    intros
    omega

/-- Format B: disp17, negate, predicate, scalar or vector code. -/
theorem form_b :
    Form 0x01 dec32_01 ∧ Form 0x02 dec32_02 ∧ Form 0x07 dec32_07 := by
  refine ⟨?_, ?_, ?_⟩
  all_goals
    refine .of_cuts (fun w h => by rw [raw32, h]; rfl) [[6, 1, 17]] (by decide) fun w hcut => ?_
    simp only [List.forall_mem_cons, sumFields, Nat.reduceAdd] at hcut
    simp [encodeNat, Instr.length, put, dec32_01, dec32_02, dec32_07]
    intros
    omega

/-- Format V: f3, g, vb, va, vd. -/
theorem form_v :
    Form 0x03 dec32_03 ∧ Form 0x05 dec32_05 ∧ Form 0x14 dec32_14 ∧ Form 0x15 dec32_15 ∧ Form 0x16 dec32_16 ∧ Form 0x17 dec32_17 ∧ Form 0x18 dec32_18
    ∧ Form 0x19 dec32_19 ∧ Form 0x1a dec32_1a ∧ Form 0x1d dec32_1d ∧ Form 0x30 dec32_30 ∧ Form 0x31 dec32_31 ∧ Form 0x32 dec32_32 ∧ Form 0x36 dec32_36
    ∧ Form 0x38 dec32_38 := by
  refine ⟨?_, ?_, ?_, ?_, ?_, ?_, ?_, ?_, ?_, ?_, ?_, ?_, ?_, ?_, ?_⟩
  all_goals
    refine .of_cuts (fun w h => by rw [raw32, h]; rfl) [[6, 6, 6, 3, 3]] (by decide) fun w hcut => ?_
    simp only [List.forall_mem_cons, sumFields, Nat.reduceAdd] at hcut
    simp [encodeNat, Instr.length, put, dec32_03, dec32_05, dec32_14, dec32_15, dec32_16, dec32_17, dec32_18, dec32_19, dec32_1a, dec32_1d, dec32_30,
      dec32_31, dec32_32, dec32_36, dec32_38, AddOp.fieldCode.isWordOf_bind, MulOp.fieldCode.isWordOf_bind, LogOp.fieldCode.isWordOf_bind,
      ShfOp.fieldCode.isWordOf_bind, MinMaxOp.fieldCode.isWordOf_bind, BitOp.fieldCode.isWordOf_bind, FarOp.fieldCode.isWordOf_bind,
      FfmaOp.fieldCode.isWordOf_bind, FunOp.fieldCode.isWordOf_bind, PackOp.fieldCode.isWordOf_bind, HopOp.fieldCode.isWordOf_bind]
    intros
    omega

/-- Format V of instructions that name no vector register. -/
theorem form_v_guard :
    Form 0x06 dec32_06 ∧ Form 0x09 dec32_09 ∧ Form 0x12 dec32_12 := by
  refine ⟨?_, ?_, ?_⟩
  all_goals
    refine .of_cuts (fun w h => by rw [raw32, h]; rfl) [[18, 3, 3]] (by decide) fun w hcut => ?_
    simp only [List.forall_mem_cons, sumFields, Nat.reduceAdd] at hcut
    simp [encodeNat, Instr.length, put, dec32_06, dec32_09, dec32_12]
    intros
    omega

/-- Format P: type, condition, vb, va, pd. -/
theorem form_p :
    Form 0x20 dec32_20 ∧ Form 0x21 dec32_21 ∧ Form 0x22 dec32_22 ∧ Form 0x24 dec32_24 ∧ Form 0x3b dec32_3b := by
  refine ⟨?_, ?_, ?_, ?_, ?_⟩
  all_goals
    refine .of_cuts (fun w h => by rw [raw32, h]; rfl) [[6, 6, 6, 3, 3], [6, 6, 9, 3], [6, 6, 12], [6, 12, 1, 5]] (by decide) fun w hcut => ?_
    simp only [List.forall_mem_cons, sumFields, Nat.reduceAdd] at hcut
    simp [encodeNat, Instr.length, put, dec32_20, dec32_21, dec32_22, dec32_24, dec32_3b, CmpCond.fieldCode.isWordOf_bind,
      CmpType.fieldCode.isWordOf_bind, PlogOp.fieldCode.isWordOf_bind, VoteOp.fieldCode.isWordOf_bind, FclsType.fieldCode.isWordOf_bind]
    and_intros <;> intros <;> omega

/-- Formats VI and VH: an immediate, va, vd. -/
theorem form_vi_vh :
    Form 0x1e dec32_1e ∧ Form 0x1f dec32_1f := by
  refine ⟨?_, ?_⟩
  all_goals
    refine .of_cuts (fun w h => by rw [raw32, h]; rfl) [[6, 6, 9, 3], [6, 18]] (by decide) fun w hcut => ?_
    simp only [List.forall_mem_cons, sumFields, Nat.reduceAdd] at hcut
    simp [encodeNat, Instr.length, put, dec32_1e, dec32_1f, OpiOp.fieldCode.isWordOf_bind]
    intros
    omega

/-- Format L: la, f2, vb or function, va, vd. -/
theorem form_l :
    Form 0x1b dec32_1b ∧ Form 0x1c dec32_1c ∧ Form 0x23 dec32_23 ∧ Form 0x25 dec32_25 ∧ Form 0x33 dec32_33 ∧ Form 0x34 dec32_34 ∧ Form 0x35 dec32_35
    ∧ Form 0x37 dec32_37 ∧ Form 0x39 dec32_39 ∧ Form 0x3a dec32_3a ∧ Form 0x57 dec32_57 := by
  refine ⟨?_, ?_, ?_, ?_, ?_, ?_, ?_, ?_, ?_, ?_, ?_⟩
  all_goals
    refine .of_cuts (fun w h => by rw [raw32, h]; rfl) [[6, 6, 6, 2, 4], [6, 6, 3, 3, 2, 4], [6, 6, 3, 5, 4]] (by decide) fun w hcut => ?_
    simp only [List.forall_mem_cons, sumFields, Nat.reduceAdd] at hcut
    simp [encodeNat, Instr.length, put, dec32_1b, dec32_1c, dec32_23, dec32_25, dec32_33, dec32_34, dec32_35, dec32_37, dec32_39, dec32_3a, dec32_57,
      BfxOp.fieldCode.isWordOf_bind, ShflOp.fieldCode.isWordOf_bind, RedxOp.fieldCode.isWordOf_bind, RedxScope.fieldCode.isWordOf_bind,
      SfuOp.fieldCode.isWordOf_bind, CvtOp.fieldCode.isWordOf_bind, IcvtOp.fieldCode.isWordOf_bind, Rnd.fieldCode.isWordOf_bind,
      UnpkOp.fieldCode.isWordOf_bind, RencOp.fieldCode.isWordOf_bind, RdecOp.fieldCode.isWordOf_bind]
    and_intros <;> intros <;> omega

/-- Formats VS, S2 and RP: scalar codes, lane and function; step, step mask and count. -/
theorem form_vs_s2 :
    Form 0x26 dec32_26 ∧ Form 0x27 dec32_27 ∧ Form 0x28 dec32_28 ∧ Form 0x50 dec32_50 ∧ Form 0x5c dec32_5c ∧ Form 0x5d dec32_5d ∧ Form 0x2e dec32_2e := by
  refine ⟨?_, ?_, ?_, ?_, ?_, ?_, ?_⟩
  all_goals
    refine .of_cuts (fun w h => by rw [raw32, h]; rfl) [[6, 9, 5, 1, 3], [9, 9, 6], [4, 5, 9, 6], [4, 20], [4, 5, 8, 7], [9, 4, 11], [6, 4, 2, 12]] (by decide) fun w hcut => ?_
    simp only [List.forall_mem_cons, sumFields, Nat.reduceAdd] at hcut
    simp [encodeNat, Instr.length, put, dec32_26, dec32_27, dec32_28, dec32_50, dec32_5c, dec32_5d, dec32_2e, S2vOp.fieldCode.isWordOf_bind,
      V2sOp.fieldCode.isWordOf_bind, SopOp.fieldCode.isWordOf_bind]
    and_intros <;> intros <;> omega

/-- Format SI: imm15 and sd. -/
theorem form_si :
    Form 0x11 dec32_11 ∧ Form 0x29 dec32_29 ∧ Form 0x2a dec32_2a ∧ Form 0x2b dec32_2b ∧ Form 0x2c dec32_2c ∧ Form 0x2d dec32_2d ∧ Form 0x45 dec32_45
    ∧ Form 0x49 dec32_49 ∧ Form 0x6a dec32_6a ∧ Form 0x6c dec32_6c ∧ Form 0x6d dec32_6d ∧ Form 0x74 dec32_74 ∧ Form 0x75 dec32_75 ∧ Form 0x76 dec32_76 := by
  refine ⟨?_, ?_, ?_, ?_, ?_, ?_, ?_, ?_, ?_, ?_, ?_, ?_, ?_, ?_⟩
  all_goals
    refine .of_cuts (fun w h => by rw [raw32, h]; rfl) [[9, 15], [2, 7, 15], [2, 7, 9, 6], [9, 4, 6, 5], [9, 12, 3], [6, 3, 12, 3], [9, 14, 1]] (by decide) fun w hcut => ?_
    simp only [List.forall_mem_cons, sumFields, Nat.reduceAdd] at hcut
    simp [encodeNat, Instr.length, put, dec32_11, dec32_29, dec32_2a, dec32_2b, dec32_2c, dec32_2d, dec32_45, dec32_49, dec32_6a, dec32_6c, dec32_6d,
      dec32_74, dec32_75, dec32_76, RoleClass.fieldCode.isWordOf_bind, SysReg.fieldCode.isWordOf_bind]
    and_intros <;> intros <;> omega

/-- Format SI of FENCE (R233): scope and order. -/
theorem form_fence :
    Form 0x44 dec32_44 := by
  refine .of_cuts (fun w h => by rw [raw32, h]; rfl) [[9, 2, 13]] (by decide) fun w hcut => ?_
  simp only [List.forall_mem_cons, sumFields, Nat.reduceAdd] at hcut
  simp [encodeNat, Instr.length, put, dec32_44, Scope.fieldCode.isWordOf_bind]
  refine ⟨fun _ _ _ _ => by omega, fun _ => ⟨fun _ _ _ _ => by omega, fun _ _ _ _ _ => by omega⟩⟩

/-- Formats M and MA: la or width and order, size, base pair, vo, vt. -/
theorem form_m :
    Form 0x3c dec32_3c ∧ Form 0x3d dec32_3d ∧ Form 0x3e dec32_3e ∧ Form 0x3f dec32_3f ∧ Form 0x40 dec32_40 ∧ Form 0x41 dec32_41 ∧ Form 0x42 dec32_42
    ∧ Form 0x43 dec32_43 ∧ Form 0x47 dec32_47 ∧ Form 0x48 dec32_48 := by
  refine ⟨?_, ?_, ?_, ?_, ?_, ?_, ?_, ?_, ?_, ?_⟩
  all_goals
    refine .of_cuts (fun w h => by rw [raw32, h]; rfl) [[6, 6, 5, 3, 4], [6, 6, 5, 3, 2, 2], [6, 6, 5, 4, 2, 1]] (by decide) fun w hcut => ?_
    simp only [List.forall_mem_cons, sumFields, Nat.reduceAdd] at hcut
    simp [encodeNat, Instr.length, put, dec32_3c, dec32_3d, dec32_3e, dec32_3f, dec32_40, dec32_41, dec32_42, dec32_43, dec32_47, dec32_48,
      MSize.fieldCode.isWordOf_bind, Scope.fieldCode.isWordOf_bind, Aop.fieldCode.isWordOf_bind, Order.fieldCode.isWordOf_bind,
      CasSize.fieldCode.isWordOf_bind]
    intros
    omega

/-- Formats T and M of the tank: cv, slots, tiles. -/
theorem form_t :
    Form 0x51 dec32_51 ∧ Form 0x52 dec32_52 ∧ Form 0x53 dec32_53 ∧ Form 0x54 dec32_54 ∧ Form 0x55 dec32_55 ∧ Form 0x56 dec32_56 := by
  refine ⟨?_, ?_, ?_, ?_, ?_, ?_⟩
  all_goals
    refine .of_cuts (fun w h => by rw [raw32, h]; rfl) [[3, 3, 3, 3, 4, 8], [3, 21], [3, 3, 3, 3, 4, 4, 4], [3, 3, 6, 5, 7]] (by decide) fun w hcut => ?_
    simp only [List.forall_mem_cons, sumFields, Nat.reduceAdd] at hcut
    simp [encodeNat, Instr.length, put, dec32_51, dec32_52, dec32_53, dec32_54, dec32_55, dec32_56]
    and_intros <;> intros <;> omega

/-- Format X: reply pair, two operand pairs, fn7. -/
theorem form_x :
    Form 0x0a dec32_0a ∧ Form 0x0b dec32_0b ∧ Form 0x0c dec32_0c ∧ Form 0x0d dec32_0d ∧ Form 0x0e dec32_0e ∧ Form 0x0f dec32_0f ∧ Form 0x46 dec32_46
    ∧ Form 0x4d dec32_4d ∧ Form 0x4f dec32_4f ∧ Form 0x61 dec32_61 ∧ Form 0x62 dec32_62 ∧ Form 0x6e dec32_6e ∧ Form 0x6f dec32_6f ∧ Form 0x72 dec32_72
    ∧ Form 0x73 dec32_73 := by
  refine ⟨?_, ?_, ?_, ?_, ?_, ?_, ?_, ?_, ?_, ?_, ?_, ?_, ?_, ?_, ?_⟩
  all_goals
    refine .of_cuts (fun w h => by rw [raw32, h]; rfl) [[7, 6, 6, 5], [19, 5]] (by decide) fun w hcut => ?_
    simp only [List.forall_mem_cons, sumFields, Nat.reduceAdd] at hcut
    simp [encodeNat, Instr.length, put, dec32_0a, dec32_0b, dec32_0c, dec32_0d, dec32_0e, dec32_0f, dec32_46, dec32_4d, dec32_4f, dec32_61, dec32_62,
      dec32_6e, dec32_6f, dec32_72, dec32_73]
    and_intros <;> intros <;> omega

/-- Format X of the engines: fn7 is a function and a timeline (R33); TLWAIT, TLRD, tiles and subscription formats lie in its low bits. -/
theorem form_x_engine :
    Form 0x58 dec32_58 ∧ Form 0x59 dec32_59 ∧ Form 0x5a dec32_5a ∧ Form 0x5b dec32_5b ∧ Form 0x5e dec32_5e ∧ Form 0x5f dec32_5f ∧ Form 0x4c dec32_4c
    ∧ Form 0x4e dec32_4e ∧ Form 0x70 dec32_70 ∧ Form 0x71 dec32_71 := by
  refine ⟨?_, ?_, ?_, ?_, ?_, ?_, ?_, ?_, ?_, ?_⟩
  all_goals
    refine .of_cuts (fun w h => by rw [raw32, h]; rfl) [[3, 3, 1, 6, 6, 5], [3, 4, 6, 6, 5], [7, 6, 6, 5], [3, 16, 5], [3, 1, 3, 6, 6, 5]] (by decide) fun w hcut => ?_
    simp only [List.forall_mem_cons, sumFields, Nat.reduceAdd] at hcut
    simp [encodeNat, Instr.length, put, dec32_58, dec32_59, dec32_5a, dec32_5b, dec32_5e, dec32_5f, dec32_4c, dec32_4e, dec32_70, dec32_71,
      SubFmt.fieldCode.isWordOf_bind]
    and_intros <;> intros <;> omega

/-- Format X of STRK (R334): kind, width and order in fn7. -/
theorem form_x_stroke :
    Form 0x60 dec32_60 := by
  refine .of_cuts (fun w h => by rw [raw32, h]; rfl) [[4, 1, 1, 1, 6, 6, 5], [5, 1, 7, 6, 5]] (by decide) fun w hcut => ?_
  simp only [List.forall_mem_cons, sumFields, Nat.reduceAdd] at hcut
  simp [encodeNat, Instr.length, put, dec32_60]
  and_intros <;> intros <;> omega

/-- Format X of the Ergs: a slot in the low bits of fn7. -/
theorem form_x_erg :
    Form 0x64 dec32_64 ∧ Form 0x65 dec32_65 ∧ Form 0x66 dec32_66 ∧ Form 0x67 dec32_67 ∧ Form 0x68 dec32_68 ∧ Form 0x69 dec32_69 := by
  refine ⟨?_, ?_, ?_, ?_, ?_, ?_⟩
  all_goals
    refine .of_cuts (fun w h => by rw [raw32, h]; rfl) [[4, 20], [4, 15, 5], [19, 5], [4, 3, 6, 6, 5]] (by decide) fun w hcut => ?_
    simp only [List.forall_mem_cons, sumFields, Nat.reduceAdd] at hcut
    simp [encodeNat, Instr.length, put, dec32_64, dec32_65, dec32_66, dec32_67, dec32_68, dec32_69]
    and_intros <;> intros <;> omega

/-- The form of the operation k of 16 bits (R30): the table sends its halfwords to dec, which accepts only words of what it answers. -/
abbrev Form16 (k : Nat) (dec : Nat → Option Instr) : Prop :=
  (∀ w, fld w 1 4 = k → raw16 w = dec w) ∧ ∀ w, w < 2 ^ 16 → w % 2 ^ 5 = 2 * k → IsWordOf 2 w (dec w)

/-- The 16-bit form: f, va, vd. -/
theorem form16 :
    Form16 0 dec16_00 ∧ Form16 1 dec16_01 ∧ Form16 2 dec16_02 ∧ Form16 3 dec16_03 ∧ Form16 4 dec16_04 ∧ Form16 5 dec16_05 ∧ Form16 6 dec16_06
    ∧ Form16 7 dec16_07 ∧ Form16 8 dec16_08 ∧ Form16 9 dec16_09 ∧ Form16 10 dec16_0a ∧ Form16 11 dec16_0b ∧ Form16 12 dec16_0c ∧ Form16 13 dec16_0d
    ∧ Form16 14 dec16_0e ∧ Form16 15 dec16_0f := by
  refine ⟨?_, ?_, ?_, ?_, ?_, ?_, ?_, ?_, ?_, ?_, ?_, ?_, ?_, ?_, ?_, ?_⟩
  all_goals
    refine ⟨fun w h => by rw [raw16, h]; rfl, fun w hw hlow => ?_⟩
    have hcut := sumFields_eq w 5 [5, 5, 1]
    simp only [sumFields, Nat.reduceAdd, List.sum_cons, List.sum_nil] at hcut
    simp [encodeNat, Instr.length, put, dec16_00, dec16_01, dec16_02, dec16_03, dec16_04, dec16_05, dec16_06, dec16_07, dec16_08, dec16_09, dec16_0a,
      dec16_0b, dec16_0c, dec16_0d, dec16_0e, dec16_0f]
    and_intros <;> intros <;> omega

/-- R27, R31: what a word of 32 bits reads as has it as its word. -/
theorem raw32_isWordOf {w : Nat} (hw : w < 2 ^ 32) (hodd : w % 2 = 1) : IsWordOf 4 w (raw32 w) := by
  have hlow : w % 2 ^ 8 = 2 * fld w 1 7 + 1 := by rw [fld]; omega
  unfold raw32
  split
  all_goals simp only [*, isWordOf_none, form_j, form_b, form_v, form_v_guard, form_p, form_vi_vh, form_l, form_vs_s2, form_si, form_fence, form_m,
    form_t, form_x, form_x_engine, form_x_stroke, form_x_erg]

/-- R27, R30: what a halfword reads as has it as its word. -/
theorem raw16_isWordOf {w : Nat} (hw : w < 2 ^ 16) (heven : w % 2 = 0) : IsWordOf 2 w (raw16 w) := by
  have hlow : w % 2 ^ 5 = 2 * fld w 1 4 := by rw [fld]; omega
  unfold raw16
  split
  all_goals simp only [*, isWordOf_none, form16]

end Sys2Proof
end

section
/-! The decoder after the encoder: the word of a well-formed instruction reads back as the instruction. -/

namespace Sys2Proof

/- One proof after the other: each unfolds the tables of every word (encodeNat, raw32), and side by side they take more memory than the check has. -/
set_option Elab.async false

/-- The word of i is one of 32 bits (R31), and the table of the majors reads it as i. -/
def ReadsBack (i : Instr) : Prop := fld (encodeNat i) 0 1 = 1 ∧ encodeNat i < 2 ^ 32 ∧ raw32 (encodeNat i) = some i

@[simp] theorem readsBack_fixed : ReadsBack .refuse ∧ ReadsBack .taskend ∧ ReadsBack .rett :=
  ⟨⟨rfl, by decide, rfl⟩, ⟨rfl, by decide, rfl⟩, rfl, by decide, rfl⟩

/-- Formats J, B, V, VI and VH. -/
@[simp] theorem readsBack_j_b_v :
    (∀ d, ReadsBack (.bra d)) ∧ (∀ d, ReadsBack (.call d)) ∧ (∀ d n p, ReadsBack (.brp d n p)) ∧ (∀ d n sn, ReadsBack (.brs d n sn))
    ∧ (∀ d v, ReadsBack (.switch d v)) ∧ (∀ g a, ReadsBack (.jmpv g a)) ∧ (∀ g a, ReadsBack (.callv g a)) ∧ (∀ f g b a d, ReadsBack (.add f g b a d))
    ∧ (∀ f g b a d, ReadsBack (.mul f g b a d)) ∧ (∀ f g b a d, ReadsBack (.mad f g b a d)) ∧ (∀ f g b a d, ReadsBack (.log f g b a d))
    ∧ (∀ f g b a d, ReadsBack (.shf f g b a d)) ∧ (∀ f g b a d, ReadsBack (.minmax f g b a d)) ∧ (∀ f g a d, ReadsBack (.bit f g a d))
    ∧ (∀ q g b a d, ReadsBack (.sel q g b a d)) ∧ (∀ f g b a d, ReadsBack (.far f g b a d)) ∧ (∀ f g b a d, ReadsBack (.ffma f g b a d))
    ∧ (∀ f g a d, ReadsBack (.fun f g a d)) ∧ (∀ f g b a d, ReadsBack (.pack f g b a d)) ∧ (∀ f g b a d, ReadsBack (.hop f g b a d))
    ∧ (∀ g, ReadsBack (.ret g)) ∧ (∀ g, ReadsBack (.exit g)) ∧ (∀ g, ReadsBack (.yield g)) ∧ (∀ f imm a d, ReadsBack (.opi f imm a d))
    ∧ (∀ imm d, ReadsBack (.lih imm d)) := by
  and_intros
  all_goals
    intros
    simp (decide := true) only [ReadsBack, encodeNat, bv_eq_ofNat_fld, fld_put_above, fld_putBv_same, fld_putBv_below, putBv_lt_iff, reduceIte,
      Option.bind_some, BitVec.ofNat_toNat, BitVec.setWidth_eq, and_self, form_j, form_b, form_v, form_v_guard,
      form_vi_vh, dec32_00, dec32_04, dec32_01, dec32_02, dec32_07, dec32_03, dec32_05, dec32_14, dec32_15, dec32_16, dec32_17, dec32_18, dec32_19,
      dec32_1a, dec32_1d, dec32_30, dec32_31, dec32_32, dec32_36, dec32_38, dec32_06, dec32_09, dec32_12, dec32_1e, dec32_1f,
      AddOp.fieldCode.put_rules, MulOp.fieldCode.put_rules, LogOp.fieldCode.put_rules, ShfOp.fieldCode.put_rules, MinMaxOp.fieldCode.put_rules,
      BitOp.fieldCode.put_rules, FarOp.fieldCode.put_rules, FfmaOp.fieldCode.put_rules, FunOp.fieldCode.put_rules, PackOp.fieldCode.put_rules,
      HopOp.fieldCode.put_rules, OpiOp.fieldCode.put_rules]

/-- Formats P and L. PMOV, PSET, P2V and V2P share the bits from 20 on. -/
@[simp] theorem readsBack_p_l :
    (∀ t c b a p, ReadsBack (.cmp t c b a p)) ∧ (∀ c b a p, ReadsBack (.plog c b a p)) ∧ (∀ a p, ReadsBack (.pmov a p))
    ∧ (∀ c p, ReadsBack (.pset c p)) ∧ (∀ b v, ReadsBack (.p2v b v)) ∧ (∀ v b, ReadsBack (.v2p v b)) ∧ (∀ t a p, ReadsBack (.vote t a p))
    ∧ (∀ t m a p, ReadsBack (.fcls t m a p)) ∧ (∀ l f b a d, ReadsBack (.bfx l f b a d)) ∧ (∀ l b a d, ReadsBack (.bfi l b a d))
    ∧ (∀ l f b a d, ReadsBack (.shfl l f b a d)) ∧ (∀ l f o a d, ReadsBack (.redx l f o a d)) ∧ (∀ l f a d, ReadsBack (.sfu l f a d))
    ∧ (∀ l f fs a d, ReadsBack (.cvt l f fs a d)) ∧ (∀ l r f a d, ReadsBack (.icvt l r f a d)) ∧ (∀ l f ix fs a d, ReadsBack (.unpk l f ix fs a d))
    ∧ (∀ l f a d, ReadsBack (.renc l f a d)) ∧ (∀ l f a d, ReadsBack (.rdec l f a d)) ∧ (∀ l t d, ReadsBack (.movfGet l t d))
    ∧ (∀ l t a, ReadsBack (.movfPutF32 l t a)) ∧ (∀ l t a, ReadsBack (.movfPutI32 l t a)) := by
  and_intros
  all_goals
    intros
    simp (decide := true) only [ReadsBack, encodeNat, bv_eq_ofNat_fld, fld_put_above, fld_putBv_same, fld_putBv_below, putBv_lt_iff, reduceIte,
      Option.bind_some, BitVec.ofNat_toNat, BitVec.setWidth_eq, and_false, and_self, if_false, Nat.reduceAdd, Nat.reduceSub,
      fld_eq_iff_low_high (lo := 20) (k := 12) 7 (by decide), form_p, form_l, dec32_20, dec32_21, dec32_22, dec32_24, dec32_3b, dec32_1b, dec32_1c,
      dec32_23, dec32_25, dec32_33, dec32_34, dec32_35, dec32_37, dec32_39, dec32_3a, dec32_57, CmpCond.fieldCode.put_rules,
      CmpType.fieldCode.put_rules, PlogOp.fieldCode.put_rules, VoteOp.fieldCode.put_rules, FclsType.fieldCode.put_rules, BfxOp.fieldCode.put_rules,
      ShflOp.fieldCode.put_rules, RedxOp.fieldCode.put_rules, RedxScope.fieldCode.put_rules, SfuOp.fieldCode.put_rules, CvtOp.fieldCode.put_rules,
      IcvtOp.fieldCode.put_rules, Rnd.fieldCode.put_rules, UnpkOp.fieldCode.put_rules, RencOp.fieldCode.put_rules, RdecOp.fieldCode.put_rules]

/-- Formats VS, S2, SI and RP. The forms of CVSET share the bits from 12 on. -/
@[simp] theorem readsBack_vs_s2_si :
    (∀ f l sn v, ReadsBack (.s2v f l sn v)) ∧ (∀ f l sn v, ReadsBack (.v2s f l sn v)) ∧ (∀ f a d, ReadsBack (.sop f a d))
    ∧ (∀ a c, ReadsBack (.cvset a c)) ∧ (∀ c, ReadsBack (.cvsetLive c)) ∧ (∀ m c, ReadsBack (.cvsetImm m c)) ∧ (∀ a q, ReadsBack (.qpush a q))
    ∧ (∀ a q, ReadsBack (.qpushS a q)) ∧ (∀ q d, ReadsBack (.qpop q d)) ∧ (∀ st m c, ReadsBack (.rep st m c)) ∧ (∀ imm, ReadsBack (.role imm))
    ∧ (∀ imm d, ReadsBack (.sli imm d)) ∧ (∀ imm d, ReadsBack (.saddi imm d)) ∧ (∀ imm d, ReadsBack (.slih imm d))
    ∧ (∀ imm k, ReadsBack (.xsetImm imm k)) ∧ (∀ n k, ReadsBack (.xsetScalar n k)) ∧ (∀ imm k, ReadsBack (.xadd imm k))
    ∧ (∀ n id d, ReadsBack (.bar n id d)) ∧ (∀ imm d, ReadsBack (.mwait imm d)) ∧ (∀ imm, ReadsBack (.trap imm)) ∧ (∀ r d, ReadsBack (.gsr r d))
    ∧ (∀ r v, ReadsBack (.gsrV r v)) ∧ (∀ r d, ReadsBack (.ssr r d)) ∧ (∀ r v, ReadsBack (.ssrV r v)) ∧ (∀ imm, ReadsBack (.halt imm))
    ∧ (∀ c, ReadsBack (.crend c)) ∧ (∀ d, ReadsBack (.crendS d)) ∧ (∀ d, ReadsBack (.cyc d)) ∧ (∀ d, ReadsBack (.cycTime d))
    ∧ (∀ c, ReadsBack (.fence c)) ∧ (∀ c, ReadsBack (.fenceAcq c)) ∧ (∀ c, ReadsBack (.fenceRel c)) := by
  and_intros
  all_goals
    intros
    simp (decide := true) only [ReadsBack, encodeNat, bv_eq_ofNat_fld, fld_put_above, fld_putBv_same, fld_putBv_below, putBv_lt_iff, reduceIte,
      Option.bind_some, BitVec.ofNat_toNat, BitVec.setWidth_eq, false_and, and_false, and_self, if_false, Nat.reduceAdd, Nat.reduceSub,
      fld_eq_iff_low_high (lo := 12) (k := 20) 13 (by decide), form_vs_s2, form_si, form_fence, dec32_26, dec32_27, dec32_28, dec32_50, dec32_5c,
      dec32_5d, dec32_2e, dec32_11, dec32_29, dec32_2a, dec32_2b, dec32_2c, dec32_2d, dec32_45, dec32_49, dec32_6a, dec32_6c, dec32_6d, dec32_74,
      dec32_75, dec32_76, dec32_44, S2vOp.fieldCode.put_rules, V2sOp.fieldCode.put_rules, SopOp.fieldCode.put_rules, RoleClass.fieldCode.put_rules,
      SysReg.fieldCode.put_rules, Scope.fieldCode.put_rules]

/-- Formats M, MA and T. -/
@[simp] theorem readsBack_m_t :
    (∀ l z b o t, ReadsBack (.ld l z b o t)) ∧ (∀ z b o t, ReadsBack (.st z b o t)) ∧ (∀ c z b o t, ReadsBack (.lda c z b o t))
    ∧ (∀ c z b o t, ReadsBack (.stl c z b o t)) ∧ (∀ l z b o t, ReadsBack (.lds l z b o t)) ∧ (∀ z b o t, ReadsBack (.sts z b o t))
    ∧ (∀ w r p b o t, ReadsBack (.atom w r p b o t)) ∧ (∀ r p b o t, ReadsBack (.cas r p b o t)) ∧ (∀ l b o t, ReadsBack (.pres l b o t))
    ∧ (∀ l b o t, ReadsBack (.mon l b o t)) ∧ (∀ c fs b a t, ReadsBack (.mma c fs b a t)) ∧ (∀ c fs b a t, ReadsBack (.mmaSet c fs b a t))
    ∧ (∀ c fs b a t, ReadsBack (.mmr c fs b a t)) ∧ (∀ c fs b a t, ReadsBack (.mmrSet c fs b a t)) ∧ (∀ t, ReadsBack (.mzero t))
    ∧ (∀ l fs d t, ReadsBack (.mepi l fs d t)) ∧ (∀ b sp f t, ReadsBack (.mstConv b sp f t)) ∧ (∀ b sp t, ReadsBack (.mstRaw b sp t))
    ∧ (∀ b sp f t, ReadsBack (.mldConv b sp f t)) ∧ (∀ b sp t, ReadsBack (.mldRawF32 b sp t)) ∧ (∀ b sp t, ReadsBack (.mldRawRes b sp t)) := by
  and_intros
  all_goals
    intros
    simp (decide := true) only [ReadsBack, encodeNat, bv_eq_ofNat_fld, fld_put_above, fld_putBv_same, fld_putBv_below, putBv_lt_iff, reduceIte,
      Option.bind_some, BitVec.ofNat_toNat, BitVec.setWidth_eq, and_false, and_self, if_false, form_m, form_t, dec32_3c, dec32_3d,
      dec32_3e, dec32_3f, dec32_40, dec32_41, dec32_42, dec32_43, dec32_47, dec32_48, dec32_51, dec32_52, dec32_53, dec32_54, dec32_55, dec32_56,
      MSize.fieldCode.put_rules, Scope.fieldCode.put_rules, Aop.fieldCode.put_rules, Order.fieldCode.put_rules, CasSize.fieldCode.put_rules]

/-- Format X. The forms of STRKN share the bits from 8 on. -/
@[simp] theorem readsBack_x :
    (∀ r b a e, ReadsBack (.spawn r b a e)) ∧ (∀ r a, ReadsBack (.launch r a)) ∧ (∀ r b a, ReadsBack (.waitcCounter r b a))
    ∧ (∀ r a, ReadsBack (.waitcHandle r a)) ∧ (∀ r a, ReadsBack (.fork r a)) ∧ (∀ r, ReadsBack (.join r)) ∧ (∀ r a, ReadsBack (.taskq r a))
    ∧ (∀ r b a, ReadsBack (.bbarArm r b a)) ∧ (∀ r a, ReadsBack (.bbarWait r a)) ∧ (∀ r a, ReadsBack (.bbarTake r a))
    ∧ (∀ r a, ReadsBack (.unsub r a)) ∧ (∀ r a, ReadsBack (.subqLine r a)) ∧ (∀ r a, ReadsBack (.subqSlot r a)) ∧ (∀ r, ReadsBack (.subqCnt r))
    ∧ (∀ r a, ReadsBack (.wstrk r a)) ∧ (∀ r b a, ReadsBack (.wstrkNote r b a)) ∧ (∀ r, ReadsBack (.strkn r)) ∧ (∀ r a, ReadsBack (.strknNote r a))
    ∧ (∀ r, ReadsBack (.strknStat r)) ∧ (∀ r b a svc, ReadsBack (.svcall r b a svc)) ∧ (∀ r a, ReadsBack (.svwait r a))
    ∧ (∀ r b a, ReadsBack (.ctxsvCrew r b a)) ∧ (∀ r b a, ReadsBack (.ctxsvTiles r b a)) ∧ (∀ r b a, ReadsBack (.ctxsvSquad r b a))
    ∧ (∀ r b a, ReadsBack (.ctxldCrew r b a)) ∧ (∀ r b a, ReadsBack (.ctxldTiles r b a)) ∧ (∀ r a, ReadsBack (.ctxldSquad r a)) := by
  and_intros
  all_goals
    intros
    simp (decide := true) only [ReadsBack, encodeNat, bv_eq_ofNat_fld, fld_put_above, fld_putBv_same, fld_putBv_below, putBv_lt_iff, reduceIte,
      BitVec.ofNat_toNat, BitVec.setWidth_eq, false_and, and_self, if_false, Nat.reduceAdd, Nat.reduceSub,
      fld_eq_iff_low_high (lo := 8) (k := 19) 7 (by decide), form_x, dec32_0a, dec32_0b, dec32_0c, dec32_0d, dec32_0e, dec32_0f, dec32_46, dec32_4d,
      dec32_4f, dec32_61, dec32_62, dec32_6e, dec32_6f, dec32_72, dec32_73]

/-- Format X of the engines. The forms of XLN share the bits from 8 on. -/
@[simp] theorem readsBack_x_engine :
    (∀ r b a e l, ReadsBack (.copy1 r b a e l)) ∧ (∀ r b a e l, ReadsBack (.copy2 r b a e l)) ∧ (∀ r b a e l, ReadsBack (.copyt r b a e l))
    ∧ (∀ r a e l, ReadsBack (.fill r 0 a e l)) ∧ (∀ r b a e l, ReadsBack (.copyr r b a e l)) ∧ (∀ r b a e l, ReadsBack (.copyh r b a e l))
    ∧ (∀ r b a e l, ReadsBack (.gather r b a e l)) ∧ (∀ r b a e l, ReadsBack (.scatter r b a e l)) ∧ (∀ r b a e l, ReadsBack (.scatadd r b a e l))
    ∧ (∀ r b e l, ReadsBack (.gatherq r b e l)) ∧ (∀ r b a e l, ReadsBack (.allred r b a e l)) ∧ (∀ r b a e l, ReadsBack (.redscat r b a e l))
    ∧ (∀ r b a e l, ReadsBack (.allgath r b a e l)) ∧ (∀ r a e l, ReadsBack (.barrier r a e l)) ∧ (∀ r a, ReadsBack (.xlnStat r a))
    ∧ (∀ r b a l, ReadsBack (.ease r b a l)) ∧ (∀ r b a l, ReadsBack (.wake r b a l)) ∧ (∀ r a l, ReadsBack (.tlwait r a l))
    ∧ (∀ r a l, ReadsBack (.tlrdSt r a l)) ∧ (∀ r l, ReadsBack (.tlrdIssued r l)) ∧ (∀ r l, ReadsBack (.tlrdDone r l))
    ∧ (∀ r l, ReadsBack (.tlrdFails r l)) ∧ (∀ r b a m f, ReadsBack (.subs r b a m f)) ∧ (∀ r a f, ReadsBack (.subup r a f))
    ∧ (∀ r a t, ReadsBack (.tksv r a t)) ∧ (∀ r a t, ReadsBack (.tkld r a t)) := by
  and_intros
  all_goals
    intros
    simp (decide := true) only [ReadsBack, encodeNat, bv_eq_ofNat_fld, fld_put_above, fld_putBv_same, fld_putBv_below, putBv_lt_iff, reduceIte,
      Option.bind_some, BitVec.ofNat_toNat, BitVec.setWidth_eq, false_and, and_false, and_self, if_false, Nat.reduceAdd, Nat.reduceSub,
      fld_eq_iff_low_high (lo := 8) (k := 7) 3 (by decide), form_x_engine, dec32_58, dec32_59, dec32_5a, dec32_5b, dec32_5e, dec32_5f, dec32_4c,
      dec32_4e, dec32_70, dec32_71, SubFmt.fieldCode.put_rules]

/-- Format X of STRK and the Ergs. The forms of APXC share the bits from 12 on. -/
@[simp] theorem readsBack_x_slot :
    (∀ r b a e w, ReadsBack (.skStore r b a e w)) ∧ (∀ r b a e w, ReadsBack (.skAdd r b a e w)) ∧ (∀ r b a e w, ReadsBack (.skClaim r b a e w))
    ∧ (∀ r b a e w, ReadsBack (.skSwap r b a e w)) ∧ (∀ r b a e w, ReadsBack (.skMax r b a e w)) ∧ (∀ r b e, ReadsBack (.skGen r b e))
    ∧ (∀ r b e, ReadsBack (.skLaunch r b e)) ∧ (∀ r b e, ReadsBack (.skNote r b e)) ∧ (∀ sl, ReadsBack (.apxe sl)) ∧ (∀ sl, ReadsBack (.apxl sl))
    ∧ (∀ r sl, ReadsBack (.apxi r sl)) ∧ (∀ r, ReadsBack (.apxiAll r)) ∧ (∀ r sl, ReadsBack (.apxqStat r sl)) ∧ (∀ r sl, ReadsBack (.apxqCount r sl))
    ∧ (∀ r sl, ReadsBack (.apxqErr r sl)) ∧ (∀ r sl, ReadsBack (.apxqMisc r sl)) ∧ (∀ r sl, ReadsBack (.apxcRetire r sl))
    ∧ (∀ r sl, ReadsBack (.apxcReset r sl)) ∧ (∀ r a sl, ReadsBack (.apxcShift r a sl)) ∧ (∀ r a sl, ReadsBack (.apxcDet r a sl))
    ∧ (∀ r a sl, ReadsBack (.apxcLoadw r a sl)) ∧ (∀ r a sl, ReadsBack (.apxcDumpw r a sl)) ∧ (∀ r a sl, ReadsBack (.apxsSave r a sl))
    ∧ (∀ r a sl, ReadsBack (.apxsLoad r a sl)) ∧ (∀ r sl, ReadsBack (.apxsDrop r sl)) := by
  and_intros
  all_goals
    intros
    simp (decide := true) only [ReadsBack, encodeNat, bv_eq_ofNat_fld, fld_put_above, fld_putBv_same, fld_putBv_below, putBv_lt_iff, reduceIte,
      BitVec.ofNat_toNat, BitVec.setWidth_eq, false_and, and_self, if_false, Nat.reduceAdd, Nat.reduceSub,
      fld_eq_iff_low_high (lo := 12) (k := 15) 3 (by decide), form_x_stroke, form_x_erg, dec32_60, dec32_64, dec32_65, dec32_66, dec32_67, dec32_68,
      dec32_69]

/-- The word of i is a halfword (R30), and the table of the operations of 16 bits reads it as i. -/
def ReadsBack16 (i : Instr) : Prop := fld (encodeNat i) 0 1 = 0 ∧ encodeNat i < 2 ^ 16 ∧ raw16 (encodeNat i) = some i

/-- The 16-bit form. -/
@[simp] theorem readsBack16 :
    (∀ a d, ReadsBack16 (.mov16 a d)) ∧ (∀ a d, ReadsBack16 (.add16I32 a d)) ∧ (∀ a d, ReadsBack16 (.add16F32 a d))
    ∧ (∀ a d, ReadsBack16 (.sub16I32 a d)) ∧ (∀ a d, ReadsBack16 (.sub16F32 a d)) ∧ (∀ a d, ReadsBack16 (.mul16I32 a d))
    ∧ (∀ a d, ReadsBack16 (.mul16F32 a d)) ∧ (∀ a d, ReadsBack16 (.and16 a d)) ∧ (∀ a d, ReadsBack16 (.or16 a d)) ∧ (∀ a d, ReadsBack16 (.xor16 a d))
    ∧ (∀ a d, ReadsBack16 (.shl16 a d)) ∧ (∀ a d, ReadsBack16 (.shr16N32 a d)) ∧ (∀ a d, ReadsBack16 (.shr16I32 a d))
    ∧ (∀ a d, ReadsBack16 (.min16I32 a d)) ∧ (∀ a d, ReadsBack16 (.min16F32 a d)) ∧ (∀ a d, ReadsBack16 (.max16I32 a d))
    ∧ (∀ a d, ReadsBack16 (.max16F32 a d)) ∧ (∀ a d, ReadsBack16 (.neg16I32 a d)) ∧ (∀ a d, ReadsBack16 (.neg16F32 a d))
    ∧ (∀ a d, ReadsBack16 (.not16 a d)) ∧ (∀ a d, ReadsBack16 (.abs16F32 a d)) ∧ (∀ imm d, ReadsBack16 (.addi5 imm d))
    ∧ (∀ imm d, ReadsBack16 (.movi5 imm d)) ∧ (∀ sn d, ReadsBack16 (.s2v16 sn d)) := by
  and_intros
  all_goals
    intros
    simp (decide := true) only [ReadsBack16, encodeNat, bv_eq_ofNat_fld, fld_put_above, fld_putBv_same, fld_putBv_below, putBv_lt_iff, reduceIte,
      BitVec.ofNat_toNat, BitVec.setWidth_eq, and_self, form16, dec16_00, dec16_01, dec16_02, dec16_03, dec16_04, dec16_05, dec16_06, dec16_07,
      dec16_08, dec16_09, dec16_0a, dec16_0b, dec16_0c, dec16_0d, dec16_0e, dec16_0f]

theorem readsBack_of_length {i : Instr} (hlen : i.length = 4) (hwf : i.wellFormed = true) : ReadsBack i := by
  cases i
  case fill r b a e l =>
    obtain rfl : b = 0 := by simpa [Instr.wellFormed] using hwf
    simp only [readsBack_x_engine]
  all_goals cases hlen <;> simp

theorem readsBack16_of_length {i : Instr} (hlen : i.length = 2) : ReadsBack16 i := by
  cases i
  all_goals cases hlen <;> simp

theorem Instr.length_eq (i : Instr) : i.length = 0 ∨ i.length = 2 ∨ i.length = 4 := by cases i <;> simp [Instr.length]

end Sys2Proof
end

section
/-! The bytes of an instruction and the words they hold (R2, R26). -/

namespace Sys2Proof

theorem encode_halfword {i : Instr} (h : i.length = 2) : encode i = [byteAt (encodeNat i) 0, byteAt (encodeNat i) 1] := by
  simp [encode, h, List.range_succ]

theorem encode_word {i : Instr} (h : i.length = 4) :
    encode i = [byteAt (encodeNat i) 0, byteAt (encodeNat i) 1, byteAt (encodeNat i) 2, byteAt (encodeNat i) 3] := by
  simp [encode, h, List.range_succ]

theorem toNat_byteAt (w k : Nat) : (byteAt w k).toNat = w / 256 ^ k % 256 := by simp [byteAt]

theorem byteAt_eq_iff {w k : Nat} {b : Byte} : byteAt w k = b ↔ w / 256 ^ k % 256 = b.toNat := by
  rw [← BitVec.toNat_inj, toNat_byteAt]

/-- Settles O2: the word of an instruction reads back as it, and its bytes hold the word. -/
theorem decodeEncode : Obligations.DecodeEncode := by
  intro i hword hwf
  obtain hlen | hlen | hlen := i.length_eq
  · simp [Instr.isWord, hlen] at hword
  · obtain ⟨heven, hlt, hraw⟩ := readsBack16_of_length hlen
    rw [encode_halfword hlen]
    rw [fld] at heven
    refine decode_halfword ?_ (w := encodeNat i) ?_ hraw hwf
    · simp only [toNat_byteAt]
      omega
    · omega
  · obtain ⟨hodd, hlt, hraw⟩ := readsBack_of_length hlen hwf
    rw [encode_word hlen]
    rw [fld] at hodd
    refine decode_word ?_ (w := encodeNat i) ?_ hraw hwf
    · simp only [toNat_byteAt]
      omega
    · omega

theorem decode16_eq_some_iff {w : Nat} {i : Instr} : decode16 w = some i ↔ raw16 w = some i ∧ i.wellFormed = true :=
  Option.filter_eq_some_iff

theorem decode32_eq_some_iff {w : Nat} {i : Instr} : decode32 w = some i ↔ raw32 w = some i ∧ i.wellFormed = true :=
  Option.filter_eq_some_iff

/-- What decode answers: the halfword at the front, or the word, is one of the instruction it names (R26). -/
theorem decode_cases {bs rest : List Byte} {i : Instr} (h : decode bs = some (i, rest)) :
    (∃ a b, bs = a :: b :: rest ∧ (a.toNat + 256 * b.toNat) % 2 = 0 ∧ decode16 (a.toNat + 256 * b.toNat) = some i)
    ∨ ∃ a b c d, bs = a :: b :: c :: d :: rest ∧ (a.toNat + 256 * b.toNat) % 2 ≠ 0
      ∧ decode32 (a.toNat + 256 * b.toNat + 65536 * (c.toNat + 256 * d.toNat)) = some i := by
  obtain _ | ⟨a, _ | ⟨b, tl⟩⟩ := bs
  · cases h
  · cases h
  rw [decode.eq_def] at h
  dsimp only at h
  split at h
  next heven =>
    obtain ⟨j, hj, heq⟩ := Option.map_eq_some_iff.1 h
    cases heq
    exact .inl ⟨a, b, rfl, heven, hj⟩
  next hodd =>
    obtain _ | ⟨c, _ | ⟨d, tl⟩⟩ := tl
    · cases h
    · cases h
    obtain ⟨j, hj, heq⟩ := Option.map_eq_some_iff.1 h
    cases heq
    exact .inr ⟨a, b, c, d, rfl, hodd, hj⟩

/-- Settles O3: what a word reads as has it as its word, whose bytes are those read. -/
theorem encodeDecode : Obligations.EncodeDecode := by
  intro bs i rest h
  obtain ⟨a, b, rfl, heven, hdec⟩ | ⟨a, b, c, d, rfl, hodd, hdec⟩ := decode_cases h
  · obtain ⟨hraw, hwf⟩ := decode16_eq_some_iff.1 hdec
    obtain ⟨hword, hlen⟩ := raw16_isWordOf (by omega) heven i hraw
    refine ⟨?_, hwf, by simp [Instr.isWord, hlen]⟩
    have h0 : byteAt (encodeNat i) 0 = a := byteAt_eq_iff.2 (by omega)
    have h1 : byteAt (encodeNat i) 1 = b := byteAt_eq_iff.2 (by omega)
    rw [encode_halfword hlen, h0, h1]
    rfl
  · obtain ⟨hraw, hwf⟩ := decode32_eq_some_iff.1 hdec
    obtain ⟨hword, hlen⟩ := raw32_isWordOf (by omega) (by omega) i hraw
    refine ⟨?_, hwf, by simp [Instr.isWord, hlen]⟩
    have h0 : byteAt (encodeNat i) 0 = a := byteAt_eq_iff.2 (by omega)
    have h1 : byteAt (encodeNat i) 1 = b := byteAt_eq_iff.2 (by omega)
    have h2 : byteAt (encodeNat i) 2 = c := byteAt_eq_iff.2 (by omega)
    have h3 : byteAt (encodeNat i) 3 = d := byteAt_eq_iff.2 (by omega)
    rw [encode_word hlen, h0, h1, h2, h3]
    rfl

end Sys2Proof
end

section
/-! Instruction fetch and the turn of a crew (spec/02_encoding.md R26, R41 to R46; spec/03_control.md R60 to R64): what stands at an issue address, and
what the crew whose turn it is does there. -/

namespace Sys2Proof.Machine

/-! ## The fetch path (R26, R64) -/

/-- What the fetch path answers for an address, by the translation of its page. -/
theorem State.fetchAt_of_translate {s : State} {k : Crew} {a : Nat} {l : Leaf} (ha : a < 2 ^ 47) (hl : s.translate k.core k.asid a = some l) :
    s.fetchAt k a =
      if l.x = false ∨ (l.p = true ∧ s.privileged k = false) then .error .prot
      else if l.tgt ≠ 0 then .error .farAccess
      else .ok (l.frame + a % 2 ^ l.bits) := by
  simp only [State.fetchAt, Nat.not_le.mpr ha, if_false, hl]
  cases l.x <;> cases l.p <;> cases s.privileged k <;> simp [Leaf.phys]

theorem State.fetch16_of_ok {s : State} {k : Crew} {a p : Nat} (h : s.fetchAt k a = .ok p) :
    s.fetch16 k a = .ok ((s.deck.read p).toNat + 256 * (s.deck.read (p + 1)).toNat) := by
  simp [State.fetch16, h, bind, Except.bind, pure, Except.pure, State.deckN, leNat, Memory.readN, List.range_succ]

theorem State.fetch16_of_error {s : State} {k : Crew} {a : Nat} {c : Cause} (h : s.fetchAt k a = .error c) : s.fetch16 k a = .error c := by
  simp [State.fetch16, h, bind, Except.bind]

theorem State.fetchInstr_of_error {s : State} {k : Crew} {a : Nat} {c : Cause} (h : s.fetchAt k a = .error c) : s.fetchInstr k a = .error c := by
  simp only [State.fetchInstr, State.fetch16_of_error h]

/-- A halfword that decodes is the instruction at its address (R26). -/
theorem State.fetchInstr_of_halfword {s : State} {k : Crew} {a p : Nat} {i : Instr} (ha : s.fetchAt k a = .ok p)
    (hd : decode (s.deck.readN p 2) = some (i, [])) : s.fetchInstr k a = .ok i := by
  obtain ⟨x, y, hb, heven, hi⟩ | ⟨x, y, z, w, hb, -, -⟩ := decode_cases hd
  · obtain ⟨rfl, rfl⟩ : s.deck.read p = x ∧ s.deck.read (p + 1) = y := by simpa [Memory.readN, List.range_succ] using hb
    simp [State.fetchInstr, State.fetch16_of_ok ha, heven, hi]
  · simp [Memory.readN, List.range_succ] at hb

/-- A word that decodes, its halfwords read one after the other, is the instruction at its address (R26). -/
theorem State.fetchInstr_of_word {s : State} {k : Crew} {a p q : Nat} {i : Instr} (ha : s.fetchAt k a = .ok p)
    (hb : s.fetchAt k ((a + 2) % 2 ^ 48) = .ok q)
    (hd : decode (s.deck.readN p 2 ++ s.deck.readN q 2) = some (i, [])) : s.fetchInstr k a = .ok i := by
  obtain ⟨x, y, hb, -, -⟩ | ⟨x, y, z, w, hw, hodd, hi⟩ := decode_cases hd
  · simp [Memory.readN, List.range_succ] at hb
  · obtain ⟨rfl, rfl, rfl, rfl⟩ : s.deck.read p = x ∧ s.deck.read (p + 1) = y ∧ s.deck.read q = z ∧ s.deck.read (q + 1) = w := by
      simpa [Memory.readN, List.range_succ] using hw
    simp only [State.fetchInstr, State.fetch16_of_ok ha, State.fetch16_of_ok hb, beq_eq_false_iff_ne.mpr hodd, Bool.false_eq_true, if_false, hi]

/-- REP is a word (R26, R41): no halfword decodes to it. -/
theorem ne_rep_of_decode_halfword {x y : Byte} {i : Instr} (hd : decode [x, y] = some (i, [])) (st : BitVec 2) (m : BitVec 4) (c : BitVec 6) :
    i ≠ .rep st m c := by
  rintro rfl
  have hbytes := congrArg List.length (encodeDecode _ _ _ hd).1
  rw [encode_word rfl] at hbytes
  simp at hbytes

/-! ## What stands at an issue address (R41, R44, R64) -/

theorem State.pointAt_of_error {s : State} {k : Crew} {a : Nat} {c : Cause} (h : s.fetchInstr k a = .error c) : s.pointAt k a = .fault c a := by
  simp only [State.pointAt, h]

theorem State.pointAt_of_instr {s : State} {k : Crew} {a : Nat} {i : Instr} (h : s.fetchInstr k a = .ok i) (hi : ∀ st m c, i ≠ .rep st m c) :
    s.pointAt k a = .instr i none := by
  unfold State.pointAt
  rw [h]
  split
  · cases ‹_›
  · next heq => exact absurd (Except.ok.inj heq) (hi _ _ _)
  · next heq => rw [Except.ok.inj heq]

/-- A REP and its I: an illegal pair is a fault at I; else the REP where none is active, and I under it where one is (R41, R44). -/
theorem State.pointAt_of_rep {s : State} {k : Crew} {a : Nat} {st : BitVec 2} {m : BitVec 4} {c : BitVec 6} {i : Instr}
    (h : s.fetchInstr k a = .ok (.rep st m c)) (hi : s.fetchInstr k ((a + 4) % 2 ^ 48) = .ok i) :
    s.pointAt k a =
      if repLegal m i = false then .fault .illegal ((a + 4) % 2 ^ 48)
      else if k.rep.active = true then .instr i (some (repCtl st m c)) else .rep st m c i := by
  simp only [State.pointAt, h, hi, Bool.not_eq_true']

/-! ## Threads held by signatures (R274) -/

/-- No operation of the crew holds a signature. -/
def Crew.unsigned (k : Crew) : Prop := ∀ v ∈ k.cv, v.sigs = []

theorem Crew.unsigned.sigs {k : Crew} (h : k.unsigned) (n : Nat) : (k.cvN n).sigs = [] := by
  rw [Crew.cvN, List.getD_eq_getElem?_getD]
  cases hn : k.cv[n]? with
  | none => rfl
  | some v => exact h v (List.mem_of_getElem? hn)

theorem Crew.unsigned.locks {k : Crew} (h : k.unsigned) (lane r : Nat) : k.locks lane r = false := by
  simp [Crew.locks, h.sigs]

theorem Crew.unsigned.holdsAt {k : Crew} (h : k.unsigned) (g : List DWord) (i : Instr) (lane : Nat) : holdsAt g k i lane = false := by
  simp [Machine.holdsAt, h.locks, h.sigs]

theorem laneSet_eq_zero {f : Nat → Bool} (h : ∀ l, f l = false) : laneSet f = 0 := by
  rw [show f = fun _ => false from funext h]
  rfl

theorem Crew.unsigned.heldAt {k : Crew} (h : k.unsigned) (g : List DWord) (p : Point) : k.heldAt g p = 0 := by
  have hrep (ctl : RepCtl) (j : Nat) : (k.inRepeat ctl j).unsigned := h
  cases p with
  | fault c addr => rfl
  | rep st m c i => exact laneSet_eq_zero fun l => by simp [(hrep _ _).holdsAt]
  | instr i ctl =>
    cases ctl with
    | none => exact laneSet_eq_zero fun l => by simp [h.holdsAt]
    | some ctl =>
      simp only [Crew.heldAt]
      rw [laneSet_eq_zero fun l => by simp [(hrep _ _).holdsAt]]
      simp

theorem Crew.unsigned.heldApxe {k : Crew} (h : k.unsigned) (s : State) (p : Point) : s.heldApxe k p = 0 := by
  have hin (i : Instr) (lane : Nat) : s.apxeHolds k lane i = false := by
    cases i
    case apxe sl => simp [State.apxeHolds, h.locks]
    all_goals rfl
  unfold State.heldApxe
  split
  · exact laneSet_eq_zero fun l => by simp [hin]
  · rfl

/-- Where no thread is held, a crew issues at its least address (R60, R274). -/
theorem State.findIssue_of_unheld {s : State} {k : Crew} {a n : Nat} (ha : k.issueAddr = some a)
    (hc : k.heldAt (s.slots k) (s.pointAt k a) = 0) (hx : s.heldApxe k (s.pointAt k a) = 0) :
    s.findIssue k (n + 1) = (k, some (a, s.pointAt k a)) := by
  simp [State.findIssue, ha, hc, hx]

/-! ## The turn of a crew (R43, R62, R64, R67) -/

theorem State.setCrew_setCrew {s : State} {c d : Crew} (h : c.id = d.id) : (s.setCrew c).setCrew d = s.setCrew d := by
  unfold State.setCrew
  simp only [List.map_map, State.mk.injEq, and_true]
  refine List.map_congr_left fun x _ => ?_
  by_cases hx : x.id = c.id <;> simp [hx, ← h]

theorem State.unheld_setCrew (s : State) (c k : Crew) (i : Instr) : (s.setCrew c).unheld k i = (s.unheld k i).setCrew c := by
  unfold State.unheld
  split <;> rfl

@[simp] theorem State.pointAt_setCrew (s : State) (c k : Crew) (a : Nat) : (s.setCrew c).pointAt k a = s.pointAt k a := rfl

/-- Crew k with its turn counted by the scheduler (R67). -/
def Crew.counted (k : Crew) (now : Nat) : Crew := { k with lastIssue := now, passed := 0 }
/-- Crew k in its turn, none of the threads at its issue address held yet (R67, R274). -/
def Crew.inTurn (k : Crew) (now : Nat) : Crew := { k with held := 0, lastIssue := now, passed := 0 }

/-- The state that the crew at the head of the issue queue finds in its turn. -/
def State.turning (s : State) (rest : List Nat) (id : Nat) : State := ({ s with issueQ := rest, cur := some id } : State).settle id

/-- What a step answers for a turn. -/
def Turn.outcome : Turn → Out State
  | .idle t => .next t
  | .run i t => exec i t

theorem step_of_issueQ {s : State} {id : Nat} {rest : List Nat} (hq : s.issueQ = id :: rest) : step s = (s.turn id).outcome := by
  unfold step
  rw [hq]
  dsimp only
  generalize s.turn id = x
  cases x with
  | idle t => rfl
  | run i t => rfl

section
variable {s t : State} {id : Nat} {rest : List Nat} {k h : Crew} {a now : Nat}
  (hq : s.issueQ = id :: rest) (ht : s.turning rest id = t) (hk : t.crew? id = some k) (hm : k.mayIssue = true)
  (hn : (t.cycles k.core).toNat = now) (hh : k.inTurn now = h) (ha : h.issueAddr = some a)
include hq ht hk hm hn hh ha

/-- A crew takes its turn at what stands at its issue address, where none of its threads is held. -/
theorem step_of_point (hc : h.heldAt (t.slots h) (t.pointAt h a) = 0) (hx : t.heldApxe h (t.pointAt h a) = 0) :
    step s = ((t.setCrew (k.counted now)).turnAt (h, some (a, t.pointAt h a))).outcome := by
  have hturn : ({ s with issueQ := s.issueQ.tail, cur := some id } : State).settle id = t := by rw [hq]; exact ht
  have hissue : (t.setCrew (k.counted now)).issuePoint (k.counted now) = (h, some (a, t.pointAt h a)) := by
    have hissue := State.findIssue_of_unheld (s := t.setCrew (k.counted now)) (n := 32) ha hc hx
    rw [State.pointAt_setCrew, ← hh] at hissue
    rw [State.issuePoint, ← hh]
    exact hissue
  rw [step_of_issueQ hq]
  unfold State.turn
  rw [hturn]
  simp only [hk, hm, if_true, hn]
  exact congrArg (fun x => ((t.setCrew (k.counted now)).turnAt x).outcome) hissue

/-- A fault at the issue address traps the threads there (R64). -/
theorem step_of_fault {c : Cause} {b : Nat} (hp : t.pointAt h a = .fault c b) : step s = .next ((t.setCrew h).trapAt h c h.active b) := by
  rw [step_of_point hq ht hk hm hn hh ha (by rw [hp]; rfl) (by rw [hp]; rfl), hp]
  simp only [State.turnAt, Turn.outcome]
  rw [State.setCrew_setCrew (by rw [← hh]; rfl)]

variable (hu : h.unsigned)
include hu

/-- An instruction outside a REP, and a REP itself, run with the REP state idle (R41, R44). -/
theorem step_of_instr {i : Instr} (hp : t.pointAt h a = .instr i none ∨ ∃ st m c j, i = .rep st m c ∧ t.pointAt h a = .rep st m c j) :
    step s = exec i (((t.unheld h i).setCrew { h with rep := Rep.idle }).learn h.core h.asid a) := by
  have hstep := step_of_point hq ht hk hm hn hh ha (hu.heldAt _ _) (hu.heldApxe _ _)
  obtain hp | ⟨st, m, c, j, rfl, hp⟩ := hp <;>
  · rw [hstep, hp]
    simp only [State.turnAt, Turn.outcome]
    rw [State.unheld_setCrew, State.setCrew_setCrew (by rw [← hh]; rfl)]

/-- While repeats remain the step runs I for the next of them (R43, R44). -/
theorem step_of_repeat {i : Instr} {ctl : RepCtl} (hp : t.pointAt h a = .instr i (some ctl)) (hr : h.rep.i.toNat < ctl.count) :
    step s = exec i (((t.unheld h i).setCrew { h with rep := { h.rep with ctl := ctl, fixed := some h.active } }).learn h.core h.asid a) := by
  rw [step_of_point hq ht hk hm hn hh ha (hu.heldAt _ _) (hu.heldApxe _ _), hp]
  simp only [State.turnAt, Turn.outcome, Nat.not_le.mpr hr, if_false]
  rw [State.unheld_setCrew, State.setCrew_setCrew (by rw [← hh]; rfl)]

end

end Sys2Proof.Machine

open Sys2Proof Sys2Proof.Machine

/-- Settles O5: the crew's issue address leads to its instruction through the fetch path, and no thread is held there. -/
theorem stepRunsDecoded : Obligations.StepRunsDecoded := by
  unfold Obligations.StepRunsDecoded
  refine fun s => ⟨?_, ?_, ?_, ?_⟩
  · intro id rest k a p hq s1 h hk hm hr hu ha hp
    have ht : s.turning rest id = s1 := rfl
    obtain ⟨now, hn⟩ : ∃ now, (s1.cycles k.core).toNat = now := ⟨_, rfl⟩
    have hh : k.inTurn now = h := by simp only [h, hn]; rfl
    replace hu : h.unsigned := hu
    clear_value h s1
    have runs {i : Instr} (hi : s1.fetchInstr h a = .ok i) (hrep : ∀ st m c, i ≠ .rep st m c) :=
      step_of_instr hq ht hk hm hn hh ha hu (Or.inl (State.pointAt_of_instr hi hrep))
    exact ⟨fun i hd => runs (State.fetchInstr_of_halfword hp hd) (ne_rep_of_decode_halfword hd),
      fun i q hq' _ hd hrep => runs (State.fetchInstr_of_word hp hq' hd) hrep⟩
  · intro hq hb
    simp [step, hq, hb]
  · intro e rest hq hb hi
    simp [step, hq, hb, hi]
  · intro hq hb hi
    simp [step, hq, hb, hi]

/-- Settles O6: a REP and its I at the issue address are run, repeated or refused as their pair is legal; a fault of the fetch is taken there. -/
theorem repeatsAndFetchFaults : Obligations.RepeatsAndFetchFaults := by
  unfold Obligations.RepeatsAndFetchFaults
  refine ⟨?_, ?_, fun s k a => ⟨?_, ?_, fun l => State.fetchAt_of_translate⟩⟩
  · intro s id rest k a st m c i hq s1 h ctl hk hm hu ha hrep hi
    have ht : s.turning rest id = s1 := rfl
    obtain ⟨now, hn⟩ : ∃ now, (s1.cycles k.core).toNat = now := ⟨_, rfl⟩
    have hh : k.inTurn now = h := by simp only [h, hn]; rfl
    have hkr : h.rep = k.rep := rfl
    replace hu : h.unsigned := hu
    clear_value h s1
    have hp := State.pointAt_of_rep hrep hi
    rw [← hkr]
    refine ⟨fun hl hr => ?_, fun hl hr hi => ?_, fun hl => ?_⟩
    · exact step_of_instr hq ht hk hm hn hh ha hu (Or.inr ⟨st, m, c, i, rfl, hp.trans (by simp [hl, hr])⟩)
    · exact step_of_repeat hq ht hk hm hn hh ha hu (hp.trans (by simp [hl, hr, ctl, repCtl])) (Nat.lt_succ_of_le hi)
    · exact step_of_fault hq ht hk hm hn hh ha (hp.trans (by simp [hl]))
  · intro s id rest k a c hq s1 h hk hm ha hf
    have ht : s.turning rest id = s1 := rfl
    obtain ⟨now, hn⟩ : ∃ now, (s1.cycles k.core).toNat = now := ⟨_, rfl⟩
    have hh : k.inTurn now = h := by simp only [h, hn]; rfl
    clear_value h s1
    exact step_of_fault hq ht hk hm hn hh ha (State.pointAt_of_error (State.fetchInstr_of_error hf))
  · intro ha
    simp only [State.fetchAt, ha, if_true]
  · intro ha ht
    simp only [State.fetchAt, Nat.not_le.mpr ha, if_false, ht]
end

section
/-! The shared ends of an instruction that closes no lookahead window (spec/02_encoding.md R39): it completes, stops its crew, or traps. -/

namespace Sys2Proof.Machine

/-- A field above the major leaves it. -/
theorem put_major {v o w : Nat} (h : 8 ≤ o) : put v o w / 2 % 128 = w / 2 % 128 := by
  obtain ⟨n, rfl⟩ := Nat.exists_eq_add_of_le h
  have : put v (8 + n) w = w + 256 * (v * 2 ^ n) := by rw [put, pow_add]; ring
  rw [this]
  omega

/-- The majors that close a window are those up to 0x12 and a few above (R39). -/
theorem closesWindow_of_major {i : Instr} {m : Nat} (hm : encodeNat i / 2 % 128 = m)
    (h : m ∉ List.range 0x13 ++ [0x44, 0x45, 0x46, 0x49] ++ List.range' 0x6A 13) : closesWindow i = false := by
  simp only [closesWindow, hm]
  simp at h
  simp [h]
  omega

/-- The majors of the engines, queues and timelines close no window (R39). -/
theorem closesWindow_of_engine {i : Instr} (h : encodeNat i / 2 % 128 ∈ List.range' 0x58 8) : closesWindow i = false := by
  refine closesWindow_of_major rfl ?_
  generalize encodeNat i / 2 % 128 = m at h
  revert m
  decide

theorem closedLoads_of_open {i : Instr} (ho : closesWindow i = false) (act : Lanes) (ps : List PendLoad) : closedLoads i act ps = ps := by
  simp [closedLoads, ho]

/-- Every instruction that stops its crew and closes no window. -/
theorem stops_of_waits {s t : State} {k : Crew} {i : Instr} {w : Wait} (ho : closesWindow i = false)
    (h : exec i s = .next (t.waits k w k.active)) : s.stops k i t k w :=
  ⟨_, h, waits_stopped k i k.active w _ (closedLoads_of_open ho _ _) (by simp [ho])⟩

/-- A reply leaves a crew's threads, its place in a REP and its loads as they are. -/
theorem Crew.reply_frame (k : Crew) (r : Reply) (d : DWord) :
    (k.reply r d).core = k.core ∧ (k.reply r d).rep = k.rep ∧ (k.reply r d).loads = k.loads ∧ (k.reply r d).threads = k.threads := by
  unfold Crew.reply
  split <;> exact ⟨rfl, rfl, rfl, rfl⟩

/-- A crew that has its threads as they were moves on to the next instruction. -/
theorem Crew.advance_open {k c : Crew} {i : Instr} (ho : closesWindow i = false) (now : Nat) (hr : c.rep = k.rep) (ht : c.threads = k.threads) :
    k.movedFrom c (c.advance i k.active now) i now :=
  Crew.advance_from k c i now hr (closedLoads_of_open ho _ _) fun l _ => by
    have : c.thread l = k.thread l := by unfold Crew.thread; rw [ht]
    rw [this]
    exact ⟨rfl, rfl⟩

/-- Every instruction that replies as it completes and closes no window. -/
theorem goesTo_of_doneReply {s t : State} {k : Crew} {i : Instr} {r : Reply} {d : DWord} (ho : closesWindow i = false)
    (h : exec i s = .next (t.doneReply i k k.active r d)) : s.goesTo k i t (k.reply r d) := by
  obtain ⟨hcore, hrep, -, hthreads⟩ := k.reply_frame r d
  refine ⟨_, h, ?_⟩
  rw [hcore]
  exact Crew.advance_open ho _ hrep hthreads

end Sys2Proof.Machine
end

section
/-! Queues and timelines (spec/11_engines.md R295 to R299): what a push, a pop and the timeline reads do once they issue. -/

namespace Sys2Proof.Machine

theorem closesWindow_qpush (x : SCode) (q : BitVec 4) : closesWindow (.qpush x q) = false :=
  closesWindow_of_engine (by simp [encodeNat, put_major])
theorem closesWindow_qpushS (x : SCode) (q : BitVec 4) : closesWindow (.qpushS x q) = false :=
  closesWindow_of_engine (by simp [encodeNat, put_major])
theorem closesWindow_qpop (q : BitVec 4) (d : SCode) : closesWindow (.qpop q d) = false :=
  closesWindow_of_engine (by simp [encodeNat, put_major])
theorem closesWindow_tlwait (r : Reply) (a : BitVec 6) (l : BitVec 3) : closesWindow (.tlwait r a l) = false :=
  closesWindow_of_engine (by simp [encodeNat, put_major])
theorem closesWindow_tlrdSt (r : Reply) (a : BitVec 6) (l : BitVec 3) : closesWindow (.tlrdSt r a l) = false :=
  closesWindow_of_engine (by simp [encodeNat, put_major])
theorem closesWindow_tlrdIssued (r : Reply) (l : BitVec 3) : closesWindow (.tlrdIssued r l) = false :=
  closesWindow_of_engine (by simp [encodeNat, put_major])
theorem closesWindow_tlrdDone (r : Reply) (l : BitVec 3) : closesWindow (.tlrdDone r l) = false :=
  closesWindow_of_engine (by simp [encodeNat, put_major])
theorem closesWindow_tlrdFails (r : Reply) (l : BitVec 3) : closesWindow (.tlrdFails r l) = false :=
  closesWindow_of_engine (by simp [encodeNat, put_major])

section
variable {s : State} {k : Crew}

/-- A push in its three outcomes: QUEUE_FAULT on a queue that software may not fill, a wait on a full queue, and a new end of the queue (R295). -/
theorem exec_push {i : Instr} {q : BitVec 4} {d : DWord} (ho : closesWindow i = false)
    (h : exec i s = .next (s.bump.push i k k.active q d)) :
    (q = 2 ∨ 6 ≤ q.toNat → exec i s = .next (s.bump.trapAll k .queueFault k.active))
    ∧ (q ≠ 2 → q.toNat < 6 → 16 ≤ (k.q.getD q.toNat []).length → s.stops k i s.bump k (.queue q.toNat true))
    ∧ (q ≠ 2 → q.toNat < 6 → (k.q.getD q.toNat []).length < 16 →
      s.goesTo k i s.bump { k with q := k.q.set q.toNat (k.q.getD q.toNat [] ++ [d]) }) := by
  have hopen : q ≠ 2 → q.toNat < 6 → (q == 2 || decide (6 ≤ q.toNat)) = false := by
    intro h2 h6
    simp only [beq_false_of_ne h2, Nat.not_le.mpr h6, decide_false, Bool.or_self]
  refine ⟨fun hq => ?_, fun h2 h6 hl => stops_of_waits ho ?_, fun h2 h6 hl => goesTo_of ?_ (closedLoads_of_open ho _ _)⟩
  · rw [h, State.push, if_pos (by simpa using hq)]
  · rw [h, State.push, if_neg (by rw [hopen h2 h6]; exact Bool.false_ne_true), if_pos hl]
  · rw [h, State.push, if_neg (by rw [hopen h2 h6]; exact Bool.false_ne_true), if_neg (by omega)]

theorem exec_qpush {x : SCode} {q : BitVec 4} (hr : s.runs k (.qpush x q)) :
    exec (.qpush x q) s = .next (s.bump.push (.qpush x q) k k.active q (pair (k.sc x.toNat) (k.sc (x.toNat + 1)))) :=
  (issue_open hr (closesWindow_qpush x q) _ : execQpush x q s = _)

theorem exec_qpushS {x : SCode} {q : BitVec 4} (hr : s.runs k (.qpushS x q)) :
    exec (.qpushS x q) s = .next (s.bump.push (.qpushS x q) k k.active q ((k.sc x.toNat).zeroExtend 64)) :=
  (issue_open hr (closesWindow_qpushS x q) _ : execQpushS x q s = _)

theorem State.gathering_iff (s : State) (k : Crew) :
    s.gathering k = true ↔ ∃ c ∈ s.cmds, c.squad = k.squad ∧ c.fn ∈ [EngFn.gather, .scatter, .scatadd, .gatherq] := by
  simp [State.gathering, or_assoc]

theorem exec_qpop {q : BitVec 4} {d : SCode} (hr : s.runs k (.qpop q d)) :
    exec (.qpop q d) s = .next (
      if q != 2 then s.bump.trapAll k .queueFault k.active
      else
        match k.q.getD 2 [] with
        | [] => if s.bump.gathering k then s.bump.waits k (.queue 2 false) k.active else s.bump.trapAll k .queueFault k.active
        | x :: r => s.bump.done (.qpop q d) { (k.setS d.toNat (lo32 x)).setS (d.toNat + 1) (up32 x) with q := k.q.set 2 r } k.active) :=
  (issue_open hr (closesWindow_qpop q d) _ : execQpop q d s = _)

theorem exec_tlwait {r : Reply} {a : BitVec 6} {l : BitVec 3} (hr : s.runs k (.tlwait r a l)) :
    exec (.tlwait r a l) s = .next (
      if min (k.pr a.toNat).toNat (s.timeline k.squad l.toNat).issued.toNat ≤ (s.timeline k.squad l.toNat).done.toNat then
        (s.bump.doneReply (.tlwait r a l) k k.active r (s.timeline k.squad l.toNat).fails).acquires k
      else s.bump.waits k (.tlwait l.toNat (min (k.pr a.toNat).toNat (s.timeline k.squad l.toNat).issued.toNat) r) k.active) :=
  (issue_open hr (closesWindow_tlwait r a l) _ : execTlwait r a l s = _)

theorem exec_tlrdSt {r : Reply} {a : BitVec 6} {l : BitVec 3} (hr : s.runs k (.tlrdSt r a l)) :
    exec (.tlrdSt r a l) s = .next (s.bump.doneReply (.tlrdSt r a l) k k.active r ((s.timeline k.squad l.toNat).status (k.pr a.toNat).toNat)) :=
  (issue_open hr (closesWindow_tlrdSt r a l) _ : execTlrdSt r a l s = _)

/-- The status of a command by number: GONE outside ISSUED and its window of 64, else from the window, PENDING where it is not there yet (R297, R299). -/
theorem Timeline.status_eq (t : Timeline) (n : Nat) :
    t.status n = if n = 0 ∨ t.issued.toNat < n ∨ n + 64 ≤ t.issued.toNat then 0x81
      else ((t.window.find? fun w => w.1 == n).map fun w => w.2).getD 0x80 := by
  simp only [Timeline.status, Bool.or_eq_true, beq_iff_eq, decide_eq_true_eq, or_assoc]

end

end Sys2Proof.Machine

open Sys2Proof Sys2Proof.Machine

/-- Settles O50: each instruction of a queue or a timeline in each of its outcomes, and the events that end their waits. -/
theorem queuesAndTimelines : Obligations.QueuesAndTimelines := by
  unfold Obligations.QueuesAndTimelines
  intro s k r a l t tl A fault pushes
  refine ⟨fun x q => ⟨fun hr => ?_, fun hr => ?_⟩, fun q d hr => ?_, ?_, fun hr => ?_, ?_, fun hr => ?_, fun hr => ?_, fun hr => ?_, fun hr => ?_⟩
  · exact exec_push (closesWindow_qpush x q) (exec_qpush hr)
  · exact exec_push (closesWindow_qpushS x q) (exec_qpushS hr)
  · have h := exec_qpop hr
    have hg : s.bump.gathering k = true ↔ _ := s.gathering_iff k
    refine ⟨fun hq => ?_, fun hq he hg' => stops_of_waits (closesWindow_qpop q d) ?_,
      fun w rest hq he => goesTo_of ?_ (closedLoads_of_open (closesWindow_qpop q d) _ _)⟩
    · by_cases h2 : q = 2
      · obtain ⟨he, hn⟩ := hq.resolve_left (not_not_intro h2)
        rw [h, if_neg (by simp [h2]), he]
        simp only [if_neg (mt hg.mp hn)]
        rfl
      · rw [h, if_pos (bne_iff_ne.mpr h2)]
        rfl
    · rw [h, if_neg (by simp [hq]), he]
      simp only [if_pos (hg.mpr hg')]
      rfl
    · rw [h, if_neg (by simp [hq]), he]
      rfl
  · intro c q push hc hw hserve
    have hready : (if push then decide ((c.q.getD q []).length < 16) else (c.q.getD q []).length != 0 || !s.gathering c) = true := by
      cases push <;> simpa using hserve
    change Host.Outcome.next _ = _
    simp only [hc, hw, if_pos hready]
  · have h := exec_tlwait hr
    refine ⟨fun hm => ?_, fun hm => stops_of_waits (closesWindow_tlwait r a l) ?_⟩
    · rw [if_pos hm] at h
      obtain ⟨hcore, hrep, -, hthreads⟩ := k.reply_frame r tl.fails
      refine ⟨_, ?_, h⟩
      rw [hcore]
      exact Crew.advance_open (closesWindow_tlwait r a l) _ hrep hthreads
    · rw [h, if_neg (Nat.not_le.mpr hm)]
  · intro c j m hc hw hm
    change Host.Outcome.next _ = _
    simp only [hc, hw, if_pos hm]
  · have h := exec_tlrdSt hr
    rw [Timeline.status_eq] at h
    exact goesTo_of_doneReply (closesWindow_tlrdSt r a l) h
  · exact goesTo_of_doneReply (closesWindow_tlrdIssued r l) (issue_open hr (closesWindow_tlrdIssued r l) _ : execTlrdIssued r l s = _)
  · exact goesTo_of_doneReply (closesWindow_tlrdDone r l) (issue_open hr (closesWindow_tlrdDone r l) _ : execTlrdDone r l s = _)
  · exact goesTo_of_doneReply (closesWindow_tlrdFails r l) (issue_open hr (closesWindow_tlrdFails r l) _ : execTlrdFails r l s = _)
end

section
/-! The regions a crew's threads are in, at an instruction that retires their slots (spec/13_approx.md R362): what it leaves of the crew and the state. -/

namespace Sys2Proof.Machine

/-- Crew m is crew k but for marks of its threads that no issue reads: their places and yields are k's. -/
def Crew.standsAs (m k : Crew) : Prop :=
  m = { k with threads := m.threads } ∧ ∀ l, (m.thread l).pcv = (k.thread l).pcv ∧ (m.thread l).yex = (k.thread l).yex

theorem Crew.standsAs_refl (k : Crew) : k.standsAs k := ⟨rfl, fun _ => ⟨rfl, rfl⟩⟩

theorem Crew.thread_dropRec (m : Crew) (j l : Nat) : (m.mapT fun _ t => t.dropRec j).thread l = (m.thread l).dropRec j := by
  by_cases h : l < m.threads.length
  · exact Crew.thread_mapT m _ h
  · simp only [Crew.thread, List.getD_eq_default _ _ (Nat.not_lt.mp h), Crew.mapT, List.getD_eq_default _ _ (List.length_mapIdx ▸ Nat.not_lt.mp h)]
    rfl

theorem Crew.standsAs.dropRec {m k : Crew} (h : m.standsAs k) (j : Nat) : (m.mapT fun _ t => t.dropRec j).standsAs k := by
  obtain ⟨hm, ht⟩ := h
  refine ⟨?_, fun l => ?_⟩
  · generalize m.threads = ths at hm
    subst hm
    rfl
  · rw [Crew.thread_dropRec]
    exact ht l

/-- What a fold of steps that each leave the clock regions leaves. -/
theorem State.foldl_regions {α : Type} {f : State → α → State} (hf : ∀ s a, (f s a).regions = s.regions) (l : List α) (s : State) :
    (l.foldl f s).regions = s.regions :=
  List.foldlRecOn (motive := fun t => t.regions = s.regions) l f rfl fun t ht a _ => (hf t a).trans ht

theorem State.unwatch_regions (s : State) (die : Nat) (lines : List Nat) : (s.unwatch die lines).regions = s.regions :=
  State.foldl_regions (fun _ _ => State.setDir_regions _ _) _ s

theorem State.ergGo_regions (s : State) (e : ErgSlot) (st : ErgState) : (s.ergGo e st).regions = s.regions := by
  unfold State.ergGo
  dsimp only
  split
  · exact State.unwatch_regions _ _ _
  · rfl

/-- The crew keeps its place where slots of its threads are retired, and no clock moves (R362). -/
theorem State.impure_frame (s : State) (k : Crew) (act : Lanes) :
    (s.impure k act).1.regions = s.regions ∧ (s.impure k act).2.standsAs k := by
  unfold State.impure
  refine List.foldlRecOn _ _ (motive := fun x : State × Crew => x.1.regions = s.regions ∧ x.2.standsAs k) ⟨rfl, k.standsAs_refl⟩ ?_
  rintro x ⟨hs, hk⟩ j -
  dsimp only
  split
  · exact ⟨(State.ergGo_regions _ _ _).trans hs, hk.dropRec j⟩
  · exact ⟨hs, hk⟩

/-- Threads outside every region retire nothing (R362). -/
theorem State.impure_of_outside (s : State) {k : Crew} {act : Lanes} (h : ∀ l < 32, act.getLsbD l = true → (k.thread l).inreg = none) :
    s.impure k act = (s, k) := by
  have : (laneList act).filterMap (fun l => ((k.thread l).inreg).map (·.slot)) = [] := by
    rw [List.filterMap_eq_nil_iff]
    intro l hl
    obtain ⟨hr, ha⟩ := List.mem_filter.mp hl
    rw [h l (List.mem_range.mp hr) ha]
    rfl
  simp [State.impure, this]

end Sys2Proof.Machine
end

section
/-! Engine commands at issue (spec/11_engines.md R293): what takes a command, what holds it back, and the entries it takes. -/

namespace Sys2Proof.Machine

/-- The place of a command's engine: a die, the hub, or the engine of the link it names (R15). -/
theorem EngFn.at_eq (fn : EngFn) (core : Nat) (x : DWord) :
    fn.at_ core x = if fn ∈ [EngFn.ease, .wake] then 5 + x.toNat % 32
      else if fn ∈ [EngFn.allred, .redscat, .allgath, .barrier] then 4 else core / 80 := by
  cases fn <;> rfl

theorem Crew.await_frame (m : Crew) (r : Reply) : m.await r = { m with sb := (m.await r).sb } := by
  unfold Crew.await
  split <;> rfl

theorem Crew.standsAs.await_core {m k : Crew} (h : m.standsAs k) (r : Reply) : (m.await r).core = k.core := by
  rw [m.await_frame r]
  exact (congrArg Crew.core h.1).trans rfl

/-- A crew that awaits its reply, its queue shorter, moves on. -/
theorem Crew.standsAs.advance {m k : Crew} (h : m.standsAs k) {i : Instr} (ho : closesWindow i = false) (r : Reply) (q : List (List DWord)) (now : Nat) :
    k.movedFrom { m.await r with q := q } (({ m.await r with q := q } : Crew).advance i k.active now) i now := by
  obtain ⟨hm, ht⟩ := h
  rw [m.await_frame r]
  exact Crew.advance_from k _ i now (by rw [hm]) (closedLoads_of_open ho _ _) fun l _ => ht l

section
variable {s : State} {k : Crew} {i : Instr} {fn : EngFn} {e : BitVec 1} {l : BitVec 3} {r : Reply} {x y : DWord} {q n : Nat}

theorem State.command_of_held (hc : s.cmdHeld k = true) : s.command i k k.active fn e l r x y q n = s := by
  simp only [State.command, hc, if_true]

theorem State.command_of_few (hc : s.cmdHeld k = false) (hn : (k.q.getD q []).length < n) :
    s.command i k k.active fn e l r x y q n = s.trapAll k .queueFault k.active := by
  simp only [State.command, hc, Bool.false_eq_true, if_false, hn, if_true]

theorem State.command_of_full (hc : s.cmdHeld k = false) (hn : n ≤ (k.q.getD q []).length) (hb : s.bufferFull fn k.core x = true) :
    s.command i k k.active fn e l r x y q n = s.waits k (.room (.engine (fn.at_ k.core x) fn.unit)) k.active := by
  simp only [State.command, hc, Bool.false_eq_true, if_false, Nat.not_lt.mpr hn, hb, if_true]

theorem State.command_of_room (hc : s.cmdHeld k = false) (hn : n ≤ (k.q.getD q []).length) (hb : s.bufferFull fn k.core x = false) :
    s.command i k k.active fn e l r x y q n =
      let z := (if e == 1 then s.releases k false else s).impure k k.active
      let u := z.1.done i { z.2.await r with q := k.q.set q ((k.q.getD q []).drop n) } k.active
      { u.bump with cmds := u.cmds ++ [s.newCmd k fn e l r x y ((k.q.getD q []).take n)] } := by
  simp only [State.command, hc, Bool.false_eq_true, if_false, Nat.not_lt.mpr hn, hb]

/-- An engine command in its four outcomes (R57, R228, R293): held back by one of the crew not yet accepted, QUEUE_FAULT for too few entries, a wait for
room in the engine's input buffer, and the command on its way with its entries. -/
theorem exec_command (hx : exec i s = .next (s.bump.command i k k.active fn e l r x y q n)) (ho : closesWindow i = false) :
    let t := s.bump
    let es := k.q.getD q []
    (t.cmdHeld k = true → exec i s = .next t)
    ∧ (t.cmdHeld k = false → es.length < n → exec i s = .next (t.trapAll k .queueFault k.active))
    ∧ (t.cmdHeld k = false → n ≤ es.length → t.bufferFull fn k.core x = true → s.stops k i t k (.room (.engine (fn.at_ k.core x) fn.unit)))
    ∧ (t.cmdHeld k = false → n ≤ es.length → t.bufferFull fn k.core x = false → ∃ (u : State) (m k' : Crew),
      let v := if e == 1 then t.releases k false else t
      v.impure k k.active = (u, m)
      ∧ ((∀ l < 32, k.active.getLsbD l = true → (k.thread l).inreg = none) → u = v ∧ m = k)
      ∧ k.movedFrom { m.await r with q := k.q.set q (es.drop n) } k' i (s.cycles k.core).toNat
      ∧ ∃ w, exec i s = .next w ∧ w = { u.setCrew k' with fresh := u.fresh + 1, cmds := u.cmds ++ [t.newCmd k fn e l r x y (es.take n)] }) := by
  intro t es
  refine ⟨fun hc => ?_, fun hc hn => ?_, fun hc hn hb => stops_of_waits ho ?_, fun hc hn hb => ?_⟩
  · rw [hx, State.command_of_held hc]
  · rw [hx, State.command_of_few hc hn]
  · rw [hx, State.command_of_full hc hn hb]
  · obtain ⟨u, m, hz⟩ : ∃ u m, (if e == 1 then t.releases k false else t).impure k k.active = (u, m) := ⟨_, _, rfl⟩
    obtain ⟨hu, hm⟩ := State.impure_frame (if e == 1 then t.releases k false else t) k k.active
    rw [hz] at hu hm
    have hnow : (u.cycles (m.await r).core).toNat = (s.cycles k.core).toNat := by
      rw [hm.await_core r, State.cycles, State.region, hu]
      split <;> rfl
    rw [State.command_of_room hc hn hb, hz] at hx
    refine ⟨u, m, _, hz, fun h => ?_, hm.advance ho r _ _, _, hx, ?_⟩
    · rw [State.impure_of_outside _ h] at hz
      exact ⟨(Prod.mk.inj hz).1.symm, (Prod.mk.inj hz).2.symm⟩
    · rw [← hnow]
      rfl

end

end Sys2Proof.Machine

open Sys2Proof Sys2Proof.Machine

/-- Settles O48: every engine command is one command with its function, operands and queue. -/
theorem engineCommands : Obligations.EngineCommands := by
  unfold Obligations.EngineCommands
  intro s k r b a e l t A B place issues
  have issues_of {i : Instr} {fn : EngFn} {e : BitVec 1} (x y : Crew → DWord) {q n : Nat}
      (hx : exec i s = issue i s fun s k act => s.command i k act fn e l r (x k) (y k) q n)
      (hm : encodeNat i / 2 % 128 ∈ List.range' 0x58 8) : issues i fn (e == 1) (x k) (y k) q n := by
    intro hr
    have h := exec_command (hx.trans (issue_open hr (closesWindow_of_engine hm) _)) (closesWindow_of_engine hm)
    rw [EngFn.at_eq] at h
    exact h
  let opA (k : Crew) : DWord := k.pr a.toNat
  let opB (k : Crew) : DWord := k.pr b.toNat
  refine ⟨?_, ?_, ?_, ?_, ?_, ?_, ?_, ?_, ?_, ?_, ?_, ?_, ?_, ?_, ?_, ?_⟩
  · exact issues_of opA opB rfl (by simp [encodeNat, put_major])
  · exact issues_of opA opB rfl (by simp [encodeNat, put_major])
  · exact issues_of opA opB rfl (by simp [encodeNat, put_major])
  · exact issues_of opA opB rfl (by simp [encodeNat, put_major])
  · exact issues_of opA opB rfl (by simp [encodeNat, put_major])
  · exact issues_of opA opB rfl (by simp [encodeNat, put_major])
  · exact issues_of opA opB rfl (by simp [encodeNat, put_major])
  · exact issues_of opA opB rfl (by simp [encodeNat, put_major])
  · exact issues_of opA opB rfl (by simp [encodeNat, put_major])
  · exact issues_of (fun _ => 0) opB rfl (by simp [encodeNat, put_major])
  · exact issues_of opA opB rfl (by simp [encodeNat, put_major])
  · exact issues_of opA opB rfl (by simp [encodeNat, put_major])
  · exact issues_of opA opB rfl (by simp [encodeNat, put_major])
  · exact issues_of opA (fun _ => 0) rfl (by simp [encodeNat, put_major])
  · exact issues_of (e := 0) opA opB rfl (by simp [encodeNat, put_major])
  · exact issues_of (e := 0) opA opB rfl (by simp [encodeNat, put_major])
end

section
/-! An instruction that may close lookahead windows first (spec/02_encoding.md R39): its crew and its state as it enters. -/

namespace Sys2Proof.Machine

/-- Closing windows leaves a crew as it is but for its threads' windows and its loads. -/
theorem Crew.entering_frame (k : Crew) (i : Instr) :
    k.entering i = { k with threads := (k.entering i).threads, loads := (k.entering i).loads } := by
  unfold Crew.entering Crew.closeWin
  split <;> rfl

theorem Crew.entering_threads (k : Crew) (i : Instr) :
    (k.entering i).threads.length = k.threads.length
    ∧ ∀ l < k.threads.length, (k.entering i).thread l = { k.thread l with win := ((k.entering i).thread l).win } := by
  have hmap (l : Nat) (hl : l < k.threads.length) : (k.mapT fun n t => if k.active.getLsbD n then t.endWin else t).thread l
      = if k.active.getLsbD l then (k.thread l).endWin else k.thread l := Crew.thread_mapT k _ hl
  unfold Crew.entering Crew.closeWin
  split
  · refine ⟨Crew.mapT_length k _, fun l hl => ?_⟩
    change (k.mapT fun n t => if k.active.getLsbD n then t.endWin else t).thread l
      = { k.thread l with win := ((k.mapT fun n t => if k.active.getLsbD n then t.endWin else t).thread l).win }
    rw [hmap l hl]
    split <;> rfl
  · exact ⟨rfl, fun _ _ => rfl⟩

/-- The crew's next state takes the place of the one it entered with. -/
theorem State.entering_setCrew (s : State) {k c : Crew} (i : Instr) (h : c.id = k.id) : (s.entering k i).setCrew c = s.bump.setCrew c := by
  unfold State.entering State.closed
  split
  · have hid : (k.closeWin i k.active).id = c.id := h ▸ (congrArg Crew.id (k.entering_frame i)).trans rfl
    exact (State.setCrew_setCrew (s := s.bump) hid)
  · rfl

/-- The checks of an access do not read windows (R196). -/
theorem State.check_entering (s : State) (k : Crew) (i : Instr) (acc : Acc) (align n va : Nat) :
    (s.entering k i).check (k.entering i) acc align n va = s.bump.check k acc align n va := by
  rw [k.entering_frame i]
  unfold State.entering State.closed
  split <;> rfl

theorem State.cycles_entering (s : State) (k : Crew) (i : Instr) (core : Nat) : (s.entering k i).cycles core = s.cycles core := by
  unfold State.entering State.closed
  split <;> rfl

end Sys2Proof.Machine
end

section
/-! WAITC at issue (spec/04_work.md R104). -/

namespace Sys2Proof.Machine

/-- Crew k with a WAITC pending and its reply pair scoreboarded (R33, R104). -/
def Crew.pending (k : Crew) (r : Reply) (on : WaitcOn) : Crew := { k.await r with waitc := k.waitc ++ [⟨on, r⟩] }

theorem Crew.pending_frame (k : Crew) (r : Reply) (on : WaitcOn) :
    k.pending r on = { k with sb := (k.pending r on).sb, waitc := k.waitc ++ [⟨on, r⟩] } := by
  rw [Crew.pending, Crew.await_frame]

theorem Crew.pending_entering (k : Crew) (i : Instr) (r : Reply) (on : WaitcOn) :
    (k.entering i).pending r on = { k.pending r on with threads := (k.entering i).threads, loads := (k.entering i).loads } := by
  rw [k.entering_frame i]
  unfold Crew.pending Crew.await
  split <;> rfl

/-- The crew goes on with its WAITC pending. -/
theorem Crew.pending_moved (k : Crew) (i : Instr) (r : Reply) (on : WaitcOn) (now : Nat) :
    k.movedFrom (k.pending r on) (((k.entering i).pending r on).advance i k.active now) i now := by
  obtain ⟨hlen, hthread⟩ := k.entering_threads i
  have hp := k.pending_entering i r on
  have hthreads : ((k.entering i).pending r on).threads = (k.entering i).threads := by rw [hp]
  have hloads : ((k.entering i).pending r on).loads = closedLoads i k.active k.loads := by rw [hp]; exact k.entering_loads i
  have hpending : (k.pending r on).threads = k.threads ∧ (k.pending r on).loads = k.loads ∧ (k.pending r on).rep = k.rep := by
    rw [k.pending_frame r on]
    exact ⟨rfl, rfl, rfl⟩
  obtain ⟨hpt, hpl, hpr⟩ := hpending
  have ht (l : Nat) (hl : l < k.threads.length) :
      ((k.entering i).pending r on).thread l = { (k.pending r on).thread l with win := (((k.entering i).pending r on).thread l).win } := by
    have h := hthread l hl
    unfold Crew.thread at h ⊢
    rw [hthreads, hpt]
    exact h
  refine Crew.movedFrom_congr (c := (k.entering i).pending r on) (Crew.advance_from k _ i now ?_ ?_ fun l hl => ?_) ?_ ?_ ?_ ?_
  · rw [hp]; exact hpr
  · rw [hloads, closedLoads_idem]
  · rw [hthreads, hlen] at hl
    rw [ht l hl]
    unfold Crew.thread
    rw [hpt]
    exact ⟨rfl, rfl⟩
  · rw [hthreads, hloads, hp, k.entering_loads i]
  · rw [hloads, hpl, Crew.loadsAfter_closed]
  · rw [hthreads, hpt, hlen]
  · intro l hl
    rw [hpt] at hl
    exact ht l hl

/-- A WAITC that has entered pending completes for its crew at once. -/
theorem State.pending_done (s : State) (k : Crew) (i : Instr) (r : Reply) (on : WaitcOn) :
    ∃ k', (s.entering k i).done i ((k.entering i).pending r on) k.active = s.bump.setCrew k'
      ∧ k.movedFrom (k.pending r on) k' i (s.cycles k.core).toNat := by
  have hc : ((k.entering i).pending r on).core = k.core ∧ ((k.entering i).pending r on).id = k.id := by
    rw [Crew.pending_frame, Crew.entering_frame]
    exact ⟨rfl, rfl⟩
  refine ⟨_, ?_, k.pending_moved i r on _⟩
  rw [State.done, hc.1, State.cycles_entering]
  exact State.entering_setCrew s i ((Crew.advance_id _ _ _ _).trans hc.2)

/-- The addresses of the spill window that are aligned to a counter (R104, R175). -/
def inSpill (va : Nat) : Prop := va % 8 = 0 ∧ 0xFFF800000000 ≤ va ∧ va < 0xFFFC00000000

theorem State.waitcAt_of_spill {s : State} {k : Crew} {va : Nat} (h : inSpill va) : s.waitcAt k va = .error .farAccess := by
  obtain ⟨halign, hlo, hhi⟩ := h
  simp [State.waitcAt, halign, Config.spillBase, hlo, Config.skmBase, hhi]

theorem State.waitcAt_of_not_spill {s : State} {k : Crew} {va : Nat} (h : ¬ inSpill va) : s.waitcAt k va = s.check k .load 8 8 va := by
  rw [State.waitcAt, if_neg]
  simp only [Bool.and_eq_true, beq_iff_eq, decide_eq_true_eq, and_assoc]
  exact h

/-- An aligned address of the spill window that passes the checks of a load lies in the spill (R175, R196). -/
theorem State.check_of_spill {s : State} {k : Crew} {va : Nat} (h : inSpill va) {x : Loc} (hx : s.check k .load 8 8 va = .ok x) :
    x = .spill (va - 0xFFF800000000) := by
  obtain ⟨halign, hlo, hhi⟩ := h
  have hcheck : s.check k .load 8 8 va =
      if va - 0xFFF800000000 + 8 ≤ k.spillLen then .ok (.spill (va - 0xFFF800000000)) else .error .prot := by
    have h48 : ¬ 2 ^ 48 ≤ va := by omega
    have h47 : ¬ va < 2 ^ 47 := by omega
    have hsquad : ¬ va < Config.squadBase := by unfold Config.squadBase; omega
    have hspill : ¬ va < Config.spillBase := Nat.not_lt.mpr hlo
    have hskm : va < Config.skmBase := hhi
    unfold State.check
    rw [if_neg (by simp [halign]), if_neg h48, if_neg h47, if_neg hsquad, if_neg hspill, if_pos hskm, if_neg (by decide)]
    rfl
  rw [hcheck] at hx
  split at hx
  · exact (Except.ok.inj hx).symm
  · cases hx

theorem State.waitcAt_of_ok {s : State} {k : Crew} {va : Nat} {x : Loc} (hx : s.check k .load 8 8 va = .ok x) (hs : ∀ off, x ≠ .spill off) :
    s.waitcAt k va = .ok x :=
  (State.waitcAt_of_not_spill fun h => hs _ (State.check_of_spill h hx)).trans hx

theorem Crew.entering_pr (k : Crew) (i : Instr) (n : Nat) : (k.entering i).pr n = k.pr n := by
  rw [k.entering_frame i]
  rfl

/-- What a WAITC waits on, by the place of its counter (R104). -/
def Loc.waitcOn (target : Nat) : Loc → Option WaitcOn
  | .deck off => some (.deck off target)
  | .squad off => some (.squad off target)
  | .skm off => some (.skm off target)
  | .spill _ => none

section
variable {s : State} {k : Crew} {r : Reply} {b a : BitVec 6}

/-- The counter form: it pends on a counter that its checks find, and traps as they say (R104). -/
theorem exec_waitcCounter (hr : s.runs k (.waitcCounter r b a)) :
    exec (.waitcCounter r b a) s = .next (
      let i : Instr := .waitcCounter r b a
      let trap (c : Cause) : State := (s.entering k i).trapAt (k.entering i) c k.active (k.pr a.toNat).toNat
      match (s.entering k i).waitcAt (k.entering i) (k.pr a.toNat).toNat with
      | .error c => trap c
      | .ok x =>
        match x.waitcOn (k.pr b.toNat).toNat with
        | some on => ((s.entering k i).done i ((k.entering i).pending r on) k.active).pollWaitc
        | none => trap .farAccess) := by
  have h : exec (.waitcCounter r b a) s = _ := (issue_runs hr _ : execWaitcCounter r b a s = _)
  simp only [Crew.entering_pr] at h
  rw [h]
  dsimp only
  cases (s.entering k (.waitcCounter r b a)).waitcAt (k.entering (.waitcCounter r b a)) (k.pr a.toNat).toNat with
  | error c => rfl
  | ok x => cases x <;> rfl

theorem exec_waitcHandle (hr : s.runs k (.waitcHandle r a)) :
    exec (.waitcHandle r a) s = .next (((s.entering k (.waitcHandle r a)).done (.waitcHandle r a)
      ((k.entering (.waitcHandle r a)).pending r (.handle (k.pr a.toNat))) k.active).pollWaitc) := by
  have h : exec (.waitcHandle r a) s = _ := (issue_runs hr _ : execWaitcHandle r a s = _)
  rw [Crew.entering_pr] at h
  exact h

/-- A counter in a place that R104 names is waited on. -/
theorem exec_waitcCounter_of_check (hr : s.runs k (.waitcCounter r b a)) {x : Loc} {on : WaitcOn}
    (hx : s.bump.check k .load 8 8 (k.pr a.toNat).toNat = .ok x) (hon : x.waitcOn (k.pr b.toNat).toNat = some on) :
    ∃ k', exec (.waitcCounter r b a) s = .next (s.bump.setCrew k').pollWaitc
      ∧ k.movedFrom (k.pending r on) k' (.waitcCounter r b a) (s.cycles k.core).toNat := by
  have hspill : ∀ off, x ≠ .spill off := by
    rintro off rfl
    cases hon
  rw [← State.check_entering s k (.waitcCounter r b a)] at hx
  obtain ⟨k', hdone, hmoved⟩ := s.pending_done k (.waitcCounter r b a) r on
  refine ⟨k', ?_, hmoved⟩
  rw [exec_waitcCounter hr]
  simp only [State.waitcAt_of_ok hx hspill, hon, hdone]

theorem exec_waitcCounter_of_trap (hr : s.runs k (.waitcCounter r b a)) {c : Cause}
    (hc : (s.entering k (.waitcCounter r b a)).waitcAt (k.entering (.waitcCounter r b a)) (k.pr a.toNat).toNat = .error c) :
    exec (.waitcCounter r b a) s
      = .next ((s.entering k (.waitcCounter r b a)).trapAt (k.entering (.waitcCounter r b a)) c k.active (k.pr a.toNat).toNat) := by
  rw [exec_waitcCounter hr]
  simp only [hc]

end

end Sys2Proof.Machine

open Sys2Proof Sys2Proof.Machine

/-- Settles O26: WAITC pends by what its checks find; the windows it closes change neither the checks nor what its crew goes on with. -/
theorem waitcCompletes : Obligations.WaitcCompletes := by
  unfold Obligations.WaitcCompletes
  intro s k r b a va target now spill pending traps
  refine ⟨fun hr => ⟨fun off hx => ?_, fun off hx => ?_, fun off hx => ?_, fun c hs hx => ?_, fun hs => ?_⟩, fun hr => ?_⟩
  · exact exec_waitcCounter_of_check hr hx rfl
  · exact exec_waitcCounter_of_check hr hx rfl
  · exact exec_waitcCounter_of_check hr hx rfl
  · exact exec_waitcCounter_of_trap hr ((State.waitcAt_of_not_spill hs).trans ((s.check_entering k _ _ _ _ _).trans hx))
  · exact exec_waitcCounter_of_trap hr (State.waitcAt_of_spill hs)
  · obtain ⟨k', hdone, hmoved⟩ := s.pending_done k (.waitcHandle r a) r (.handle (k.pr a.toNat))
    exact ⟨k', (exec_waitcHandle hr).trans (by rw [hdone]), hmoved⟩
end

section
/-! The issue address of a crew and the threads that may execute (spec/03_control.md R60, R44). -/

namespace Sys2Proof.Machine

theorem Crew.issueAddr_eq_some_iff (k : Crew) (a : Nat) : k.issueAddr = some a ↔
    (∃ l < 32, k.eligible l = true ∧ (k.thread l).pcv.toNat = a) ∧ ∀ l < 32, k.eligible l = true → a ≤ (k.thread l).pcv.toNat := by
  have least : (∀ b l, l < 32 → k.eligible l = true → (k.thread l).pcv.toNat = b → a ≤ b) ↔
      ∀ l < 32, k.eligible l = true → a ≤ (k.thread l).pcv.toNat :=
    ⟨fun h l hl he => h _ l hl he rfl, fun h b l hl he hb => hb ▸ h l hl he⟩
  simp [Crew.issueAddr, List.min?_eq_some_iff, and_assoc, least]

theorem Crew.issueAddr_eq_none_iff (k : Crew) : k.issueAddr = none ↔ ∀ l < 32, k.eligible l = false := by
  simp [Crew.issueAddr, List.min?_eq_none_iff]

/-- ACTIVE without the guard: the eligible threads at the issue address (R8, R60). -/
theorem Crew.getLsbD_active (k : Crew) {l : Nat} (hl : l < 32) :
    k.active.getLsbD l = true ↔ k.eligible l = true ∧ k.issueAddr = some (k.thread l).pcv.toNat := by
  unfold Crew.active
  cases k.issueAddr with
  | none => simp
  | some a =>
    simp only [getLsbD_laneSet _ hl, Bool.and_eq_true, beq_iff_eq, Option.some.injEq]
    exact and_congr_right fun _ => eq_comm

/-- Where no signature holds a thread, R60 and the set that a REP has fixed decide (R44, R274). -/
theorem Crew.eligible_of_unheld {k : Crew} (hk : k.held = 0) (l : Nat) :
    k.eligible l = true ↔ (k.thread l).live = true ∧
      match k.rep.fixed with
      | none => (k.thread l).yex = false ∧ (k.thread l).rwait = false
      | some set => set.getLsbD l = true := by
  unfold Crew.eligible Thread.eligible
  cases k.rep.fixed <;> simp [hk, and_comm, and_assoc]

end Sys2Proof.Machine

open Sys2Proof Sys2Proof.Machine

/-- Settles O4: without held threads the model's eligible threads are those of R60 and R44, and the issue address is their least. -/
theorem issueAddress : Obligations.IssueAddress := by
  unfold Obligations.IssueAddress
  intro k hk eligible
  have heligible (l : Nat) : eligible l ↔ l < 32 ∧ k.eligible l = true := and_congr_right fun _ => (k.eligible_of_unheld hk l).symm
  simp only [heligible]
  refine ⟨fun a => ?_, ?_, fun l hl => ?_⟩
  · simp only [k.issueAddr_eq_some_iff, and_assoc, and_imp]
  · simp only [k.issueAddr_eq_none_iff, not_and, Bool.not_eq_true]
  · simp only [k.getLsbD_active hl, hl, true_and]
end

section
/-! Lookahead windows that an instruction closes as it enters (spec/02_encoding.md R39): what such a crew keeps. -/

namespace Sys2Proof.Machine

/-- Crew m is crew k with the windows that instruction i of the threads of act closes ended, in its threads and in its loads (R39). -/
def Crew.closedFrom (m k : Crew) (i : Instr) (act : Lanes) : Prop :=
  m = { k with threads := m.threads, loads := closedLoads i act k.loads }
    ∧ m.threads.length = k.threads.length
    ∧ ∀ l, m.thread l = { k.thread l with win := (m.thread l).win }

theorem Crew.thread_of_le {k : Crew} {l : Nat} (h : k.threads.length ≤ l) : k.thread l = Thread.none := List.getD_eq_default _ _ h

theorem Crew.entering_closedFrom (k : Crew) (i : Instr) : (k.entering i).closedFrom k i k.active := by
  obtain ⟨hlen, hthread⟩ := k.entering_threads i
  refine ⟨k.entering_loads i ▸ k.entering_frame i, hlen, fun l => ?_⟩
  by_cases hl : l < k.threads.length
  · exact hthread l hl
  · have hl := Nat.not_lt.mp hl
    rw [Crew.thread_of_le hl, Crew.thread_of_le (hlen ▸ hl)]

namespace Crew.closedFrom
variable {m k : Crew} {i : Instr} {act : Lanes}

theorem length (h : m.closedFrom k i act) : m.threads.length = k.threads.length := h.2.1

theorem thread (h : m.closedFrom k i act) (l : Nat) : m.thread l = { k.thread l with win := (m.thread l).win } := h.2.2 l

theorem loads (h : m.closedFrom k i act) : m.loads = closedLoads i act k.loads := by
  obtain ⟨hm, -, -⟩ := h
  rw [hm]

theorem frame (h : m.closedFrom k i act) : m = { k with threads := m.threads, loads := m.loads } := by
  rw [h.loads]
  exact h.1

/-- A change of the threads that leaves their windows aside keeps the relation. -/
theorem mapT (h : m.closedFrom k i act) {f : Nat → Thread → Thread} (hf : ∀ l t w, f l { t with win := w } = { f l t with win := w }) :
    (m.mapT f).closedFrom (k.mapT f) i act := by
  obtain ⟨hm, hlen, hthread⟩ := h
  refine ⟨?_, by simp [hlen], fun l => ?_⟩
  · generalize m.threads = ths at hm
    subst hm
    rfl
  · by_cases hl : l < k.threads.length
    · rw [Crew.thread_mapT _ _ hl, Crew.thread_mapT _ _ (hlen ▸ hl), hthread l, hf]
    · have hl := Nat.not_lt.mp hl
      rw [Crew.thread_of_le (k := k.mapT f) (by simpa using hl), Crew.thread_of_le (by simpa [hlen] using hl)]

theorem setSpill (h : m.closedFrom k i act) (g : Region) : ({ m with spill := g } : Crew).closedFrom { k with spill := g } i act := by
  obtain ⟨hm, hlen, hthread⟩ := h
  refine ⟨?_, hlen, hthread⟩
  generalize m.threads = ths at hm
  subst hm
  rfl

theorem eligible (h : m.closedFrom k i act) (l : Nat) : m.eligible l = k.eligible l := by
  unfold Crew.eligible
  rw [h.thread l, h.frame]
  rfl

theorem issueAddr (h : m.closedFrom k i act) : m.issueAddr = k.issueAddr := by
  unfold Crew.issueAddr
  have heligible : m.eligible = k.eligible := funext h.eligible
  have hpcv : (fun l => (m.thread l).pcv.toNat) = fun l => (k.thread l).pcv.toNat := funext fun l => by rw [h.thread l]
  rw [heligible, hpcv]

theorem pc (h : m.closedFrom k i act) : m.pc = k.pc := by rw [Crew.pc, h.issueAddr]; rfl

theorem guarded (h : m.closedFrom k i act) (on : Lanes) (g : Guard) : m.guarded on g = k.guarded on g := by
  have hp : (fun l => on.getLsbD l && (m.thread l).p.getLsbD g.toNat) = fun l => on.getLsbD l && (k.thread l).p.getLsbD g.toNat :=
    funext fun l => by rw [h.thread l]
  unfold Crew.guarded
  rw [hp]

theorem vnum (h : m.closedFrom k i act) (f : RepField) (code : VCode) : m.vnum f code = k.vnum f code := by
  rw [h.frame]
  rfl

theorem sc (h : m.closedFrom k i act) (n : Nat) : m.sc n = k.sc n := by
  rw [h.frame]
  rfl

end Crew.closedFrom

/-- A thread whose windows are over reads its registers as they stand (R40). -/
theorem Thread.val_endWin (t : Thread) (lane r : Nat) : t.endWin.val lane r = t.v.getD r 0 := by
  have hleft (e : LookEntry) (he : e ∈ t.endWin.win) : e.left = 0 := by
    obtain ⟨x, -, rfl⟩ := List.mem_map.mp (List.mem_filter.mp he).1
    rfl
  refine List.foldlRecOn (motive := (· = t.v.getD r 0)) t.endWin.win _ rfl fun w hw e he => ?_
  simp [hw, hleft e he]

/-- Inside a closing instruction its threads read their registers as they stand (R39, R40). -/
theorem Crew.entering_val (k : Crew) {i : Instr} (hi : closesWindow i = true) {l : Nat} (hl : k.active.getLsbD l = true) (r : Nat) :
    ((k.entering i).thread l).val l r = k.reg l r := by
  by_cases hlen : l < k.threads.length
  · have hthread : (k.entering i).thread l = (k.thread l).endWin := by
      unfold Crew.entering Crew.closeWin
      rw [if_pos hi]
      exact (Crew.thread_mapT k _ hlen).trans (if_pos hl)
    rw [hthread, Thread.val_endWin]
    rfl
  · have hlen := Nat.not_lt.mp hlen
    rw [Crew.thread_of_le ((k.entering_closedFrom i).length ▸ hlen), Crew.reg, Crew.thread_of_le hlen]
    rfl

theorem State.fetch32_entering (s : State) (k : Crew) (i : Instr) (va : Nat) :
    (s.entering k i).fetch32 (k.entering i) va = s.bump.fetch32 k va := by
  rw [k.entering_frame i]
  unfold State.entering State.closed
  split <;> rfl

/-- A translation that the caches learn does not touch the crews (R190). -/
theorem State.learn_setCrew (s : State) (c : Crew) (core : Nat) (asid : BitVec 12) (va : Nat) :
    (s.setCrew c).learn core asid va = (s.learn core asid va).setCrew c := by
  have htranslate : (s.setCrew c).translate core asid va = s.translate core asid va := rfl
  unfold State.learn
  rw [htranslate]
  split <;> rfl

theorem State.learn_entering_setCrew (s : State) {k c : Crew} (i : Instr) (core : Nat) (asid : BitVec 12) (va : Nat) (h : c.id = k.id) :
    ((s.entering k i).learn core asid va).setCrew c = (s.bump.learn core asid va).setCrew c := by
  rw [← State.learn_setCrew, State.entering_setCrew s i h, State.learn_setCrew]

theorem State.cycles_learn (s : State) (c core : Nat) (asid : BitVec 12) (va : Nat) : (s.learn core asid va).cycles c = s.cycles c := by
  unfold State.learn
  split <;> rfl

end Sys2Proof.Machine
end

section
/-! The end of a control instruction (spec/03_control.md R73): threads that stand at their targets, or a trap where every thread has a cause. -/

namespace Sys2Proof.Machine

/-- A control instruction without marks, from the crew and the state as it found them: m is c with the windows closed that i closes. -/
theorem transfers_of_closed {s t u : State} {k c m : Crew} {i : Instr} {tgt tgt' : Nat → Nat}
    (h : exec i s = .next (u.control i (k.entering i) m k.active tgt' []))
    (hm : m.closedFrom c i k.active)
    (hu : ∀ x : Crew, x.id = c.id → u.setCrew x = t.setCrew x) (hnow : u.cycles k.core = t.cycles k.core)
    (htgt : ∀ l, k.active.getLsbD l = true → tgt' l = tgt l)
    (hc : c.rep = k.rep ∧ ∀ l, (c.thread l).pcv = (k.thread l).pcv ∧ (c.thread l).yex = (k.thread l).yex) :
    s.transfers k i t c tgt := by
  obtain ⟨hrep, hplace⟩ := hc
  have hcore : (k.entering i).core = k.core := by rw [k.entering_frame i]
  have hpc : (k.entering i).pc = k.pc := (k.entering_closedFrom i).pc
  have hcontrol : exec i s = .next (u.control i k m k.active tgt' []) := by rw [h, State.control, State.control, hcore, hpc]
  have hloads := hm.loads
  obtain ⟨hframe, hlen, hthread⟩ := hm
  obtain ⟨k', hexec, hk', hlen', hthread'⟩ := transfers_of hcontrol (by rw [hloads, closedLoads_idem])
    (by rw [hframe]; exact hrep)
    (fun l _ => by rw [hthread l]; exact hplace l)
  rw [hloads, Crew.loadsAfter_closed] at hk'
  have hid : k'.id = c.id := by rw [hk', hframe]
  refine ⟨k', by rw [hexec, hu k' hid], ?_, hlen'.trans hlen, fun l hl => ?_⟩
  · rw [← hnow]
    generalize k'.threads = ths at hk'
    generalize m.threads = ths' at hframe
    subst hframe
    exact hk'
  · have e := hthread' l (hlen ▸ hl)
    rw [hthread l] at e
    rw [e]
    by_cases hl : k.active.getLsbD l = true
    · simp [hl, htgt l hl]
    · simp [hl]

theorem Crew.mapT_eq_self {k : Crew} {f : Nat → Thread → Thread} (h : ∀ l t, f l t = t) : k.mapT f = k := by
  have hthreads : k.threads.mapIdx f = k.threads := List.ext_getElem (by simp) fun l _ _ => by simp [h]
  unfold Crew.mapT
  rw [hthreads]

theorem mem_laneList_iff {on : Lanes} {l : Nat} : l ∈ laneList on ↔ on.getLsbD l = true :=
  mem_laneList.trans (and_iff_right_of_imp BitVec.lt_of_getLsbD)

/-- Where every thread of the set has a cause, no thread moves and all take the trap at the instruction (R73, R380). -/
theorem State.control_of_marks (s : State) (i : Instr) (k c : Crew) {act : Lanes} (tgt : Nat → Nat) {ms : List Mark} (hne : ms ≠ [])
    (hall : ∀ l ∈ laneList act, ∃ m ∈ ms, m.lane = l) : s.control i k c act tgt ms = s.takeTrapFrom c k.pc ms 0 := by
  have hstay (l : Nat) (t : Thread) : (if act.getLsbD l && !ms.any (·.lane == l) then t.setPc (tgt l) else t) = t := by
    refine if_neg fun hl => ?_
    obtain ⟨hact, hunmarked⟩ := Bool.and_eq_true_iff.mp hl
    obtain ⟨m, hm, hlane⟩ := hall l (mem_laneList_iff.mpr hact)
    have hmarked : ms.any (·.lane == l) = true := List.any_eq_true.mpr ⟨m, hm, beq_iff_eq.mpr hlane⟩
    simp [hmarked] at hunmarked
  simp only [State.control, Crew.mapT_eq_self hstay, List.isEmpty_iff, hne, if_false]

end Sys2Proof.Machine
end

section
/-! The return stack over the threads of a set (spec/03_control.md R76 to R79): what PUSH and RET leave where every thread has its entry, and the
marks where none has. -/

namespace Sys2Proof.Machine

/-- What PUSH and RET do thread by thread: the next thread changes the crew, or leaves its mark. -/
def laneStep (f : Crew → Nat → Except Mark Crew) (x : Crew × List Mark) (l : Nat) : Crew × List Mark :=
  match f x.1 l with
  | .ok c => (c, x.2)
  | .error m => (x.1, x.2 ++ [m])

theorem Crew.pushAll_eq (k : Crew) (on : Lanes) (a : Nat) : k.pushAll on a = (laneList on).foldl (laneStep fun c l => c.push l a) (k, []) := rfl

theorem foldl_laneStep_of_error {f : Crew → Nat → Except Mark Crew} {k : Crew} {m : Nat → Mark} (ls : List Nat)
    (h : ∀ l ∈ ls, f k l = .error (m l)) (ms : List Mark) : ls.foldl (laneStep f) (k, ms) = (k, ms ++ ls.map m) := by
  induction ls generalizing ms with
  | nil => simp
  | cons l ls ih =>
    have hl : laneStep f (k, ms) l = (k, ms ++ [m l]) := by simp only [laneStep, h l (by simp)]
    rw [List.foldl_cons, hl, ih fun x hx => h x (by simp [hx])]
    simp

/-- Crew k after the threads of a list have changed, each by p, and have written the spill window, each by w. -/
def Crew.changed (k : Crew) (p : Nat → Thread → Thread) (w : Nat → Region → Region) (ls : List Nat) : Crew :=
  { k.mapT fun l t => if l ∈ ls then p l t else t with spill := ls.foldl (fun g l => w l g) k.spill }

section
variable {k : Crew} {p : Nat → Thread → Thread} {w : Nat → Region → Region}

theorem Crew.changed_nil : k.changed p w [] = k := by
  have hsame : k.mapT (fun l t => if l ∈ ([] : List Nat) then p l t else t) = k := Crew.mapT_eq_self fun l t => if_neg (List.not_mem_nil)
  unfold Crew.changed
  rw [hsame]
  rfl

theorem Crew.thread_changed {ls : List Nat} {l : Nat} (hl : l ∉ ls) : (k.changed p w ls).thread l = k.thread l := by
  change (k.mapT fun l t => if l ∈ ls then p l t else t).thread l = k.thread l
  by_cases hlen : l < k.threads.length
  · rw [Crew.thread_mapT _ _ hlen, if_neg hl]
  · have hlen := Nat.not_lt.mp hlen
    rw [Crew.thread_of_le hlen, Crew.thread_of_le (by simpa using hlen)]

theorem Crew.mapT_mapT (k : Crew) (f g : Nat → Thread → Thread) : (k.mapT f).mapT g = k.mapT fun l t => g l (f l t) := by
  simp [Crew.mapT, List.mapIdx_mapIdx, Function.comp_def]

/-- One thread more. -/
theorem Crew.changed_append {ls : List Nat} {l : Nat} (hl : l ∉ ls) :
    k.changed p w (ls ++ [l]) =
      { (k.changed p w ls).mapT (fun n t => if n == l then p n t else t) with spill := w l (k.changed p w ls).spill } := by
  have hthreads : k.mapT (fun n t => if n ∈ ls ++ [l] then p n t else t)
      = (k.mapT fun n t => if n ∈ ls then p n t else t).mapT fun n t => if n == l then p n t else t := by
    rw [Crew.mapT_mapT]
    congr 1
    funext n t
    by_cases hn : n = l
    · simp [hn, hl]
    · simp [hn]
  unfold Crew.changed
  rw [hthreads, List.foldl_append]
  rfl

theorem foldl_laneStep_of_ok {f : Crew → Nat → Except Mark Crew} (ls : List Nat) (hls : ls.Nodup)
    (h : ∀ done, ∀ l ∈ ls, l ∉ done → f (k.changed p w done) l = .ok (k.changed p w (done ++ [l]))) :
    ls.foldl (laneStep f) (k, []) = (k.changed p w ls, []) := by
  induction ls using List.reverseRecOn with
  | nil => rw [List.foldl_nil, Crew.changed_nil]
  | append_singleton ls l ih =>
    obtain ⟨hls, -, hl⟩ := List.nodup_append.mp hls
    have hnot : l ∉ ls := fun hm => hl l hm l (by simp) rfl
    rw [List.foldl_append, ih hls fun done x hx => h done x (by simp [hx])]
    simp only [List.foldl_cons, List.foldl_nil, laneStep, h ls l (by simp) hnot]

end

/-- The entry a call pushes in a thread (R77). -/
def Thread.pushed (t : Thread) (a : Nat) : Thread := { t with rs := (mkPc a :: t.rs).take 16, rsd := t.rsd + 1 }
/-- The oldest resident entry of thread l of crew k, where 16 are resident, spilled (R77). -/
def Crew.spilled (k : Crew) (l : Nat) (g : Region) : Region :=
  if 16 ≤ (k.thread l).rsd.toNat then g.writeN (k.levelOff ((k.thread l).rsd.toNat - 15) l) (leBytes 8 ((k.thread l).rs.getD 15 0).toNat) else g

/-- A thread whose spill, where it has one, lies in the window on a line that is not poisoned (R79). -/
def Crew.pushFits (k : Crew) (l : Nat) : Prop := 16 ≤ (k.thread l).rsd.toNat →
  256 * ((k.thread l).rsd.toNat - 15) ≤ k.stackBytes ∧ k.levelBad ((k.thread l).rsd.toNat - 15) l = false

theorem Crew.pushAll_of_fits {k : Crew} {on : Lanes} (a : Nat) (h : ∀ l ∈ laneList on, k.pushFits l) :
    k.pushAll on a = (k.changed (fun _ t => t.pushed a) k.spilled (laneList on), []) := by
  rw [Crew.pushAll_eq]
  refine foldl_laneStep_of_ok _ (List.nodup_range.filter _) fun done l hl hnot => ?_
  have hthread : (k.changed (fun _ t => t.pushed a) k.spilled done).thread l = k.thread l := Crew.thread_changed hnot
  have hfits := h l hl
  rw [Crew.changed_append hnot]
  unfold Crew.push
  rw [hthread]
  by_cases hfull : 16 ≤ (k.thread l).rsd.toNat
  · obtain ⟨hroom, hgood⟩ := hfits hfull
    have hroom' : ¬ (k.changed (fun _ t => t.pushed a) k.spilled done).stackBytes < 256 * ((k.thread l).rsd.toNat - 15) := Nat.not_lt.mpr hroom
    have hgood' : (k.changed (fun _ t => t.pushed a) k.spilled done).levelBad ((k.thread l).rsd.toNat - 15) l = false := hgood
    simp only [hroom', hgood', hfull, Crew.spilled]
    rfl
  · simp only [hfull, Crew.spilled]
    rfl

/-- The entry that refills the stack of thread l of crew k, where one is spilled (R78). -/
def Crew.refill (k : Crew) (l : Nat) : List Pc :=
  if 16 < (k.thread l).rsd.toNat then [BitVec.ofNat 48 (leNat (k.spill.readN (k.levelOff ((k.thread l).rsd.toNat - 16) l) 8))] else []
/-- A thread of crew k whose newest entry is gone (R78). -/
def Crew.popped (k : Crew) (l : Nat) (t : Thread) : Thread := { t with rs := t.rs.drop 1 ++ k.refill l, rsd := t.rsd - 1 }

/-- A thread with an entry, whose refill, where it has one, lies in the window on a line that is not poisoned (R78, R79). -/
def Crew.popFits (k : Crew) (l : Nat) : Prop := (k.thread l).rsd ≠ 0 ∧ (16 < (k.thread l).rsd.toNat →
  256 * ((k.thread l).rsd.toNat - 16) ≤ k.stackBytes ∧ k.levelBad ((k.thread l).rsd.toNat - 16) l = false)

theorem Crew.pop_of_fits {c : Crew} {l : Nat} (h : c.popFits l) :
    c.pop l = .ok (c.mapT fun n t => if n == l then { t with rs := t.rs.drop 1 ++ c.refill l, rsd := t.rsd - 1 } else t) := by
  obtain ⟨hsome, hfits⟩ := h
  unfold Crew.pop Crew.refill
  simp only [beq_false_of_ne hsome]
  by_cases hfull : 16 < (c.thread l).rsd.toNat
  · obtain ⟨hroom, hgood⟩ := hfits hfull
    simp only [hfull, Nat.not_lt.mpr hroom, hgood]
    rfl
  · simp only [hfull]
    rfl

theorem popAll_of_fits {k : Crew} {on : Lanes} (h : ∀ l ∈ laneList on, k.popFits l) :
    (laneList on).foldl (laneStep Crew.pop) (k, []) = (k.changed k.popped (fun _ g => g) (laneList on), []) := by
  refine foldl_laneStep_of_ok _ (List.nodup_range.filter _) fun done l hl hnot => ?_
  obtain ⟨c, hc⟩ : ∃ c, c = k.changed k.popped (fun _ g => g) done := ⟨_, rfl⟩
  have hthread : c.thread l = k.thread l := hc ▸ Crew.thread_changed hnot
  have hspill : c.spill = k.spill := hc ▸ List.foldl_fixed done
  have hlen : c.spillLen = k.spillLen ∧ c.spillBad = k.spillBad := hc ▸ ⟨rfl, rfl⟩
  have hfits : c.popFits l := by
    unfold Crew.popFits Crew.levelBad Crew.levelOff Crew.stackBytes
    rw [hthread, hlen.1, hlen.2]
    exact h l hl
  have hrefill : c.refill l = k.refill l := by
    unfold Crew.refill Crew.levelOff Crew.stackBytes
    rw [hthread, hspill, hlen.1]
  have hpopped : (fun n (t : Thread) => if n == l then { t with rs := t.rs.drop 1 ++ k.refill l, rsd := t.rsd - 1 } else t)
      = fun n t => if n == l then k.popped n t else t := by
    funext n t
    by_cases hn : n = l
    · simp [hn, Crew.popped]
    · simp [hn]
  rw [Crew.changed_append hnot, ← hc, Crew.pop_of_fits hfits, hrefill, hpopped]
  rfl

theorem Crew.push_of_beyond {c : Crew} {l : Nat} (a : Nat) (hfull : 16 ≤ (c.thread l).rsd.toNat)
    (h : c.stackBytes < 256 * ((c.thread l).rsd.toNat - 15)) : c.push l a = .error ⟨l, .prot, c.levelAddr ((c.thread l).rsd.toNat - 15) l⟩ := by
  simp [Crew.push, hfull, h]

theorem Crew.push_of_poisoned {c : Crew} {l : Nat} (a : Nat) (hfull : 16 ≤ (c.thread l).rsd.toNat)
    (hroom : 256 * ((c.thread l).rsd.toNat - 15) ≤ c.stackBytes) (h : c.levelBad ((c.thread l).rsd.toNat - 15) l = true) :
    c.push l a = .error ⟨l, .poison, c.levelAddr ((c.thread l).rsd.toNat - 15) l⟩ := by
  simp [Crew.push, hfull, Nat.not_lt.mpr hroom, h]

theorem Crew.pop_of_empty {c : Crew} {l : Nat} (h : (c.thread l).rsd = 0) : c.pop l = .error ⟨l, .rstackEmpty, c.pc⟩ := by
  simp [Crew.pop, h]

theorem Crew.pop_of_beyond {c : Crew} {l : Nat} (hfull : 16 < (c.thread l).rsd.toNat)
    (h : c.stackBytes < 256 * ((c.thread l).rsd.toNat - 16)) : c.pop l = .error ⟨l, .prot, c.levelAddr ((c.thread l).rsd.toNat - 16) l⟩ := by
  have hsome : ¬ (c.thread l).rsd = 0#16 := fun h0 => by simp [h0] at hfull
  simp [Crew.pop, hsome, hfull, h]

theorem Crew.pop_of_poisoned {c : Crew} {l : Nat} (hfull : 16 < (c.thread l).rsd.toNat)
    (hroom : 256 * ((c.thread l).rsd.toNat - 16) ≤ c.stackBytes) (h : c.levelBad ((c.thread l).rsd.toNat - 16) l = true) :
    c.pop l = .error ⟨l, .poison, c.levelAddr ((c.thread l).rsd.toNat - 16) l⟩ := by
  have hsome : ¬ (c.thread l).rsd = 0#16 := fun h0 => by simp [h0] at hfull
  simp [Crew.pop, hsome, hfull, Nat.not_lt.mpr hroom, h]

/-- Threads that change but for their places leave the crew where it issues. -/
theorem Crew.changed_place (k : Crew) {p : Nat → Thread → Thread} (w : Nat → Region → Region) (ls : List Nat)
    (hp : ∀ l t, (p l t).pcv = t.pcv ∧ (p l t).yex = t.yex) :
    (k.changed p w ls).rep = k.rep
      ∧ ∀ l, ((k.changed p w ls).thread l).pcv = (k.thread l).pcv ∧ ((k.changed p w ls).thread l).yex = (k.thread l).yex := by
  refine ⟨rfl, fun l => ?_⟩
  by_cases hlen : l < k.threads.length
  · have hthread : (k.changed p w ls).thread l = if l ∈ ls then p l (k.thread l) else k.thread l := Crew.thread_mapT k _ hlen
    rw [hthread]
    split
    · exact hp _ _
    · exact ⟨rfl, rfl⟩
  · have hlen := Nat.not_lt.mp hlen
    rw [Crew.thread_of_le hlen, Crew.thread_of_le (k := k.changed p w ls) (by simpa [Crew.changed] using hlen)]
    exact ⟨rfl, rfl⟩

namespace Crew.closedFrom
variable {m k : Crew} {i : Instr} {act : Lanes}

theorem changed (h : m.closedFrom k i act) {p : Nat → Thread → Thread} (w : Nat → Region → Region) (ls : List Nat)
    (hp : ∀ l t x, p l { t with win := x } = { p l t with win := x }) :
    (m.changed p w ls).closedFrom (k.changed p w ls) i act := by
  have hspill : m.spill = k.spill := by rw [h.frame]
  unfold Crew.changed
  rw [hspill]
  refine (h.mapT fun l t x => ?_).setSpill _
  split
  · exact hp l t x
  · rfl

theorem stackBytes (h : m.closedFrom k i act) : m.stackBytes = k.stackBytes := by
  rw [h.frame]
  rfl

theorem levelOff (h : m.closedFrom k i act) (j l : Nat) : m.levelOff j l = k.levelOff j l := by
  rw [h.frame]
  rfl

theorem levelAddr (h : m.closedFrom k i act) (j l : Nat) : m.levelAddr j l = k.levelAddr j l := by
  rw [h.frame]
  rfl

theorem levelBad (h : m.closedFrom k i act) (j l : Nat) : m.levelBad j l = k.levelBad j l := by
  rw [h.frame]
  rfl

theorem rsd (h : m.closedFrom k i act) (l : Nat) : (m.thread l).rsd = (k.thread l).rsd := by rw [h.thread l]

theorem rs (h : m.closedFrom k i act) (l : Nat) : (m.thread l).rs = (k.thread l).rs := by rw [h.thread l]

theorem spilled (h : m.closedFrom k i act) : m.spilled = k.spilled := by
  funext l g
  unfold Crew.spilled
  rw [h.levelOff, h.rsd, h.rs]

theorem popped (h : m.closedFrom k i act) : m.popped = k.popped := by
  have hspill : m.spill = k.spill := by rw [h.frame]
  funext l t
  unfold Crew.popped Crew.refill
  rw [h.levelOff, h.rsd, hspill]

theorem pushFits (h : m.closedFrom k i act) {l : Nat} : m.pushFits l ↔ k.pushFits l := by
  unfold Crew.pushFits
  rw [h.rsd, h.stackBytes, h.levelBad]

theorem popFits (h : m.closedFrom k i act) {l : Nat} : m.popFits l ↔ k.popFits l := by
  unfold Crew.popFits
  rw [h.rsd, h.stackBytes, h.levelBad]

end Crew.closedFrom

end Sys2Proof.Machine
end

section
/-! Branches, jumps, SWITCH, calls and returns (spec/03_control.md R74 to R81): what each does, from the crew as it found it. -/

namespace Sys2Proof.Machine

theorem Crew.guarded_seven (k : Crew) (on : Lanes) : k.guarded on 7 = on := rfl

/-- An instruction runs in some thread (R8). -/
theorem State.runs.active_ne {s : State} {k : Crew} {i : Instr} (h : s.runs k i) : laneList k.active ≠ [] := by
  have hactive : k.active ≠ 0 := by
    obtain ⟨-, hissues⟩ := h
    simp only [State.issues, Bool.and_eq_true, bne_iff_ne] at hissues
    obtain ⟨⟨⟨⟨-, hactive⟩, -⟩, -⟩, -⟩ := hissues
    exact hactive
  intro hnil
  refine hactive (BitVec.eq_of_getLsbD_eq fun l hl => ?_)
  have hnot : l ∉ laneList k.active := by simp [hnil]
  simpa [mem_laneList_iff] using hnot

/-- The threads of the guarded set are of ACTIVE (R8). -/
theorem Crew.active_of_guarded {k : Crew} {on : Lanes} {g : Guard} {l : Nat} (h : (k.guarded on g).getLsbD l = true) : on.getLsbD l = true := by
  unfold Crew.guarded at h
  split at h
  · exact h
  · rw [getLsbD_laneSet _ (BitVec.lt_of_getLsbD h)] at h
    exact (Bool.and_eq_true_iff.mp h).1

/-- The 48 bits of a pair of registers as a target (R75). -/
theorem Crew.target_eq {m : Crew} {a l : Nat} {x y : Word} (hx : (m.thread l).val l (a + 1) = x) (hy : (m.thread l).val l a = y) :
    m.target a l = x.toNat % 2 ^ 16 * 2 ^ 32 + y.toNat := by
  rw [Crew.target, hx, hy, BitVec.toNat_append, ← Nat.shiftLeft_add_eq_or_of_lt y.isLt, Nat.shiftLeft_eq]
  simp

theorem Crew.oddTargets_of_even {m : Crew} {a : Nat} {on : Lanes} (h : ∀ l ∈ laneList on, m.target a l % 2 = 0) : m.oddTargets a on = [] := by
  have hnone : (laneList on).filter (fun l => m.target a l % 2 == 1) = [] := List.filter_eq_nil_iff.mpr fun l hl => by simp [h l hl]
  rw [Crew.oddTargets, hnone]
  rfl

theorem Crew.oddTargets_of_odd {m : Crew} {a : Nat} {on : Lanes} (h : ∀ l ∈ laneList on, m.target a l % 2 = 1) :
    m.oddTargets a on = (laneList on).map fun l => ⟨l, .misalign, m.pc⟩ := by
  have hall : (laneList on).filter (fun l => m.target a l % 2 == 1) = laneList on := List.filter_eq_self.mpr fun l hl => by simp [h l hl]
  rw [Crew.oddTargets, hall]

/-- The indirect control instructions close windows (R39). -/
theorem closesWindow_jmpv (g : Guard) (a : VCode) : closesWindow (.jmpv g a) = true := by simp [closesWindow, encodeNat, put_major, Instr.length]
theorem closesWindow_callv (g : Guard) (a : VCode) : closesWindow (.callv g a) = true := by simp [closesWindow, encodeNat, put_major, Instr.length]
theorem closesWindow_switch (d : BitVec 17) (v : VCode) : closesWindow (.switch d v) = true := by
  simp [closesWindow, encodeNat, put_major, Instr.length]

section
variable {s : State} {k : Crew}

/-- A branch or jump without a trap, from the crew as it found it (R73). -/
theorem transfers_of_branch {i : Instr} {tgt : Nat → Nat}
    (h : exec i s = .next ((s.entering k i).control i (k.entering i) (k.entering i) k.active tgt [])) : s.transfers k i s.bump k tgt :=
  transfers_of_closed h (k.entering_closedFrom i) (fun _ hx => State.entering_setCrew s i hx) (State.cycles_entering s k i k.core)
    (fun _ _ => rfl) ⟨rfl, fun _ => ⟨rfl, rfl⟩⟩

theorem transfers_bra {d : BitVec 24} (hr : s.runs k (.bra d)) : s.transfers k (.bra d) s.bump k fun _ => relPc k.pc d.toInt := by
  rw [← (k.entering_closedFrom (.bra d)).pc]
  exact transfers_of_branch (issue_runs hr _ : execBra d s = _)

theorem transfers_brp {d : BitVec 17} {n : BitVec 1} {p : BitVec 6} (hr : s.runs k (.brp d n p)) :
    s.transfers k (.brp d n p) s.bump k fun l => if (k.thread l).p.getLsbD p.toNat != (n == 1) then relPc k.pc d.toInt else k.pc + 4 := by
  have hm := k.entering_closedFrom (.brp d n p)
  have hp (l : Nat) : (k.thread l).p = ((k.entering (.brp d n p)).thread l).p := by rw [hm.thread l]
  simp only [← hm.pc, hp]
  exact transfers_of_branch (issue_runs hr _ : execBrp d n p s = _)

theorem transfers_brs {d : BitVec 17} {n : BitVec 1} {r : BitVec 6} (hr : s.runs k (.brs d n r)) :
    s.transfers k (.brs d n r) s.bump k fun _ => if (k.sc r.toNat != 0) != (n == 1) then relPc k.pc d.toInt else k.pc + 4 := by
  have hm := k.entering_closedFrom (.brs d n r)
  rw [← hm.pc, ← hm.sc]
  exact transfers_of_branch (issue_runs hr _ : execBrs d n r s = _)

theorem exec_jmpv {g : Guard} {a : VCode} (hr : s.runs k (.jmpv g a)) :
    let m := k.entering (.jmpv g a)
    exec (.jmpv g a) s = .next ((s.entering k (.jmpv g a)).control (.jmpv g a) m m k.active
      (fun l => if (k.guarded k.active g).getLsbD l then m.target (k.vnum .va a) l else k.pc + 4)
      (m.oddTargets (k.vnum .va a) (k.guarded k.active g))) := by
  have hm := k.entering_closedFrom (.jmpv g a)
  have h : exec (.jmpv g a) s = _ := (issue_runs hr _ : execJmpv g a s = _)
  simp only [hm.guarded, hm.vnum, hm.pc] at h
  exact h

/-- The target that the pair of registers from a names in a thread (R75). -/
def Crew.pairTarget (k : Crew) (a l : Nat) : Nat := (k.reg l (a + 1)).toNat % 2 ^ 16 * 2 ^ 32 + (k.reg l a).toNat

theorem Crew.entering_target (k : Crew) {i : Instr} (hi : closesWindow i = true) {l : Nat} (hl : k.active.getLsbD l = true) (a : Nat) :
    (k.entering i).target a l = k.pairTarget a l :=
  Crew.target_eq (k.entering_val hi hl _) (k.entering_val hi hl _)

/-- The targets that the threads of the guarded set name as the instruction finds them, the others going on (R75). -/
theorem Crew.entering_targets (k : Crew) {i : Instr} (hi : closesWindow i = true) (g : Guard) (a : Nat) (next l : Nat) :
    (if (k.guarded k.active g).getLsbD l then (k.entering i).target a l else next)
      = if (k.guarded k.active g).getLsbD l then k.pairTarget a l else next := by
  split
  · next hl => exact k.entering_target hi (Crew.active_of_guarded hl) a
  · rfl

theorem Crew.entering_even (k : Crew) {i : Instr} (hi : closesWindow i = true) {g : Guard} {a : Nat}
    (h : ∀ l < 32, (k.guarded k.active g).getLsbD l = true → k.pairTarget a l % 2 = 0) :
    (k.entering i).oddTargets a (k.guarded k.active g) = [] := by
  refine Crew.oddTargets_of_even fun l hl => ?_
  obtain ⟨hl, hon⟩ := mem_laneList.mp hl
  rw [k.entering_target hi (Crew.active_of_guarded hon)]
  exact h l hl hon

/-- An odd first register of the pair is an odd target. -/
theorem Crew.entering_odd (k : Crew) {i : Instr} (hi : closesWindow i = true) {a : Nat} (h : ∀ l ∈ laneList k.active, (k.reg l a).toNat % 2 = 1) :
    (k.entering i).oddTargets a k.active = (laneList k.active).map fun l => ⟨l, .misalign, k.pc⟩ := by
  rw [Crew.oddTargets_of_odd fun l hl => ?_, (k.entering_closedFrom i).pc]
  have hodd := h l hl
  rw [k.entering_target hi (mem_laneList_iff.mp hl), Crew.pairTarget]
  omega

theorem transfers_jmpv {g : Guard} {a : VCode} (hr : s.runs k (.jmpv g a))
    (h : ∀ l < 32, (k.guarded k.active g).getLsbD l = true → k.pairTarget (k.vnum .va a) l % 2 = 0) :
    s.transfers k (.jmpv g a) s.bump k
      fun l => if (k.guarded k.active g).getLsbD l then k.pairTarget (k.vnum .va a) l else k.pc + 4 := by
  have hclose := closesWindow_jmpv g a
  have hexec := exec_jmpv hr
  simp only [k.entering_targets hclose, k.entering_even hclose h] at hexec
  exact transfers_of_branch hexec

/-- Where an instruction has a mark in every thread of ACTIVE, these threads trap there (R378, R380). -/
theorem traps_of_control {i : Instr} {m : Crew} {tgt : Nat → Nat} {c : Cause} {addr : Nat → Nat} (hr : s.runs k i)
    (h : exec i s = .next ((s.entering k i).control i (k.entering i) m k.active tgt ((laneList k.active).map fun l => ⟨l, c, addr l⟩)))
    (hm : m = k.entering i) :
    exec i s = .next ((s.entering k i).takeTrapFrom (k.entering i) k.pc ((laneList k.active).map fun l => ⟨l, c, addr l⟩) 0) := by
  rw [h, State.control_of_marks _ _ _ _ _ (by simpa using hr.active_ne), (k.entering_closedFrom i).pc, hm]
  intro l hl
  exact ⟨_, List.mem_map.mpr ⟨l, hl, rfl⟩, rfl⟩

/-- Where the case of a thread leads, by the table of h words at t (R81). -/
def State.caseTarget (s : State) (m : Crew) (t h r next l : Nat) : Except Cause Nat :=
  if ((m.thread l).val l r).toNat < h then
    (s.fetch32 m ((t + 4 + 4 * ((m.thread l).val l r).toNat) % 2 ^ 48)).map fun e => relPc t (BitVec.ofNat 32 e).toInt
  else .ok next

/-- SWITCH whose case table is aligned and has its count (R81). -/
theorem exec_switch {d : BitVec 17} {v : VCode} (hr : s.runs k (.switch d v)) {t h : Nat} (ht : relPc k.pc d.toInt = t) (halign : t % 4 = 0)
    (hh : s.bump.fetch32 k t = .ok h) (hsize : h < 65536) :
    let i : Instr := .switch d v
    let dest := (s.entering k i).caseTarget (k.entering i) t h (k.vnum .vd v) (k.pc + 4)
    exec i s = .next (((s.entering k i).learn k.core k.asid t).control i (k.entering i) (k.entering i) k.active
      (fun l => match dest l with | .ok a => a | .error _ => 0)
      ((laneList k.active).filterMap fun l => match dest l with | .ok _ => none | .error c => some ⟨l, c, k.pc⟩)) := by
  have hm := k.entering_closedFrom (.switch d v)
  have hplace : (k.entering (.switch d v)).core = k.core ∧ (k.entering (.switch d v)).asid = k.asid := by
    rw [hm.frame]
    exact ⟨rfl, rfl⟩
  have hexec : exec (.switch d v) s = _ := (issue_runs hr _ : execSwitch d v s = _)
  simp only [hm.pc, hm.vnum, hplace.1, hplace.2, ht, halign, State.fetch32_entering, hh, Nat.not_le.mpr hsize, bne_self_eq_false,
    Bool.false_eq_true, if_false] at hexec
  simp only [State.caseTarget, State.fetch32_entering]
  exact hexec

theorem transfers_switch {d : BitVec 17} {v : VCode} (hr : s.runs k (.switch d v)) {h : Nat} {e : Nat → Nat}
    (halign : relPc k.pc d.toInt % 4 = 0) (hh : s.bump.fetch32 k (relPc k.pc d.toInt) = .ok h) (hsize : h < 65536)
    (he : ∀ l < 32, k.active.getLsbD l = true → (k.reg l (k.vnum .vd v)).toNat < h →
      s.bump.fetch32 k ((relPc k.pc d.toInt + 4 + 4 * (k.reg l (k.vnum .vd v)).toNat) % 2 ^ 48) = .ok (e l)) :
    s.transfers k (.switch d v) (s.bump.learn k.core k.asid (relPc k.pc d.toInt)) k fun l =>
      if (k.reg l (k.vnum .vd v)).toNat < h then relPc (relPc k.pc d.toInt) (BitVec.ofNat 32 (e l)).toInt else k.pc + 4 := by
  have hexec := exec_switch hr rfl halign hh hsize
  obtain ⟨t, ht⟩ : ∃ t, relPc k.pc d.toInt = t := ⟨_, rfl⟩
  simp only [ht] at hexec he ⊢
  have hcase (l : Nat) (hl : k.active.getLsbD l = true) :
      (s.entering k (.switch d v)).caseTarget (k.entering (.switch d v)) t h (k.vnum .vd v) (k.pc + 4) l
        = .ok (if (k.reg l (k.vnum .vd v)).toNat < h then relPc t (BitVec.ofNat 32 (e l)).toInt else k.pc + 4) := by
    rw [State.caseTarget, k.entering_val (closesWindow_switch d v) hl, State.fetch32_entering]
    split
    · next hin =>
      rw [he l (BitVec.lt_of_getLsbD hl) hl hin]
      rfl
    · rfl
  rw [List.filterMap_eq_nil_iff.mpr fun l hl => by rw [hcase l (mem_laneList_iff.mp hl)]] at hexec
  refine transfers_of_closed hexec (k.entering_closedFrom _) (fun x hx => State.learn_entering_setCrew s _ _ _ _ hx) ?_
    (fun l hl => by rw [hcase l hl]) ⟨rfl, fun _ => ⟨rfl, rfl⟩⟩
  rw [State.cycles_learn, State.cycles_learn, State.cycles_entering]
  rfl

/-- A call where every thread of the set has room for its entry (R77). -/
theorem transfers_of_pushAll {i : Instr} {on : Lanes} {tgt : Nat → Nat} (hfits : ∀ l ∈ laneList on, k.pushFits l)
    (h : exec i s = .next ((s.entering k i).control i (k.entering i) ((k.entering i).pushAll on (k.pc + 4)).1 k.active tgt
      ((k.entering i).pushAll on (k.pc + 4)).2)) :
    s.transfers k i s.bump (k.changed (fun _ t => t.pushed (k.pc + 4)) k.spilled (laneList on)) tgt := by
  have hm := k.entering_closedFrom i
  rw [Crew.pushAll_of_fits _ fun l hl => hm.pushFits.mpr (hfits l hl), hm.spilled] at h
  exact transfers_of_closed h (hm.changed _ _ fun _ _ _ => rfl) (fun _ hx => State.entering_setCrew s i hx)
    (State.cycles_entering s k i k.core) (fun _ _ => rfl) (k.changed_place _ _ fun _ _ => ⟨rfl, rfl⟩)

theorem exec_call {d : BitVec 24} (hr : s.runs k (.call d)) :
    exec (.call d) s = .next ((s.entering k (.call d)).control (.call d) (k.entering (.call d))
      ((k.entering (.call d)).pushAll k.active (k.pc + 4)).1 k.active (fun _ => relPc k.pc d.toInt)
      ((k.entering (.call d)).pushAll k.active (k.pc + 4)).2) := by
  have h : exec (.call d) s = _ := (issue_runs hr _ : execCall d s = _)
  simp only [(k.entering_closedFrom (.call d)).pc] at h
  exact h

theorem exec_callv {g : Guard} {a : VCode} (hr : s.runs k (.callv g a)) :
    let i : Instr := .callv g a
    let on := k.guarded k.active g
    let odd := (k.entering i).oddTargets (k.vnum .va a) on
    let r := (k.entering i).pushAll (laneSet fun l => on.getLsbD l && !odd.any (·.lane == l)) (k.pc + 4)
    exec i s = .next ((s.entering k i).control i (k.entering i) r.1 k.active
      (fun l => if on.getLsbD l then k.pairTarget (k.vnum .va a) l else k.pc + 4) (odd ++ r.2)) := by
  have hm := k.entering_closedFrom (.callv g a)
  have h : exec (.callv g a) s = _ := (issue_runs hr _ : execCallv g a s = _)
  simp only [hm.guarded, hm.vnum, hm.pc, k.entering_targets (closesWindow_callv g a)] at h
  exact h

theorem laneSet_getLsbD (on : Lanes) : laneSet on.getLsbD = on :=
  BitVec.eq_of_getLsbD_eq fun _ hl => getLsbD_laneSet _ hl

theorem transfers_callv {g : Guard} {a : VCode} (hr : s.runs k (.callv g a)) (hfits : ∀ l ∈ laneList (k.guarded k.active g), k.pushFits l)
    (heven : ∀ l < 32, (k.guarded k.active g).getLsbD l = true → k.pairTarget (k.vnum .va a) l % 2 = 0) :
    s.transfers k (.callv g a) s.bump (k.changed (fun _ t => t.pushed (k.pc + 4)) k.spilled (laneList (k.guarded k.active g)))
      fun l => if (k.guarded k.active g).getLsbD l then k.pairTarget (k.vnum .va a) l else k.pc + 4 := by
  have hexec := exec_callv hr
  simp only [k.entering_even (closesWindow_callv g a) heven, List.any_nil, Bool.not_false, Bool.and_true, List.nil_append, laneSet_getLsbD] at hexec
  exact transfers_of_pushAll hfits hexec

theorem exec_ret {g : Guard} (hr : s.runs k (.ret g)) :
    let i : Instr := .ret g
    let on := k.guarded k.active g
    let r := (laneList on).foldl (laneStep Crew.pop) (k.entering i, [])
    exec i s = .next ((s.entering k i).control i (k.entering i) r.1 k.active
      (fun l => if on.getLsbD l then ((k.thread l).rs.getD 0 0).toNat else k.pc + 4) r.2) := by
  have hm := k.entering_closedFrom (.ret g)
  have h : exec (.ret g) s = _ := (issue_runs hr _ : execRet g s = _)
  simp only [hm.guarded, hm.pc, hm.rs] at h
  exact h

theorem transfers_ret {g : Guard} (hr : s.runs k (.ret g)) (hfits : ∀ l ∈ laneList (k.guarded k.active g), k.popFits l) :
    s.transfers k (.ret g) s.bump (k.changed k.popped (fun _ g => g) (laneList (k.guarded k.active g)))
      fun l => if (k.guarded k.active g).getLsbD l then ((k.thread l).rs.getD 0 0).toNat else k.pc + 4 := by
  have hm := k.entering_closedFrom (.ret g)
  have h := exec_ret hr
  simp only [popAll_of_fits fun l hl => hm.popFits.mpr (hfits l hl), hm.popped] at h
  exact transfers_of_closed h (hm.changed _ _ fun _ _ _ => rfl) (fun _ hx => State.entering_setCrew s _ hx)
    (State.cycles_entering s k _ k.core) (fun _ _ => rfl) (k.changed_place _ _ fun _ _ => ⟨rfl, rfl⟩)

/-- What every thread of ACTIVE takes a trap for: instruction i runs as a trap entry of cause c at the addresses addr (R378, R380). -/
def State.trapsEach (s : State) (k : Crew) (i : Instr) (c : Cause) (addr : Nat → Nat) : Prop :=
  exec i s = .next ((s.entering k i).takeTrapFrom (k.entering i) k.pc ((laneList k.active).map fun l => ⟨l, c, addr l⟩) 0)

theorem jmpv_trapsEach_of_odd {a : VCode} (hr : s.runs k (.jmpv 7 a)) (h : ∀ l ∈ laneList k.active, (k.reg l (k.vnum .va a)).toNat % 2 = 1) :
    s.trapsEach k (.jmpv 7 a) .misalign fun _ => k.pc := by
  have hexec := exec_jmpv hr
  simp only [Crew.guarded_seven, k.entering_odd (closesWindow_jmpv 7 a) h] at hexec
  exact traps_of_control hr hexec rfl

theorem laneList_zero : laneList 0 = [] := by simp [laneList]

theorem callv_trapsEach_of_odd {a : VCode} (hr : s.runs k (.callv 7 a)) (h : ∀ l ∈ laneList k.active, (k.reg l (k.vnum .va a)).toNat % 2 = 1) :
    s.trapsEach k (.callv 7 a) .misalign fun _ => k.pc := by
  have hexec := exec_callv hr
  have hnone : laneSet (fun l => k.active.getLsbD l &&
      !((laneList k.active).map fun l => (⟨l, .misalign, k.pc⟩ : Mark)).any (·.lane == l)) = 0 := by
    refine laneSet_eq_zero fun l => ?_
    by_cases hl : k.active.getLsbD l = true
    · have hlane := mem_laneList_iff.mpr hl
      simp [hlane]
    · simp [hl]
  simp only [Crew.guarded_seven, k.entering_odd (closesWindow_callv 7 a) h, hnone] at hexec
  rw [Crew.pushAll_eq, laneList_zero, List.foldl_nil, List.append_nil] at hexec
  exact traps_of_control hr hexec rfl

theorem call_trapsEach {d : BitVec 24} (hr : s.runs k (.call d)) {c : Cause} {addr : Nat → Nat}
    (h : ∀ l ∈ laneList k.active, (k.entering (.call d)).push l (k.pc + 4) = .error ⟨l, c, addr l⟩) : s.trapsEach k (.call d) c addr := by
  have hexec := exec_call hr
  rw [Crew.pushAll_eq, foldl_laneStep_of_error (f := fun m l => m.push l (k.pc + 4)) _ h, List.nil_append] at hexec
  exact traps_of_control hr hexec rfl

theorem ret_trapsEach (hr : s.runs k (.ret 7)) {c : Cause} {addr : Nat → Nat}
    (h : ∀ l ∈ laneList k.active, (k.entering (.ret 7)).pop l = .error ⟨l, c, addr l⟩) : s.trapsEach k (.ret 7) c addr := by
  have hexec := exec_ret hr
  simp only [Crew.guarded_seven] at hexec
  rw [foldl_laneStep_of_error (f := Crew.pop) _ h, List.nil_append] at hexec
  dsimp only at hexec
  exact traps_of_control hr hexec rfl

end

theorem Crew.mapT_congr {k : Crew} {f g : Nat → Thread → Thread} (h : ∀ l < k.threads.length, f l (k.thread l) = g l (k.thread l)) :
    k.mapT f = k.mapT g := by
  have hthreads : k.threads.mapIdx f = k.threads.mapIdx g := List.ext_getElem (by simp) fun l hl _ => by
    have hlen : l < k.threads.length := by simpa using hl
    simpa [Crew.thread, hlen] using h l hlen
  unfold Crew.mapT
  rw [hthreads]

/-- The crew after a call of the threads of a set, its spill window written where 16 entries were resident (R77). -/
theorem Crew.changed_pushed (k : Crew) (on : Lanes) (a : Nat) :
    k.changed (fun _ t => t.pushed a) k.spilled (laneList on) =
      { k.mapT (fun l t => if on.getLsbD l then t.pushed a else t) with
        spill := ((laneList on).filter fun l => decide (16 ≤ (k.thread l).rsd.toNat)).foldl (fun g l =>
          g.writeN (k.levelOff ((k.thread l).rsd.toNat - 15) l) (leBytes 8 ((k.thread l).rs.getD 15 0).toNat)) k.spill } := by
  have hlane : (fun l (t : Thread) => if l ∈ laneList on then t.pushed a else t) = fun l t => if on.getLsbD l then t.pushed a else t := by
    funext l t
    simp only [mem_laneList_iff]
  unfold Crew.changed
  rw [hlane, List.foldl_filter]
  simp only [decide_eq_true_eq]
  rfl

/-- The crew after a return of the threads of a set (R78). -/
theorem Crew.changed_popped (k : Crew) (on : Lanes) :
    k.changed k.popped (fun _ g => g) (laneList on) = k.mapT fun l t =>
      if on.getLsbD l then
        { t with
          rs := t.rs.drop 1 ++ if 16 < t.rsd.toNat then [BitVec.ofNat 48 (leNat (k.spill.readN (k.levelOff (t.rsd.toNat - 16) l) 8))] else []
          rsd := t.rsd - 1 }
      else t := by
  unfold Crew.changed
  rw [List.foldl_fixed]
  refine Eq.trans ?_ (Crew.mapT_congr (f := fun l t => if l ∈ laneList on then k.popped l t else t) fun l hl => ?_)
  · rfl
  · simp only [mem_laneList_iff]
    rfl

end Sys2Proof.Machine

open Sys2Proof Sys2Proof.Machine

/-- Settles O22: what each control instruction does with the crew as it found it, the windows it closes left aside. -/
theorem branchesAndCalls : Obligations.BranchesAndCalls := by
  unfold Obligations.BranchesAndCalls
  refine ⟨fun s k => ⟨fun d => transfers_bra, fun d n p => transfers_brp, fun d n r => transfers_brs, fun g a => transfers_jmpv, ?_⟩, ?_, ?_⟩
  · intro d v h e hr T index halign hh hsize he
    exact transfers_switch hr halign hh hsize he
  · intro s k A S back bad fits pushed
    have hpushed (on : Lanes) : k.changed (fun _ t => t.pushed (k.pc + 4)) k.spilled (laneList on) = pushed on := k.changed_pushed on _
    have hfits {on : Lanes} (h : fits on) : ∀ l ∈ laneList on, k.pushFits l := fun l hl => h l (mem_laneList.mp hl).1 (mem_laneList_iff.mp hl)
    refine ⟨fun d hr h => ?_, fun g a hr => ?_, fun g hr => ?_⟩
    · exact hpushed k.active ▸ transfers_of_pushAll (hfits h) (exec_call hr)
    · intro on target h heven
      exact hpushed on ▸ transfers_callv hr (hfits h) heven
    · intro on hsome h
      have hpop : ∀ l ∈ laneList on, k.popFits l := fun l hl =>
        ⟨hsome l (mem_laneList.mp hl).1 (mem_laneList_iff.mp hl), h l (mem_laneList.mp hl).1 (mem_laneList_iff.mp hl)⟩
      exact k.changed_popped on ▸ transfers_ret hr hpop
  · intro s k A S lanes bad traps pushAt popAt
    have hm (i : Instr) := k.entering_closedFrom i
    refine ⟨fun a => jmpv_trapsEach_of_odd, fun a => callv_trapsEach_of_odd, fun hr h => ret_trapsEach hr fun l hl => ?_,
      fun d hr h => call_trapsEach hr fun l hl => ?_, fun hr h => ret_trapsEach hr fun l hl => ?_,
      fun d hr h => call_trapsEach hr fun l hl => ?_, fun hr h => ret_trapsEach hr fun l hl => ?_⟩
    · rw [Crew.pop_of_empty (((hm _).rsd l).trans (h l hl)), (hm _).pc]
    · obtain ⟨hfull, hroom⟩ := h l hl
      rw [← (hm (.call d)).rsd] at hfull hroom
      rw [Crew.push_of_beyond _ hfull ((hm _).stackBytes.trans_lt hroom), (hm _).levelAddr, (hm _).rsd]
      rfl
    · obtain ⟨hfull, hroom⟩ := h l hl
      rw [← (hm (.ret 7)).rsd] at hfull hroom
      rw [Crew.pop_of_beyond hfull ((hm _).stackBytes.trans_lt hroom), (hm _).levelAddr, (hm _).rsd]
      rfl
    · obtain ⟨hfull, hroom, hbad⟩ := h l hl
      rw [← (hm (.call d)).rsd] at hfull hroom hbad
      rw [Crew.push_of_poisoned _ hfull (hroom.trans_eq (hm _).stackBytes.symm) (((hm _).levelBad _ _).trans hbad), (hm _).levelAddr, (hm _).rsd]
      rfl
    · obtain ⟨hfull, hroom, hbad⟩ := h l hl
      rw [← (hm (.ret 7)).rsd] at hfull hroom hbad
      rw [Crew.pop_of_poisoned hfull (hroom.trans_eq (hm _).stackBytes.symm) (((hm _).levelBad _ _).trans hbad), (hm _).levelAddr, (hm _).rsd]
      rfl
end

section
/-! The end of REFUSE, YIELD, EXIT and TASKEND (spec/03_control.md R82 to R84): the crew that the state settles with. -/

namespace Sys2Proof.Machine

/-- An issue in which no thread advances (R43, R83). -/
theorem Crew.advance_none {k c : Crew} (i : Instr) (now : Nat) (hr : c.rep = k.rep) :
    c.advance i 0 now = ({ (if k.lastRepeat then c.endYield else c) with rep := k.repAfter } : Crew).issued now := by
  have hthreads : c.mapT (fun l t => if (0 : Lanes).getLsbD l then
      (t.setPc (t.pcv.toNat + if c.rep.active then 4 + i.length else i.length)).tickWin i else t) = c :=
    Crew.mapT_eq_self fun l t => if_neg (by simp)
  have hloads : c.loads.map (fun p => p.tick i 0) = c.loads := by
    conv_rhs => rw [← List.map_id c.loads]
    exact List.map_congr_left fun p _ => if_neg (by simp)
  have hmore : (c.rep.active && decide (c.rep.i.toNat + 1 < c.rep.ctl.count)) = !k.lastRepeat := by
    rw [hr, Crew.lastRepeat, Bool.not_or, Bool.not_not, ← decide_not]
    simp only [Nat.not_le]
  unfold Crew.advance
  simp only [hmore, hthreads, hloads]
  cases hlast : k.lastRepeat
  · have hrep : k.repAfter = { c.rep with i := c.rep.i + 1 } := by
      rw [hlast, hr] at hmore
      rw [Crew.repAfter, hlast, (Bool.and_eq_true_iff.mp hmore).1, hr]
      rfl
    rw [hrep]
    rfl
  · have hrep : k.repAfter = Rep.idle := by simp [Crew.repAfter, hlast]
    rw [hrep]
    rfl

/-- Crew k with what an issue leaves of it beside its threads: the REP state, its loads and the scheduler's marks (R43, R67). -/
def Crew.counts (k : Crew) (ps : List PendLoad) (now : Nat) : Crew :=
  { k with rep := k.repAfter, loads := ps, raised := 0, age := 0, passed := 0, lastIssue := now }

/-- Crew x is crew c with its threads become those of ts but for their lookahead windows. -/
def Crew.become (x c : Crew) (ts : Nat → Thread) : Prop :=
  x = { c with threads := x.threads }
    ∧ x.threads.length = c.threads.length
    ∧ ∀ l < c.threads.length, x.thread l = { ts l with win := (x.thread l).win }

namespace Crew.become
variable {x c : Crew} {ts : Nat → Thread}

theorem mapT (h : x.become c ts) {f : Nat → Thread → Thread} (hf : ∀ l t w, f l { t with win := w } = { f l t with win := w }) :
    (x.mapT f).become c fun l => f l (ts l) := by
  obtain ⟨hx, hlen, hthread⟩ := h
  refine ⟨?_, by rw [Crew.mapT_length, hlen], fun l hl => ?_⟩
  · generalize x.threads = ths at hx
    subst hx
    rfl
  · have hmap := Crew.thread_mapT x f (hlen ▸ hl)
    rw [hthread l hl, hf] at hmap
    rw [hmap]

theorem id (h : x.become c ts) : x.id = c.id := by
  obtain ⟨hx, -, -⟩ := h
  rw [hx]

end Crew.become

/-- An instruction of the crew's threads that advance. -/
theorem Crew.advance_become (k : Crew) (i : Instr) (now : Nat) :
    ((k.entering i).advance i k.active now).become (k.counts (k.loadsAfter i (k.entering i).loads) now)
      fun l => { k.thread l with pcv := k.pcAfter i l, yex := k.yexAfter l } := by
  have hframe := (k.entering_closedFrom i).frame
  obtain ⟨-, hlen, hthread⟩ := k.entering_closedFrom i
  have hloads : closedLoads i k.active (k.entering i).loads = (k.entering i).loads := by rw [k.entering_loads, closedLoads_idem]
  obtain ⟨hk, hklen, hkthread⟩ := Crew.advance_from k (k.entering i) i now (by rw [hframe]) hloads fun l _ => by
    rw [hthread l]
    exact ⟨rfl, rfl⟩
  refine ⟨hk.trans ?_, hklen.trans hlen, fun l hl => ?_⟩
  · generalize (k.entering i).threads = ths at hframe
    generalize (k.entering i).loads = ps at hframe ⊢
    rw [hframe]
    rfl
  · rw [hkthread l (hlen ▸ hl), hthread l]

theorem Crew.entering_become (k : Crew) (i : Instr) : (k.entering i).become { k with loads := (k.entering i).loads } k.thread := by
  have hframe := (k.entering_closedFrom i).frame
  obtain ⟨-, hlen, hthread⟩ := k.entering_closedFrom i
  exact ⟨hframe, hlen, fun l _ => hthread l⟩

/-- YEX after an instruction whose threads stay where they are (R44, R83). -/
theorem Crew.endYield_become (k : Crew) (i : Instr) :
    (if k.lastRepeat then (k.entering i).endYield else k.entering i).become { k with loads := (k.entering i).loads }
      fun l => { k.thread l with yex := k.yexAfter l } := by
  cases hlast : k.lastRepeat
  · have hyex : k.yexAfter = fun l => (k.thread l).yex := funext fun l => by rw [Crew.yexAfter, hlast]; rfl
    rw [hyex]
    exact k.entering_become i
  · have hyex : k.yexAfter = fun _ => false := funext fun l => by rw [Crew.yexAfter, hlast]; rfl
    rw [hyex]
    exact (k.entering_become i).mapT fun _ _ _ => rfl

/-- An instruction whose threads stay where they are. -/
theorem Crew.advance_none_become (k : Crew) (i : Instr) (now : Nat) :
    ((k.entering i).advance i 0 now).become (k.counts (k.entering i).loads now) fun l => { k.thread l with yex := k.yexAfter l } := by
  rw [Crew.advance_none (k := k) i now (by rw [(k.entering_closedFrom i).frame])]
  obtain ⟨hx, hlen, hthread⟩ := k.endYield_become i
  refine ⟨?_, hlen, hthread⟩
  generalize (if k.lastRepeat then (k.entering i).endYield else k.entering i) = x at hx
  generalize x.threads = ths at hx
  subst hx
  rfl

section
variable {s : State} {k : Crew}

/-- What the crew's next state is set in does not depend on the windows it closed as it entered (R39). -/
theorem State.entering_setCrew_become {i : Instr} {x : Crew} {ps : List PendLoad} {now : Nat} {ts : Nat → Thread}
    (h : x.become (k.counts ps now) ts) : (s.entering k i).setCrew x = s.bump.setCrew x := State.entering_setCrew s i h.id

theorem Crew.entering_place (k : Crew) (i : Instr) : (k.entering i).core = k.core ∧ (k.entering i).id = k.id := by
  rw [k.entering_frame i]
  exact ⟨rfl, rfl⟩

/-- REFUSE (R82): the threads of ACTIVE wait where they stand, and the state settles with the crew. -/
theorem exec_refuse (hr : s.runs k .refuse) :
    ∃ k' : Crew, exec .refuse s = .next ((s.bump.setCrew k').settle k.id)
      ∧ k'.become (k.counts (k.entering .refuse).loads (s.cycles k.core).toNat) fun l =>
          { k.thread l with rwait := (k.thread l).rwait || k.active.getLsbD l, yex := k.yexAfter l } := by
  obtain ⟨hcore, hid⟩ := k.entering_place .refuse
  have h : exec .refuse s = _ := (issue_runs hr _ : execRefuse s = _)
  simp only [hcore, hid, State.cycles_entering] at h
  have hk := (k.advance_none_become .refuse (s.cycles k.core).toNat).mapT
    (f := fun l t => if k.active.getLsbD l then { t with rwait := true } else t) fun l t w => by split <;> rfl
  rw [State.entering_setCrew_become hk] at h
  refine ⟨_, h, ?_⟩
  have hwait : (fun l => if k.active.getLsbD l then ({ k.thread l with yex := k.yexAfter l, rwait := true } : Thread)
      else { k.thread l with yex := k.yexAfter l })
      = fun l => { k.thread l with rwait := (k.thread l).rwait || k.active.getLsbD l, yex := k.yexAfter l } := by
    funext l
    cases hl : k.active.getLsbD l <;> simp
  exact hwait ▸ hk

/-- YIELD (R83): the threads of the guarded set are excluded past it, and the state settles with the crew. -/
theorem exec_yield {g : Guard} (hr : s.runs k (.yield g)) :
    ∃ k' : Crew, exec (.yield g) s = .next ((s.bump.setCrew k').settle k.id)
      ∧ k'.become (k.counts (k.loadsAfter (.yield g) (k.entering (.yield g)).loads) (s.cycles k.core).toNat) fun l =>
          { k.thread l with pcv := k.pcAfter (.yield g) l, yex := (k.guarded k.active g).getLsbD l || k.yexAfter l } := by
  obtain ⟨hcore, hid⟩ := k.entering_place (.yield g)
  have h : exec (.yield g) s = _ := (issue_runs hr _ : execYield g s = _)
  simp only [hcore, hid, State.cycles_entering, (k.entering_closedFrom (.yield g)).guarded] at h
  have hk := (k.advance_become (.yield g) (s.cycles k.core).toNat).mapT
    (f := fun l t => if (k.guarded k.active g).getLsbD l then { t with yex := true } else t) fun l t w => by split <;> rfl
  rw [State.entering_setCrew_become hk] at h
  refine ⟨_, h, ?_⟩
  have hyield : (fun l => if (k.guarded k.active g).getLsbD l then
        ({ k.thread l with pcv := k.pcAfter (.yield g) l, yex := true } : Thread)
      else { k.thread l with pcv := k.pcAfter (.yield g) l, yex := k.yexAfter l })
      = fun l => { k.thread l with pcv := k.pcAfter (.yield g) l, yex := (k.guarded k.active g).getLsbD l || k.yexAfter l } := by
    funext l
    cases hl : (k.guarded k.active g).getLsbD l <;> simp
  exact hyield ▸ hk

/-- EXIT and TASKEND (R84, R115): the threads of a set leave LIVE, their return stacks and regions, and their entries of the pending table go. -/
theorem exits_become {i : Instr} {on : Lanes} (h : exec i s = .next ((s.entering k i).exits i (k.entering i) k.active on)) :
    ∃ k' : Crew, exec i s = .next (({ s.bump.setCrew k' with
          pending := s.pending.filter fun p => !(p.crew == k.id && on.getLsbD p.lane) } : State).settle k.id)
      ∧ k'.become (k.counts (k.loadsAfter i (k.entering i).loads) (s.cycles k.core).toNat) fun l =>
          if on.getLsbD l then
            { k.thread l with pcv := k.pcAfter i l, yex := k.yexAfter l, live := false, rs := [], rsd := 0, inreg := none }
          else { k.thread l with pcv := k.pcAfter i l, yex := k.yexAfter l } := by
  obtain ⟨hcore, hid⟩ := k.entering_place i
  have hk := (k.advance_become i (s.cycles k.core).toNat).mapT
    (f := fun l t => if on.getLsbD l then { t with live := false, rs := [], rsd := 0, inreg := none } else t) fun l t w => by split <;> rfl
  simp only [State.exits, hcore, hid, State.cycles_entering] at h
  rw [State.entering_setCrew_become hk] at h
  exact ⟨_, h, hk⟩

theorem exec_exit {g : Guard} (hr : s.runs k (.exit g)) :
    exec (.exit g) s = .next ((s.entering k (.exit g)).exits (.exit g) (k.entering (.exit g)) k.active (k.guarded k.active g)) := by
  have h : exec (.exit g) s = _ := (issue_runs hr _ : execExit g s = _)
  rw [(k.entering_closedFrom (.exit g)).guarded] at h
  exact h

theorem exec_taskend (hr : s.runs k .taskend) (ht : k.task.isSome = true) :
    exec .taskend s = .next ((s.entering k .taskend).exits .taskend (k.entering .taskend) k.active k.active) := by
  have htask : k.task.isNone = false := by rw [← Option.not_isSome, ht]; rfl
  exact issueLegal_runs hr (bad := fun _ k => k.task.isNone) htask _

end

end Sys2Proof.Machine
end

section
/-! What settles a crew of which no thread may issue (spec/03_control.md R62). -/

namespace Sys2Proof.Machine

theorem State.issueComplete_of_idle {s : State} {id : Nat} {k : Crew} (hk : s.crew? id = some k) (hcv : ∀ v ∈ k.cv, v.pend = false) :
    s.issueComplete id = s := by
  have hidle (n : Nat) : k.cvComplete n = false := by
    have hpend : (k.cvN n).pend = false := by
      rw [Crew.cvN, List.getD_eq_getElem?_getD]
      cases hn : k.cv[n]? with
      | none => rfl
      | some v => exact hcv v (List.mem_of_getElem? hn)
    rw [Crew.cvComplete, hpend]
    rfl
  refine List.foldlRecOn (motive := (· = s)) _ _ rfl fun t ht n _ => ?_
  simp [ht, hk, hidle]

/-- A crew with live threads, none of them eligible, and no operation pending: R62 alone applies (R275). -/
theorem State.settle_of_stuck {s : State} {k : Crew} (hk : s.crew? k.id = some k) (hended : k.ended = false) (hlive : k.liveSet ≠ 0)
    (haddr : k.issueAddr = none) (hcv : ∀ v ∈ k.cv, v.pend = false) : s.settle k.id = s.setCrew k.unstick := by
  have hpend : k.cv.any (·.pend) = false := List.any_eq_false.mpr fun v hv => by simp [hcv v hv]
  have hsome : ¬ k.issueAddr.isSome = true := by simp [haddr]
  have hset : ¬ (k.liveSet == 0) = true := fun h => hlive (eq_of_beq h)
  unfold State.settle
  simp only [State.issueComplete_of_idle hk hcv, hk, hended, Bool.false_eq_true, if_false]
  rw [if_neg hset, if_neg hsome]
  simp only [hpend, Bool.false_eq_true, if_false, hk]
  rw [if_neg hsome]

theorem Crew.unstick_of_yielded {k : Crew} (h : ∃ l < 32, (k.thread l).live = true ∧ (k.thread l).yex = true) :
    k.unstick = k.mapT fun _ t => { t with yex := false } := by
  obtain ⟨l, hl, hlive, hyex⟩ := h
  have hany : (List.range 32).any (fun t => (k.thread t).live && (k.thread t).yex) = true :=
    List.any_eq_true.mpr ⟨l, List.mem_range.mpr hl, by simp [hlive, hyex]⟩
  rw [Crew.unstick, if_pos hany]

/-- Where no thread has yielded and every live thread waits in a REFUSE, the one at the lowest address completes (R62, R82). -/
theorem Crew.unstick_of_refused {k : Crew} {a : Nat} (hyex : ∀ l < 32, (k.thread l).live = true → (k.thread l).yex = false)
    (hat : ∃ l < 32, (k.thread l).live = true ∧ (k.thread l).pcv.toNat = a) (hleast : ∀ l < 32, (k.thread l).live = true → a ≤ (k.thread l).pcv.toNat)
    (hwait : ∀ l < 32, (k.thread l).live = true → (k.thread l).rwait = true) :
    k.unstick = k.mapT fun _ t => if t.live && t.rwait && t.pcv.toNat == a then { t.setPc (a + 4) with rwait := false } else t := by
  have hany : (List.range 32).any (fun t => (k.thread t).live && (k.thread t).yex) = false :=
    List.any_eq_false.mpr fun l hl => by simpa using hyex l (List.mem_range.mp hl)
  have hmin : (((List.range 32).filter fun t => (k.thread t).live && (k.thread t).rwait).map fun t => (k.thread t).pcv.toNat).min? = some a := by
    rw [List.min?_eq_some_iff]
    obtain ⟨l, hl, hlive, hpcv⟩ := hat
    refine ⟨List.mem_map.mpr ⟨l, by simp [hl, hlive, hwait l hl hlive], hpcv⟩, fun b hb => ?_⟩
    obtain ⟨l, hl, rfl⟩ := List.mem_map.mp hb
    obtain ⟨hl, hlive⟩ := List.mem_filter.mp hl
    exact hleast l (List.mem_range.mp hl) (Bool.and_eq_true_iff.mp hlive).1
  simp [Crew.unstick, hany, hmin]

end Sys2Proof.Machine

open Sys2Proof Sys2Proof.Machine

/-- Settles O23: the crew that each instruction leaves, and what the settling of R62 does for one of which no thread is eligible. -/
theorem threadFlow : Obligations.ThreadFlow := by
  unfold Obligations.ThreadFlow
  refine ⟨⟨fun s k => ⟨fun hr => ?_, fun g hr => ?_⟩,
    fun s k hk hended hlive haddr hcv hlen => ⟨fun h => ?_, fun a hyex hat hleast hwait => ?_⟩⟩, fun s k => ?_⟩
  · exact exec_refuse hr
  · exact exec_yield hr
  · rw [State.settle_of_stuck hk hended hlive haddr hcv, Crew.unstick_of_yielded h]
  · rw [State.settle_of_stuck hk hended hlive haddr hcv, Crew.unstick_of_refused hyex hat hleast hwait]
    refine congrArg s.setCrew (Crew.mapT_congr fun l hl => ?_)
    cases hlane : (k.thread l).live
    · rfl
    · simp [hlane, hwait l (hlen ▸ hl) hlane, Thread.setPc, mkPc]
  · intro leaves
    have leaves_of {i : Instr} {on : Lanes} (h : exec i s = .next ((s.entering k i).exits i (k.entering i) k.active on)) : leaves i on := by
      obtain ⟨k', hexec, hk, hlen, hthread⟩ := exits_become h
      refine ⟨k', hexec, hk, hlen, fun l hl => (hthread l hl).trans ?_⟩
      cases hon : on.getLsbD l <;> simp only [hon] <;> rfl
    exact ⟨fun g hr => leaves_of (exec_exit hr), fun hr ht => leaves_of (exec_taskend hr ht)⟩
end

section
/-! Stable sorting by a key: the order, and the order of the list among elements of equal keys. -/

namespace Sys2Proof.Machine

/-- Before by the key f, or by r where the keys are equal. -/
def keyThen {α : Type} (f : α → Nat) (r : α → α → Prop) (x y : α) : Prop := f x < f y ∨ f x = f y ∧ r x y

section
variable {α : Type} {f : α → Nat}

theorem insertBy_perm (x : α) (xs : List α) : (insertBy f x xs).Perm (x :: xs) := by
  induction xs with
  | nil => exact .refl _
  | cons y ys ih =>
    unfold insertBy
    split
    · exact (ih.cons y).trans (.swap x y ys)
    · exact .refl _

theorem sortBy_perm (xs : List α) : (sortBy f xs).Perm xs := by
  have hfold (acc : List α) : (xs.foldl (fun acc x => insertBy f x acc) acc).Perm (acc ++ xs) := by
    induction xs generalizing acc with
    | nil => simp
    | cons x xs ih => exact (ih _).trans (((insertBy_perm x acc).append_right xs).trans List.perm_middle.symm)
  exact hfold []

theorem mem_sortBy {xs : List α} {x : α} : x ∈ sortBy f xs ↔ x ∈ xs := (sortBy_perm xs).mem_iff

/-- An element that r puts last goes after those of its key. -/
theorem insertBy_pairwise {r : α → α → Prop} {x : α} {xs : List α} (h : xs.Pairwise (keyThen f r)) (hx : ∀ y ∈ xs, r y x) :
    (insertBy f x xs).Pairwise (keyThen f r) := by
  induction xs with
  | nil => exact List.pairwise_singleton _ _
  | cons y ys ih =>
    obtain ⟨hy, hys⟩ := List.pairwise_cons.mp h
    unfold insertBy
    split
    · next hle =>
      refine List.pairwise_cons.mpr ⟨fun z hz => ?_, ih hys fun z hz => hx z (List.mem_cons_of_mem _ hz)⟩
      obtain rfl | hz := List.mem_cons.mp ((insertBy_perm x ys).mem_iff.mp hz)
      · exact (Nat.lt_or_eq_of_le hle).imp_right fun he => ⟨he, hx y (List.mem_cons_self ..)⟩
      · exact hy z hz
    · next hlt =>
      have hlt := Nat.not_le.mp hlt
      refine List.pairwise_cons.mpr ⟨fun z hz => .inl ?_, h⟩
      obtain rfl | hz := List.mem_cons.mp hz
      · exact hlt
      · exact hlt.trans_le ((hy z hz).elim Nat.le_of_lt fun he => he.1.le)

theorem sortBy_pairwise {r : α → α → Prop} {xs : List α} (h : xs.Pairwise r) : (sortBy f xs).Pairwise (keyThen f r) := by
  have hfold (acc : List α) (hacc : acc.Pairwise (keyThen f r)) (hr : ∀ y ∈ acc, ∀ x ∈ xs, r y x) :
      (xs.foldl (fun acc x => insertBy f x acc) acc).Pairwise (keyThen f r) := by
    induction xs generalizing acc with
    | nil => exact hacc
    | cons x xs ih =>
      obtain ⟨hx, hxs⟩ := List.pairwise_cons.mp h
      refine ih hxs _ (insertBy_pairwise hacc fun y hy => hr y hy x (List.mem_cons_self ..)) fun y hy z hz => ?_
      obtain rfl | hy := List.mem_cons.mp ((insertBy_perm x acc).mem_iff.mp hy)
      · exact hx z hz
      · exact hr y hy z (List.mem_cons_of_mem _ hz)
  exact hfold [] .nil (by simp)

end

end Sys2Proof.Machine
end

section
/-! The formation of boats (spec/03_control.md R67): who joins a boat, and that every ready crew does. -/

namespace Sys2Proof.Machine

/-- Crew c may stand in a boat beside the crew that o names: one context, issue address and REP state, and no slice of both (R67). -/
def State.fellows (s : State) (o c : Crew) : Prop := ∀ x, s.crew? o.id = some x →
  let slice (y : Crew) (n : Nat) : Prop := ∃ j < 4, (s.issuePoint y).1.active.getLsbD (4 * n + j) = true
  x.asid = c.asid ∧ (s.issuePoint x).1.issueAddr = (s.issuePoint c).1.issueAddr ∧ x.rep.active = c.rep.active ∧ x.rep.i = c.rep.i
  ∧ ∀ n < 8, ¬ (slice x n ∧ slice c n)

/-- A boat of a partition whose members are crews of a kind and may stand beside each other. -/
def State.crewed (s : State) (ok : Crew → Prop) (core part : Nat) (b : Boat) : Prop :=
  b.core = core ∧ b.part = part ∧ b.members ≠ [] ∧ ∃ cs : List Crew, b.members = cs.map (·.id) ∧ (∀ c ∈ cs, ok c) ∧ cs.Pairwise s.fellows

theorem State.mem_slices (s : State) (k : Crew) (n : Nat) :
    n ∈ s.slices k ↔ n < 8 ∧ ∃ j < 4, (s.issuePoint k).1.active.getLsbD (4 * n + j) = true := by
  simp [State.slices]

/-- A crew that may join a boat may stand beside each of its members. -/
theorem State.fellows_of_mayJoin {s : State} {k : Crew} {b : Boat} (h : s.mayJoin k b = true) {o : Crew} (ho : o.id ∈ b.members) :
    s.fellows o k := by
  intro x hx slice
  have hjoin := List.all_eq_true.mp h o.id ho
  rw [hx] at hjoin
  simp only [Bool.and_eq_true, beq_iff_eq, Bool.not_eq_true', List.any_eq_false, List.contains_iff_mem] at hjoin
  obtain ⟨⟨⟨⟨hasid, haddr⟩, hactive⟩, hi⟩, hslices⟩ := hjoin
  exact ⟨hasid, haddr, hactive, hi, fun n hn hboth => hslices n ((s.mem_slices x n).mpr ⟨hn, hboth.1⟩) ((s.mem_slices k n).mpr ⟨hn, hboth.2⟩)⟩

/-- The boats after a crew has joined: those of before, but for the one that takes it, or a boat of its own. -/
theorem State.mem_joinBoat {s : State} {k : Crew} {bs : List Boat} {b : Boat} (h : b ∈ s.joinBoat k bs) :
    b ∈ bs ∨ (∃ a ∈ bs, s.mayJoin k a = true ∧ b = { a with members := a.members ++ [k.id] })
      ∨ b = { core := k.core, part := k.part, members := [k.id], cls := k.classNow, ran := false, issued := 0 } := by
  induction bs with
  | nil => exact .inr (.inr (List.mem_singleton.mp h))
  | cons a bs ih =>
    unfold State.joinBoat at h
    split at h
    · next hjoin =>
      obtain rfl | hb := List.mem_cons.mp h
      · exact .inr (.inl ⟨a, List.mem_cons_self .., hjoin, rfl⟩)
      · exact .inl (List.mem_cons_of_mem _ hb)
    · obtain rfl | hb := List.mem_cons.mp h
      · exact .inl (List.mem_cons_self ..)
      · refine (ih hb).imp (List.mem_cons_of_mem _) (Or.imp_left ?_)
        rintro ⟨a', ha', hjoin⟩
        exact ⟨a', List.mem_cons_of_mem _ ha', hjoin⟩

theorem State.members_joinBoat (s : State) (k : Crew) (bs : List Boat) (id : Nat) :
    (∃ b ∈ s.joinBoat k bs, id ∈ b.members) ↔ id = k.id ∨ ∃ b ∈ bs, id ∈ b.members := by
  induction bs with
  | nil => simp [State.joinBoat]
  | cons a bs ih =>
    unfold State.joinBoat
    split
    · simp only [List.exists_mem_cons_iff, List.mem_append, List.mem_singleton]
      tauto
    · simp only [List.exists_mem_cons_iff, ih]
      tauto

theorem State.crewed_joinBoat {s : State} {ok : Crew → Prop} {core part : Nat} {k : Crew} {bs : List Boat} (hk : ok k)
    (hcore : k.core = core) (hpart : k.part = part) (h : ∀ b ∈ bs, s.crewed ok core part b) : ∀ b ∈ s.joinBoat k bs, s.crewed ok core part b := by
  intro b hb
  obtain hb | ⟨a, ha, hjoin, rfl⟩ | rfl := State.mem_joinBoat hb
  · exact h b hb
  · obtain ⟨hacore, hapart, -, cs, hmembers, hok, hfellows⟩ := h a ha
    refine ⟨hacore, hapart, by simp, cs ++ [k], by simp [hmembers], ?_, List.pairwise_append.mpr ⟨hfellows, List.pairwise_singleton _ _, ?_⟩⟩
    · intro c hc
      obtain hc | hc := List.mem_append.mp hc
      · exact hok c hc
      · exact List.mem_singleton.mp hc ▸ hk
    · intro o ho c hc
      rw [List.mem_singleton.mp hc]
      exact State.fellows_of_mayJoin hjoin (hmembers ▸ List.mem_map_of_mem ho)
  · exact ⟨hcore, hpart, by simp, [k], rfl, by simpa using hk, List.pairwise_singleton _ _⟩

/-- The boats that a list of crews forms, one crew after another (R67). -/
def State.formed (s : State) (cs : List Crew) : List Boat := cs.foldl (fun bs k => s.joinBoat k bs) []

theorem State.formed_append (s : State) (cs : List Crew) (k : Crew) : s.formed (cs ++ [k]) = s.joinBoat k (s.formed cs) := by
  simp [State.formed]

theorem State.crewed_formed {s : State} {ok : Crew → Prop} {core part : Nat} {cs : List Crew}
    (h : ∀ k ∈ cs, ok k ∧ k.core = core ∧ k.part = part) : ∀ b ∈ s.formed cs, s.crewed ok core part b := by
  induction cs using List.reverseRecOn with
  | nil => simp [State.formed]
  | append_singleton cs k ih =>
    obtain ⟨hk, hcore, hpart⟩ := h k (by simp)
    rw [State.formed_append]
    exact State.crewed_joinBoat hk hcore hpart (ih fun c hc => h c (by simp [hc]))

theorem State.members_formed (s : State) (cs : List Crew) (id : Nat) : (∃ b ∈ s.formed cs, id ∈ b.members) ↔ ∃ c ∈ cs, c.id = id := by
  induction cs using List.reverseRecOn with
  | nil => simp [State.formed]
  | append_singleton cs k ih =>
    rw [State.formed_append, State.members_joinBoat, ih]
    simp only [List.mem_append, List.mem_singleton, or_and_right, exists_or, exists_eq_left]
    rw [or_comm, eq_comm (a := id)]

/-- BOAT_FORMATION at a cycle that is a multiple of 4 (R67). -/
theorem exec_boatFormation {s : State} {core part : Nat} (h : (s.cycles core).toNat % 4 = 0) :
    ∃ cs : List Crew, (∀ c, c ∈ cs ↔ c ∈ s.crews ∧ c.core = core ∧ c.part = part ∧ s.ready c = true)
      ∧ exec (.boatFormation core part) s =
        .next { s with boats := s.formed cs ++ s.boats.filter fun b => !(b.core == core && b.part == part) } := by
  refine ⟨sortBy (·.classNow) (sortBy (·.lastIssue) ((s.onCore core).filter fun c => c.part == part && s.ready c)), fun c => ?_, ?_⟩
  · simp only [mem_sortBy, State.onCore, List.mem_filter, Bool.and_eq_true, beq_iff_eq]
    tauto
  · have hexec : exec (.boatFormation core part) s = execBoatFormation core part s := rfl
    rw [hexec, execBoatFormation, if_neg (by simp [h])]
    rfl

end Sys2Proof.Machine
end

section
/-! The issue of a boat (spec/03_control.md R68, R69), and what its members do next (R68; spec/04_work.md R117). -/

namespace Sys2Proof.Machine

/-- The boats of a partition whose members are all ready (R68). -/
def State.issuable (s : State) (core part : Nat) : List Boat :=
  (s.boats.filter fun b => b.core == core && b.part == part).filter fun b => !b.members.isEmpty && b.members.all s.readyId

/-- Boat b goes before boat c: it is of a higher class, or of one class and passed over 16 times where c is not, or else issued less recently (R68, R69). -/
def State.boatBefore (s : State) : Boat → Boat → Prop :=
  keyThen (·.cls) (keyThen (fun b => if 16 ≤ s.passes b then 0 else 1) (keyThen (·.issued) fun _ _ => True))

/-- The boats of a partition that may issue, in the order in which they do. -/
def State.issueOrder (s : State) (core part : Nat) : List Boat :=
  sortBy (·.cls) (sortBy (fun b => if 16 ≤ s.passes b then 0 else 1) (sortBy (·.issued) (s.issuable core part)))

theorem State.issueOrder_pairwise (s : State) (core part : Nat) : (s.issueOrder core part).Pairwise s.boatBefore :=
  sortBy_pairwise (sortBy_pairwise (sortBy_pairwise (List.pairwise_of_forall fun _ _ => trivial)))

theorem State.mem_issueOrder {s : State} {core part : Nat} {b : Boat} : b ∈ s.issueOrder core part ↔ b ∈ s.issuable core part := by
  simp [State.issueOrder, mem_sortBy]

theorem State.issueOrder_head {s : State} {core part : Nat} {b : Boat} {rest : List Boat} (h : s.issueOrder core part = b :: rest) :
    b ∈ s.issuable core part ∧ ∀ c ∈ s.issuable core part, c = b ∨ s.boatBefore b c := by
  refine ⟨State.mem_issueOrder.mp (h ▸ List.mem_cons_self ..), fun c hc => ?_⟩
  have hpairs := s.issueOrder_pairwise core part
  rw [h] at hpairs
  exact (List.mem_cons.mp (h ▸ State.mem_issueOrder.mpr hc)).imp_right fun hc => (List.pairwise_cons.mp hpairs).1 c hc

theorem State.boatBefore_cls {s : State} {b c : Boat} (h : s.boatBefore b c) : b.cls ≤ c.cls := by
  obtain h | ⟨h, -⟩ := h
  · exact h.le
  · exact h.le

theorem State.boatBefore_passes {s : State} {b c : Boat} (h : s.boatBefore b c) (hcls : c.cls = b.cls) (hc : 16 ≤ s.passes c) : 16 ≤ s.passes b := by
  obtain h | ⟨-, h⟩ := h
  · exact absurd hcls (Nat.ne_of_gt h)
  · by_contra hb
    simp [keyThen, hb, hc] at h

theorem State.boatBefore_issued {s : State} {b c : Boat} (h : s.boatBefore b c) (hcls : c.cls = b.cls)
    (hpasses : 16 ≤ s.passes c ↔ 16 ≤ s.passes b) : b.issued ≤ c.issued := by
  obtain h | ⟨-, h⟩ := h
  · exact absurd hcls (Nat.ne_of_gt h)
  · obtain h | ⟨-, h⟩ := h
    · simp [hpasses] at h
    · exact h.elim Nat.le_of_lt fun h => h.1.le

theorem exec_boatIssue {s : State} {core part : Nat} {b : Boat} {rest : List Boat} (h : s.issueOrder core part = b :: rest) :
    ∃ t, exec (.boatIssue core part) s = .next t
      ∧ t = { s.bump with crews := t.crews, boats := t.boats, boatOut := s.boatOut ++ [(core, part)], issueQ := t.issueQ }
      ∧ t.crews = (s.crews.map fun (c : Crew) =>
          if (s.issuable core part).any fun x => x.cls == b.cls && x != b && x.members.contains c.id then { c with passed := c.passed + 1 } else c)
      ∧ ∃ order, t.issueQ = s.issueQ ++ order ∧ order.Perm b.members := by
  have hexec : exec (.boatIssue core part) s = execBoatIssue core part s := rfl
  have horder : sortBy (·.cls) (sortBy (fun b => if 16 ≤ s.passes b then 0 else 1) (sortBy (·.issued)
      ((s.boats.filter fun b => b.core == core && b.part == part).filter fun b => !b.members.isEmpty && b.members.all s.readyId))) = b :: rest := h
  rw [hexec, execBoatIssue]
  simp only [horder]
  refine ⟨_, rfl, rfl, List.map_congr_left fun c _ => ?_, _, rfl, sortBy_perm _⟩
  have hothers : (((s.issuable core part).filter fun x => x.cls == b.cls && x != b).flatMap (·.members)).contains c.id
      = (s.issuable core part).any fun x => x.cls == b.cls && x != b && x.members.contains c.id := by
    rw [Bool.eq_iff_iff]
    simp [and_assoc]
  rw [← hothers]
  rfl

/-- A boat that has issued keeps the members that are ready where its first one stands (R68). -/
theorem State.mem_boatDone {s : State} {b : Boat} : b ∈ s.boatDone.boats ↔
    b.members ≠ [] ∧ ∃ a ∈ s.boats, (if a.ran then s.prune a else a) = b := by
  simp [State.boatDone, and_comm]

end Sys2Proof.Machine
end

section
/-! The ends of crews and grids, swaps and ageing (spec/03_control.md R85; spec/04_work.md R90, R97, R108, R117), and ROLE. -/

namespace Sys2Proof.Machine

section
variable {s : State}

/-- The crew of a slot as it is freed: its squad, where it was the last crew, has ended (R85, R89). -/
def State.leftBy (s : State) (c : Crew) (id : Nat) : State :=
  let u := ({ s with crews := s.crews.filter (·.id != id) } : State).forgetCrew id
  { u with squads := u.squads.map fun (q : Squad) =>
      if q.id == c.squad && u.squadDone q && !u.crews.any (·.squad == q.id) then
        { q with ended := true, mem := if u.commanded q.id then q.mem else { seed := q.id, cells := [] }, subs := List.replicate 16 SubSlot.empty }
      else q }

theorem exec_crewResourcesFreed {id : Nat} {c : Crew} (hc : s.crew? id = some c) (hended : c.ended = true) (hwrites : s.crewWritesDone id = true)
    (howes : s.owesAccess c = false) (hsb : c.sb = []) (hcmds : ∀ m ∈ s.cmds, m.crew = id → m.number ≠ 0) (hops : ∀ o ∈ s.matops, o.crew ≠ id) :
    exec (.crewResourcesFreed id) s = .next (s.leftBy c id) := by
  have hexec : exec (.crewResourcesFreed id) s = execCrewResourcesFreed id s := rfl
  have hcmds' : s.cmds.any (fun m => m.crew == id && m.number == 0) = false := List.any_eq_false.mpr fun m hm => by simpa using hcmds m hm
  have hops' : s.matops.any (·.crew == id) = false := List.any_eq_false.mpr fun o ho => by simpa using hops o ho
  rw [hexec, execCrewResourcesFreed]
  simp only [hc, hended, hwrites, howes, hsb, hcmds', hops', List.isEmpty_nil, Bool.not_true, Bool.or_self, Bool.false_eq_true, if_false]
  rfl

/-- A squad none of whose crews is left has ended (R89). -/
theorem State.leftBy_squad {c : Crew} {id : Nat} {q : Squad} (hq : q ∈ s.squads) (hsquad : q.id = c.squad) (hswapped : q.swapped = [])
    (hsaved : ∀ x ∈ s.saved, x.crew.squad ≠ q.id) (hlast : ∀ x ∈ s.crews, x.squad = q.id → x.id = id) :
    ∃ q' ∈ (s.leftBy c id).squads, q'.id = q.id ∧ q'.ended = true := by
  have hgone : ∀ x ∈ s.crews.filter (·.id != id), x.squad ≠ q.id := fun x hx h => by
    obtain ⟨hx, hid⟩ := List.mem_filter.mp hx
    exact absurd (hlast x hx h) (by simpa using hid)
  have hcrews : (s.crews.filter (·.id != id)).any (·.squad == q.id) = false :=
    List.any_eq_false.mpr fun x hx => by simpa using hgone x hx
  have hlive : (s.crews.filter (·.id != id)).any (fun x => x.squad == q.id && !x.ended) = false :=
    List.any_eq_false.mpr fun x hx => by simp [hgone x hx]
  have hback : s.saved.any (fun x => x.crew.squad == q.id) = false := List.any_eq_false.mpr fun x hx => by simpa using hsaved x hx
  have hdone : (({ s with crews := s.crews.filter (·.id != id) } : State).forgetCrew id).squadDone q = true := by
    simp only [State.squadDone, State.forgetCrew, hlive, hswapped, hback]
    rfl
  refine ⟨_, List.mem_map_of_mem hq, ?_⟩
  rw [if_pos]
  · exact ⟨rfl, rfl⟩
  · have hsq : (q.id == c.squad) = true := beq_iff_eq.mpr hsquad
    simp only [hsq, hdone, Bool.true_and]
    simp only [State.forgetCrew, hcrews, Bool.not_false]

/-- A grid with nothing left whose counter add home has still to make (R90). -/
theorem exec_gridRetirement_of_owed {h : BitVec 64} {g : Grid} {u : State} {x : Option Nat} (hg : s.grid? h = some g)
    (hr : s.canRetire g = true) (hadd : s.counterAdd g.asid g.counter.toNat g.add = (u, false, x)) :
    exec (.gridRetirement h.toNat) s = .next (u.setGrid { g with add := x }) := by
  have hexec : exec (.gridRetirement h.toNat) s = execGridRetirement h.toNat s := rfl
  rw [hexec, execGridRetirement, BitVec.ofNat_toNat, BitVec.setWidth_eq]
  simp only [hg, hr, hadd, Bool.not_true, Bool.false_eq_true, if_false]

/-- A grid with nothing left whose counter add is made (R90, R104). -/
theorem exec_gridRetirement_of_made {h : BitVec 64} {g : Grid} {u : State} {x : Option Nat} (hg : s.grid? h = some g)
    (hr : s.canRetire g = true) (hadd : s.counterAdd g.asid g.counter.toNat g.add = (u, true, x)) :
    exec (.gridRetirement h.toNat) s = .next { (u.releaseWaiters g) with
      grids := (u.releaseWaiters g).grids.filter (·.handle != g.handle), squads := (u.releaseWaiters g).squads.filter (·.grid != g.handle) } := by
  have hexec : exec (.gridRetirement h.toNat) s = execGridRetirement h.toNat s := rfl
  rw [hexec, execGridRetirement, BitVec.ofNat_toNat, BitVec.setWidth_eq]
  simp only [hg, hr, hadd, Bool.not_true, Bool.false_eq_true, if_false]

theorem exec_swapOutForRoom {sq : Nat} (hsome : ∃ c ∈ s.crews, c.squad = sq ∧ c.ended = false)
    (hall : ∀ c ∈ s.crews, c.squad = sq → c.ended = false → (s.ctx c.asid).swap = true ∧ s.stoppedInWaitc c = true)
    (hlong : ∃ g ∈ s.grids, g.next < g.dimX * g.dimY * g.dimZ ∧ g.since + 10000 ≤ s.time.toNat) :
    exec (.swapOutForRoom sq) s = .next (s.swapOut sq) := by
  have hexec : exec (.swapOutForRoom sq) s = execSwapOutForRoom sq s := rfl
  have hmem (c : Crew) : c ∈ s.crews.filter (fun c => c.squad == sq && !c.ended) ↔ c ∈ s.crews ∧ c.squad = sq ∧ c.ended = false := by simp
  have hne : (s.crews.filter fun c => c.squad == sq && !c.ended).isEmpty = false := by
    obtain ⟨c, hc⟩ := hsome
    exact List.isEmpty_eq_false_iff.mpr (List.ne_nil_of_mem ((hmem c).mpr hc))
  have hstopped : (s.crews.filter fun c => c.squad == sq && !c.ended).all (fun c => (s.ctx c.asid).swap && s.stoppedInWaitc c) = true :=
    List.all_eq_true.mpr fun c hc => by
      obtain ⟨hc, hsq, hended⟩ := (hmem c).mp hc
      exact Bool.and_eq_true_iff.mpr (hall c hc hsq hended)
  have hwaits : s.grids.any s.waitsLong = true := by
    obtain ⟨g, hg, hnext, hsince⟩ := hlong
    exact List.any_eq_true.mpr ⟨g, hg, by simp [State.waitsLong, hnext, hsince]⟩
  rw [hexec, execSwapOutForRoom]
  simp only [hne, hstopped, hwaits, Bool.not_false, Bool.and_self, if_true]

/-- A squad back from the swap area: its crews of the launch at their places, then those of the SPAWN pool in their contexts (R108). -/
def State.resumed (s : State) (q : Squad) (core : Nat) (places : List (Nat × Nat)) (contexts : List Nat) : State :=
  let t := ((q.swapped.filter (!·.pool)).zip places).foldl (fun (u : State) x => u.swapCrewIn x.1 core x.2.1 x.2.2)
    (s.setSquad { q with swapped := [], core := core })
  (((q.swapped.filter (·.pool)).zip contexts).foldl (fun (u : State) x => u.swapCrewIn x.1 core (x.2 % 4) (64 + x.2)) t).pollWaitc

theorem exec_joinResume {sq core n : Nat} {q : Squad} {places : List (Nat × Nat)} (hn : (q.swapped.map (·.n)).getD 0 8 = n)
    (hq : s.squad? sq = some q) (hout : q.swapped ≠ [])
    (hwrites : ∀ c ∈ q.swapped, ∀ w ∈ s.writes, w.crew = some c.id → w.done = true) (hchildren : s.childrenOf sq = 0)
    (hcore : s.coresUp.contains core = true) (hmem : q.memLen ≤ s.memFree core)
    (htiles : (q.swapped.map (·.tileSlots.length)).sum ≤ (s.freeTiles core (q.asid, (s.ctx q.asid).key)).length) (hsubs : s.subsFit core q = true)
    (hplaces : s.placement core n (q.swapped.filter (!·.pool)).length [] = some places)
    (hcontexts : (q.swapped.filter (·.pool)).length ≤ (s.poolFree core n (q.swapped.filter (·.pool)).length).length) :
    exec (.joinResume sq core) s = .next (s.resumed q core places (s.poolFree core n (q.swapped.filter (·.pool)).length)) := by
  have hexec : exec (.joinResume sq core) s = execJoinResume sq core s := rfl
  have hout' : q.swapped.isEmpty = false := List.isEmpty_eq_false_iff.mpr hout
  have hwrites' : q.swapped.any (fun c => s.writes.any fun w => w.crew == some c.id && !w.done) = false := by
    refine List.any_eq_false.mpr fun c hc => ?_
    simpa using fun w hw h => hwrites c hc w hw h
  rw [hexec, execJoinResume]
  simp only [hq, hn, hout', hchildren, hcore, hwrites', hsubs, Nat.not_lt.mpr hmem, Nat.not_lt.mpr htiles, hplaces, Nat.not_lt.mpr hcontexts,
    bne_self_eq_false, Bool.not_true, decide_false, Bool.or_self, Bool.false_eq_true, if_false]
  rfl

theorem State.mem_ages {c : Crew} (hc : c ∈ s.crews) (h : (s.region (c.core / 20)).stopped = false) :
    { c with age := if s.ready c then c.age + 1 else 0 } ∈ s.ages.crews :=
  List.mem_map.mpr ⟨c, hc, if_neg (by simp only [regionOf, h, Bool.false_eq_true, not_false_eq_true])⟩

theorem exec_agePromotion {id : Nat} {c : Crew} (hc : s.crew? id = some c) (hready : s.ready c = true) (hage : s.schedAge ≤ c.age)
    (hraised : c.raised < classNat c.role) : exec (.agePromotion id) s = .next (s.setCrew { c with raised := c.raised + 1, age := 0 }) := by
  have hexec : exec (.agePromotion id) s = execAgePromotion id s := rfl
  rw [hexec, execAgePromotion]
  simp only [hc, hready, hage, hraised, decide_true, Bool.and_self, if_true]

end

/-- An instruction that closes windows and ends by advancing its crew, from the crew as it found it. -/
theorem goesTo_of_closed {s : State} {k c m : Crew} {i : Instr} (h : exec i s = .next ((s.entering k i).done i m k.active))
    (hm : m.closedFrom c i k.active) (hplace : c.id = k.id ∧ c.core = k.core)
    (hc : c.rep = k.rep ∧ ∀ l, (c.thread l).pcv = (k.thread l).pcv ∧ (c.thread l).yex = (k.thread l).yex) : s.goesTo k i s.bump c := by
  have hframe := hm.frame
  obtain ⟨hcid, hccore⟩ := hplace
  obtain ⟨hrep, hplace⟩ := hc
  have hcore : m.core = k.core := by rw [hframe, ← hccore]
  have hid : (m.advance i k.active (s.cycles k.core).toNat).id = k.id := by rw [Crew.advance_id, hframe, ← hcid]
  refine ⟨m.advance i k.active (s.cycles k.core).toNat, ?_, ?_⟩
  · rw [h, State.done, hcore, State.cycles_entering, State.entering_setCrew s i hid]
  · refine Crew.movedFrom_congr (c := m) (Crew.advance_from k m i _ ?_ (by rw [hm.loads, closedLoads_idem]) fun l _ => ?_) hframe
      (by rw [hm.loads, Crew.loadsAfter_closed]) hm.length fun l _ => hm.thread l
    · rw [hframe, ← hrep]
    · rw [hm.thread l]
      exact hplace l

theorem exec_role {s : State} {k : Crew} {imm : RoleClass} (hr : s.runs k (.role imm)) : s.goesTo k (.role imm) s.bump { k with role := imm } := by
  have hm : ({ k.entering (.role imm) with role := imm } : Crew).closedFrom { k with role := imm } (.role imm) k.active := by
    obtain ⟨hm, hlen, hthread⟩ := k.entering_closedFrom (.role imm)
    refine ⟨?_, hlen, hthread⟩
    generalize (k.entering (.role imm)).threads = ths at hm
    rw [hm]
  exact goesTo_of_closed (issue_runs hr _ : execRole imm s = _) hm ⟨rfl, rfl⟩ ⟨rfl, fun _ => ⟨rfl, rfl⟩⟩

end Sys2Proof.Machine

open Sys2Proof Sys2Proof.Machine

/-- Settles O31: the ends and swaps by the conditions of their events, the boats by how they form, stand in order and are pruned. -/
theorem endsSwapsBoats : Obligations.EndsSwapsBoats := by
  unfold Obligations.EndsSwapsBoats
  refine ⟨fun s => ⟨?_, ?_, ?_, ?_, ?_⟩, fun s => ⟨?_, ?_, ?_, ?_, ?_, ?_⟩⟩
  · intro id c hc hended hwrites howes hsb hcmds hops
    refine ⟨s.leftBy c id, exec_crewResourcesFreed hc hended hwrites howes hsb hcmds hops, rfl, fun b hb => ?_, ?_, fun q hq hsq => ?_,
      fun q hq hsq hswapped hsaved hlast => State.leftBy_squad hq hsq hswapped hsaved hlast, ⟨rfl, rfl, rfl, rfl, rfl⟩, rfl, rfl⟩
    · obtain ⟨a, -, rfl⟩ := List.mem_map.mp hb
      simp
    · simp [State.leftBy, State.forgetCrew]
    · exact List.mem_map.mpr ⟨q, hq, by simp [hsq]⟩
  · exact fun h g u x hg hr hadd => exec_gridRetirement_of_owed hg hr hadd
  · exact fun h g u x hg hr hadd => exec_gridRetirement_of_made hg hr hadd
  · intro sq hsome hall hlong
    exact exec_swapOutForRoom hsome hall hlong
  · intro sq core q places normal pool n contexts hq hout hwrites hchildren hcore hmem htiles hsubs hplaces hcontexts
    exact exec_joinResume rfl hq hout hwrites hchildren hcore hmem htiles hsubs hplaces hcontexts
  · intro core part hcycle
    obtain ⟨cs, hcs, hexec⟩ := exec_boatFormation (part := part) hcycle
    have hcrewed := State.crewed_formed (s := s) (ok := (· ∈ s.crews)) (core := core) (part := part) (cs := cs) fun k hk => by
      obtain ⟨hk, hcore, hpart, -⟩ := (hcs k).mp hk
      exact ⟨hk, hcore, hpart⟩
    refine ⟨s.formed cs, hexec, fun b hb => ?_, fun id => ?_, fun b hb => ?_⟩
    · obtain ⟨hcore, hpart, hne, -⟩ := hcrewed b hb
      exact ⟨hcore, hpart, hne⟩
    · rw [s.members_formed]
      simp only [hcs]
      exact exists_congr fun c => by tauto
    · obtain ⟨-, -, -, hmembers⟩ := hcrewed b hb
      exact hmembers
  · intro core part can hcan
    obtain ⟨b, rest, horder⟩ : ∃ b rest, s.issueOrder core part = b :: rest := by
      obtain ⟨c, hc⟩ := List.exists_mem_of_ne_nil can hcan
      exact List.exists_cons_of_ne_nil (List.ne_nil_of_mem (State.mem_issueOrder.mpr hc))
    obtain ⟨hb, hfirst⟩ := State.issueOrder_head horder
    refine ⟨b, hb, fun c hc => ?_, fun c hc hcls hpasses => ?_, fun c hc hcls hpasses => ?_, exec_boatIssue horder⟩
    · obtain rfl | h := hfirst c hc
      · exact le_rfl
      · exact State.boatBefore_cls h
    · obtain rfl | h := hfirst c hc
      · exact hpasses
      · exact State.boatBefore_passes h hcls hpasses
    · obtain rfl | h := hfirst c hc
      · exact le_rfl
      · exact State.boatBefore_issued h hcls hpasses
  · intro address
    refine ⟨_, rfl, rfl, fun b hb hran hne => ?_, fun b hb hran first rest hmembers => ?_⟩
    · exact State.mem_boatDone.mpr ⟨hne, b, hb, by simp [hran]⟩
    · intro kept hkept
      refine State.mem_boatDone.mpr ⟨hkept, b, hb, ?_⟩
      rw [if_pos hran, State.prune]
      simp only [kept, hmembers]
      rfl
  · exact fun c hc h => State.mem_ages hc h
  · intro id c hc hready hage hraised
    refine exec_agePromotion hc hready hage ?_
    cases hrole : c.role <;> rw [hrole] at hraised <;> exact hraised
  · exact fun k imm hr => exec_role hr
end

section
/-! The ends that instructions of work creation share (spec/02_encoding.md R33, R39, R66): a crew that has closed lookahead windows completes or stops
in a state that its instruction has changed beside it. -/

namespace Sys2Proof.Machine

/-- Crew k with another scoreboard (R33). -/
def Crew.board (k : Crew) (sb : List Nat) : Crew := { k with sb := sb }

theorem Crew.await_eq_board (k : Crew) (r : Reply) : k.await r = k.board (k.await r).sb := k.await_frame r

theorem Crew.board_entering (k : Crew) (i : Instr) : (k.entering i).board k.sb = k.entering i := by
  conv_rhs => rw [k.entering_frame i]
  conv_lhs => rw [k.entering_frame i]
  rfl

theorem Crew.await_entering (k : Crew) (i : Instr) (r : Reply) : (k.entering i).await r = (k.entering i).board (k.await r).sb := by
  rw [k.entering_frame i]
  unfold Crew.await
  split <;> rfl

theorem Crew.closedLoads_entering (k : Crew) (i : Instr) : closedLoads i k.active (k.entering i).loads = (k.entering i).loads := by
  rw [k.entering_loads, closedLoads_idem]

theorem Crew.closedFrom.board {m k : Crew} {i : Instr} {act : Lanes} (h : m.closedFrom k i act) (sb : List Nat) :
    (m.board sb).closedFrom (k.board sb) i act := by
  obtain ⟨hm, hlen, hthread⟩ := h
  refine ⟨?_, hlen, hthread⟩
  generalize hths : m.threads = ths at hm
  subst hm
  rfl

theorem Crew.entering_thread (k : Crew) (i : Instr) (l : Nat) :
    (k.entering i).thread l = if closesWindow i && k.active.getLsbD l then (k.thread l).endWin else k.thread l := by
  unfold Crew.entering Crew.closeWin
  cases closesWindow i
  · rfl
  · by_cases hl : l < k.threads.length
    · exact Crew.thread_mapT k _ hl
    · have hout : k.thread l = Thread.none := Crew.thread_of_le (Nat.not_lt.mp hl)
      have hout' : (k.mapT fun n t => if k.active.getLsbD n then t.endWin else t).thread l = Thread.none :=
        Crew.thread_of_le (by simpa using hl)
      have hnone : Thread.none.endWin = Thread.none := rfl
      rw [hout, hnone, ite_self]
      exact hout'

theorem State.checkPage_entering (s : State) (k : Crew) (i : Instr) (acc : Acc) (va : Nat) :
    (s.entering k i).checkPage (k.entering i) acc va = s.bump.checkPage k acc va := by
  rw [k.entering_frame i]
  unfold State.entering State.closed
  split <;> rfl

/-- What an instruction enters with differs from the state before in its crew alone. -/
theorem State.entering_eq (s : State) (k : Crew) (i : Instr) : s.entering k i = { s.bump with crews := (s.entering k i).crews } := by
  unfold State.entering State.closed
  split <;> rfl

/-- A change of the state beside its crews, made after a crew has entered, is made to the state before. -/
theorem State.entering_setCrew_of {F : State → State} (hF : ∀ u x, (F u).setCrew x = F (u.setCrew x)) (s : State) {k c : Crew} (i : Instr)
    (h : c.id = k.id) : (F (s.entering k i)).setCrew c = (F s.bump).setCrew c := by
  rw [hF, State.entering_setCrew s i h, hF]

/-- A thread whose windows its crew's instruction has closed has none left to close. -/
theorem Crew.entering_endWin {k : Crew} {i : Instr} {l : Nat} (h : (closesWindow i && k.active.getLsbD l) = true) :
    ((k.entering i).thread l).endWin = (k.entering i).thread l := by
  rw [k.entering_thread i l, if_pos h, Thread.endWin_idem]

/-- Crew c as it stops until w ends, at a time of its region. -/
def Crew.stop (c : Crew) (w : Wait) (act : Lanes) (now : Nat) : Crew :=
  { (if w.again then c else c.endYield).issued now with wait := some w, waitLanes := act }

theorem State.waits_eq (s : State) (c : Crew) (w : Wait) (act : Lanes) : s.waits c w act = s.setCrew (c.stop w act (s.cycles c.core).toNat) := rfl

/-- A crew that stops with its windows closed has stopped from what it was before. -/
theorem Crew.stopped_of_entering {k k' : Crew} {i : Instr} {sb : List Nat} {w : Wait} {now : Nat}
    (h : ((k.entering i).board sb).stopped k' i k.active w now) : (k.board sb).stopped k' i k.active w now := by
  obtain ⟨hk', hlen, hthread⟩ := h
  have hclosed := k.entering_closedFrom i
  refine ⟨hk'.trans ?_, hlen.trans hclosed.length, fun l hl => ?_⟩
  · obtain ⟨hm, -, -⟩ := hclosed.board sb
    rw [hm, closedLoads_idem]
  · have hlane : k'.thread l = { (k.entering i).thread l with
        yex := w.again && ((k.entering i).thread l).yex
        win := (if closesWindow i && k.active.getLsbD l then ((k.entering i).thread l).endWin else (k.entering i).thread l).win } :=
      hthread l (hclosed.length.symm ▸ hl)
    have hwin : (if closesWindow i && k.active.getLsbD l then ((k.entering i).thread l).endWin else (k.entering i).thread l)
        = (k.entering i).thread l := by
      split
      · next h => exact Crew.entering_endWin h
      · rfl
    rw [hlane, hwin, k.entering_thread i l]
    change _ = ({ k.thread l with
      yex := w.again && (k.thread l).yex
      win := (if closesWindow i && k.active.getLsbD l then (k.thread l).endWin else k.thread l).win } : Thread)
    split <;> rfl

theorem Crew.stopped_id {c k' : Crew} {i : Instr} {act : Lanes} {w : Wait} {now : Nat} (h : c.stopped k' i act w now) : k'.id = c.id := by
  obtain ⟨hk', -, -⟩ := h
  rw [hk']

/-- A crew that moves on with its windows closed has moved on from what it was before. -/
theorem Crew.movedFrom.congr_closed {k m c k' : Crew} {i : Instr} {now : Nat} (h : k.movedFrom m k' i now) (hm : m.closedFrom c i k.active) :
    k.movedFrom c k' i now :=
  Crew.movedFrom_congr h hm.frame (by rw [hm.loads, Crew.loadsAfter_closed]) hm.length fun l _ => hm.thread l

section
variable {u t : State} {k : Crew} {i : Instr} (hu : ∀ x : Crew, x.id = k.id → u.setCrew x = t.setCrew x) (hnow : u.cycles k.core = t.cycles k.core)
  (sb : List Nat)
include hu hnow

/-- The crew goes on: it has moved from what it was as its instruction found it, its scoreboard aside. -/
theorem State.done_entering :
    ∃ k', k.movedFrom (k.board sb) k' i (t.cycles k.core).toNat ∧ u.done i ((k.entering i).board sb) k.active = t.setCrew k' := by
  obtain ⟨m, hm⟩ : ∃ m, (k.entering i).board sb = m := ⟨_, rfl⟩
  have hclosed := (k.entering_closedFrom i).board sb
  rw [hm] at hclosed ⊢
  have hplace : m.id = k.id ∧ m.core = k.core ∧ m.rep = k.rep := by
    rw [hclosed.frame]
    exact ⟨rfl, rfl, rfl⟩
  obtain ⟨hid, hcore, hrep⟩ := hplace
  have hfrom := Crew.advance_from k m i (t.cycles k.core).toNat hrep (by rw [hclosed.loads, closedLoads_idem]) fun l _ => by
    rw [hclosed.thread l]
    exact ⟨rfl, rfl⟩
  refine ⟨_, hfrom.congr_closed hclosed, ?_⟩
  rw [State.done, hcore, hnow, hu _ ((Crew.advance_id _ _ _ _).trans hid)]

/-- The crew stops until its event. -/
theorem State.waits_entering (w : Wait) :
    ∃ k', u.waits ((k.entering i).board sb) w k.active = t.setCrew k'
      ∧ (k.board sb).stopped k' i k.active w (t.cycles k.core).toNat := by
  have hcore : ((k.entering i).board sb).core = k.core := (k.entering_place i).1
  have hstop : (k.board sb).stopped (((k.entering i).board sb).stop w k.active (t.cycles k.core).toNat) i k.active w (t.cycles k.core).toNat :=
    Crew.stopped_of_entering (waits_stopped _ i k.active w _ (k.closedLoads_entering i) fun ho l _ hl => Crew.entering_endWin (by rw [ho, hl]; rfl))
  have hid : (((k.entering i).board sb).stop w k.active (t.cycles k.core).toNat).id = k.id := Crew.stopped_id (c := k.board sb) hstop
  exact ⟨_, by rw [State.waits_eq, hcore, hnow, hu _ hid], hstop⟩

theorem State.done_self : ∃ k', k.movedFrom k k' i (t.cycles k.core).toNat ∧ u.done i (k.entering i) k.active = t.setCrew k' := by
  rw [← k.board_entering i]
  exact State.done_entering hu hnow k.sb

theorem State.done_await (r : Reply) :
    ∃ k', k.movedFrom (k.await r) k' i (t.cycles k.core).toNat ∧ u.done i ((k.entering i).await r) k.active = t.setCrew k' := by
  rw [k.await_entering i r, k.await_eq_board r]
  exact State.done_entering hu hnow _

theorem State.waits_self (w : Wait) :
    ∃ k', u.waits (k.entering i) w k.active = t.setCrew k' ∧ k.stopped k' i k.active w (t.cycles k.core).toNat := by
  rw [← k.board_entering i]
  exact State.waits_entering hu hnow k.sb w

theorem State.waits_await (r : Reply) (w : Wait) :
    ∃ k', u.waits ((k.entering i).await r) w k.active = t.setCrew k' ∧ (k.await r).stopped k' i k.active w (t.cycles k.core).toNat := by
  rw [k.await_entering i r, k.await_eq_board r]
  exact State.waits_entering hu hnow _ w

end

end Sys2Proof.Machine
end

section
/-! LAUNCH, FORK and JOIN at issue, and the squads they suspend (spec/04_work.md R103, R107 to R109). -/

namespace Sys2Proof.Machine

/-- The launch that LAUNCH or FORK leaves pending for the record at a deck offset (R103, R109). -/
def State.launchOf (u : State) (k : Crew) (r : Reply) (off : Nat) (fork : Bool) : PendingLaunch :=
  { crew := k.id, squad := k.squad, core := k.core, asid := k.asid, off := off, depth := (k.sc 7 + 1).toNat % 256, parent := k.grid, reply := r
    fork := fork, after := u.orderedIds k.id }

/-- A launch is pending, and read at once if it may be. -/
def State.submit (u : State) (p : PendingLaunch) : State := ({ u with launches := u.launches ++ [p] } : State).resolveLaunch p

theorem State.launchOf_entering (s : State) (k : Crew) (i : Instr) (r : Reply) (off : Nat) (fork : Bool) :
    (s.entering k i).launchOf (k.entering i) r off fork = s.bump.launchOf k r off fork := by
  rw [k.entering_frame i, s.entering_eq k i]
  rfl

theorem State.releases_entering (u : State) (k : Crew) (i : Instr) (crewOnly : Bool) : u.releases (k.entering i) crewOnly = u.releases k crewOnly := by
  rw [k.entering_frame i]
  rfl

theorem State.cycles_releases (u : State) (k : Crew) (crewOnly : Bool) (core : Nat) : (u.releases k crewOnly).cycles core = u.cycles core := rfl

theorem Crew.entering_sc (k : Crew) (i : Instr) (n : Nat) : (k.entering i).sc n = k.sc n := (k.entering_closedFrom i).sc n

/-- A record that LAUNCH or FORK may read later: the launch is pending behind the writes that its release covers (R103, R109). -/
theorem State.launchCrew_eq {u : State} {m : Crew} {i : Instr} {act : Lanes} {r : Reply} {a : BitVec 6} {fork : Bool} {off : Nat}
    (hdepth : m.sc 7 ≠ 10) (halign : (m.pr a.toNat).toNat % 256 = 0) (hva : (m.pr a.toNat).toNat < 2 ^ 47)
    (hpage : u.checkPage m .load (m.pr a.toNat).toNat = .ok (.deck off)) :
    u.launchCrew i m act r a fork =
      (if fork then (u.releases m false).waits (m.await r) (.join r 0 none) act else (u.releases m false).done i (m.await r) act).submit
        (u.launchOf m r off fork) := by
  simp only [State.launchCrew, hpage]
  rw [if_neg (mt beq_iff_eq.mp hdepth), if_neg (by simp [halign]), if_neg (Nat.not_le.mpr hva)]
  rfl

section
variable {s : State} {k : Crew} {i : Instr} {r : Reply} {a : BitVec 6} {fork : Bool}

/-- The checks of LAUNCH and FORK: what they trap for (R103, R109). -/
theorem State.launchCrew_traps :
    let va := (k.pr a.toNat).toNat
    let u := s.entering k i
    let m := k.entering i
    let launch : State := u.launchCrew i m k.active r a fork
    (k.sc 7 = 10 → launch = u.trapAll m .depthLimit k.active)
    ∧ (k.sc 7 ≠ 10 → va % 256 ≠ 0 → launch = u.trapAt m .misalign k.active va)
    ∧ (k.sc 7 ≠ 10 → va % 256 = 0 → 2 ^ 47 ≤ va → launch = u.trapAt m .farAccess k.active va)
    ∧ (k.sc 7 ≠ 10 → va % 256 = 0 → va < 2 ^ 47 → ∀ c, s.bump.checkPage k .load va = .error c → launch = u.trapAt m c k.active va) := by
  simp only [State.launchCrew, Crew.entering_sc, Crew.entering_pr, State.checkPage_entering]
  refine ⟨fun hdepth => ?_, fun hdepth halign => ?_, fun hdepth halign hva => ?_, fun hdepth halign hva c hc => ?_⟩
  · rw [if_pos (beq_iff_eq.mpr hdepth)]
  · rw [if_neg (mt beq_iff_eq.mp hdepth), if_pos (bne_iff_ne.mpr halign)]
  · rw [if_neg (mt beq_iff_eq.mp hdepth), if_neg (by simp [halign]), if_pos hva]
  · rw [if_neg (mt beq_iff_eq.mp hdepth), if_neg (by simp [halign]), if_neg (Nat.not_le.mpr hva), hc]

variable {off : Nat} (hdepth : k.sc 7 ≠ 10) (halign : (k.pr a.toNat).toNat % 256 = 0) (hva : (k.pr a.toNat).toNat < 2 ^ 47)
  (hpage : s.bump.checkPage k .load (k.pr a.toNat).toNat = .ok (.deck off))
include hdepth halign hva hpage

theorem State.launchCrew_of_readable :
    (s.entering k i).launchCrew i (k.entering i) k.active r a fork =
      let v := (s.entering k i).releases k false
      (if fork then v.waits ((k.entering i).await r) (.join r 0 none) k.active else v.done i ((k.entering i).await r) k.active).submit
        (s.bump.launchOf k r off fork) := by
  rw [State.launchCrew_eq ((k.entering_sc i 7).trans_ne hdepth) (by rwa [Crew.entering_pr]) (by rwa [Crew.entering_pr])
    (by rwa [Crew.entering_pr, State.checkPage_entering]), State.launchOf_entering, State.releases_entering]

/-- LAUNCH goes on with its reply outstanding (R103). -/
theorem State.launchCrew_moves :
    ∃ k', (s.entering k i).launchCrew i (k.entering i) k.active r a false = ((s.bump.releases k false).setCrew k').submit (s.bump.launchOf k r off false)
      ∧ k.movedFrom (k.await r) k' i (s.cycles k.core).toNat := by
  obtain ⟨k', hmoved, hdone⟩ := State.done_await (k := k) (i := i)
    (fun x hx => State.entering_setCrew_of (F := (·.releases k false)) (fun _ _ => rfl) s i hx)
    (by rw [State.cycles_releases, State.cycles_releases, State.cycles_entering]; rfl) r
  refine ⟨k', ?_, hmoved⟩
  rw [State.launchCrew_of_readable hdepth halign hva hpage, ← hdone]
  rfl

/-- FORK waits (R109). -/
theorem State.launchCrew_waits :
    ∃ k', (s.entering k i).launchCrew i (k.entering i) k.active r a true = ((s.bump.releases k false).setCrew k').submit (s.bump.launchOf k r off true)
      ∧ (k.await r).stopped k' i k.active (.join r 0 none) (s.cycles k.core).toNat := by
  obtain ⟨k', hwaits, hstopped⟩ := State.waits_await (k := k) (i := i)
    (fun x hx => State.entering_setCrew_of (F := (·.releases k false)) (fun _ _ => rfl) s i hx)
    (by rw [State.cycles_releases, State.cycles_releases, State.cycles_entering]; rfl) r (.join r 0 none)
  refine ⟨k', ?_, hstopped⟩
  rw [State.launchCrew_of_readable hdepth halign hva hpage, ← hwaits]
  rfl

end

section
variable {s : State} {k : Crew} {r : Reply}

theorem exec_launch {a : BitVec 6} (hr : s.runs k (.launch r a)) :
    exec (.launch r a) s = .next ((s.entering k (.launch r a)).launchCrew (.launch r a) (k.entering (.launch r a)) k.active r a false) :=
  (issue_runs hr _ : execLaunch r a s = _)

theorem exec_fork {a : BitVec 6} (hr : s.runs k (.fork r a)) (he : s.e7 k = true) :
    exec (.fork r a) s = .next ((s.entering k (.fork r a)).launchCrew (.fork r a) (k.entering (.fork r a)) k.active r a true) :=
  (issueLegal_runs hr (bad := fun s k => !s.e7 k) (by simp [he]) _ : execFork r a s = _)

/-- Nothing of a squad is in flight: no child and no launch still to be read (R108). -/
def State.childless (s : State) (sq : Nat) : Prop := s.childrenOf sq = 0 ∧ ∀ p ∈ s.launches, p.squad ≠ sq

theorem State.childless_iff (s : State) (sq : Nat) : (s.childrenOf sq == 0 && !s.launches.any (·.squad == sq)) = true ↔ s.childless sq := by
  simp [State.childless]

theorem State.childless_entering (s : State) (k : Crew) (i : Instr) : (s.entering k i).childless = s.childless := by
  rw [s.entering_eq k i]
  rfl

/-- JOIN replies at once for a squad of which nothing is in flight, and waits otherwise (R108). -/
theorem exec_join (hr : s.runs k (.join r)) (he : s.e7 k = true) :
    (s.childless k.squad → exec (.join r) s =
      .next (((s.entering k (.join r)).done (.join r) (k.entering (.join r)) k.active).replyTo k.id r 0))
    ∧ (¬ s.childless k.squad → exec (.join r) s =
      .next ((s.entering k (.join r)).waits ((k.entering (.join r)).await r) (.join r 0 none) k.active)) := by
  have hexec : exec (.join r) s = _ := (issueLegal_runs hr (bad := fun s k => !s.e7 k) (by simp [he]) _ : execJoin r s = _)
  have hsquad : (k.entering (.join r)).squad = k.squad := by rw [k.entering_frame]
  rw [← s.childless_entering k (.join r), ← State.childless_iff, ← hsquad, hexec, ← (k.entering_place (.join r)).2]
  exact ⟨fun h => by rw [if_pos h], fun h => by rw [if_neg h]⟩

end

/-- A squad with a crew in FORK or JOIN is out for all of them while it has children (R108, R109). -/
theorem State.suspendSquad_of_children {s : State} {q : Squad}
    (hjoin : ∃ c ∈ s.crews.filter (fun c => c.squad == q.id && !c.ended), c.inJoin = true) (hlaunches : ∀ p ∈ s.launches, p.squad ≠ q.id)
    (hstopped : ∀ c ∈ s.crews.filter (fun c => c.squad == q.id && !c.ended), c.performing = false ∧ c.id ∉ s.issueQ)
    (hchildren : s.childrenOf q.id ≠ 0) :
    s.suspendSquad q = ({ s with crews := s.crews.map fun (c : Crew) => if c.squad == q.id then c.joins (s.childrenOf q.id) else c } : State).swapOut q.id := by
  have hany : (s.crews.filter fun c => c.squad == q.id && !c.ended).any Crew.inJoin = true := List.any_eq_true.mpr hjoin
  have hnone : s.launches.any (·.squad == q.id) = false := List.any_eq_false.mpr fun p hp => by simpa using hlaunches p hp
  have hbusy : (s.crews.filter fun c => c.squad == q.id && !c.ended).any (fun c => c.performing || s.issueQ.contains c.id) = false :=
    List.any_eq_false.mpr fun c hc => by simpa using hstopped c hc
  unfold State.suspendSquad
  simp only [hany, hnone, hbusy, beq_false_of_ne hchildren, Bool.not_true, Bool.or_self, Bool.false_eq_true, if_false]

end Sys2Proof.Machine
end

section
/-! A pending launch as its record is read, and a grid as it is accepted (spec/04_work.md R91 to R94, R103). -/

namespace Sys2Proof.Machine

section
variable {s : State} {p : PendingLaunch}

/-- A launch whose record lies in present lines, and whose release is performed (R103). -/
def State.launchReady (s : State) (p : PendingLaunch) : Prop :=
  s.present (p.off / 128) = true ∧ s.present (p.off / 128 + 1) = true ∧ ∀ w ∈ s.writes, w.id ∈ p.after → w.done = true

theorem State.not_launchReady_iff :
    (!(s.present (p.off / 128) && s.present (p.off / 128 + 1)) || !s.orderedDone p.after) = true ↔ ¬ s.launchReady p := by
  have hdone : s.orderedDone p.after = true ↔ ∀ w ∈ s.writes, w.id ∈ p.after → w.done = true := by simp [State.orderedDone]
  rw [State.launchReady, ← hdone, ← and_assoc, ← Bool.and_eq_true, ← Bool.and_eq_true, ← Bool.not_and, Bool.not_eq_true', Bool.not_eq_true]

theorem State.resolveLaunch_of_unready (h : ¬ s.launchReady p) : s.resolveLaunch p = s := by
  rw [State.resolveLaunch, if_pos (State.not_launchReady_iff.mpr h)]

/-- The state in which the record of a launch is checked: the launch is pending no more. -/
def State.taken (s : State) (p : PendingLaunch) : State := { s with launches := s.launches.erase p }

/-- The lowest refusal code that applies to a pending launch (R92). -/
def State.verdict (u : State) (p : PendingLaunch) : Option Nat :=
  u.refusal p.core p.asid (u.deck.readN p.off 256) (u.poisoned (p.off / 128) || u.poisoned (p.off / 128 + 1))

variable (hready : s.launchReady p)
include hready

theorem State.resolveLaunch_of_refused {code : Nat} (h : (s.taken p).verdict p = some code) :
    s.resolveLaunch p = (s.taken p).refuseLaunch p code := by
  rw [State.resolveLaunch, if_neg fun hc => State.not_launchReady_iff.mp hc hready]
  simp only [State.verdict, State.taken] at h
  simp only [h]
  rfl

theorem State.resolveLaunch_of_passed (h : (s.taken p).verdict p = none) :
    s.resolveLaunch p = (s.taken p).launchGrid
      ((s.taken p).mkGrid p.core p.asid (s.deck.readN p.off 256) p.off p.depth p.parent (some p.squad)) (some p.crew) p.reply p.fork := by
  rw [State.resolveLaunch, if_neg fun hc => State.not_launchReady_iff.mp hc hready]
  simp only [State.verdict, State.taken] at h
  simp only [h]
  rfl

end

theorem State.refuseLaunch_of_launch {u : State} {p : PendingLaunch} (hf : p.fork = false) (code : Nat) :
    u.refuseLaunch p code = u.replyTo p.crew p.reply (BitVec.ofNat 64 (2 ^ 63 + code)) := by
  unfold State.refuseLaunch
  dsimp only
  split
  · rw [if_neg (by simp [hf])]
  · rfl

theorem State.refuseLaunch_of_fork {u : State} {p : PendingLaunch} {c : Crew} (hf : p.fork = true) (hc : u.crew? p.crew = some c) (code : Nat) :
    u.refuseLaunch p code = u.wakes (c.reply p.reply (BitVec.ofNat 64 (2 ^ 63 + code))) := by
  simp only [State.refuseLaunch, hc, hf, if_true]

/-- A table that is not full has a free index, and a new grid takes one (R93). -/
theorem State.gridIndex_free {s : State} (h : s.grids.length < 4096) : ∀ g ∈ s.grids, g.handle.toNat % 4096 ≠ s.gridIndex := by
  have hfree : ∃ j ∈ List.range 4096, (s.grids.any fun (g : Grid) => g.handle.toNat % 4096 == j) = false := by
    by_contra hall
    push Not at hall
    have hsub : List.range 4096 ⊆ s.grids.map fun g => g.handle.toNat % 4096 := fun j hj => by simpa using hall j hj
    have hlen := (List.nodup_range.subperm hsub).length_le
    rw [List.length_range, List.length_map] at hlen
    omega
  obtain ⟨j, hj, hnone⟩ := hfree
  obtain ⟨n, hn⟩ : ∃ n, (List.range Config.gridTable).find? (fun j => !s.grids.any fun (g : Grid) => g.handle.toNat % 4096 == j) = some n :=
    Option.isSome_iff_exists.mp (List.find?_isSome.mpr ⟨j, hj, by rw [hnone]; rfl⟩)
  have hindex : s.gridIndex = n := by rw [State.gridIndex, hn]; rfl
  rw [hindex]
  simpa using List.find?_some hn

/-- The state with a launch accepted: its record written, its grid in the table under the next sequence number (R91, R93). -/
theorem State.acceptGrid_eq (s : State) (g : Grid) :
    s.acceptGrid g = ({ (s.agentWriteN (g.recOff + 0xC1) (leBytes 1 g.depth)).agentWriteN (g.recOff + 0xC8) (leBytes 8 g.parent.toNat) with
      gridSeq := s.gridSeq + 1, lqCount := s.lqCount + 1
      grids := s.grids ++ [{ g with handle := BitVec.ofNat 64 (s.gridIndex + 4096 * ((s.gridSeq + 1) % 2 ^ 51)), since := s.time.toNat }] },
      BitVec.ofNat 64 (s.gridIndex + 4096 * ((s.gridSeq + 1) % 2 ^ 51))) := by
  have hframe := State.homeFrame_trans (s.agentWriteN_frame (g.recOff + 0xC1) (leBytes 1 g.depth))
    ((s.agentWriteN (g.recOff + 0xC1) (leBytes 1 g.depth)).agentWriteN_frame (g.recOff + 0xC8) (leBytes 8 g.parent.toNat))
  unfold State.acceptGrid
  simp only [hframe.gridSeq, hframe.lqCount, hframe.grids, hframe.time]

/-- A launch that has passed its checks while the grid table has room (R94, R103). -/
theorem State.launchGrid_of_room {s : State} (h : s.grids.length < 4096) (g : Grid) (id : Nat) (r : Reply) :
    s.launchGrid g (some id) r false = (s.acceptGrid g).1.replyTo id r (s.acceptGrid g).2 := if_pos h

theorem State.launchGrid_of_full {s : State} (h : 4096 ≤ s.grids.length) (g : Grid) (crew : Option Nat) (r : Reply) (fork : Bool) :
    s.launchGrid g crew r fork = { s with held := s.held ++ [{ grid := g, crew := crew, reply := r, fork := fork }] } := if_neg (Nat.not_lt.mpr h)

end Sys2Proof.Machine

open Sys2Proof Sys2Proof.Machine

/-- Settles O25: the launches as they are issued, read, refused, accepted and held, and the squads that wait for their children. -/
theorem launchForkJoin : Obligations.LaunchForkJoin := by
  unfold Obligations.LaunchForkJoin
  refine ⟨?_, ?_, ?_, ?_⟩
  · intro s k r a off t va now launch pending readable traps
    have htraps {i : Instr} {fork : Bool}
        (h : exec i s = .next ((s.entering k i).launchCrew i (k.entering i) k.active r a fork)) : traps i := by
      obtain ⟨hdepth, halign, hfar, hpage⟩ := State.launchCrew_traps (s := s) (k := k) (i := i) (r := r) (a := a) (fork := fork)
      exact ⟨fun hd => h.trans (congrArg _ (hdepth hd)), fun hd ha => h.trans (congrArg _ (halign hd ha)),
        fun hd ha hv => h.trans (congrArg _ (hfar hd ha hv)), fun hd ha hv c hc => h.trans (congrArg _ (hpage hd ha hv c hc))⟩
    refine ⟨fun hr => htraps (exec_launch hr), fun hr he => htraps (exec_fork hr he), fun hr ⟨hdepth, halign, hva, hpage⟩ => ?_,
      fun hr he ⟨hdepth, halign, hva, hpage⟩ => ?_, fun hr he => ⟨fun hnone hlaunches => ?_, fun hflies => ?_⟩⟩
    · obtain ⟨k', hlaunch, hmoved⟩ := State.launchCrew_moves (i := .launch r a) (r := r) hdepth halign hva hpage
      exact ⟨k', (exec_launch hr).trans (congrArg _ hlaunch), hmoved⟩
    · obtain ⟨k', hlaunch, hstopped⟩ := State.launchCrew_waits (i := .fork r a) (r := r) hdepth halign hva hpage
      exact ⟨k', (exec_fork hr he).trans (congrArg _ hlaunch), hstopped⟩
    · obtain ⟨k', hmoved, hdone⟩ := State.done_self (k := k) (fun x hx => State.entering_setCrew s (.join r) hx) (State.cycles_entering s k _ _)
      exact ⟨k', ((exec_join hr he).1 ⟨hnone, hlaunches⟩).trans (by rw [hdone]), hmoved⟩
    · obtain ⟨k', hwaits, hstopped⟩ := State.waits_await (k := k) (fun x hx => State.entering_setCrew s (.join r) hx)
        (State.cycles_entering s k _ _) r (.join r 0 none)
      refine ⟨k', ((exec_join hr he).2 fun ⟨hnone, hlaunches⟩ => ?_).trans (by rw [hwaits]), hstopped⟩
      obtain hne | ⟨p, hp, hsquad⟩ := hflies
      · exact hne hnone
      · exact hlaunches p hp hsquad
  · intro s p ready u record refused
    refine ⟨State.resolveLaunch_of_unready, fun hready code hrefused => ⟨fun hf => ?_, fun c hf hc => ?_⟩, fun hready hpassed => ?_⟩
    · exact (State.resolveLaunch_of_refused hready hrefused).trans (State.refuseLaunch_of_launch hf code)
    · exact (State.resolveLaunch_of_refused hready hrefused).trans (State.refuseLaunch_of_fork (u := s.taken p) hf hc code)
    · exact State.resolveLaunch_of_passed hready hpassed
  · intro s q crews hjoin hlaunches hstopped hchildren
    exact State.suspendSquad_of_children hjoin hlaunches hstopped hchildren
  · intro s g id r
    refine ⟨fun hroom => ⟨?_, State.gridIndex_free hroom⟩, fun hfull => State.launchGrid_of_full hfull g (some id) r false⟩
    exact (State.launchGrid_of_room hroom g id r).trans (by rw [State.acceptGrid_eq])
end

section
/-! When a pending WAITC is met, and what its crew gets (spec/04_work.md R104). -/

namespace Sys2Proof.Machine

section
variable (u : State) (c : Crew) (r : Reply)

/-- A counter in the deck is read as a load of the crew reads it, once its line is present (R104). -/
theorem State.waitcMet_deck (off n : Nat) :
    u.waitcMet c ⟨.deck off n, r⟩ =
      if u.present (off / 128) = true ∧ n ≤ leNat (u.overlay false c 32 off (u.deck.readN off 8)) then
        some (BitVec.ofNat 64 (leNat (u.overlay false c 32 off (u.deck.readN off 8))))
      else none := by
  cases hp : u.present (off / 128) <;> simp [State.waitcMet, hp]

/-- A handle is met once no grid in flight of the crew's context has it (R104). -/
theorem State.waitcMet_handle (h : DWord) :
    u.waitcMet c ⟨.handle h, r⟩ = if ∃ g ∈ u.grids, g.handle = h ∧ g.asid = c.asid then none else some 0 := by
  simp [State.waitcMet]

end

/-- A crew with one WAITC pending that is met has its reply and waits no more (R104). -/
theorem State.answered_of_met {u : State} {c : Crew} {w : Waitc} {v : DWord} (hc : c.waitc = [w]) (hv : u.waitcMet c w = some v) :
    u.answered c = { c.reply w.reply v with waitc := [] } := by
  simp [State.answered, hc, hv]

end Sys2Proof.Machine

open Sys2Proof Sys2Proof.Machine

/-- Settles O27: what meets a WAITC by the place of its counter, and for a handle the absence of its grid. -/
theorem waitForCounterOrGrid : Obligations.WaitForCounterOrGrid := by
  unfold Obligations.WaitForCounterOrGrid
  refine ⟨fun u c r off n => u.waitcMet_deck c r off n, fun u c r off n q hq => ?_, fun u c r off n => rfl,
    fun u c r h => ⟨fun hgone => ?_, fun hflies => ?_⟩, fun u c w v => State.answered_of_met⟩
  · simp only [State.waitcMet, hq, Option.map_some, Option.getD_some]
  · rw [u.waitcMet_handle, if_neg]
    rintro ⟨g, hg, hh, hasid⟩
    exact hgone g hg hh hasid
  · rw [u.waitcMet_handle, if_pos hflies]
end

section
/-! SPAWN in a state where a second crew carries the id of the crew that issues it (spec/02_encoding.md R39, spec/04_work.md R106). -/

namespace Sys2Proof.Machine

/-- The number of crews that an outcome leaves. -/
def crewsLeft : Out State → Nat
  | .next t => t.crews.length
  | _ => 0

/-- A reply that no pair takes leaves as many crews as there were (R33). -/
theorem State.replyTo_unheard (u : State) (id : Nat) (d : DWord) : (u.replyTo id 31 d).crews.length = u.crews.length := by
  unfold State.replyTo
  dsimp only
  split
  · exact List.length_map _
  · rw [if_pos (by decide)]
    exact List.length_map _

theorem State.foldl_acquires_crews (u : State) (cs : List Crew) : (cs.foldl (fun (v : State) c => v.acquires c) u).crews = u.crews :=
  List.foldlRecOn (motive := fun v : State => v.crews = u.crews) cs _ rfl fun _ hv _ _ => hv

/-- A SPAWN that wants no crew gets no context (R106). -/
theorem State.poolFree_zero (u : State) (core n : Nat) : u.poolFree core n 0 = [] :=
  List.foldlRecOn (motive := (· = [])) _ _ rfl fun acc hacc pc _ => by simp [hacc]

/-- The crew of a loaded program, which holds the first eight tile slots of its core. -/
def spawner : Crew := bootCrew 1 0
/-- A second crew with the same id, which holds every other tile slot of the core. -/
def twin : Crew := { spawner with slot := 1, tileSlots := List.range' 8 120 }
/-- Both crews resident, and before the launch entry a table of one entry (R105). -/
def twinned : State :=
  { State.reset.load 0 with
    deck := (State.reset.load 0).deck.writeN 0x3FFF8 (leBytes 4 0x100 ++ leBytes 4 1), crews := [spawner, twin], cur := some 1 }

theorem twinned_runs : twinned.runs spawner (.spawn 31 3 0 1) := ⟨by decide +kernel, by decide +kernel⟩

theorem twinned_entry : twinned.spawnIllegal spawner 1 = false ∧ twinned.grid? spawner.grid = some bootGrid
    ∧ twinned.bump.spawnEntry spawner bootGrid.entry.toNat 1 = .ok (some 0x40100) :=
  ⟨by decide +kernel, by decide +kernel, by decide +kernel⟩

/-- No tile slot is free, so SPAWN is to start no crew (R106, R265). -/
theorem twinned_full : twinned.bump.tileCrews spawner.core bootGrid.tiles (twinned.bump.tagOf spawner) = 0 := by decide +kernel

/-- SPAWN starts a crew: as it closes the windows of its crew, the twin is overwritten with it, and its tile slots count as free. -/
theorem twinned_spawns : crewsLeft (exec (.spawn 31 3 0 1) twinned) = 3 := by decide +kernel

end Sys2Proof.Machine

open Sys2Proof Sys2Proof.Machine

/-- Refutes O28: the statement speaks of every state, also of one in which a second crew carries the id of the crew that issues SPAWN. Closing the first
one's windows (R39) then overwrites the second, and SPAWN starts a crew in the tile slots it held, where the statement, counting before, starts none. -/
theorem not_spawnCrews : ¬ Obligations.SpawnCrews := by
  unfold Obligations.SpawnCrews
  rintro ⟨hspawn, -, -⟩
  obtain ⟨hlegal, hgrid, hentry⟩ := twinned_entry
  obtain ⟨k', -, hexec⟩ := hspawn twinned spawner 31 3 0 1 bootGrid 0x40100 twinned_runs hlegal hgrid hentry
  have hcontexts (want : Nat) : twinned.bump.poolFree spawner.core bootGrid.n (min want (twinned.bump.tileCrews spawner.core bootGrid.tiles
      (twinned.bump.tagOf spawner))) = [] := by
    rw [twinned_full, Nat.min_zero, State.poolFree_zero]
  have hthree := twinned_spawns
  rw [hexec, hcontexts, crewsLeft, State.replyTo_unheard, State.setCrew, List.length_map, State.foldl_acquires_crews] at hthree
  exact absurd hthree (by decide)
end

section
/-! TASKQ at issue (spec/04_work.md R110 to R112). -/

namespace Sys2Proof.Machine

/-- The FLAGS words that TASKQ refuses (R110). -/
def flagsBad (fl : Nat) : Prop := fl % 4 = 3 ∨ 512 ≤ fl ∨ fl / 4 % 64 ≠ 0

theorem flagsBad_iff {fl : Nat} : (fl % 4 == 3 || fl / 512 != 0 || fl / 4 % 64 != 0) = true ↔ flagsBad fl := by
  have h : fl / 512 ≠ 0 ↔ 512 ≤ fl := by omega
  simp only [flagsBad, Bool.or_eq_true, beq_iff_eq, bne_iff_ne, h, or_assoc]

/-- The entries in use of a die's range table. -/
def State.ranges (u : State) (die : Nat) : List Task := u.tasks.filter (·.die == die)

/-- The entry that a record in the deck enters into the range table of its crew's die (R110 to R112). -/
def State.taskOf (u : State) (k : Crew) (va off : Nat) : Task :=
  let word (o n : Nat) := recN (u.deck.readN off 64) o n
  let die := dieOf k.core
  let entry := ((List.range Config.rangeTable).find? fun j => !(u.ranges die).any (·.entry == j)).getD 0
  let conflicts := u.conflictsOf die k.asid (word 0x20 8) (word 0x28 4) (word 0x2C 8) (word 0x34 4)
  { die := die, entry := entry, id := BitVec.ofNat 64 (entry + 256 * die + 1024 * ((u.taskSeq + 1) % 2 ^ 54)), asid := k.asid, grid := k.grid
    state := if conflicts.isEmpty then .ready else .held, conflicts := conflicts, code := mkPc (word 0 8), arg := BitVec.ofNat 64 (word 0x08 8)
    tile := BitVec.ofNat 64 (word 0x10 8), counter := BitVec.ofNat 64 (word 0x18 8), rBase := word 0x20 8, rLen := word 0x28 4
    wBase := word 0x2C 8, wLen := word 0x34 4, flags := BitVec.ofNat 32 (word 0x38 4), recVa := BitVec.ofNat 64 va, crew := 0
    normal := false, add := none }

/-- A task enters the range table. -/
def State.enlist (u : State) (e : Task) : State := { u with tasks := u.tasks ++ [e], taskSeq := u.taskSeq + 1 }

theorem State.cycles_enlist (u : State) (e : Task) (core : Nat) : (u.enlist e).cycles core = u.cycles core := rfl

theorem State.entering_present (s : State) (k : Crew) (i : Instr) : (s.entering k i).present = s.bump.present := by
  rw [s.entering_eq k i]
  rfl

theorem State.entering_coveredDone (s : State) (k : Crew) (i : Instr) : (s.entering k i).coveredDone = s.bump.coveredDone := by
  rw [s.entering_eq k i]
  rfl

theorem State.entering_deck (s : State) (k : Crew) (i : Instr) : (s.entering k i).deck = s.bump.deck := by
  rw [s.entering_eq k i]

theorem State.entering_ranges (s : State) (k : Crew) (i : Instr) : (s.entering k i).ranges = s.bump.ranges := by
  rw [s.entering_eq k i]
  rfl

theorem State.taskOf_entering (s : State) (k : Crew) (i : Instr) (va off : Nat) :
    (s.entering k i).taskOf (k.entering i) va off = s.bump.taskOf k va off := by
  rw [k.entering_frame i, s.entering_eq k i]
  rfl

section
variable {s : State} {k : Crew} {r : Reply} {a : BitVec 6} (hr : s.runs k (.taskq r a))
include hr

theorem exec_taskq_of_misaligned (h : (k.pr a.toNat).toNat % 64 ≠ 0) :
    exec (.taskq r a) s = .next ((s.entering k (.taskq r a)).trapAt (k.entering (.taskq r a)) .misalign k.active (k.pr a.toNat).toNat) := by
  have hexec : exec (.taskq r a) s = _ := (issue_runs hr _ : execTaskq r a s = _)
  simp only [Crew.entering_pr, bne_iff_ne.mpr h, if_true] at hexec
  exact hexec

variable (halign : (k.pr a.toNat).toNat % 64 = 0)
include halign

theorem exec_taskq_of_far (h : 2 ^ 47 ≤ (k.pr a.toNat).toNat) :
    exec (.taskq r a) s = .next ((s.entering k (.taskq r a)).trapAt (k.entering (.taskq r a)) .farAccess k.active (k.pr a.toNat).toNat) := by
  have hexec : exec (.taskq r a) s = _ := (issue_runs hr _ : execTaskq r a s = _)
  simp only [Crew.entering_pr, halign, bne_self_eq_false, Bool.false_eq_true, if_false, h, if_true] at hexec
  exact hexec

variable (hva : (k.pr a.toNat).toNat < 2 ^ 47)
include hva

theorem exec_taskq_of_trap {c : Cause} (h : s.bump.checkPage k .load (k.pr a.toNat).toNat = .error c) :
    exec (.taskq r a) s = .next ((s.entering k (.taskq r a)).trapAt (k.entering (.taskq r a)) c k.active (k.pr a.toNat).toNat) := by
  have hexec : exec (.taskq r a) s = _ := (issue_runs hr _ : execTaskq r a s = _)
  simp only [Crew.entering_pr, halign, bne_self_eq_false, Bool.false_eq_true, if_false, Nat.not_le.mpr hva, State.checkPage_entering, h] at hexec
  exact hexec

variable {off : Nat} (hpage : s.bump.checkPage k .load (k.pr a.toNat).toNat = .ok (.deck off)) (hline : s.bump.present (off / 128) = true)
  (hwrites : s.bump.coveredDone k.id = true)
include hpage hline hwrites

/-- A record that the hub may read is refused, held for room, or entered into the range table (R110, R111). -/
theorem exec_taskq_of_record :
    exec (.taskq r a) s = .next (
      let i : Instr := .taskq r a
      let m := k.entering i
      let u := s.entering k i
      let fl := recN (s.bump.deck.readN off 64) 0x38 4
      let e := s.bump.taskOf k (k.pr a.toNat).toNat off
      if fl % 4 == 3 || fl / 512 != 0 || fl / 4 % 64 != 0 then (u.done i m k.active).replyTo k.id r (BitVec.ofNat 64 (2 ^ 63 + 4))
      else if 256 ≤ (s.bump.ranges (k.core / 80)).length then u.waits m (.room (.rangeTable (k.core / 80))) k.active
      else ((u.enlist e).done i m k.active).replyTo k.id r e.id) := by
  have hexec : exec (.taskq r a) s = _ := (issue_runs hr _ : execTaskq r a s = _)
  simp only [Crew.entering_pr, halign, bne_self_eq_false, Bool.false_eq_true, if_false, Nat.not_le.mpr hva, State.checkPage_entering, hpage] at hexec
  obtain ⟨hcore, hid⟩ := k.entering_place (.taskq r a)
  simp only [State.entering_present, State.entering_coveredDone, hid, hline, hwrites, Bool.not_true, Bool.or_self, Bool.false_eq_true, if_false] at hexec
  rw [hexec, ← s.taskOf_entering k (.taskq r a), ← s.entering_deck k (.taskq r a), ← s.entering_ranges k (.taskq r a), ← hcore]
  rfl

theorem exec_taskq_of_bad (h : flagsBad (recN (s.bump.deck.readN off 64) 0x38 4)) :
    ∃ k', k.movedFrom k k' (.taskq r a) (s.cycles k.core).toNat
      ∧ exec (.taskq r a) s = .next ((s.bump.setCrew k').replyTo k.id r (BitVec.ofNat 64 (2 ^ 63 + 4))) := by
  obtain ⟨k', hmoved, hdone⟩ := State.done_self (k := k) (fun x hx => State.entering_setCrew s (.taskq r a) hx) (State.cycles_entering s k _ _)
  refine ⟨k', hmoved, ?_⟩
  rw [exec_taskq_of_record hr halign hva hpage hline hwrites]
  dsimp only
  rw [if_pos (flagsBad_iff.mpr h), hdone]

variable (hflags : ¬ flagsBad (recN (s.bump.deck.readN off 64) 0x38 4))
include hflags

theorem stops_taskq_of_full (h : 256 ≤ (s.bump.ranges (k.core / 80)).length) :
    s.stops k (.taskq r a) s.bump k (.room (.rangeTable (k.core / 80))) := by
  obtain ⟨k', hwaits, hstopped⟩ := State.waits_self (k := k) (fun x hx => State.entering_setCrew s (.taskq r a) hx) (State.cycles_entering s k _ _)
    (.room (.rangeTable (k.core / 80)))
  refine ⟨k', ?_, hstopped⟩
  rw [exec_taskq_of_record hr halign hva hpage hline hwrites]
  dsimp only
  rw [if_neg (mt flagsBad_iff.mp hflags), if_pos h, ← hwaits]

/-- The task is READY unless it conflicts, and its id is the reply (R111, R112). -/
theorem exec_taskq_of_room (h : (s.bump.ranges (k.core / 80)).length < 256) :
    ∃ k', k.movedFrom k k' (.taskq r a) (s.cycles k.core).toNat
      ∧ exec (.taskq r a) s = .next (((s.bump.enlist (s.bump.taskOf k (k.pr a.toNat).toNat off)).setCrew k').replyTo k.id r
          (s.bump.taskOf k (k.pr a.toNat).toNat off).id) := by
  obtain ⟨e, he⟩ : ∃ e, s.bump.taskOf k (k.pr a.toNat).toNat off = e := ⟨_, rfl⟩
  obtain ⟨k', hmoved, hdone⟩ := State.done_self (k := k) (i := .taskq r a)
    (fun x hx => State.entering_setCrew_of (F := (·.enlist e)) (fun _ _ => rfl) s (.taskq r a) hx)
    (by rw [State.cycles_enlist, State.cycles_enlist, State.cycles_entering]; rfl)
  refine ⟨k', hmoved, ?_⟩
  rw [exec_taskq_of_record hr halign hva hpage hline hwrites]
  dsimp only
  rw [if_neg (mt flagsBad_iff.mp hflags), if_neg (Nat.not_le.mpr h), he, ← hdone]

end

end Sys2Proof.Machine
end

section
/-! Tasks as they start, drain and become ready (spec/04_work.md R113, R114, spec/14_system.md R386). -/

namespace Sys2Proof.Machine

section
variable {s : State} {die entry : Nat} {e : Task}

theorem exec_taskStart {core part slot : Nat} {g : Grid}
    (he : s.tasks.find? (fun (x : Task) => x.die == die && x.entry == entry && x.state == .ready) = some e) (hg : s.grid? e.grid = some g)
    (hdie : core / 80 = die) (hcore : s.coresUp.contains core = true) (hfits : s.fits g core 1 = some [(part, slot)]) :
    exec (.taskStart die entry core) s = .next (
      let q := newSquad g s.fresh core 0 true false
      let u := ({ s.bump with squads := s.squads ++ [q] } : State).startCrew g core part slot s.fresh 0 e.code (taskScalars g e)
        (classOf (e.flags.toNat % 4)) (e.tile.toNat % 2 ^ 16) (some (die, entry)) (g.idempotent || e.flags.getLsbD 8)
      { u with tasks := u.tasks.map fun (x : Task) =>
          if x.die == die && x.entry == entry then { x with state := .running, crew := s.fresh + 1, normal := true } else x }) := by
  have hexec : exec (.taskStart die entry core) s = execTaskStart die entry core s := rfl
  have hdie' : (dieOf core != die) = false := bne_eq_false_iff_eq.mpr hdie
  rw [hexec, execTaskStart]
  simp only [he, hg, hdie', hcore, hfits, Bool.not_true, Bool.or_self, Bool.false_eq_true, if_false]
  rfl

section
variable {u : State} {raised : Bool} {x : Option Nat}
  (he : s.tasks.find? (fun (x : Task) => x.die == die && x.entry == entry && x.state == .draining) = some e)
  (hwrites : s.crewWritesDone e.crew = true) (hcovered : s.coveredDone e.crew = true) (howes : (s.crew? e.crew).any s.owesAccess = false)
include he hwrites hcovered howes

/-- The entry of a drained task stays while its counter add is on its way (R113). -/
theorem exec_taskDrained_of_owed
    (hadd : (if e.normal then s.counterAdd e.asid e.counter.toNat e.add else (s, true, none)) = (u, false, x)) :
    exec (.taskDrained die entry) s = .next { u with
      tasks := u.tasks.map fun (y : Task) => if y.die == die && y.entry == entry then { y with add := x } else y } := by
  have hexec : exec (.taskDrained die entry) s = execTaskDrained die entry s := rfl
  rw [hexec, execTaskDrained]
  simp only [he, hwrites, hcovered, howes, hadd, Bool.not_true, Bool.or_self, Bool.false_eq_true, if_false]

/-- What an entry of the range table becomes when entry number n of a die is free (R112, R113). -/
def Task.released (y : Task) (die n : Nat) : Task :=
  if y.die == die then
    { y with
      conflicts := y.conflicts.filter (· != n)
      state := if y.state == .held && (y.conflicts.filter (· != n)).isEmpty then .ready else y.state }
  else y

/-- Once the add is made the entry is free: the crews held for room go on, and so do the entries it held back (R113). -/
theorem exec_taskDrained_of_raised
    (hadd : (if e.normal then s.counterAdd e.asid e.counter.toNat e.add else (s, true, none)) = (u, true, x)) :
    exec (.taskDrained die entry) s = .next { u.freeRoom (· == .rangeTable die) with
      tasks := (u.tasks.filter fun y => !(y.die == die && y.entry == entry)).map (·.released die entry) } := by
  have hexec : exec (.taskDrained die entry) s = execTaskDrained die entry s := rfl
  rw [hexec, execTaskDrained]
  simp only [he, hwrites, hcovered, howes, hadd, Bool.not_true, Bool.or_self, Bool.false_eq_true, if_false]
  rfl

end

theorem Task.released_eq (y : Task) (die n : Nat) :
    y.released die n = if y.die = die then
      { y with
        conflicts := y.conflicts.filter (· != n)
        state := if y.state = .held ∧ y.conflicts.all (· == n) = true then .ready else y.state }
      else y := by
  have hfree : (y.conflicts.filter (· != n)).isEmpty = y.conflicts.all (· == n) := by
    rw [Bool.eq_iff_iff]
    simp
  simp only [Task.released, hfree, Bool.and_eq_true, beq_iff_eq]

theorem Task.released_place (y : Task) (die n : Nat) : (y.released die n).die = y.die ∧ (y.released die n).entry = y.entry := by
  unfold Task.released
  split <;> exact ⟨rfl, rfl⟩

end

end Sys2Proof.Machine

open Sys2Proof Sys2Proof.Machine

/-- Settles O29: TASKQ by its checks, its record and the range table; a task by the conditions of its events. -/
theorem taskQueue : Obligations.TaskQueue := by
  unfold Obligations.TaskQueue
  refine ⟨?_, fun s die entry core e => ⟨?_, ?_, fun id => rfl⟩⟩
  · intro s k r a off t va die word flags bad used entry overlap conflicts id trap hr
    refine ⟨exec_taskq_of_misaligned hr, exec_taskq_of_far hr, fun halign hva c => exec_taskq_of_trap hr halign hva,
      fun halign hva hpage hline hwrites => ⟨fun hbad => ?_, fun hbad hfull => ?_, fun hbad hroom => ?_⟩⟩
    · exact exec_taskq_of_bad hr halign hva hpage hline hwrites hbad
    · exact stops_taskq_of_full hr halign hva hpage hline hwrites hbad hfull
    · exact exec_taskq_of_room hr halign hva hpage hline hwrites hbad hroom
  · intro g part slot he hg hdie hcore hfits
    exact exec_taskStart he hg hdie hcore hfits
  · intro u raised x he hwrites hcovered howes hadd
    refine ⟨?_, ?_⟩
    · rintro rfl
      exact exec_taskDrained_of_owed he hwrites hcovered howes hadd
    · rintro rfl
      refine ⟨_, exec_taskDrained_of_raised he hwrites hcovered howes hadd, rfl, fun y hy => ?_, fun y hy hne => ?_⟩
      · obtain ⟨z, hz, rfl⟩ := List.mem_map.mp hy
        obtain ⟨hdie, hentry⟩ := z.released_place die entry
        rw [hdie, hentry]
        simpa [-not_and, not_and_or] using (List.mem_filter.mp hz).2
      · rw [← Task.released_eq]
        exact List.mem_map_of_mem (List.mem_filter.mpr ⟨hy, by simpa [-not_and, not_and_or] using hne⟩)
end

section
/-! The launch queue, the grid table and the admission of squads (spec/04_work.md R94 to R98, spec/14_system.md R402). -/

namespace Sys2Proof.Machine

section
variable {s : State}

/-- A push is taken or waits for an entry, unless the device answers configuration space alone (R402, R405). -/
theorem exec_lqPush (va : Pc) (asid : BitVec 12) :
    exec (.lqPush va asid) s = .next (
      if s.dev = .failed ∧ s.fwOk = false then s
      else if s.lq.length < 256 then { s with lq := s.lq ++ [(va, asid)] }
      else { s with lqWait := s.lqWait ++ [(va, asid)] }) := by
  have hexec : exec (.lqPush va asid) s = .next (if s.dead = true then s else s.lqPush va asid) := rfl
  have hdead : s.dead = true ↔ s.dev = .failed ∧ s.fwOk = false := by simp [State.dead]
  rw [hexec]
  simp only [hdead]
  rfl

/-- The queue's oldest entry leaves it as the hub takes its launch (R98, R402). -/
theorem exec_hostLaunchArrival {va : Pc} {asid : BitVec 12} {rest : List (Pc × BitVec 12)} {t : State} (hq : s.lq = (va, asid) :: rest)
    (ht : s.hostLaunch asid va.toNat = some t) : exec .hostLaunchArrival s = .next (t.lqFreed rest) := by
  have hexec : exec .hostLaunchArrival s = execHostLaunchArrival s := rfl
  rw [hexec, execHostLaunchArrival]
  simp only [hq, ht]

/-- A record that does not lie aligned in a readable deck page is refused with code 8 (R92, R98). -/
theorem State.hostLaunch_of_astray {asid : BitVec 12} {va : Nat} (h : va % 256 ≠ 0 ∨ s.deckByte 0 asid va = none) :
    s.hostLaunch asid va = some (s.event 0x02 4 0 0xFFFF [(va, 8), (8, 1)]) := by
  have hnone : (if va % 256 == 0 then s.deckByte 0 asid va else none) = none := by
    split
    · next halign => exact h.resolve_left (not_not_intro (beq_iff_eq.mp halign))
    · rfl
  simp only [State.hostLaunch, hnone]

section
variable {asid : BitVec 12} {va off : Nat} (halign : va % 256 = 0) (hoff : s.deckByte 0 asid va = some off)
  (hlow : s.present (off / 128) = true) (hhigh : s.present (off / 128 + 1) = true)
include halign hoff hlow hhigh

/-- A record whose lines are present and which fails a check (R92, R98). -/
theorem State.hostLaunch_of_refused {code : Nat}
    (h : s.refusal 0 asid (s.deck.readN off 256) (s.poisoned (off / 128) || s.poisoned (off / 128 + 1)) = some code) :
    s.hostLaunch asid va = some (s.event 0x02 4 0 0xFFFF [(va, 8), (code, 1)]) := by
  simp only [State.hostLaunch, halign, hoff, hlow, hhigh, h, beq_self_eq_true, if_true, Bool.and_self, Bool.not_true, Bool.false_eq_true, if_false]

/-- A record whose lines are present and which passes its checks (R92, R94, R98). -/
theorem State.hostLaunch_of_passed
    (h : s.refusal 0 asid (s.deck.readN off 256) (s.poisoned (off / 128) || s.poisoned (off / 128 + 1)) = none) :
    s.hostLaunch asid va = some (s.launchGrid (s.mkGrid 0 asid (s.deck.readN off 256) off 0 0 none) none 31 false) := by
  simp only [State.hostLaunch, halign, hoff, hlow, hhigh, h, beq_self_eq_true, if_true, Bool.and_self, Bool.not_true, Bool.false_eq_true, if_false]

end

/-- The first held launch takes an entry of the grid table (R94). -/
theorem exec_gridTableWaitEnd {h : HeldLaunch} {rest : List HeldLaunch} (hheld : s.held = h :: rest) (hroom : s.grids.length < 4096) :
    let x := ({ s with held := rest } : State).acceptGrid h.grid
    exec .gridTableWaitEnd s = .next (x.1.handOver h.crew h.reply h.fork x.2) := by
  have hexec : exec .gridTableWaitEnd s = execGridTableWaitEnd s := rfl
  rw [hexec, execGridTableWaitEnd]
  simp only [hheld, Config.gridTable, Nat.not_le.mpr hroom, if_false]

/-- The producer that a grid waits on, while it is in flight (R96). -/
def State.producer? (s : State) (g : Grid) : Option Grid := s.grids.find? fun p => p.handle == g.waitOn && p.asid == g.asid && g.waitOn != 0

theorem State.producer?_eq_none {g : Grid} (h : ∀ p ∈ s.grids, p.handle = g.waitOn → p.asid = g.asid → g.waitOn = 0) : s.producer? g = none := by
  refine List.find?_eq_none.mpr fun p hp => ?_
  simpa using h p hp

section
variable {core : Nat} {g : Grid} {places : List (Nat × Nat)} {h : BitVec 64}

theorem exec_squadAdmission (hg : s.grid? h = some g) : exec (.squadAdmission h.toNat core) s = .next ((s.admitSquad g core).getD s) := by
  have hexec : exec (.squadAdmission h.toNat core) s = execSquadAdmission h.toNat core s := rfl
  rw [hexec, execSquadAdmission, BitVec.ofNat_toNat, BitVec.setWidth_eq]
  simp only [hg]

variable (hnext : g.next < g.dimX * g.dimY * g.dimZ) (hcore : s.coresUp.contains core = true) (hfits : s.fits g core g.crewsPer = some places)
include hnext hcore hfits

/-- A squad for which a core has room starts there when no producer is in flight (R95, R96). -/
theorem State.admitSquad_of_free (hp : s.producer? g = none) : s.admitSquad g core = some (s.startSquad g core false places) := by
  unfold State.producer? at hp
  simp only [State.admitSquad, Nat.not_le.mpr hnext, hcore, hfits, hp, decide_false, Bool.not_true, Bool.or_self, Bool.false_eq_true, if_false]

/-- Without EARLY it waits for its producer (R96). -/
theorem State.admitSquad_of_producer {p : Grid} (hp : s.producer? g = some p) (he : g.early = false) : s.admitSquad g core = none := by
  unfold State.producer? at hp
  simp only [State.admitSquad, Nat.not_le.mpr hnext, hcore, hfits, hp, he, decide_false, Bool.not_true, Bool.or_self, Bool.false_eq_true,
    Bool.not_false, if_false, if_true]

/-- With EARLY it goes beside a producer that is wholly admitted (R96). -/
theorem State.admitSquad_of_admitted {p : Grid} (hp : s.producer? g = some p) (he : g.early = true) (hall : p.dimX * p.dimY * p.dimZ ≤ p.next) :
    s.admitSquad g core = some (s.startSquad g core false places) := by
  unfold State.producer? at hp
  simp only [State.admitSquad, Nat.not_le.mpr hnext, hcore, hfits, hp, he, hall, decide_false, Bool.not_true, Bool.or_self, Bool.false_eq_true,
    if_false, if_true]

end

end

end Sys2Proof.Machine

open Sys2Proof Sys2Proof.Machine

/-- Settles O30: the pushes, the hub's two outcomes of a launch, the held launches, and the admission of a squad by its producer. -/
theorem launchArrivals : Obligations.LaunchArrivals := by
  unfold Obligations.LaunchArrivals
  refine ⟨fun s => ⟨exec_lqPush, ?_, ?_⟩, fun s core g places h hg hnext hcore hfits => ?_⟩
  · intro va asid rest hq freed
    refine ⟨fun off halign hoff hlow hhigh => ⟨fun code hrefused => ?_, fun hpassed => ?_⟩, fun h => ?_⟩
    · exact exec_hostLaunchArrival hq (State.hostLaunch_of_refused halign hoff hlow hhigh hrefused)
    · exact exec_hostLaunchArrival hq (State.hostLaunch_of_passed halign hoff hlow hhigh hpassed)
    · exact exec_hostLaunchArrival hq (State.hostLaunch_of_astray h)
  · intro h rest hheld hroom x
    have hexec := exec_gridTableWaitEnd hheld hroom
    refine ⟨fun hcrew => ?_, fun id hcrew hfork => ?_⟩
    · rw [hexec, hcrew]
      rfl
    · rw [hexec, hcrew, hfork]
      rfl
  · have hadmit := exec_squadAdmission (core := core) hg
    refine ⟨fun hnone => ?_, fun p hp => ⟨fun he => ?_, fun he hall => ?_⟩⟩
    · rw [hadmit, State.admitSquad_of_free hnext hcore hfits (State.producer?_eq_none hnone)]
      rfl
    · rw [hadmit, State.admitSquad_of_producer hnext hcore hfits hp he]
      rfl
    · rw [hadmit, State.admitSquad_of_admitted hnext hcore hfits hp he hall]
      rfl
end

section
/-! The integer functions of the ALU as the exact values of spec/05_integer.md R118 to R143, reduced to a word. -/

namespace Sys2Proof.Machine

/-- SAT(i32, x) and SAT(n32, x) (R118). -/
theorem satI_eq (z : Int) : satI z = BitVec.ofInt 32 (max (-2 ^ 31) (min (2 ^ 31 - 1) z)) := by
  unfold satI clampI
  congr 1
  omega
theorem satN_eq (z : Int) : satN z = BitVec.ofInt 32 (max 0 (min (2 ^ 32 - 1) z)) := by
  unfold satN clampI
  congr 1
  omega

/-- ADD (R121). -/
theorem addOp_eq (f : AddOp) (x y : Word) :
    addOp f x y = BitVec.ofInt 32 (match f with
      | .add => x.toInt + y.toInt
      | .sub => x.toInt - y.toInt
      | .addSatI => max (-2 ^ 31) (min (2 ^ 31 - 1) (x.toInt + y.toInt))
      | .subSatI => max (-2 ^ 31) (min (2 ^ 31 - 1) (x.toInt - y.toInt))
      | .addSatN => min (2 ^ 32 - 1) ((x.toNat : Int) + y.toNat)
      | .subSatN => max 0 ((x.toNat : Int) - y.toNat)
      | .adiffI => |x.toInt - y.toInt|
      | .adiffN => |(x.toNat : Int) - y.toNat|) := by
  cases f with
  | add => simp [addOp, BitVec.ofInt_add]
  | sub => simp [addOp, sub_eq_add_neg, BitVec.ofInt_add, BitVec.ofInt_neg]
  | addSatI => exact satI_eq _
  | subSatI => exact satI_eq _
  | addSatN =>
    refine (satN_eq _).trans (congrArg _ ?_)
    dsimp only
    omega
  | subSatN =>
    refine (satN_eq _).trans (congrArg _ ?_)
    dsimp only
    omega
  | adiffI => exact ofInt_abs _
  | adiffN => exact ofInt_abs _

/-- SHF by the whole count (R124). -/
theorem shfOp_eq (f : ShfOp) (x y : Word) :
    shfOp f x y = match f with
      | .shl => if y.toNat < 32 then BitVec.ofNat 32 (x.toNat * 2 ^ y.toNat) else 0
      | .shrN => if y.toNat < 32 then BitVec.ofNat 32 (x.toNat / 2 ^ y.toNat) else 0
      | .shrI => BitVec.ofInt 32 (x.toInt / 2 ^ min y.toNat 31)
      | .rol => x.rotateLeft (y.toNat % 32)
      | .ror => x.rotateRight (y.toNat % 32) := by
  cases f with
  | shl => simp only [shfOp, shl_eq]
  | shrN => simp only [shfOp, shr_eq]
  | shrI => exact sshr_eq x _
  | rol => rfl
  | ror => rfl

/-- MINMAX, with c the old vd (R125). -/
theorem minmaxOp_eq (f : MinMaxOp) (x y c : Word) :
    minmaxOp f x y c = BitVec.ofInt 32 (match f with
      | .minI => min x.toInt y.toInt
      | .maxI => max x.toInt y.toInt
      | .minN => min (x.toNat : Int) y.toNat
      | .maxN => max (x.toNat : Int) y.toNat
      | .clampI => min (max c.toInt x.toInt) y.toInt
      | .clampN => min (max (c.toNat : Int) x.toNat) y.toNat
      | .absI => |x.toInt|
      | .absSatI => min (2 ^ 31 - 1) |x.toInt|) := by
  have natOf (n : Nat) : BitVec.ofNat 32 n = BitVec.ofInt 32 n := (BitVec.ofInt_natCast 32 n).symm
  cases f with
  | minI => exact minI_eq x y
  | maxI => exact maxI_eq x y
  | minN => exact (minN_eq x y).trans ((natOf _).trans (by rw [Nat.cast_min]))
  | maxN => exact (maxN_eq x y).trans ((natOf _).trans (by rw [Nat.cast_max]))
  | clampI => exact (minI_eq _ y).trans (by rw [toInt_maxI])
  | clampN => exact (minN_eq _ y).trans ((natOf _).trans (by rw [toNat_maxN, Nat.cast_min, Nat.cast_max]))
  | absI => exact ofInt_abs _
  | absSatI =>
    refine (satI_eq _).trans (congrArg _ ?_)
    dsimp only
    rw [Int.abs_eq_natAbs]
    omega

/-! ## Products (R122) -/

/-- The exact product of two words, signed or unsigned by the member. -/
def mulProduct (f : MulOp) (x y : Word) : Int :=
  match f with
  | .hiI | .satI | .wideI => x.toInt * y.toInt
  | .lo | .hiN | .satN | .wideN => (x.toNat : Int) * y.toNat
/-- How many registers a member writes. -/
def mulRegs (f : MulOp) : Nat := if f = .wideI ∨ f = .wideN then 2 else 1

/-- MAD with the old register c, or the old pair; MUL is MAD on 0. -/
theorem mulOp_eq (f : MulOp) (x y c cHi : Word) :
    mulOp f x y c cHi = (List.range (mulRegs f)).map fun j => match f with
      | .lo => BitVec.ofInt 32 (mulProduct f x y + c.toNat)
      | .hiI | .hiN => (BitVec.ofInt 64 (mulProduct f x y)).extractLsb' 32 32 + c
      | .satI => BitVec.ofInt 32 (max (-2 ^ 31) (min (2 ^ 31 - 1) (mulProduct f x y + c.toInt)))
      | .satN => BitVec.ofInt 32 (max 0 (min (2 ^ 32 - 1) (mulProduct f x y + c.toNat)))
      | .wideI | .wideN => (BitVec.ofInt 64 (mulProduct f x y) + (cHi ++ c : BitVec 64)).extractLsb' (32 * j) 32 := by
  have hN : prodN x y = (x.toNat : Int) * y.toNat := Nat.cast_mul ..
  cases f with
  | lo =>
    have h : BitVec.ofInt 32 ((x.toNat : Int) * y.toNat + c.toNat) = x * y + c := by simp [BitVec.ofInt_add, BitVec.ofInt_mul]
    exact congrArg (fun w => [w]) h.symm
  | hiI => rfl
  | hiN => exact congrArg (fun p => [hi32 p + c]) hN
  | satI => exact congrArg (fun w => [w]) (satI_eq _)
  | satN => exact congrArg (fun w => [w]) ((satN_eq _).trans (by rw [hN, mulProduct]))
  | wideI => rfl
  | wideN => exact congrArg (fun p => let r := BitVec.ofInt 64 p + pair c cHi; [lo32 r, up32 r]) hN

/-! ## Bits (R126) -/

theorem bitsDown_eq (x : Word) : bitsDown x = ((List.range 32).map x.getLsbD).reverse := rfl

theorem length_takeWhile_eq_findIdx {α : Type} (l : List α) (p : α → Bool) : (l.takeWhile p).length = l.findIdx (!p ·) := by
  rw [List.takeWhile_eq_take_findIdx_not, List.length_take]
  exact min_eq_left List.findIdx_le_length

theorem popc_eq (x : Word) : popc x = BitVec.ofNat 32 ((List.range 32).filter fun j => x.getLsbD j).length := by
  unfold popc
  rw [bitsDown_eq, List.count_reverse, ← List.countP_eq_length_filter, List.count, List.countP_map]
  congr 2
  funext j
  simp

theorem clz_eq (x : Word) : clz x = BitVec.ofNat 32 ((List.range 32).findIdx fun j => x.getLsbD (31 - j)) := by
  unfold clz bitsDown
  rw [length_takeWhile_eq_findIdx, List.findIdx_map]
  simp only [Function.comp_def, Bool.not_not]

theorem ctz_eq (x : Word) : ctz x = BitVec.ofNat 32 ((List.range 32).findIdx fun j => x.getLsbD j) := by
  unfold ctz
  rw [bitsDown_eq, List.reverse_reverse, length_takeWhile_eq_findIdx, List.findIdx_map]
  simp only [Function.comp_def, Bool.not_not]

/-- BIT (R126). -/
theorem bitOp_eq (f : BitOp) (x : Word) :
    bitOp f x = match f with
      | .popc => BitVec.ofNat 32 ((List.range 32).filter fun j => x.getLsbD j).length
      | .clz => BitVec.ofNat 32 ((List.range 32).findIdx fun j => x.getLsbD (31 - j))
      | .ctz => BitVec.ofNat 32 ((List.range 32).findIdx fun j => x.getLsbD j)
      | .brev => x.reverse
      | .bswap => x.extractLsb' 0 8 ++ x.extractLsb' 8 8 ++ x.extractLsb' 16 8 ++ x.extractLsb' 24 8
      | .cls => BitVec.ofNat 32 ((List.range 31).findIdx fun j => x.getLsbD (30 - j) != x.getLsbD 31) := by
  cases f with
  | popc => exact popc_eq x
  | clz => exact clz_eq x
  | ctz => exact ctz_eq x
  | brev => rfl
  | bswap => rfl
  | cls =>
    have htail : (bitsDown x).tail = (List.range 31).map fun j => x.getLsbD (30 - j) := rfl
    refine congrArg (BitVec.ofNat 32) ?_
    rw [htail, length_takeWhile_eq_findIdx, List.findIdx_map]
    rfl

/-! ## Fields and immediates (R127, R129, R130, R143) -/

/-- A number of w bits read as a signed one is less by 2^w where its top bit is set (R127). -/
theorem ofInt_sextN_eq {x w : Nat} (hx : x < 2 ^ w) :
    (if w == 0 then 0 else BitVec.ofInt 32 (sextN x w))
      = if 0 < w ∧ 2 ^ (w - 1) ≤ x then BitVec.ofInt 32 ((x : Int) - 2 ^ w) else BitVec.ofNat 32 x := by
  cases w with
  | zero =>
    have : x = 0 := by omega
    simp [this]
  | succ w =>
    have hhalf : 2 * x < 2 ^ (w + 1) ↔ ¬ 2 ^ w ≤ x := by rw [pow_succ]; omega
    by_cases htop : 2 ^ w ≤ x <;> simp [sextN, Nat.mod_eq_of_lt hx, hhalf, htop]

/-- BFX: an unsigned field, or a signed one of some width (R127). -/
theorem bfxOp_eq (f : BfxOp) (x y : Word) :
    let field := x.toNat / 2 ^ bfPos y % 2 ^ bfWidth y
    bfxOp f x y = if f = .signed ∧ 0 < bfWidth y ∧ 2 ^ (bfWidth y - 1) ≤ field then BitVec.ofInt 32 ((field : Int) - 2 ^ bfWidth y)
      else BitVec.ofNat 32 field := by
  intro field
  cases f with
  | unsigned => simp [bfxOp, field]
  | signed => exact (ofInt_sextN_eq (Nat.mod_lt _ (by positivity))).trans (by simp [field])

/-- OPI with its immediate as a signed number, or as a count (R129). -/
theorem opiOp_eq (f : OpiOp) (imm : BitVec 9) (x : Word) :
    opiOp f imm x =
      let c : Word := BitVec.ofInt 32 imm.toInt
      let n := imm.toNat % 32
      match f with
      | .addi => x + c
      | .andi => x &&& c
      | .ori => x ||| c
      | .xori => x ^^^ c
      | .shli => BitVec.ofNat 32 (x.toNat * 2 ^ n)
      | .shriN => BitVec.ofNat 32 (x.toNat / 2 ^ n)
      | .shriI => BitVec.ofInt 32 (x.toInt / 2 ^ n)
      | .muli => x * c := by
  rw [← signExtend_eq imm (by decide)]
  cases f with
  | addi => rfl
  | andi => rfl
  | ori => rfl
  | xori => rfl
  | shli => exact shl_eq x _
  | shriN => exact shr_eq x _
  | shriI => exact sshr_eq x _
  | muli => rfl

/-- LIH: the immediate in bits [31:14] (R130). -/
theorem append_zero_eq (imm : BitVec 18) : (imm ++ 0#14 : Word) = BitVec.ofNat 32 (imm.toNat * 2 ^ 14) := by
  apply BitVec.eq_of_toNat_eq
  have := imm.isLt
  rw [BitVec.toNat_append, BitVec.toNat_ofNat, Nat.shiftLeft_eq]
  simp
  omega

/-- SLIH: the immediate below the scalar moved up (R143). -/
theorem shl_add_zeroExtend_eq (x : Word) (imm : BitVec 15) : x <<< 15 + imm.zeroExtend 32 = BitVec.ofNat 32 (x.toNat * 2 ^ 15 + imm.toNat) := by
  rw [shl_eq, BitVec.ofNat_add, BitVec.ofNat_toNat]

/-- SOP on words (R142). -/
theorem sopOp_eq (f : SopOp) (c a : Word) :
    sopOp f c a =
      let n := a.toNat
      match f with
      | .smov => a | .sadd => c + a | .ssub => c - a | .smul => c * a
      | .smulhiI => (BitVec.ofInt 64 (c.toInt * a.toInt)).extractLsb' 32 32
      | .smulhiN => (BitVec.ofNat 64 (c.toNat * a.toNat)).extractLsb' 32 32
      | .sand => c &&& a | .sor => c ||| a | .sxor => c ^^^ a | .sandn => c &&& ~~~a
      | .sshl => if n < 32 then BitVec.ofNat 32 (c.toNat * 2 ^ n) else 0
      | .sshr => if n < 32 then BitVec.ofNat 32 (c.toNat / 2 ^ n) else 0
      | .ssar => BitVec.ofInt 32 (c.toInt / 2 ^ min n 31)
      | .sminI => BitVec.ofInt 32 (min c.toInt a.toInt) | .smaxI => BitVec.ofInt 32 (max c.toInt a.toInt)
      | .sminN => BitVec.ofNat 32 (min c.toNat a.toNat) | .smaxN => BitVec.ofNat 32 (max c.toNat a.toNat)
      | .snot => ~~~a | .sneg => -a
      | .spopc => BitVec.ofNat 32 ((List.range 32).filter fun j => a.getLsbD j).length
      | .sclz => BitVec.ofNat 32 ((List.range 32).findIdx fun j => a.getLsbD (31 - j))
      | .sctz => BitVec.ofNat 32 ((List.range 32).findIdx fun j => a.getLsbD j)
      | .saddSat => BitVec.ofInt 32 (max (-2 ^ 31) (min (2 ^ 31 - 1) (c.toInt + a.toInt)))
      | .ssubSat => BitVec.ofInt 32 (max (-2 ^ 31) (min (2 ^ 31 - 1) (c.toInt - a.toInt)))
      | .sseq => if c = a then 1 else 0
      | .ssltI => if c.toInt < a.toInt then 1 else 0
      | .ssltN => if c.toNat < a.toNat then 1 else 0
      | .dmov | .dadd | .dsub => c := by
  cases f with
  | smulhiN => exact congrArg (BitVec.extractLsb' 32 32) (BitVec.ofInt_natCast 64 _)
  | sshl => exact shfOp_eq .shl c a
  | sshr => exact shfOp_eq .shrN c a
  | ssar => exact shfOp_eq .shrI c a
  | sminI => exact minI_eq c a
  | smaxI => exact maxI_eq c a
  | sminN => exact minN_eq c a
  | smaxN => exact maxN_eq c a
  | sneg => exact BitVec.zero_sub a
  | spopc => exact popc_eq a
  | sclz => exact clz_eq a
  | sctz => exact ctz_eq a
  | saddSat => exact satI_eq _
  | ssubSat => exact satI_eq _
  | sseq => simp [sopOp]
  | ssltI => simp [sopOp, BitVec.slt_eq_decide]
  | ssltN => simp [sopOp, BitVec.ult_eq_decide]
  | smov | sadd | ssub | smul | smulhiI | sand | sor | sxor | sandn | snot | dmov | dadd | dsub => rfl

end Sys2Proof.Machine
end

section
/-! The ends of the compute instructions (spec/05_integer.md R118): vector results or one predicate of each thread of a set,
or what the crew itself holds. An instruction is named by its meaning, whose end is the one stated. -/

namespace Sys2Proof.Machine

section
variable {s : State} {k : Crew} {i : Instr} {body : State → Crew → Lanes → State}

/-- One vector register of the threads of a set. -/
theorem writesRegs_of_vec {on : Lanes} {la d : Nat} {f : Nat → Thread → Word} {g : Nat → Word} (hr : s.runs k i) (hx : exec i s = issue i s body)
    (hb : body s.bump k k.active = s.bump.vec i k k.active on la d f) (hf : ∀ l, f l (k.thread l) = g l)
    (ho : closesWindow i = false := by simp [closesWindow, encodeNat, put_major, Instr.length]) : s.writesRegs k i on d 1 fun l _ => g l :=
  writesRegs_of ho (hx.trans ((issue_open hr ho body).trans (congrArg _ hb))) fun l _ => by simp [hf l]

/-- Consecutive vector registers of the threads of a set. -/
theorem writesRegs_of_vecs {on : Lanes} {la d n : Nat} {f : Nat → Thread → List (Nat × Word)} {g : Nat → Nat → Word} (hr : s.runs k i)
    (hx : exec i s = issue i s body) (hb : body s.bump k k.active = s.bump.vecs i k k.active on la f)
    (hf : ∀ l, f l (k.thread l) = (List.range n).map fun j => (d + j, g l j))
    (ho : closesWindow i = false := by simp [closesWindow, encodeNat, put_major, Instr.length]) : s.writesRegs k i on d n g :=
  writesRegs_of ho (hx.trans ((issue_open hr ho body).trans (congrArg _ hb))) fun l _ => hf l

/-- One predicate of the threads of ACTIVE. -/
theorem writesPred_of_prd {p : Nat} {f : Nat → Thread → Bool} {g : Nat → Bool} (hr : s.runs k i) (hx : exec i s = issue i s body)
    (hb : body s.bump k k.active = s.bump.prd i k k.active p f) (hf : ∀ l, f l (k.thread l) = g l)
    (ho : closesWindow i = false := by simp [closesWindow, encodeNat, put_major, Instr.length]) : s.writesPred k i p g :=
  writesPred_of ho (hx.trans ((issue_open hr ho body).trans (congrArg _ hb))) fun l _ => hf l

/-- What the crew itself holds: its scalars, its index registers, its threads' predicates. -/
theorem goesTo_of_done {c : Crew} (hr : s.runs k i) (hx : exec i s = issue i s body) (hb : body s.bump k k.active = s.bump.done i c k.active)
    (hp : ∀ l < c.threads.length, (c.thread l).pcv = (k.thread l).pcv ∧ (c.thread l).yex = (k.thread l).yex := by intros; exact ⟨rfl, rfl⟩)
    (hc : c.core = k.core := by rfl) (hrep : c.rep = k.rep := by rfl)
    (ho : closesWindow i = false := by simp [closesWindow, encodeNat, put_major, Instr.length]) : s.goesTo k i s.bump c :=
  goesTo_of (hx.trans ((issue_open hr ho body).trans (congrArg _ hb))) (closedLoads_of_open ho _ _) hc hrep hp

end

end Sys2Proof.Machine

open Sys2Proof Sys2Proof.Machine

/-- Settles O15: each member is its exact value as a word, and the shared end of the four instructions writes it in the guarded threads. -/
theorem addLogShiftMinmax : Obligations.AddLogShiftMinmax := by
  unfold Obligations.AddLogShiftMinmax
  refine fun s k g b a d => ⟨fun f hr => ?_, fun f hr => ?_, fun f hr => ?_, fun f hr => ?_⟩
  · exact writesRegs_of_vec hr (rfl : execAdd f g b a d s = _) rfl fun l => addOp_eq f _ _
  · exact writesRegs_of_vec hr (rfl : execLog f g b a d s = _) rfl fun l => rfl
  · exact writesRegs_of_vec hr (rfl : execShf f g b a d s = _) rfl fun l => shfOp_eq f _ _
  · exact writesRegs_of_vec hr (rfl : execMinmax f g b a d s = _) rfl fun l => minmaxOp_eq f _ _ _
end

section
/-! MUL and MAD (spec/05_integer.md R122): the words of a result as consecutive registers. -/

namespace Sys2Proof.Machine

/-- Words numbered from a register upward. -/
theorem zipIdx_range_map (d n : Nat) (w : Nat → Word) :
    (((List.range n).map w).zipIdx.map fun p => (d + p.2, p.1)) = (List.range n).map fun j => (d + j, w j) :=
  List.ext_getElem (by simp) fun j _ _ => by simp

/-- MUL: no addend. -/
theorem mulOp_zero_eq (f : MulOp) (x y : Word) :
    mulOp f x y 0 0 = (List.range (mulRegs f)).map fun j => match f with
      | .lo => BitVec.ofInt 32 (mulProduct f x y)
      | .hiI | .hiN => (BitVec.ofInt 64 (mulProduct f x y)).extractLsb' 32 32
      | .satI => BitVec.ofInt 32 (max (-2 ^ 31) (min (2 ^ 31 - 1) (mulProduct f x y)))
      | .satN => BitVec.ofInt 32 (max 0 (min (2 ^ 32 - 1) (mulProduct f x y)))
      | .wideI | .wideN => (BitVec.ofInt 64 (mulProduct f x y)).extractLsb' (32 * j) 32 := by
  rw [mulOp_eq]
  cases f <;> simp

end Sys2Proof.Machine

open Sys2Proof Sys2Proof.Machine

/-- Settles O16: the members' words are those of the exact product with their addend, written from vd upward. -/
theorem multiplyAndMultiplyAdd : Obligations.MultiplyAndMultiplyAdd := by
  unfold Obligations.MultiplyAndMultiplyAdd
  refine fun s k f g b a d => ⟨fun hr => ?_, fun hr => ?_⟩
  · refine writesRegs_of_vecs hr (rfl : execMul f g b a d s = _) rfl fun l => ?_
    dsimp only
    rw [mulOp_zero_eq]
    exact zipIdx_range_map ..
  · refine writesRegs_of_vecs hr (rfl : execMad f g b a d s = _) rfl fun l => ?_
    dsimp only
    rw [mulOp_eq]
    exact zipIdx_range_map ..
end

section
/-! Bit fields and the 16-bit form (spec/05_integer.md R126 to R132). -/

namespace Sys2Proof.Machine

/-- A NaN as its canonical one, for which the sign is then set (R132, R148). -/
theorem withSign_not_eq (w : Word) :
    withSign w (!w.getLsbD 31)
      = (if (f32v w).isNan then 0x7FC00000 else w) &&& 0x7FFFFFFF ||| (if w.getLsbD 31 then 0 else 0x80000000) := by
  unfold withSign f32nan
  cases w.getLsbD 31 <;> rfl
theorem withSign_false_eq (w : Word) : withSign w false = (if (f32v w).isNan then 0x7FC00000 else w) &&& 0x7FFFFFFF := by
  simp [withSign, f32nan]

end Sys2Proof.Machine

open Sys2Proof Sys2Proof.Machine

/-- Settles O17: each result is the member's formula on its operands; the 16-bit form has the shared end of the 32-bit one. -/
theorem bitFieldsAndShortForms : Obligations.BitFieldsAndShortForms := by
  unfold Obligations.BitFieldsAndShortForms
  refine ⟨fun s k => ⟨fun f g a d hr => ?bit, fun la b a d => ⟨fun f hr => ?bfx, fun hr => ?bfi⟩, fun q g b a d hr => ?sel,
    fun f imm a d hr => ?opi, fun imm d hr => ?lih⟩, fun s k a d => ?short⟩
  case bit => exact writesRegs_of_vec hr (rfl : execBit f g a d s = _) rfl fun l => bitOp_eq f _
  case bfx => exact writesRegs_of_vec hr (rfl : execBfx la f b a d s = _) rfl fun l => bfxOp_eq f _ _
  case bfi => exact writesRegs_of_vec hr (rfl : execBfi la b a d s = _) rfl fun l => rfl
  case sel => exact writesRegs_of_vec hr (rfl : execSel q g b a d s = _) rfl fun l => rfl
  case opi => exact writesRegs_of_vec hr (rfl : execOpi f imm a d s = _) rfl fun l => opiOp_eq f imm _
  case lih => exact writesRegs_of_vec hr (rfl : execLih imm d s = _) rfl fun l => append_zero_eq imm
  case short =>
    exact ⟨
      fun hr => writesRegs_of_vec hr (rfl : execMov16 a d s = _) rfl fun _ => rfl,
      fun hr => writesRegs_of_vec hr (rfl : execAdd16I32 a d s = _) rfl fun _ => rfl,
      fun hr => writesRegs_of_vec hr (rfl : execSub16I32 a d s = _) rfl fun _ => rfl,
      fun hr => writesRegs_of_vec hr (rfl : execMul16I32 a d s = _) rfl fun _ => rfl,
      fun hr => writesRegs_of_vec hr (rfl : execAnd16 a d s = _) rfl fun _ => rfl,
      fun hr => writesRegs_of_vec hr (rfl : execOr16 a d s = _) rfl fun _ => rfl,
      fun hr => writesRegs_of_vec hr (rfl : execXor16 a d s = _) rfl fun _ => rfl,
      fun hr => writesRegs_of_vec hr (rfl : execShl16 a d s = _) rfl fun _ => shl_eq _ _,
      fun hr => writesRegs_of_vec hr (rfl : execShr16N32 a d s = _) rfl fun _ => shr_eq _ _,
      fun hr => writesRegs_of_vec hr (rfl : execShr16I32 a d s = _) rfl fun _ => sshr_eq _ _,
      fun hr => writesRegs_of_vec hr (rfl : execMin16I32 a d s = _) rfl fun _ => minI_eq _ _,
      fun hr => writesRegs_of_vec hr (rfl : execMax16I32 a d s = _) rfl fun _ => maxI_eq _ _,
      fun hr => writesRegs_of_vec hr (rfl : execNeg16I32 a d s = _) rfl fun _ => BitVec.zero_sub _,
      fun hr => writesRegs_of_vec hr (rfl : execNot16 a d s = _) rfl fun _ => rfl,
      fun hr => writesRegs_of_vec hr (rfl : execAddi5 a d s = _) rfl fun _ => congrArg _ (signExtend_eq a (by decide)),
      fun hr => writesRegs_of_vec hr (rfl : execMovi5 a d s = _) rfl fun _ => signExtend_eq a (by decide),
      fun hr => writesRegs_of_vec hr (rfl : execS2v16 a d s = _) rfl fun _ => rfl,
      fun hr => writesRegs_of_vec hr (rfl : execAdd16F32 a d s = _) rfl fun _ => rfl,
      fun hr => writesRegs_of_vec hr (rfl : execSub16F32 a d s = _) rfl fun _ => rfl,
      fun hr => writesRegs_of_vec hr (rfl : execMul16F32 a d s = _) rfl fun _ => rfl,
      fun hr => writesRegs_of_vec hr (rfl : execMin16F32 a d s = _) rfl fun _ => rfl,
      fun hr => writesRegs_of_vec hr (rfl : execMax16F32 a d s = _) rfl fun _ => rfl,
      fun hr => writesRegs_of_vec hr (rfl : execNeg16F32 a d s = _) rfl fun _ => withSign_not_eq _,
      fun hr => writesRegs_of_vec hr (rfl : execAbs16F32 a d s = _) rfl fun _ => withSign_false_eq _⟩
end

section
/-! Predicate, cross-lane and scalar instructions (spec/05_integer.md R133 to R144): the tests, the lanes and the scalars they name. -/

namespace Sys2Proof.Machine

/-- CMP: an unordered pair satisfies ne and nan alone (R133). -/
theorem cmpOp_eq (t : CmpType) (c : CmpCond) (x y : Word) :
    cmpOp t c x y = match t with
      | .i32 => condOf c (decide (x.toInt < y.toInt)) (decide (x = y))
      | .n32 => condOf c (decide (x.toNat < y.toNat)) (decide (x = y))
      | .f32 =>
        if (f32v x).isNan || (f32v y).isNan then decide (c = .ne ∨ c = .nan)
        else condOf c ((f32v x).lt (f32v y)) (!(f32v x).lt (f32v y) && !(f32v y).lt (f32v x)) := by
  cases t with
  | i32 => rfl
  | n32 => rfl
  | f32 =>
    have hne : (c == .ne || c == .nan) = decide (c = .ne ∨ c = .nan) := by cases c <;> rfl
    simp only [cmpOp, hne]

/-- VOTE over the lanes of a set (R138). -/
theorem voteOp_laneList (t : VoteOp) (on : Lanes) (holds : Nat → Bool) :
    voteOp t ((laneList on).map holds) = match t with
      | .all => decide (∀ u ∈ laneList on, holds u)
      | .any => decide (∃ u ∈ laneList on, holds u)
      | .uni => decide ((∀ u ∈ laneList on, holds u) ∨ ∀ u ∈ laneList on, ¬ holds u)
      | .ballot => false := by
  rw [Bool.eq_iff_iff]
  cases t with
  | all => simp [voteOp]
  | any => simp [voteOp]
  | uni => simp [voteOp]
  | ballot => rfl

/-- The lanes REDX combines for a lane (R139). -/
theorem redxLanes_eq (f : RedxScope) (act : Lanes) (l : Nat) :
    redxLanes f act l = (List.range 32).filter fun u =>
      act.getLsbD u && match f with | .crew => true | .four => decide (u / 4 = l / 4) | .scan => decide (u ≤ l) := by
  rw [redxLanes, laneList, List.filter_filter]
  refine List.filter_congr fun u _ => ?_
  rw [Bool.and_comm]
  cases f <;> rfl

/-- The set of one lane. -/
theorem getLsbD_one_shiftLeft {n : Nat} (hn : n < 32) (l : Nat) : (1 <<< n : Lanes).getLsbD l = (l == n) := by
  rw [show (1 <<< n : Lanes) = BitVec.twoPow 32 n from (BitVec.twoPow_eq ..).symm, BitVec.getLsbD_twoPow]
  exact Bool.eq_iff_iff.mpr (by simpa [hn] using eq_comm)

/-- Results of one lane of a set alone are results of the threads of that lane (R140). -/
theorem vecs_of_lane (s : State) (i : Instr) (k : Crew) (act on : Lanes) {n : Nat} (hn : n < 32) (f : Nat → Thread → List (Nat × Word)) :
    s.vecs i k act on 0 (fun l t => if l == n then f l t else []) = s.vecs i k act (on &&& (1 <<< n)) 0 f := by
  unfold State.vecs Crew.writeV
  congr 2
  funext l t
  rw [BitVec.getLsbD_and, getLsbD_one_shiftLeft hn]
  cases on.getLsbD l with
  | false => rfl
  | true => cases h : l == n <;> simp [h, Thread.puts, Thread.opens]

end Sys2Proof.Machine

open Sys2Proof Sys2Proof.Machine

/-- Settles O18: each instruction has a shared end, and writes there its test, the value of its source lanes, or its scalar formula. -/
theorem predicatesLanesScalars : Obligations.PredicatesLanesScalars := by
  unfold Obligations.PredicatesLanesScalars
  refine ⟨fun s k b a p => ⟨fun t c hr => ?cmp, fun c hr => ?plog, fun hr => ?pmov, fun v hr => ?pset,
      fun t m hr => ?fcls, fun t ht hr => ?vote⟩,
    fun s k => ⟨fun la f b a d hr => ?shfl, fun la f o a d hr => ?redx, fun a d hr => ?ballot, fun base d hr => ?p2v, fun a base hr => ?v2p,
      fun n sn d hr => ?word, fun n sn d hr => ?pair, fun n sn d hr => ?lane⟩,
    fun s k => ⟨fun f n sd v hr => ?v2s, fun f sa sd hr => ?sop, fun imm d hr => ?sli, fun imm d hr => ?saddi, fun imm d hr => ?slih,
      fun imm n hr => ?xsetImm, fun r n hr => ?xsetScalar, fun imm n hr => ?xadd⟩⟩
  case cmp => exact writesPred_of_prd hr (rfl : execCmp t c b a p s = _) rfl fun _ => cmpOp_eq t c _ _
  case plog => exact writesPred_of_prd hr (rfl : execPlog c b a p s = _) rfl fun _ => rfl
  case pmov => exact writesPred_of_prd hr (rfl : execPmov a p s = _) rfl fun _ => rfl
  case pset => exact writesPred_of_prd hr (rfl : execPset v p s = _) rfl fun _ => rfl
  case fcls => exact writesPred_of_prd hr (rfl : execFcls t m a p s = _) rfl fun _ => rfl
  case vote =>
    exact writesPred_of_prd hr (rfl : execVote t a p s = _) (if_neg (by simpa using ht)) fun _ => voteOp_laneList t k.active _
  case shfl => exact writesRegs_of_vec hr (rfl : execShfl la f b a d s = _) rfl fun _ => by cases f <;> rfl
  case redx => exact writesRegs_of_vec hr (rfl : execRedx la f o a d s = _) rfl fun l => by rw [redxLanes_eq]; rfl
  case ballot => exact writesRegs_of_vec hr (rfl : execVote .ballot a d s = _) rfl fun _ => rfl
  case p2v => exact writesRegs_of_vec hr (rfl : execP2v base d s = _) rfl fun _ => rfl
  case v2p =>
    refine goesTo_of_done hr (rfl : execV2p a base s = _) rfl fun l hl => ?_
    rw [Crew.thread_mapT k _ (by simpa using hl)]
    split <;> exact ⟨rfl, rfl⟩
  case word => exact writesRegs_of_vecs hr (rfl : execS2v .w n sn d s = _) rfl fun _ => rfl
  case pair => exact writesRegs_of_vecs hr (rfl : execS2v .pair n sn d s = _) rfl fun _ => rfl
  case lane => exact writesRegs_of_vecs hr (rfl : execS2v .lane n sn d s = _) (vecs_of_lane _ _ _ _ _ n.isLt _) fun _ => rfl
  case v2s => exact goesTo_of_done hr (rfl : execV2s f n sd v s = _) (by cases f <;> rfl)
  case sop =>
    refine goesTo_of_done hr (rfl : execSop f sa sd s = _) (congrArg (fun c => s.bump.done (.sop f sa sd) c k.active) ?_)
    cases f with
    | dmov | dadd | dsub => rfl
    | _ => exact congrArg (k.setS sd.toNat) (sopOp_eq ..)
  case sli => exact goesTo_of_done hr (rfl : execSli imm d s = _) (by rw [← signExtend_eq imm (by decide)]; rfl)
  case saddi => exact goesTo_of_done hr (rfl : execSaddi imm d s = _) (by rw [← signExtend_eq imm (by decide)]; rfl)
  case slih => exact goesTo_of_done hr (rfl : execSlih imm d s = _) (by rw [← shl_add_zeroExtend_eq]; rfl)
  case xsetImm => exact goesTo_of_done hr (rfl : execXsetImm imm n s = _) rfl
  case xsetScalar => exact goesTo_of_done hr (rfl : execXsetScalar r n s = _) rfl
  case xadd => exact goesTo_of_done hr (rfl : execXadd imm n s = _) rfl
end

section
/-! The float functions of the ALU (spec/06_float.md R161 to R165, R170): the exact value that each member rounds once, and the special values. -/

namespace Sys2Proof.Machine

/-- The sign bit of a word alone (R161). -/
theorem ite_getLsbD_31_eq_and (y : Word) : (if y.getLsbD 31 then 0x80000000 else 0) = y &&& 0x80000000 :=
  (BitVec.and_twoPow y 31).symm

/-- FAR (R161). -/
theorem farOp_eq (f : FarOp) (x y : Word) :
    farOp f x y = match f with
      | .add => f32r (.sum [f32v x, f32v y])
      | .sub => f32r (.sum [f32v x, (f32v y).neg])
      | .mul => f32r ((f32v x).mul (f32v y))
      | .min => fmin x y
      | .max => fmax x y
      | .copysign => (if (f32v x).isNan then 0x7FC00000 else x) &&& 0x7FFFFFFF ||| (y &&& 0x80000000)
      | .adiff => f32r (Fv.sum [f32v x, (f32v y).neg]).abs := by
  cases f with
  | copysign => exact congrArg (_ ||| ·) (ite_getLsbD_31_eq_and y)
  | add | sub | mul | min | max | adiff => rfl

/-- FFMA, with c the old vd: the product is not rounded on its own (R162). -/
theorem ffmaOp_eq (f : FfmaOp) (x y c : Word) :
    ffmaOp f x y c =
      let p := (f32v x).mul (f32v y)
      let z := f32v c
      f32r <| match f with
        | .fma => .sum [p, z] | .fms => .sum [p, z.neg] | .fnma => .sum [p.neg, z] | .fnms => .sum [p.neg, z.neg] := by
  cases f <;> rfl

/-- The clamp of FRACT below 1 (R163). -/
theorem fract_clamp_eq (r : Word) :
    (if r.toNat < 0x3F7FFFFF || r.toNat ≥ 0x80000000 then r else 0x3F7FFFFF)
      = if 0x3F7FFFFF ≤ r.toNat ∧ r.toNat < 0x80000000 then 0x3F7FFFFF else r := by
  by_cases h : 0x3F7FFFFF ≤ r.toNat ∧ r.toNat < 0x80000000
  · rw [if_pos h, if_neg (by simpa using h)]
  · rw [if_neg h, if_pos (by simp; omega)]

/-- FUN by the class of its input (R163). -/
theorem funOp_eq (f : FunOp) (x : Word) :
    funOp f x = match f, f32v x with
      | _, .nan => 0x7FC00000
      | .fract, .inf _ => 0x7FC00000
      | .sign, .inf neg => if neg then 0xBF800000 else 0x3F800000
      | _, .inf _ => x
      | .floor, .fin neg n e => f32r (.fin neg (roundDiv .rdn neg n e) 1)
      | .ceil, .fin neg n e => f32r (.fin neg (roundDiv .rup neg n e) 1)
      | .trunc, .fin neg n e => f32r (.fin neg (n / e) 1)
      | .rint, .fin neg n e => f32r (.fin neg (roundDiv .rne neg n e) 1)
      | .fract, .fin neg n e =>
        let r := f32r (.sum [.fin neg n e, .ofInt (-((Fv.fin neg n e).toInt .rdn))])
        if n = 0 then 0 else if 0x3F7FFFFF ≤ r.toNat ∧ r.toNat < 0x80000000 then 0x3F7FFFFF else r
      | .sign, .fin neg n _ => if n = 0 then x else if neg then 0xBF800000 else 0x3F800000 := by
  cases f with
  | floor | ceil | trunc | rint =>
    simp only [funOp, integral]
    cases f32v x <;> rfl
  | fract =>
    simp only [funOp, fract_clamp_eq, beq_iff_eq]
    cases f32v x <;> rfl
  | sign =>
    simp only [funOp, beq_iff_eq]
    cases f32v x <;> rfl

/-! ## SFU (R165) -/

/-! The inputs and results that the table of R165 names. -/

theorem f32v_posZero : f32v 0 = .fin false 0 (2 ^ 149) := by decide
theorem f32v_negZero : f32v 0x80000000 = .fin true 0 (2 ^ 149) := by decide
theorem f32v_posInf : f32v 0x7F800000 = .inf false := by decide
theorem f32v_negInf : f32v 0xFF800000 = .inf true := by decide
theorem f32r_one : f32r (.fin false 1 1) = 0x3F800000 := by decide
theorem f32r_zero (neg : Bool) : f32r (.fin neg 0 1) = if neg then 0x80000000 else 0 := by cases neg <;> rfl
theorem f32r_inf (neg : Bool) : f32r (.inf neg) = if neg then 0xFF800000 else 0x7F800000 := by cases neg <;> rfl

/-- 2^0, with either sign of its zero. -/
theorem Sfu.exp2_zero (neg : Bool) (d : Nat) : Sfu.exp2 neg 0 d = .fin false 1 1 := by simp [Sfu.exp2, pow2]
/-- cos 0 as SINPI of one half, d / 2d. -/
theorem Sfu.sinpi_half {d : Nat} (hd : 0 < d) : Sfu.sinpi false d (2 * d) = .fin false 1 1 := by
  have hmod : d % (2 * (2 * d)) = d := Nat.mod_eq_of_lt (by omega)
  have hlt : ¬ 2 * d ≤ d := by omega
  simp [Sfu.sinpi, hmod, hlt]

variable {x : Word}

theorem sfuOp_of_isNan (f : SfuOp) (h : (f32v x).isNan) : sfuOp f x = 0x7FC00000 := by
  cases hx : f32v x with
  | nan => cases f <;> simp only [sfuOp, hx] <;> rfl
  | inf _ => simp [hx, Fv.isNan] at h
  | fin _ _ _ => simp [hx, Fv.isNan] at h

/-- A zero (R165). -/
theorem sfuOp_of_zero (f : SfuOp) {neg : Bool} {d : Nat} (hx : f32v x = .fin neg 0 d) (hd : 0 < d) :
    sfuOp f x = match f with
      | .rcp | .rsqrt => if neg then 0xFF800000 else 0x7F800000
      | .sqrt | .tanh => x
      | .exp2 | .cospi => 0x3F800000
      | .log2 => 0xFF800000
      | .sinpi => if neg then 0x80000000 else 0 := by
  cases f with
  | rcp | rsqrt => simp [sfuOp, hx, f32r_inf]
  | sqrt | tanh => simp [sfuOp, hx]
  | exp2 => simp only [sfuOp, hx, Sfu.exp2_zero, f32r_one]
  | cospi =>
    have hmod : d % (2 * d) = d := Nat.mod_eq_of_lt (by omega)
    simp [sfuOp, hx, hmod, hd.ne', Sfu.sinpi_half hd, f32r_one]
  | log2 => simp [sfuOp, hx, f32r_inf]
  | sinpi => simp [sfuOp, hx, f32r_zero]

/-- An infinity (R165). -/
theorem sfuOp_of_inf (f : SfuOp) {neg : Bool} (hx : f32v x = .inf neg) :
    sfuOp f x = match f with
      | .rcp => if neg then 0x80000000 else 0
      | .rsqrt => if neg then 0x7FC00000 else 0
      | .sqrt | .log2 => if neg then 0x7FC00000 else x
      | .exp2 => if neg then 0 else x
      | .sinpi | .cospi => 0x7FC00000
      | .tanh => if neg then 0xBF800000 else 0x3F800000 := by
  cases f with
  | rcp => simp [sfuOp, hx, f32r_zero]
  | rsqrt | sqrt | log2 | exp2 | sinpi | cospi | tanh => simp only [sfuOp, hx] <;> rfl

theorem sfuOp_of_negative {f : SfuOp} {n e : Nat} (hx : f32v x = .fin true n e) (hn : 0 < n)
    (hf : f = .rsqrt ∨ f = .sqrt ∨ f = .log2) : sfuOp f x = 0x7FC00000 := by
  obtain rfl | rfl | rfl := hf <;> simp [sfuOp, hx, hn.ne', f32nan]

end Sys2Proof.Machine

open Sys2Proof Sys2Proof.Machine

/-- Settles O20: each member is one rounding of its exact value, written by the shared end of the vector instructions; SFU's special values
go by the class of its input. -/
theorem floatArithmetic : Obligations.FloatArithmetic := by
  unfold Obligations.FloatArithmetic
  refine ⟨fun s k g b a d => ⟨fun f hr => ?far, fun f hr => ?ffma, fun f hr => ?round, fun f hr => ?hop⟩,
    fun s k la f a d => ⟨fun hr => ?sfu, fun x => sfuOp_of_isNan f, ?posZero, ?negZero, ?posInf, ?negInf,
      fun x n e => sfuOp_of_negative⟩⟩
  case far => exact writesRegs_of_vec hr (rfl : execFar f g b a d s = _) rfl fun l => farOp_eq f _ _
  case ffma => exact writesRegs_of_vec hr (rfl : execFfma f g b a d s = _) rfl fun l => ffmaOp_eq f _ _ _
  case round => exact writesRegs_of_vec hr (rfl : execFun f g a d s = _) rfl fun l => funOp_eq f _
  case hop => exact writesRegs_of_vec hr (rfl : execHop f g b a d s = _) rfl fun l => by cases f <;> rfl
  case sfu => exact writesRegs_of_vec hr (rfl : execSfu la f a d s = _) rfl fun l => rfl
  case posZero => exact (sfuOp_of_zero f f32v_posZero (by decide)).trans (by cases f <;> rfl)
  case negZero => exact (sfuOp_of_zero f f32v_negZero (by decide)).trans (by cases f <;> rfl)
  case posInf => exact (sfuOp_of_inf f f32v_posInf).trans (by cases f <;> rfl)
  case negInf => exact (sfuOp_of_inf f f32v_negInf).trans (by cases f <;> rfl)
end

section
/-! Conversions, packing and residues (spec/06_float.md R157, R158, R166 to R172): the integers and the fields that each result is made of. -/

namespace Sys2Proof.Machine

/-! ## ICVT (R167) -/

/-- A float to an integer of the range from lo to hi. -/
def icvtInto (mode : Rnd) (lo hi : Int) (x : Word) : Word := match f32v x with
  | .nan => 0
  | .inf neg => BitVec.ofInt 32 (if neg then lo else hi)
  | .fin neg n e => BitVec.ofInt 32 (min (max (if neg then -(roundDiv mode neg n e : Int) else roundDiv mode neg n e) lo) hi)

theorem icvtOp_eq (f : IcvtOp) (mode : Rnd) (x : Word) :
    icvtOp f mode x = match f with
      | .i2f => BitVec.ofNat 32 (Fmt.f32.round mode (.ofInt x.toInt))
      | .n2f => BitVec.ofNat 32 (Fmt.f32.round mode (.ofInt x.toNat))
      | .f2i => icvtInto mode (-2 ^ 31) (2 ^ 31 - 1) x
      | .f2n => icvtInto mode 0 (2 ^ 32 - 1) x := by
  cases f with
  | i2f | n2f => rfl
  | f2i | f2n =>
    simp only [icvtOp, icvtInto]
    cases f32v x with
    | nan => rfl
    | inf neg => cases neg <;> rfl
    | fin neg n e => rfl

/-! ## PACK (R168) -/

/-- A bit of a word with a field of n bits from lo replaced. -/
theorem getLsbD_setBits (c : Word) {lo n : Nat} (h : lo + n ≤ 32) (v i : Nat) :
    (setBits c lo n v).getLsbD i = if lo ≤ i ∧ i < lo + n then v.testBit (i - lo) else c.getLsbD i := by
  unfold setBits
  simp only [BitVec.getLsbD_or, BitVec.getLsbD_and, BitVec.getLsbD_not, BitVec.getLsbD_ofNat, Nat.testBit_mul_two_pow,
    Nat.testBit_two_pow_sub_one, Nat.testBit_mod_two_pow]
  by_cases hin : lo ≤ i ∧ i < lo + n
  · have hi : i < 32 := by omega
    have hn : i - lo < n := by omega
    simp [hin, hi, hn]
  · have hn : ¬ (lo ≤ i ∧ i - lo < n) := by omega
    have hc : 32 ≤ i → c.getLsbD i = false := BitVec.getLsbD_of_ge c i
    grind

/-- A field of a word, with what stands above it and below it (R168). -/
theorem toNat_setBits (c : Word) {lo n v : Nat} (h : lo + n ≤ 32) (hv : v < 2 ^ n) :
    (setBits c lo n v).toNat = 2 ^ lo * (2 ^ n * (c.toNat / 2 ^ (lo + n)) + v) + c.toNat % 2 ^ lo := by
  refine Nat.eq_of_testBit_eq fun i => ?_
  rw [BitVec.testBit_toNat, getLsbD_setBits c h, Nat.testBit_two_pow_mul_add _ (Nat.mod_lt _ (by positivity)), Nat.testBit_mod_two_pow,
    Nat.testBit_two_pow_mul_add _ hv, Nat.testBit_div_two_pow]
  by_cases hlo : i < lo
  · have : ¬ lo ≤ i := by omega
    simp [hlo, this, BitVec.testBit_toNat]
  · by_cases hn : i - lo < n
    · have : lo ≤ i ∧ i < lo + n := by omega
      simp [hlo, hn, this]
    · have hi : ¬ i < lo + n := by omega
      have : i - lo - n + (lo + n) = i := by omega
      simp [hlo, hn, hi, this, BitVec.testBit_toNat]

theorem toNat_append_eq_add {m n : Nat} (x : BitVec m) (y : BitVec n) : (x ++ y).toNat = x.toNat * 2 ^ n + y.toNat := by
  rw [BitVec.toNat_append, ← Nat.shiftLeft_add_eq_or_of_lt y.isLt, Nat.shiftLeft_eq]

theorem packOp_eq (f : PackOp) (x y c : Word) :
    packOp f x y c =
      let nibbles : BitVec 8 := y.extractLsb' 0 4 ++ x.extractLsb' 0 4
      match f with
        | .p16 => y.extractLsb' 0 16 ++ x.extractLsb' 0 16
        | .p8lo => c.extractLsb' 16 16 ++ y.extractLsb' 0 8 ++ x.extractLsb' 0 8
        | .p8hi => y.extractLsb' 0 8 ++ x.extractLsb' 0 8 ++ c.extractLsb' 0 16
        | .p4b0 => c.extractLsb' 8 24 ++ nibbles
        | .p4b1 => c.extractLsb' 16 16 ++ nibbles ++ c.extractLsb' 0 8
        | .p4b2 => c.extractLsb' 24 8 ++ nibbles ++ c.extractLsb' 0 16
        | .p4b3 => nibbles ++ c.extractLsb' 0 24 := by
  have hc := c.isLt
  apply BitVec.eq_of_toNat_eq
  cases f <;>
  · simp only [packOp]
    rw [toNat_setBits c (by decide) (by omega)]
    simp only [toNat_append_eq_add, BitVec.extractLsb'_toNat, Nat.shiftRight_eq_div_pow]
    omega

/-! ## UNPK (R169) -/

theorem unpkOp_eq (f : UnpkOp) (fs : DWord) (i : Nat) (x : Word) :
    let w := (slotElem fs).width
    let field := x.toNat / 2 ^ (w * (i % (32 / w))) % 2 ^ w
    unpkOp f fs i x = match f with
      | .widen => widen fs (BitVec.ofNat 32 field)
      | .raw => BitVec.ofNat 32 field
      | .raws => BitVec.ofInt 32 (if 2 * field < 2 ^ w then (field : Int) else field - 2 ^ w) := by
  cases f with
  | widen | raw => rfl
  | raws => simp only [unpkOp, sextN, Nat.mod_mod]

/-! ## Residues (R157, R158, R171, R172) -/

theorem toNat_resEnc (x : Int) : (resEnc x).toNat = (x % 255).toNat + (x % 256).toNat * 256 + (x % 257).toNat * 65536 := by
  unfold resEnc
  rw [BitVec.toNat_ofNat]
  omega

/-- The fields of the encoding of a number are its remainders (R157). -/
theorem residues_resEnc (x : Int) :
    (r255 (resEnc x) : Int) = x % 255 ∧ (r256 (resEnc x) : Int) = x % 256 ∧ (r257 (resEnc x) : Int) = x % 257 := by
  obtain ⟨a, ha⟩ := Int.eq_ofNat_of_zero_le (Int.emod_nonneg x (by decide : (255 : Int) ≠ 0))
  obtain ⟨b, hb⟩ := Int.eq_ofNat_of_zero_le (Int.emod_nonneg x (by decide : (256 : Int) ≠ 0))
  obtain ⟨c, hc⟩ := Int.eq_ofNat_of_zero_le (Int.emod_nonneg x (by decide : (257 : Int) ≠ 0))
  have ha' : a < 255 := by omega
  have hb' : b < 256 := by omega
  have hc' : c < 257 := by omega
  rw [r255, r256, r257, toNat_resEnc, ha, hb, hc]
  clear ha hb hc
  simp only [Int.toNat_natCast, Int.natCast_inj]
  omega

/-- CRT undoes RESENC (R158): of the three terms each keeps its own remainder and vanishes modulo the two other moduli, so their sum and x agree
modulo all three, and hence modulo M. -/
theorem crt_resEnc {x : Int} (hlo : -8388480 ≤ x) (hhi : x ≤ 8388479) : crt (resEnc x) = x := by
  obtain ⟨h255, h256, h257⟩ := residues_resEnc x
  unfold crt
  generalize r255 (resEnc x) = a at *
  generalize r256 (resEnc x) = b at *
  generalize r257 (resEnc x) = c at *
  dsimp only
  generalize hT : a * 128 % 255 * 65792 + b * 255 % 256 * 65535 + c * 129 % 257 * 65280 = T
  have mod255 : (T : Int) % 255 = x % 255 := by omega
  have mod256 : (T : Int) % 256 = x % 256 := by omega
  have mod257 : (T : Int) % 257 = x % 257 := by omega
  have modM : (T : Int) % 16776960 = x % 16776960 := by omega
  split <;> omega

end Sys2Proof.Machine

open Sys2Proof Sys2Proof.Machine

/-- Settles O21: each result is made of the fields or the integer of its operands, and of a residue element CRT finds the one number of the range. -/
theorem conversionsAndPacking : Obligations.ConversionsAndPacking := by
  unfold Obligations.ConversionsAndPacking
  refine ⟨fun s k => ⟨fun la f fs a d hr => ?cvt, fun la r f a d hr => ?icvt, fun f g b a d hr => ?pack, fun la f ix fs a d hr => ?unpk,
    fun la f a d hr => ?renc, fun la f a d hr => ?rdec⟩, fun x => crt_resEnc⟩
  case cvt => exact writesRegs_of_vec hr (rfl : execCvt la f fs a d s = _) rfl fun l => rfl
  case icvt => exact writesRegs_of_vec hr (rfl : execIcvt la r f a d s = _) rfl fun l => icvtOp_eq f r _
  case pack => exact writesRegs_of_vec hr (rfl : execPack f g b a d s = _) rfl fun l => packOp_eq f _ _ _
  case unpk => exact writesRegs_of_vec hr (rfl : execUnpk la f ix fs a d s = _) rfl fun l => unpkOp_eq f _ _ _
  case renc => exact writesRegs_of_vec hr (rfl : execRenc la f a d s = _) rfl fun l => by cases f <;> rfl
  case rdec => exact writesRegs_of_vec hr (rfl : execRdec la f a d s = _) rfl fun l => by cases f <;> rfl
end

section
/-! Strokes at issue (spec/12_stroke.md R320, R326, R334, R335): the checks of their addresses, and how they enter the outbound queue. -/

namespace Sys2Proof.Machine

/-- The majors of STRK, WSTRK and STRKN close no window (R39). -/
theorem closesWindow_of_stroke {i : Instr} (h : encodeNat i / 2 % 128 ∈ [0x60, 0x61, 0x62]) : closesWindow i = false := by
  refine closesWindow_of_major rfl ?_
  generalize encodeNat i / 2 % 128 = m at h
  revert m
  decide

/-! ## Addresses (R327, R334) -/

/-- A word of n bytes at offset o of stroke memory: aligned, in the replica, and in the window of the crew's context (R327, R374). -/
def State.strokeInside (t : State) (k : Crew) (n o : Nat) : Prop :=
  o % n = 0 ∧ o + n ≤ 2 ^ 22 ∧ (t.ctx k.asid).skmWin.toNat % 2 ^ 22 ≤ o
    ∧ o + n ≤ (t.ctx k.asid).skmWin.toNat % 2 ^ 22 + (t.ctx k.asid).skmWin.toNat / 2 ^ 22 % 2 ^ 23

/-- A stroke address that does not name a word of the window, and the cause it raises (R334). -/
def State.strokeAstray (t : State) (k : Crew) (n va : Nat) : Cause → Prop
  | .misalign => va % n ≠ 0
  | .farAccess => va % n = 0 ∧ (va < 0xFFFC00000000 ∨ 2 ^ 48 ≤ va)
  | .prot => va % n = 0 ∧ 0xFFFC00000000 ≤ va ∧ va < 2 ^ 48 ∧ ¬ t.strokeInside k n (va - 0xFFFC00000000)
  | _ => False

section
variable {t : State} {k : Crew} {n va : Nat}

theorem State.inWindow_iff (t : State) (k : Crew) (o n : Nat) :
    t.inWindow k o n = true ↔ (t.ctx k.asid).skmWin.toNat % 2 ^ 22 ≤ o
      ∧ o + n ≤ (t.ctx k.asid).skmWin.toNat % 2 ^ 22 + (t.ctx k.asid).skmWin.toNat / 2 ^ 22 % 2 ^ 23 := by
  rw [State.inWindow, Bool.and_eq_true, decide_eq_true_eq, decide_eq_true_eq]

/-- The checks of a stroke address, in their order (R334). -/
theorem State.strokeAt_eq (t : State) (k : Crew) (n va : Nat) :
    t.strokeAt k n va =
      if va % n ≠ 0 then .error .misalign
      else if va < 0xFFFC00000000 ∨ 2 ^ 48 ≤ va then .error .farAccess
      else if 2 ^ 22 < va - 0xFFFC00000000 + n ∨ ¬ t.inWindow k (va - 0xFFFC00000000) n = true then .error .prot
      else .ok (va - 0xFFFC00000000) := by
  simp only [State.strokeAt, bne_iff_ne, Bool.or_eq_true, decide_eq_true_eq, Bool.not_eq_true', Bool.not_eq_true]
  rfl

theorem State.strokeAt_of_astray {c : Cause} (hn : n = 4 ∨ n = 8) (h : t.strokeAstray k n va c) : t.strokeAt k n va = .error c := by
  rw [State.strokeAt_eq]
  cases c <;> simp only [State.strokeAstray] at h
  case misalign => rw [if_pos h]
  case farAccess =>
    obtain ⟨halign, hfar⟩ := h
    rw [if_neg (not_not_intro halign), if_pos hfar]
  case prot =>
    obtain ⟨halign, hlo, hhi, hout⟩ := h
    have hoff : (va - 0xFFFC00000000) % n = 0 := by rcases hn with rfl | rfl <;> omega
    rw [if_neg (not_not_intro halign), if_neg (by omega), if_pos]
    by_contra hin
    rw [not_or, not_not, State.inWindow_iff, Nat.not_lt] at hin
    exact hout ⟨hoff, hin⟩

theorem State.strokeAt_of_inside (hn : n = 4 ∨ n = 8) (hlo : 0xFFFC00000000 ≤ va) (hhi : va < 2 ^ 48)
    (h : t.strokeInside k n (va - 0xFFFC00000000)) : t.strokeAt k n va = .ok (va - 0xFFFC00000000) := by
  obtain ⟨hoff, hin⟩ := h
  have halign : va % n = 0 := by rcases hn with rfl | rfl <;> omega
  rw [State.strokeAt_eq, if_neg (not_not_intro halign), if_neg (by omega), if_neg]
  rwa [not_or, not_not, State.inWindow_iff, Nat.not_lt]

end

/-! ## The outbound queue (R320, R335) -/

/-- The stroke of crew k of a kind on an offset, with its operands (R326). -/
def State.strokeOf (t : State) (k : Crew) (kind o : Nat) (e w : BitVec 1) (p0 p1 : DWord) : Stroke :=
  { kind := BitVec.ofNat 8 kind, flags := BitVec.ofNat 8 (w.toNat + 32 * e.toNat + if t.privileged k then 64 else 0)
    core := BitVec.ofNat 9 k.core, offset := BitVec.ofNat 64 o, p0 := p0, p1 := p1 }

theorem strokeFlags_release (e w : BitVec 1) (p : Bool) :
    (BitVec.ofNat 8 (w.toNat + 32 * e.toNat + if p then 64 else 0)).getLsbD 5 = true ↔ e = 1 := by
  revert e w p
  decide

theorem State.strokeRoom_iff (t : State) (k : Crew) (x : Stroke) :
    t.strokeRoom k x = true ↔ (x.flags.getLsbD 5 = true → t.coveredDone k.id = true ∧ t.remoteAcked k.id = true)
      ∧ t.ring.outq.length < 64 ∧ t.ring.state ≠ .down := by
  have hout : Config.outbound = 64 := rfl
  rw [State.strokeRoom, hout, Bool.and_eq_true, Bool.and_eq_true, decide_eq_true_eq, bne_iff_ne, Bool.or_eq_true, Bool.and_eq_true, and_assoc]
  cases x.flags.getLsbD 5 <;> simp

theorem State.strokeRoom_strokeOf (t : State) (k : Crew) (kind o : Nat) (e w : BitVec 1) (p0 p1 : DWord) :
    t.strokeRoom k (t.strokeOf k kind o e w p0 p1) = true ↔ (e = 1 → t.coveredDone k.id = true ∧ t.remoteAcked k.id = true)
      ∧ t.ring.outq.length < 64 ∧ t.ring.state ≠ .down := by
  rw [State.strokeRoom_iff, State.strokeOf, strokeFlags_release]

theorem Crew.strokeTaken_eq (m : Crew) (takes : Bool) (r : Reply) :
    m.strokeTaken takes r = if takes then { m.await r with q := m.q.set 5 ((m.q.getD 5 []).drop 1) } else m.await r := by
  rw [Crew.strokeTaken, m.await_frame r]

/-- A crew whose stroke has entered moves on. -/
theorem Crew.standsAs.strokeTaken_advance {m k : Crew} (h : m.standsAs k) {i : Instr} (ho : closesWindow i = false) (takes : Bool) (r : Reply)
    (now : Nat) : k.movedFrom (m.strokeTaken takes r) ((m.strokeTaken takes r).advance i k.active now) i now := by
  rw [Crew.strokeTaken_eq]
  cases takes
  · exact h.advance ho r (m.await r).q now
  · exact h.advance ho r _ now

theorem Crew.standsAs.strokeTaken_core {m k : Crew} (h : m.standsAs k) (takes : Bool) (r : Reply) : (m.strokeTaken takes r).core = k.core := by
  rw [Crew.strokeTaken_eq]
  cases takes <;> exact h.await_core r

section
variable {s : State} {k : Crew} {i : Instr} {e w : BitVec 1} {r : Reply} {kind o : Nat} {p0 p1 : DWord} {takes : Bool}

theorem State.strike_eq (t : State) (act : Lanes) :
    t.strike i k act kind e w o p0 p1 takes r =
      let x := t.strokeOf k kind o e w p0 p1
      let m := t.impure k act
      if t.strokeRoom k x then (m.1.done i (m.2.strokeTaken takes r) act).enqueue x k.id r else m.1.waits m.2 (.strk x takes r) act := rfl

/-- A stroke that has passed its checks (R230, R320, R335): it enters the outbound queue where there is room for it, and waits for it otherwise. -/
theorem exec_strike (hx : exec i s = .next (s.bump.strike i k k.active kind e w o p0 p1 takes r)) (ho : closesWindow i = false) :
    let t := s.bump
    let x := t.strokeOf k kind o e w p0 p1
    let room : Prop := (e = 1 → t.coveredDone k.id = true ∧ t.remoteAcked k.id = true) ∧ s.ring.outq.length < 64 ∧ s.ring.state ≠ .down
    ∃ (u : State) (m : Crew), t.impure k k.active = (u, m)
      ∧ ((∀ l < 32, k.active.getLsbD l = true → (k.thread l).inreg = none) → u = t ∧ m = k)
      ∧ (room → ∃ (c k' : Crew) (v : State),
        c = (if takes then { m.await r with q := m.q.set 5 ((m.q.getD 5 []).drop 1) } else m.await r)
        ∧ k.movedFrom c k' i (s.cycles k.core).toNat ∧ exec i s = .next v
        ∧ v = { u.setCrew k' with ring := { u.ring with outq := u.ring.outq ++ [(x, some (k.id, r))] } })
      ∧ (¬ room → s.stops k i u m (.strk x takes r)) := by
  intro t x room
  have hroom : t.strokeRoom k x = true ↔ room := t.strokeRoom_strokeOf k kind o e w p0 p1
  obtain ⟨hregions, hstands⟩ := t.impure_frame k k.active
  rw [State.strike_eq] at hx
  obtain ⟨u, m, hz⟩ : ∃ u m, t.impure k k.active = (u, m) := ⟨_, _, rfl⟩
  rw [hz] at hregions hstands
  have hcycles (core : Nat) : u.cycles core = s.cycles core := by
    rw [State.cycles, State.region, hregions]
    rfl
  have hx : exec i s = .next (if t.strokeRoom k x then (u.done i (m.strokeTaken takes r) k.active).enqueue x k.id r
      else u.waits m (.strk x takes r) k.active) := by
    rw [hx]
    dsimp only
    rw [hz]
  refine ⟨u, m, hz, fun hout => ?_, fun h => ?_, fun h => ?_⟩
  · rw [State.impure_of_outside _ hout] at hz
    exact ⟨(Prod.mk.inj hz).1.symm, (Prod.mk.inj hz).2.symm⟩
  · rw [if_pos (hroom.mpr h)] at hx
    refine ⟨_, _, _, m.strokeTaken_eq takes r, hstands.strokeTaken_advance ho takes r _, hx, ?_⟩
    rw [State.done, hstands.strokeTaken_core, hcycles]
    rfl
  · rw [if_neg (mt hroom.mp h)] at hx
    refine ⟨_, hx, ?_⟩
    have hcore : m.core = k.core := (congrArg Crew.core hstands.1).trans rfl
    rw [hcore]
    exact waits_stopped m i k.active _ _ (closedLoads_of_open ho _ _) (by simp [ho])

end

/-! ## Data strokes (R334) -/

/-- The bytes of a stroke's word (R327). -/
def strokeWidth (w : BitVec 1) : Nat := if w = 1 then 8 else 4

theorem strokeWidth_cases (w : BitVec 1) : strokeWidth w = 4 ∨ strokeWidth w = 8 := by revert w; decide

/-- A data stroke reads its width as its word's bytes. -/
theorem ite_beq_one_eq_strokeWidth (w : BitVec 1) : (if w == 1 then 8 else 4) = strokeWidth w := by revert w; decide

section
variable {t : State} {k : Crew} {i : Instr} {act : Lanes} {kind : Nat} {r : Reply} {b a : BitVec 6} {e w : BitVec 1} (hc : t.cmdHeld k = false)
include hc

theorem State.dataStroke_of_astray {c : Cause} (h : t.strokeAt k (strokeWidth w) (k.pr a.toNat).toNat = .error c) :
    t.dataStroke i k act kind r b a e w = t.trapAt k c act (k.pr a.toNat).toNat := by
  simp only [State.dataStroke, hc, ite_beq_one_eq_strokeWidth, h, Bool.false_eq_true, if_false]

variable {off : Nat} (hat : t.strokeAt k (strokeWidth w) (k.pr a.toNat).toNat = .ok off)
include hat

/-- CLAIM and SWAP without a second operand (R334). -/
theorem State.dataStroke_of_empty (hk : kind = 3 ∨ kind = 4) (hq : k.q.getD 5 [] = []) :
    t.dataStroke i k act kind r b a e w = t.trapAll k .queueFault act := by
  have htakes : (kind == 3 || kind == 4) = true := by simpa using hk
  simp only [State.dataStroke, hc, ite_beq_one_eq_strokeWidth, hat, hq, htakes, Bool.false_eq_true, if_false, List.isEmpty_nil, Bool.and_self, if_true]

/-- SWAP with a receipt that is no word of the window (R334). -/
theorem State.dataStroke_of_receipt_astray {x : DWord} {rest : List DWord} {c : Cause} (hk : kind = 4) (hq : k.q.getD 5 [] = x :: rest)
    (h : t.strokeAt k (strokeWidth w) ((0xFFFC00000000 + x.toNat) % 2 ^ 64) = .error c) :
    t.dataStroke i k act kind r b a e w = t.trapAt k c act ((0xFFFC00000000 + x.toNat) % 2 ^ 64) := by
  have h' : t.strokeAt k (strokeWidth w) ((Config.skmBase + x.toNat) % 2 ^ 64) = .error c := h
  subst hk
  simp only [State.dataStroke, hc, ite_beq_one_eq_strokeWidth, hat, hq, h', Bool.false_eq_true, if_false, List.isEmpty_cons, Bool.and_false, beq_self_eq_true,
    Bool.or_true, if_true, List.getD_cons_zero]
  rfl

/-- A stroke without a second operand. -/
theorem State.dataStroke_of_single (hk : kind ≠ 3) (hk' : kind ≠ 4) :
    t.dataStroke i k act kind r b a e w = t.strike i k act kind e w off (k.pr b.toNat) 0 false r := by
  simp only [State.dataStroke, hc, ite_beq_one_eq_strokeWidth, hat, beq_false_of_ne hk, beq_false_of_ne hk', Bool.false_eq_true, if_false, Bool.or_self,
    Bool.false_and]

/-- CLAIM, and SWAP with a receipt in the window, take the second operand (R334). -/
theorem State.dataStroke_of_double {x : DWord} {rest : List DWord} (hk : kind = 3 ∨ kind = 4) (hq : k.q.getD 5 [] = x :: rest)
    (h : kind = 4 → ∃ o, t.strokeAt k (strokeWidth w) ((0xFFFC00000000 + x.toNat) % 2 ^ 64) = .ok o) :
    t.dataStroke i k act kind r b a e w = t.strike i k act kind e w off (k.pr b.toNat) x true r := by
  have htakes : (kind == 3 || kind == 4) = true := by simpa using hk
  have hreceipt : ∃ o, (if kind == 4 then t.strokeAt k (strokeWidth w) ((Config.skmBase + x.toNat) % 2 ^ 64) else .ok 0) = .ok o := by
    by_cases h4 : kind = 4
    · rw [if_pos (beq_iff_eq.mpr h4)]
      exact h h4
    · exact ⟨0, if_neg (mt beq_iff_eq.mp h4)⟩
  obtain ⟨o, ho⟩ := hreceipt
  simp only [State.dataStroke, hc, ite_beq_one_eq_strokeWidth, hat, hq, htakes, ho, Bool.false_eq_true, if_false, List.isEmpty_cons, Bool.and_false, if_true,
    List.getD_cons_zero]

end

section
variable {s : State} {k : Crew} {r : Reply} {b a : BitVec 6} {e w : BitVec 1}

/-- The strokes on data, with their kinds (R328). -/
inductive DataStroke (r : Reply) (b a : BitVec 6) (e w : BitVec 1) : Instr → Nat → Prop
  | store : DataStroke r b a e w (.skStore r b a e w) 1
  | add : DataStroke r b a e w (.skAdd r b a e w) 2
  | claim : DataStroke r b a e w (.skClaim r b a e w) 3
  | swap : DataStroke r b a e w (.skSwap r b a e w) 4
  | max : DataStroke r b a e w (.skMax r b a e w) 5

theorem DataStroke.closesWindow {i : Instr} {kind : Nat} (h : DataStroke r b a e w i kind) : closesWindow i = false :=
  closesWindow_of_stroke (by cases h <;> simp [encodeNat, put_major])

theorem DataStroke.exec {i : Instr} {kind : Nat} (h : DataStroke r b a e w i kind) (hr : s.runs k i) :
    exec i s = .next (s.bump.dataStroke i k k.active kind r b a e w) := by
  have ho := h.closesWindow
  cases h
  case store => exact (issue_open hr ho _ : execSkStore r b a e w s = _)
  case add => exact (issue_open hr ho _ : execSkAdd r b a e w s = _)
  case claim => exact (issue_open hr ho _ : execSkClaim r b a e w s = _)
  case swap => exact (issue_open hr ho _ : execSkSwap r b a e w s = _)
  case max => exact (issue_open hr ho _ : execSkMax r b a e w s = _)

end

end Sys2Proof.Machine
end

section
/-! WSTRK and STRKN (spec/12_stroke.md R336, R337): what a crew learns of the strokes that have been applied. -/

namespace Sys2Proof.Machine

/-- What a WSTRK waits on has reached: SK_APPLIED, or a note's number (R336). -/
def Ring.reached (g : Ring) : Option Nat → Nat
  | none => g.applied
  | some j => (g.note j).toNat
/-- The reply of a WSTRK whose target is reached. -/
def Ring.reachedWord (g : Ring) : Option Nat → DWord
  | none => BitVec.ofNat 64 g.applied
  | some j => g.note j

section
variable {s : State} {note : Option Nat} {n : Nat}

theorem State.wstrkReply_of_fault (h : s.ring.faulted = true) : s.wstrkReply note n = some (BitVec.ofNat 64 (2 ^ 63 + s.ring.applied)) := by
  simp only [State.wstrkReply, h, if_true]

theorem State.wstrkReply_of_reached (hf : s.ring.faulted = false) (h : n ≤ s.ring.reached note) :
    s.wstrkReply note n = some (s.ring.reachedWord note) := by
  cases note <;> simp only [State.wstrkReply, hf, Bool.false_eq_true, if_false] <;> exact if_pos h

theorem State.wstrkReply_of_short (hf : s.ring.faulted = false) (h : s.ring.reached note < n) : s.wstrkReply note n = none := by
  cases note <;> simp only [State.wstrkReply, hf, Bool.false_eq_true, if_false] <;> exact if_neg (Nat.not_le.mpr h)

/-- WSTRK in its three outcomes: the replica in FAULT, its target reached, which is an acquire, and a wait (R336). -/
theorem exec_wstrk {k : Crew} {i : Instr} {r : Reply} (hx : exec i s = .next (s.bump.wstrk i k k.active note n r)) (ho : closesWindow i = false) :
    (s.ring.faulted = true → s.goesTo k i s.bump (k.reply r (BitVec.ofNat 64 (2 ^ 63 + s.ring.applied))))
    ∧ (s.ring.faulted = false → n ≤ s.ring.reached note → ∃ k', k.movedFrom (k.reply r (s.ring.reachedWord note)) k' i (s.cycles k.core).toNat
        ∧ exec i s = .next ((s.bump.setCrew k').acquires k))
    ∧ (s.ring.faulted = false → s.ring.reached note < n → s.stops k i s.bump k (.wstrk note n r)) := by
  refine ⟨fun hf => goesTo_of_doneReply ho ?_, fun hf hn => ?_, fun hf hn => stops_of_waits ho ?_⟩
  · have hring : s.bump.ring.faulted = true := hf
    rw [hx, State.wstrk, State.wstrkReply_of_fault hring]
    dsimp only
    rw [if_pos hring]
    rfl
  · have hring : s.bump.ring.faulted = false := hf
    have hnot : ¬ s.bump.ring.faulted = true := (Bool.not_eq_true _).mpr hring
    have hreply : s.bump.wstrkReply note n = some (s.ring.reachedWord note) := State.wstrkReply_of_reached hring hn
    rw [State.wstrk, hreply] at hx
    dsimp only at hx
    rw [if_neg hnot] at hx
    obtain ⟨hcore, hrep, -, hthreads⟩ := k.reply_frame r (s.ring.reachedWord note)
    refine ⟨_, ?_, hx⟩
    rw [hcore]
    exact Crew.advance_open ho _ hrep hthreads
  · have hring : s.bump.ring.faulted = false := hf
    rw [hx, State.wstrk, State.wstrkReply_of_short hring hn]

end

/-- A crew that stops in a WSTRK goes on when its target is reached, which is an acquire, or the replica is in FAULT (R336). -/
theorem exec_wstrkComplete {s : State} {c : Crew} {note : Option Nat} {n : Nat} {r : Reply} (hc : s.crew? c.id = some c)
    (hw : c.wait = some (.wstrk note n r)) :
    (s.ring.faulted = true → exec (.wstrkComplete c.id) s = .next (s.setCrew (c.reply r (BitVec.ofNat 64 (2 ^ 63 + s.ring.applied))).wake))
    ∧ (s.ring.faulted = false → n ≤ s.ring.reached note → exec (.wstrkComplete c.id) s = .next (s.wakes (c.reply r (s.ring.reachedWord note))))
    ∧ (s.ring.faulted = false → s.ring.reached note < n → exec (.wstrkComplete c.id) s = .next s) := by
  refine ⟨fun hf => ?_, fun hf hn => ?_, fun hf hn => ?_⟩ <;> change Host.Outcome.next _ = _
  · simp only [hc, hw, State.wstrkReply_of_fault hf, hf, if_true]
  · simp only [hc, hw, State.wstrkReply_of_reached hf hn, hf, Bool.false_eq_true, if_false]
  · simp only [hc, hw, State.wstrkReply_of_short hf hn]

theorem Ring.status_eq (g : Ring) :
    g.status = BitVec.ofNat 64 (
      (match g.state with | .down => 0 | .inService => 1 | .lagging => 2 | .fault => 3) + (if g.standby then 2 ^ 2 else 0)
        + (if g.alone then 2 ^ 3 else 0) + g.burst % 32 * 2 ^ 4 + g.n % 128 * 2 ^ 9 + min (g.counted - g.applied) 0xFFFF * 2 ^ 16
        + g.repairs.toNat * 2 ^ 32) := by
  unfold Ring.status ringCode bit
  cases g.state <;> rfl

end Sys2Proof.Machine

open Sys2Proof Sys2Proof.Machine

/-- Settles O51: a stroke by the checks of its addresses and the room of the outbound queue; WSTRK by what the replica has applied. -/
theorem strokes : Obligations.Strokes := by
  unfold Obligations.Strokes
  refine ⟨fun s k r b a e w => ?_, fun s k r b a => ?_⟩
  · intro t now n va off win inside q5 stroke room enters addressed
    have hn : n = 4 ∨ n = 8 := strokeWidth_cases w
    have addressed_of {i : Instr} {x : Nat} (h : ∀ c, t.strokeAt k n x = .error c → exec i s = .next (t.trapAt k c k.active x)) :
        addressed i x :=
      ⟨fun hx => h _ (State.strokeAt_of_astray hn hx), fun hx hfar => h _ (State.strokeAt_of_astray hn ⟨hx, hfar⟩),
        fun hx hlo hhi hout => h _ (State.strokeAt_of_astray hn ⟨hx, hlo, hhi, hout⟩)⟩
    have hat (hlo : 0xFFFC00000000 ≤ va) (hhi : va < 2 ^ 48) (hin : inside off) : t.strokeAt k (strokeWidth w) va = .ok off :=
      State.strokeAt_of_inside hn hlo hhi hin
    have unaddressed {i : Instr} {kind : Nat} {p1 : Crew → DWord}
        (hx : exec i s = issue i s fun s k act => if s.cmdHeld k then s else s.strike i k act kind e 0 0 (k.pr b.toNat) (p1 k) false r)
        (hm : encodeNat i / 2 % 128 ∈ [0x60, 0x61, 0x62]) : enters i (stroke kind 0 0 (k.pr b.toNat) (p1 k)) false := fun hr hc =>
      exec_strike ((hx.trans (issue_open hr (closesWindow_of_stroke hm) _)).trans (by rw [hc, if_neg Bool.false_ne_true])) (closesWindow_of_stroke hm)
    refine ⟨fun i hi hr hc => addressed_of fun c h => ?_, fun hlo hhi hin => ⟨fun i hi hr hc hq => ?_, fun x rest hq hr hc => addressed_of fun c h => ?_⟩,
      fun hlo hhi hin => ?_, unaddressed (i := .skGen r b e) (kind := 8) (p1 := fun _ => 0) rfl (by simp [encodeNat, put_major]),
      unaddressed (i := .skLaunch r b e) (kind := 9) (p1 := fun k => k.asid.zeroExtend 64) rfl (by simp [encodeNat, put_major]),
      unaddressed (i := .skNote r b e) (kind := 10) (p1 := fun _ => 0) rfl (by simp [encodeNat, put_major]),
      fun c x takes hc hw hrel hroom hring => ?_⟩
    · obtain ⟨kind, hkind⟩ : ∃ kind, DataStroke r b a e w i kind := by
        simp only [List.mem_cons, List.not_mem_nil, or_false] at hi
        rcases hi with rfl | rfl | rfl | rfl | rfl
        exacts [⟨_, .store⟩, ⟨_, .add⟩, ⟨_, .max⟩, ⟨_, .claim⟩, ⟨_, .swap⟩]
      rw [hkind.exec hr, State.dataStroke_of_astray hc h]
    · obtain ⟨kind, hk, hkind⟩ : ∃ kind, (kind = 3 ∨ kind = 4) ∧ DataStroke r b a e w i kind := by
        simp only [List.mem_cons, List.not_mem_nil, or_false] at hi
        rcases hi with rfl | rfl
        exacts [⟨_, .inl rfl, .claim⟩, ⟨_, .inr rfl, .swap⟩]
      rw [hkind.exec hr, State.dataStroke_of_empty hc (hat hlo hhi hin) hk hq]
    · rw [DataStroke.swap.exec hr, State.dataStroke_of_receipt_astray hc (hat hlo hhi hin) rfl hq h]
    · have hat := hat hlo hhi hin
      have single {i : Instr} {kind : Nat} (h : DataStroke r b a e w i kind) (hk : kind ≠ 3) (hk' : kind ≠ 4) :
          enters i (stroke kind off w (k.pr b.toNat) 0) false := fun hr hc =>
        exec_strike ((h.exec hr).trans (by rw [State.dataStroke_of_single hc hat hk hk'])) h.closesWindow
      have double {i : Instr} {kind : Nat} (h : DataStroke r b a e w i kind) (hk : kind = 3 ∨ kind = 4) {x : DWord} {rest : List DWord}
          (hq : q5 = x :: rest) (hx : kind = 4 → ∃ o, t.strokeAt k (strokeWidth w) ((0xFFFC00000000 + x.toNat) % 2 ^ 64) = .ok o) :
          enters i (stroke kind off w (k.pr b.toNat) x) true := fun hr hc =>
        exec_strike ((h.exec hr).trans (by rw [State.dataStroke_of_double hc hat hk hq hx])) h.closesWindow
      refine ⟨single .store (by decide) (by decide), single .add (by decide) (by decide), single .max (by decide) (by decide),
        fun x rest hq => double .claim (.inl rfl) hq (absurd · (by decide)), fun x rest hq hx hin' => double .swap (.inr rfl) hq fun _ => ⟨x.toNat, ?_⟩⟩
      have hva : (0xFFFC00000000 + x.toNat) % 2 ^ 64 = 0xFFFC00000000 + x.toNat := Nat.mod_eq_of_lt (by omega)
      have hsub : 0xFFFC00000000 + x.toNat - 0xFFFC00000000 = x.toNat := Nat.add_sub_cancel_left ..
      have hword := State.strokeAt_of_inside (t := t) (k := k) (va := 0xFFFC00000000 + x.toNat) hn (by omega) (by omega) (by rwa [hsub])
      rw [hva]
      rwa [hsub] at hword
    · intro c' v
      have hroom : s.strokeRoom c x = true := (s.strokeRoom_iff c x).mpr ⟨hrel, hroom, hring⟩
      change Host.Outcome.next _ = _
      simp only [hc, hw, hroom, if_true, Crew.strokeTaken_eq]
      rfl
  · intro t g note failed waits A B
    refine ⟨fun hr => ?_, fun hr => ?_, fun c w n hc hw => ?_, fun hr => ?_, fun hr => ?_, fun hr => ?_⟩
    · have ho : closesWindow (.wstrk r a) = false := closesWindow_of_stroke (by simp [encodeNat, put_major])
      exact exec_wstrk (i := .wstrk r a) (issue_open hr ho _ : execWstrk r a s = _) ho
    · have ho : closesWindow (.wstrkNote r b a) = false := closesWindow_of_stroke (by simp [encodeNat, put_major])
      exact exec_wstrk (i := .wstrkNote r b a) (issue_open hr ho _ : execWstrkNote r b a s = _) ho
    · have h := exec_wstrkComplete hc hw
      cases w <;> exact h
    · have ho : closesWindow (.strkn r) = false := closesWindow_of_stroke (by simp [encodeNat, put_major])
      exact goesTo_of_doneReply ho (issue_open hr ho _ : execStrkn r s = _)
    · have ho : closesWindow (.strknNote r a) = false := closesWindow_of_stroke (by simp [encodeNat, put_major])
      exact goesTo_of_doneReply ho (issue_open hr ho _ : execStrknNote r a s = _)
    · have ho : closesWindow (.strknStat r) = false := closesWindow_of_stroke (by simp [encodeNat, put_major])
      have hexec : exec (.strknStat r) s = _ := (issue_open hr ho _ : execStrknStat r s = _)
      rw [Ring.status_eq] at hexec
      exact goesTo_of_doneReply ho hexec
end

section
/-! The presence of lines (spec/07_memory.md R179, spec/09_subscribe.md R251): a clear makes its line absent, and leaves every other as it is. -/

namespace Sys2Proof.Machine

/-- What a fold of steps that each leave a part of the state leaves. -/
theorem State.foldl_keeps {α β : Type} (part : State → β) {f : State → α → State} (hf : ∀ s a, part (f s a) = part s) (l : List α) (s : State) :
    part (l.foldl f s) = part s :=
  List.foldlRecOn (motive := fun t => part t = part s) l f rfl fun t ht a _ => (hf t a).trans ht

/-! ## What the performance of loads leaves of the directory (R181, R252) -/

theorem State.takeMsg_dir (s : State) (m : Msg) : (s.takeMsg m).dir = s.dir := by
  unfold State.takeMsg
  split
  · rfl
  · dsimp only
    split <;> rfl

theorem State.deliver_dir (s : State) (core off : Nat) : (s.deliver core off).dir = s.dir := State.foldl_keeps _ State.takeMsg_dir _ s

theorem State.reads_dir (s : State) (f : SubFmt) (k : Crew) (lane : Nat) (l : Loc) (n : Nat) : (s.reads f k lane l n).dir = s.dir := by
  cases l with
  | deck off =>
    unfold State.reads
    dsimp only
    split
    · exact State.deliver_dir s _ _
    · rfl
  | squad _ | skm _ | spill _ => rfl

theorem State.performLoad_dir (s : State) (id : Nat) (p : PendLoad) : (s.performLoad id p).dir = s.dir := by
  unfold State.performLoad
  split
  · rfl
  · dsimp only
    split <;> exact State.reads_dir ..

theorem State.performLine_dir (s : State) (line : Nat) : (s.performLine line).dir = s.dir :=
  State.foldl_keeps (f := fun (s : State) (p : Nat × PendLoad) => s.performLoad p.1 p.2) State.dir (fun s p => s.performLoad_dir p.1 p.2) _ s

/-! ## The entries of the directory -/

theorem State.dirOf_line (s : State) (line : Nat) : (s.dirOf line).line = line := by
  unfold State.dirOf
  cases h : s.dir.find? (·.line == line) with
  | none => rfl
  | some d => simpa using List.find?_some h

theorem State.dirOf_setDir (s : State) (e : DirEntry) (line : Nat) : (s.setDir e).dirOf line = if e.line = line then e else s.dirOf line := by
  unfold State.dirOf State.setDir
  dsimp only
  by_cases h : e.line = line
  · rw [List.find?_cons_of_pos (by simpa using h), if_pos h]
    rfl
  · rw [List.find?_cons_of_neg (by simpa using h), if_neg h, List.find?_filter]
    congr 2
    funext d
    by_cases hd : d.line = line
    · simp [hd, Ne.symm h]
    · simp [hd]

theorem State.present_setDir (s : State) (e : DirEntry) (line : Nat) :
    (s.setDir e).present line = if e.line = line then e.absentBy.isEmpty else s.present line := by
  unfold State.present
  rw [State.dirOf_setDir]
  split <;> rfl

theorem State.present_of_dir {s t : State} (h : t.dir = s.dir) : t.present = s.present := by
  funext line
  unfold State.present State.dirOf
  rw [h]

/-- Whether a line is held for a read-modify-write does not bear on its presence (R179, R253). -/
theorem State.present_dropHold (s : State) (id : Nat) : (s.dropHold id).present = s.present := by
  funext line
  have hline : ((·.line == line) ∘ fun d : DirEntry => if d.hold == some id then { d with hold := none } else d) = (·.line == line) := by
    funext d
    dsimp only [Function.comp]
    split <;> rfl
  unfold State.present State.dirOf State.dropHold
  dsimp only
  rw [List.find?_map, hline]
  cases s.dir.find? (·.line == line) with
  | none => rfl
  | some d =>
    dsimp only [Option.map_some, Option.getD_some]
    split <;> rfl

/-- A clear makes its line absent and leaves the presence of the others (R179, R251). -/
theorem State.present_clearLine (s : State) (line owner j : Nat) :
    (s.clearLine line owner).present j = (decide (j ≠ line) && s.present j) := by
  have hloads : (s.performLine line).present = s.present := State.present_of_dir (s.performLine_dir line)
  obtain ⟨t, e, ht, hdir, hline, habsent⟩ : ∃ (t : State) (e : DirEntry), t.present = s.present
      ∧ (s.clearLine line owner).dir = (t.setDir e).dir ∧ e.line = (t.dirOf line).line ∧ e.absentBy.isEmpty = false := by
    unfold State.clearLine
    dsimp only
    split
    · next id _ => exact ⟨(s.performLine line).dropHold id, _, (State.present_dropHold _ id).trans hloads, rfl, rfl, rfl⟩
    · exact ⟨s.performLine line, _, hloads, rfl, rfl, rfl⟩
  rw [State.present_of_dir hdir, State.present_setDir, hline, State.dirOf_line, habsent, ht]
  by_cases h : line = j
  · simp [h]
  · simp [h, Ne.symm h]

theorem State.present_foldl_clearLine (owner : Nat) (lines : List Nat) (s : State) (j : Nat) :
    (lines.foldl (fun (t : State) l => t.clearLine l owner) s).present j = (decide (j ∉ lines) && s.present j) := by
  induction lines generalizing s with
  | nil => simp
  | cons l ls ih =>
    rw [List.foldl_cons, ih, State.present_clearLine]
    by_cases h : j = l <;> simp [h]

end Sys2Proof.Machine
end

section
/-! The acceptance of engine commands (spec/11_engines.md R294, R296, R304). -/

namespace Sys2Proof.Machine

section
variable {s : State} {c : Cmd}

theorem exec_engineAcceptance (hc : s.cmd? c.id = some c) : exec (.engineAcceptance c.id) s = .next (s.accept c) := by
  change Host.Outcome.next _ = _
  simp only [hc]

/-- A release form waits for the writes it covers (R228). -/
theorem State.accept_of_waiting (h : s.orderedDone c.after = false) : s.accept c = s := by
  rw [State.accept, if_pos (by simp [h])]

/-- Functions whose destination is no line of the deck, or none of this package (R304, R305, R421). -/
theorem EngFn.clearsNothing_iff (fn : EngFn) (out : Bool) :
    (fn == .gatherq || (fn == .copyr && out) || fn == .ease || fn == .wake) = true ↔
      fn ∈ [EngFn.gatherq, .ease, .wake] ∨ fn = .copyr ∧ out = true := by
  cases fn <;> simp

/-- The command as it stands once accepted: numbered, at this time, with the lines it has made absent (R294, R296, R304). -/
def State.acceptedCmd (s : State) (d : Cmd) : Cmd :=
  { d with
    number := ((s.timeline d.squad d.tl).issued + 1).toNat
    cleared := if d.fn ∈ [EngFn.gatherq, .ease, .wake] ∨ (d.fn = .copyr ∧ d.out = true) then [] else s.dstLines d d.order 0 d.total
    since := s.time.toNat }
/-- The state after a command is accepted, before its reply: it stands numbered in its timeline, its lines are absent. -/
def State.enters (s : State) (d : Cmd) : State :=
  let tl := s.timeline d.squad d.tl
  let n := tl.issued + 1
  let d' := s.acceptedCmd d
  (d'.cleared.foldl (fun (v : State) j => v.clearLine j d.id)
    ((s.setTimeline d.squad d.tl { tl with issued := n, window := tl.window.filter fun w => decide (n.toNat < w.1 + 64) }).setCmd d')).queueLink d'

theorem State.accept_of_ready {d : Cmd} (hn : c.number = 0) (ho : s.orderedDone c.after = true)
    (hd : s.prepare { c with waitLines := s.absentNow } = .ready d) :
    s.accept c = ((s.enters d).replyTo d.crew d.reply ((s.timeline d.squad d.tl).issued + 1)).freeRoom
      fun h => h == .engine (if d.fn ∈ [EngFn.ease, .wake] then 5 + d.opA.toNat % 32
        else if d.fn ∈ [EngFn.allred, .redscat, .allgath, .barrier] then 4 else d.core / 80) d.fn.unit := by
  rw [State.accept, if_neg (by simp [hn, ho]), hd, ← EngFn.at_eq]
  simp only [EngFn.clearsNothing_iff]
  rfl

/-- Only EASE and WAKE enter the queue of a link (R422). -/
theorem State.queueLink_of_other {d : Cmd} (he : d.fn ≠ .ease) (hw : d.fn ≠ .wake) : s.queueLink d = s := by
  rw [State.queueLink, beq_false_of_ne he, beq_false_of_ne hw]
  rfl

/-- The destination lines of an accepted command are absent (R179, R304). -/
theorem State.present_enters {d : Cmd} (he : d.fn ≠ .ease) (hw : d.fn ≠ .wake) {j : Nat} (hj : j ∈ (s.acceptedCmd d).cleared) :
    (s.enters d).present j = false := by
  unfold State.enters
  dsimp only
  rw [State.queueLink_of_other (d := s.acceptedCmd d) he hw, State.present_foldl_clearLine]
  simp [hj]

end

end Sys2Proof.Machine
end

section
/-! The progress of engine commands (spec/11_engines.md R304 to R310, R313). -/

namespace Sys2Proof.Machine

section
variable {s : State} {c : Cmd} {len : Nat} {peers : List PeerCommand}

theorem exec_engineChunkDelivered (hc : s.cmd? c.id = some c) :
    exec (.engineChunkDelivered c.id len peers) s = .next (s.bump.progress c len peers) := by
  change Host.Outcome.next _ = _
  simp only [hc]

section
variable (hn : c.number ≠ 0) (hs : c.status = none) (hack : c.acked = false)
include hn hs hack

/-- An accepted command that still has bytes to move goes on. -/
theorem Cmd.progress_not_skipped : ¬ (c.number == 0 || c.status.isSome || (c.acked && !(c.fn == .copyr && !c.out))) = true := by
  simp [hn, hs, hack]

/-- A read that starts again comes before anything else (R313). -/
theorem State.progress_of_again {from_ : Nat} (ha : c.again = some from_) : s.progress c len peers = s.reread c from_ := by
  rw [State.progress, if_neg (Cmd.progress_not_skipped hn hs hack)]
  simp only [ha]

variable (ha : c.again = none)
include ha

theorem State.progress_of_local (hfn : c.fn ∈ [EngFn.copy1, .copy2, .copyt, .fill, .copyh, .gather, .scatter, .scatadd]) :
    s.progress c len peers = s.moveChunk c len := by
  rw [State.progress, if_neg (Cmd.progress_not_skipped hn hs hack)]
  simp only [List.mem_cons, List.not_mem_nil, or_false] at hfn
  rcases hfn with h | h | h | h | h | h | h | h <;> simp only [ha, h]

theorem State.progress_of_gatherq (hfn : c.fn = .gatherq) : s.progress c len peers = (s.pushWords c (min 16 len)).markedBy c := by
  rw [State.progress, if_neg (Cmd.progress_not_skipped hn hs hack)]
  simp only [ha, hfn]

/-- A copy to another package (R303, R440). -/
theorem State.progress_of_send (hfn : c.fn = .copyr) (hout : c.out = true) : s.progress c len peers = (s.sendPiece c).markedBy c := by
  rw [State.progress, if_neg (Cmd.progress_not_skipped hn hs hack)]
  simp only [ha, hfn, hout, if_true]

/-- A copy from another package asks for its pieces, then moves what has come (R303, R440). -/
theorem State.progress_of_receive (hfn : c.fn = .copyr) (hout : c.out = false) (hpeers : c.peers ≠ []) :
    s.progress c len peers = if c.sent then s.moveChunk c len else s.sendRequests c := by
  rw [State.progress, if_neg (Cmd.progress_not_skipped hn hs hack)]
  simp only [ha, hfn, hout, List.isEmpty_eq_false_iff.mpr hpeers, Bool.false_eq_true, if_false]
  cases c.sent <;> rfl

theorem State.progress_of_collective (hfn : c.fn ∈ [EngFn.allred, .redscat, .allgath, .barrier]) :
    s.progress c len peers = s.collect c peers := by
  rw [State.progress, if_neg (Cmd.progress_not_skipped hn hs hack)]
  simp only [List.mem_cons, List.not_mem_nil, or_false] at hfn
  rcases hfn with h | h | h | h <;> simp only [ha, h]

end

/-! ## Collectives (R310) -/

/-- A peer's command agrees with a collective (R308, R310). -/
theorem Cmd.agrees_iff (hfn : c.fn ∈ [EngFn.allred, .redscat, .allgath, .barrier]) (p : PeerCommand) :
    c.agrees p = true ↔ p.ok = true ∧ p.peers = c.peers ∧ (c.fn = .barrier ∨ p.e.toNat = c.arg 1)
      ∧ p.fn = match c.fn with | .allred => 1 | .redscat => 2 | .allgath => 3 | _ => 4 := by
  simp only [List.mem_cons, List.not_mem_nil, or_false] at hfn
  rcases hfn with h | h | h | h <;> simp [Cmd.agrees, EngFn.code, h] <;> tauto

section
variable (hlen : peers.length = c.ranks)
  (htag : ∀ p ∈ peers.eraseIdx (c.peers.idxOf Config.packageId), p.tag.zeroExtend 64 = c.tag)
include hlen htag

theorem State.collect_of_met :
    ((peers.length != c.ranks) || (peers.eraseIdx (c.peers.idxOf Config.packageId)).any fun p => p.tag.zeroExtend 64 != c.tag) = false := by
  rw [Bool.or_eq_false_iff, bne_eq_false_iff_eq, List.any_eq_false]
  exact ⟨hlen, fun p hp => by simpa using htag p hp⟩

theorem State.collect_of_mismatch (h : ∃ p ∈ peers.eraseIdx (c.peers.idxOf Config.packageId), ¬ c.agrees p = true) :
    s.collect c peers = s.failCmd c.id 5 4 := by
  have hall : (!(peers.eraseIdx (c.peers.idxOf Config.packageId)).all c.agrees) = true := by
    obtain ⟨p, hp, hnot⟩ := h
    rw [Bool.not_eq_true', List.all_eq_false]
    exact ⟨p, hp, hnot⟩
  simp only [State.collect, State.collect_of_met hlen htag, hall, Bool.false_eq_true, if_false, if_true]

/-- A BARRIER has met its peers (R308). -/
theorem State.collect_of_barrier (hfn : c.fn = .barrier) (h : ∀ p ∈ peers.eraseIdx (c.peers.idxOf Config.packageId), c.agrees p = true) :
    s.collect c peers = s.setCmd { c with acked := true } := by
  have hall : (!(peers.eraseIdx (c.peers.idxOf Config.packageId)).all c.agrees) = false := by
    rw [Bool.not_eq_false', List.all_eq_true]
    exact h
  have hbarrier : (c.fn == .barrier) = true := beq_iff_eq.mpr hfn
  simp only [State.collect, State.collect_of_met hlen htag, hall, hbarrier, Bool.false_eq_true, if_false, if_true]

end

end

/-! ## One unit of a copy (R303, R304) -/

/-- Steps that all succeed. -/
theorem mapM_eq_ok {α β ε : Type} {f : α → Except ε β} {g : α → β} {l : List α} (h : ∀ a ∈ l, f a = .ok (g a)) : l.mapM f = .ok (l.map g) := by
  induction l with
  | nil => rfl
  | cons a l ih =>
    rw [List.mapM_cons, h a (List.mem_cons_self ..), ih fun b hb => h b (List.mem_cons_of_mem _ hb)]
    rfl

section
variable {x : Chunk} {order : List Nat} {k p : Nat}

theorem Chunk.srcByte_of_ok (hfn : x.c.fn = .copy1 ∨ x.c.fn = .copyh) (hp : x.s.srcPlace x.c order k = .ok p) (hr : x.s.readStop x.c p = none) :
    x.srcByte order k = .ok (some p, x.source p k) := by
  unfold Chunk.srcByte
  rcases hfn with h | h <;> simp [h, hp, hr]

theorem State.dstStop_of_copy {s : State} {c : Cmd} (hfn : c.fn = .copy1 ∨ c.fn = .copyh) (p : Nat) : s.dstStop c p = s.writeStop p := by
  unfold State.dstStop
  rcases hfn with h | h <;> simp [h]

/-- A unit of COPY1 or COPYH whose bytes may all be read and written: it ends at the next aligned 16-byte piece, or with the command (R303, R304). -/
theorem Chunk.unit_of_ok {d p : Nat → Nat} (hfn : x.c.fn = .copy1 ∨ x.c.fn = .copyh) (hk : x.c.delivered < x.c.total) :
    let k := x.c.delivered
    let m := min (16 - (x.c.opA.toNat + k) % 2 ^ 64 % 16) (x.c.total - k)
    (∀ j < m, x.s.dstPlace x.c order (k + j) = .ok (d j) ∧ x.s.writeStop (d j) = none
      ∧ x.s.srcPlace x.c order (k + j) = .ok (p j) ∧ x.s.readStop x.c (p j) = none) →
    (x.unit order).stop = x.stop ∧ (x.unit order).c.delivered = k + m
      ∧ (x.unit order).pend = ((List.range m).map fun j => (d j, x.source (p j) (k + j))).reverse ++ x.pend := by
  intro k m hok
  have hdva : x.s.dstVa x.c order k = .ok ((x.c.opA.toNat + k) % 2 ^ 64) := by
    unfold State.dstVa
    rcases hfn with h | h <;> simp [h]
  have hend : min (x.s.unitEnd x.c k ((x.c.opA.toNat + k) % 2 ^ 64)) x.c.total - k = m := by
    unfold State.unitEnd
    rcases hfn with h | h <;> simp only [h] <;> omega
  have hsrcs : ((List.range m).map (k + ·)).mapM (x.srcByte order) = .ok ((List.range m).map fun j => (some (p j), x.source (p j) (k + j))) := by
    rw [List.mapM_map]
    refine mapM_eq_ok fun j hj => ?_
    obtain ⟨-, -, hp, hr⟩ := hok j (List.mem_range.mp hj)
    exact Chunk.srcByte_of_ok hfn hp hr
  have hdsts (f : Nat → Except Stop Nat) (hf : ∀ j < m, f (k + j) = .ok (d j)) : ((List.range m).map (k + ·)).mapM f = .ok ((List.range m).map d) := by
    rw [List.mapM_map]
    exact mapM_eq_ok fun j hj => hf j (List.mem_range.mp hj)
  have hscat : (x.c.fn == .scatadd) = false := by rcases hfn with h | h <;> rw [h] <;> rfl
  unfold Chunk.unit
  change x.s.dstVa x.c order x.c.delivered = _ at hdva
  simp only [hdva]
  rw [hend, hsrcs, hdsts _ fun j hj => ?dst]
  case dst =>
    obtain ⟨hd, hw, -, -⟩ := hok j hj
    simp only [hd, bind, Except.bind, State.dstStop_of_copy hfn, hw]
  simp [hscat, k, List.zip_map', Function.comp_def]

end

end Sys2Proof.Machine
end

section
/-! The completion of engine commands, and what ends them with a status (spec/11_engines.md R297, R298, R310). -/

namespace Sys2Proof.Machine

/-- A complete command leaves once home has written its bytes (R296 to R298). -/
theorem exec_commandCompletion {s : State} {c : Cmd} (hc : s.cmd? c.id = some c) (hcomplete : c.complete = true) (howes : s.owesWrites c = false) :
    exec (.commandCompletion c.id) s = .next (s.complete c) := by
  change Host.Outcome.next _ = _
  simp only [hc, hcomplete, howes, Bool.not_false, Bool.and_self, if_true]

/-- COMMAND_COMPLETION (R179, R296 to R298): what a command leaves of itself. -/
theorem State.complete_eq (s : State) (c : Cmd) :
    s.complete c =
      let code := c.status.getD (0, 0)
      let word : DWord := BitVec.ofNat 64 (code.1.toNat + 256 * code.2.toNat + 2 ^ 32 * min c.bytes 0xFFFFFFFF)
      let u := if code.1 = 0 then s else (s.land c (c.total - c.landed)).spoil c
      let v := c.cleared.foldl (fun x j => x.settleLine j c.id (code.1 != 0) false) (u.awaitLate c)
      let tl := v.timeline c.squad c.tl
      let w : State := { v with cmds := v.cmds.filter fun x => x.id != c.id, reading := v.reading.filter fun x => x.2 != c.id }
      ((w.setTimeline c.squad c.tl { tl with
        window := if tl.issued.toNat < c.number + 64 then tl.window ++ [(c.number, word)] else tl.window
        fails := if code.1 = 0 then tl.fails else tl.fails + 1
        done := w.doneOf c.squad c.tl tl.issued }).atsEnd c.id).doFlips.pollWaitc := by
  unfold State.complete
  simp only [beq_iff_eq, decide_eq_true_eq, bne]

/-! ## Statuses -/

/-- A command with a status, unless it has one. -/
def Cmd.ended (c : Cmd) (code : BitVec 8 × BitVec 8) : Cmd := if c.status.isNone then { c with status := some code } else c

theorem Cmd.ended_id (c : Cmd) (code : BitVec 8 × BitVec 8) : (c.ended code).id = c.id := by
  unfold Cmd.ended
  split <;> rfl

theorem Cmd.ended_ended (c : Cmd) (a b : BitVec 8 × BitVec 8) : (c.ended a).ended b = c.ended a := by
  cases h : c.status with
  | none => simp [Cmd.ended, h]
  | some code => simp [Cmd.ended, h]

theorem Cmd.ended_of_none {c : Cmd} (h : c.status = none) (code : BitVec 8 × BitVec 8) : c.ended code = { c with status := some code } := by
  rw [Cmd.ended, if_pos (by rw [h]; rfl)]

theorem State.failCmd_eq (s : State) (id code detail : Nat) :
    s.failCmd id code detail = { s with
      cmds := s.cmds.map fun x => if x.id = id then x.ended (BitVec.ofNat 8 code, BitVec.ofNat 8 detail) else x } := by
  unfold State.failCmd Cmd.ended
  congr 2
  funext x
  by_cases h : x.id = id <;> simp [h]

/-- Commands that end one after the other: of several of one id the first gives the status. -/
theorem State.foldl_failCmd (code detail : Cmd → Nat) (L : List Cmd) (s : State) :
    L.foldl (fun (t : State) c => t.failCmd c.id (code c) (detail c)) s = { s with
      cmds := s.cmds.map fun x => (L.find? (·.id == x.id)).elim x fun c => x.ended (BitVec.ofNat 8 (code c), BitVec.ofNat 8 (detail c)) } := by
  induction L generalizing s with
  | nil => simp
  | cons c L ih =>
    rw [List.foldl_cons, ih, State.failCmd_eq]
    dsimp only
    rw [List.map_map]
    congr 2
    funext x
    dsimp only [Function.comp]
    by_cases h : x.id = c.id
    · rw [if_pos h, List.find?_cons_of_pos (by simp [h]), Cmd.ended_id]
      cases L.find? (·.id == x.id) with
      | none => rfl
      | some d => exact Cmd.ended_ended ..
    · rw [if_neg h, List.find?_cons_of_neg (by simp [Ne.symm h])]

/-- A command among those with a property is found by its id, where ids are distinct. -/
theorem find?_filter_id {cs : List Cmd} (hnd : (cs.map (·.id)).Nodup) {x : Cmd} (hx : x ∈ cs) (p : Cmd → Bool) :
    (cs.filter p).find? (·.id == x.id) = if p x then some x else none := by
  have hinj {y : Cmd} (hy : y ∈ cs.filter p) (hid : y.id = x.id) : y = x := List.inj_on_of_nodup_map hnd (List.mem_filter.mp hy).1 hx hid
  split
  · next hp =>
    cases hf : (cs.filter p).find? (·.id == x.id) with
    | none => simpa using List.find?_eq_none.mp hf x (List.mem_filter.mpr ⟨hx, hp⟩)
    | some y => rw [hinj (List.mem_of_find?_eq_some hf) (by simpa using List.find?_some hf)]
  · next hp =>
    refine List.find?_eq_none.mpr fun y hy hid => hp ?_
    rw [← hinj hy (by simpa using hid)]
    exact (List.mem_filter.mp hy).2

/-- The commands with a property end with statuses of their own, where ids are distinct. -/
theorem State.foldl_failCmd_filter {s : State} (hnd : (s.cmds.map (·.id)).Nodup) (p : Cmd → Bool) (code detail : Cmd → Nat) :
    (s.cmds.filter p).foldl (fun (t : State) c => t.failCmd c.id (code c) (detail c)) s = { s with
      cmds := s.cmds.map fun x => if p x then x.ended (BitVec.ofNat 8 (code x), BitVec.ofNat 8 (detail x)) else x } := by
  rw [State.foldl_failCmd]
  congr 1
  refine List.map_congr_left fun x hx => ?_
  rw [find?_filter_id hnd hx]
  split <;> rfl

section
variable {s : State} {c : Cmd}

theorem exec_collectiveTimeout {first : Nat} (hc : s.cmd? c.id = some c) (hfn : c.fn ∈ [EngFn.allred, .redscat, .allgath, .barrier])
    (hn : c.number ≠ 0) (hack : c.acked = false) (hsince : first ≤ c.since) (htime : first + c.timeout ≤ s.time.toNat) :
    exec (.collectiveTimeout ⟨c.id, first⟩) s = .next (s.failCmd c.id 4 2) := by
  have hcollective : c.fn.collective = true := by
    simp only [List.mem_cons, List.not_mem_nil, or_false] at hfn
    rcases hfn with h | h | h | h <;> rw [h] <;> rfl
  change Host.Outcome.next _ = _
  simp only [hc, hcollective, bne_iff_ne.mpr hn, hack, hsince, htime, decide_true, Bool.not_false, Bool.and_self, if_true]

/-- A peer that leaves ends the commands that need it (R297, R310). -/
theorem exec_peerLeaves (hnd : (s.cmds.map (·.id)).Nodup) (pkg : BitVec 13) :
    exec (.peerLeaves pkg) s = .next { s with
      cmds := s.cmds.map fun x => if x.number != 0 && x.peers.contains pkg && !x.complete then x.ended (4, if x.fn = .copyr then 1 else 2) else x } := by
  have hall := State.foldl_failCmd_filter hnd (fun c => c.number != 0 && c.peers.contains pkg && !c.complete) (fun _ => 4)
    fun c => if c.fn == .copyr then 1 else 2
  refine (congrArg Host.Outcome.next hall).trans ?_
  congr 3
  funext x
  by_cases hfn : x.fn = .copyr <;> simp [hfn]

/-- A copy whose link carries nothing loses its peer (R413). -/
theorem exec_flitWaitTimeout {n : Nat} (hc : s.cmd? c.id = some c) (hlink : c.link = some n) (hspeaks : (s.link n).speaks = false) :
    exec (.flitWaitTimeout c.id) s = .next (s.failCmd c.id 4 1) := by
  have hcarries : c.peers.any (s.link n).carries = false := List.any_eq_false.mpr fun p _ => by simp [Link.carries, hspeaks]
  change Host.Outcome.next _ = _
  simp only [hc, hlink, hcarries, Bool.false_eq_true, if_false]

/-- The teardown of a context without an Erg slot at work aborts its commands (R297, R358). -/
theorem exec_contextTeardown {asid : BitVec 12} (hidle : ∀ g ∈ s.ergs, g.asid = asid → g.state = .idle) :
    exec (.contextTeardown asid) s = .next (s.abortAsid asid) := by
  have hergs : (s.abortAsid asid).ergs = s.ergs := 
    State.foldl_keeps (f := fun (t : State) (c : Cmd) => t.failCmd c.id 5 3) State.ergs (fun _ _ => rfl) _ s
  have hnone : ((s.abortAsid asid).ergs.filter fun e => e.asid == asid && e.state != .idle) = [] := by
    rw [hergs, List.filter_eq_nil_iff]
    intro e he
    by_cases h : e.asid = asid
    · simp [hidle e he h]
    · simp [h]
  change Host.Outcome.next (((s.abortAsid asid).ergs.filter _).foldl _ (s.abortAsid asid)) = _
  rw [hnone]
  rfl

end

end Sys2Proof.Machine

open Sys2Proof Sys2Proof.Machine

/-- Settles O49: a command through its acceptance, the steps of its engine, its completion, and the four events that end it with a status. -/
theorem engineProgress : Obligations.EngineProgress := by
  unfold Obligations.EngineProgress
  intro s c hc
  refine ⟨fun d hn ho hd hid => ?_, fun hn ho => ?_, fun from_ len peers hn hs hack ha => ?_, fun hn hs hack ha len peers => ?_,
    fun x order d p hfn hk => Chunk.unit_of_ok hfn hk, fun hcomplete howes => ?_, ?_⟩
  · intro tl n lines d'
    exact ⟨s.enters d, (exec_engineAcceptance hc).trans (by rw [State.accept_of_ready hn ho hd]), rfl,
      fun he hw j hj => State.present_enters he hw hj⟩
  · rw [exec_engineAcceptance hc, State.accept_of_waiting ho]
  · rw [exec_engineChunkDelivered hc, State.progress_of_again hn hs hack ha]
  · intro t ends
    have ends_of {u : State} (h : t.progress c len peers = u) : ends u := (exec_engineChunkDelivered hc).trans (by rw [← h])
    refine ⟨fun hfn => ends_of (State.progress_of_local hn hs hack ha hfn), fun hfn => ends_of (State.progress_of_gatherq hn hs hack ha hfn),
      fun hfn hout => ends_of (State.progress_of_send hn hs hack ha hfn hout),
      fun hfn hout hpeers => ends_of (State.progress_of_receive hn hs hack ha hfn hout hpeers), fun hfn => ?_⟩
    have hcollect : t.progress c len peers = t.collect c peers := State.progress_of_collective hn hs hack ha hfn
    refine ⟨ends_of hcollect, fun hlen htag => ⟨fun h => ends_of (hcollect.trans (State.collect_of_mismatch hlen htag ?_)),
      fun h hbarrier => ends_of (hcollect.trans (State.collect_of_barrier hlen htag hbarrier ?_))⟩⟩
    · obtain ⟨p, hp, hnot⟩ := h
      exact ⟨p, hp, mt (Cmd.agrees_iff hfn p).mp hnot⟩
    · exact fun p hp => (Cmd.agrees_iff hfn p).mpr (h p hp)
  · rw [exec_commandCompletion hc hcomplete howes, State.complete_eq]
    rfl
  · intro fails hnd
    have fails_of {i : Instr} (hit : Cmd → Prop) (status : Cmd → BitVec 8 × BitVec 8) {f : Cmd → Cmd}
        (hx : exec i s = .next { s with cmds := s.cmds.map f })
        (hf : ∀ x, (hit x → f x = x.ended (status x)) ∧ (¬ hit x → f x = x)) : fails i hit status := by
      refine ⟨_, hx, rfl, List.length_map _, fun j h h' => ?_⟩
      simp only [List.getElem_map]
      obtain ⟨hhit, hmiss⟩ := hf s.cmds[j]
      exact ⟨fun hh hs => (hhit hh).trans (Cmd.ended_of_none hs _), hmiss⟩
    refine ⟨fun first hfn hn hack hsince htime => ?_, fun pkg => ?_, fun n hlink hspeaks => ?_, fun asid hidle => ?_⟩
    · exact fails_of _ _ ((exec_collectiveTimeout hc hfn hn hack hsince htime).trans (by rw [State.failCmd_eq]))
        fun x => ⟨fun h => if_pos h, fun h => if_neg h⟩
    · exact fails_of _ _ (exec_peerLeaves hnd pkg)
        fun x => ⟨fun h => if_pos (by simpa [and_assoc] using h), fun h => if_neg (by simpa [and_assoc] using h)⟩
    · exact fails_of _ _ ((exec_flitWaitTimeout hc hlink hspeaks).trans (by rw [State.failCmd_eq]))
        fun x => ⟨fun h => if_pos h, fun h => if_neg h⟩
    · exact fails_of _ _ ((exec_contextTeardown hidle).trans
        (congrArg Host.Outcome.next (State.foldl_failCmd_filter hnd _ (fun _ => 5) fun _ => 3)))
        fun x => ⟨fun h => if_pos (by simpa using h), fun h => if_neg (by simpa using h)⟩
end

section
/-! BAR in a state where a crew of another squad carries the id of the crew that arrives (spec/02_encoding.md R39, spec/08_ordering.md R236). -/

namespace Sys2Proof.Machine

/-- How many arrivals barrier j of a squad needs after an outcome. -/
def barNeedAfter (sq j : Nat) : Out State → Option Nat
  | .next t => (t.squad? sq).map fun q => (q.bar j).need.toNat
  | _ => none

theorem barNeedAfter_setCrew (sq j : Nat) (t : State) (c : Crew) : barNeedAfter sq j (.next (t.setCrew c)) = barNeedAfter sq j (.next t) := rfl

/-- A second crew with the id of the loaded program's, in another squad. -/
def strayTwin : Crew := { spawner with slot := 1, squad := 2 }
/-- Both crews resident; the first has squad 0 to itself. -/
def strayTwinned : State := { State.reset.load 0 with crews := [spawner, strayTwin], cur := some 1 }

theorem strayTwinned_runs : strayTwinned.runs spawner (.bar 0 0 300) := ⟨by decide +kernel, by decide +kernel⟩

theorem strayTwinned_squad : strayTwinned.squad? spawner.squad = some (bootSquad 0) ∧ strayTwinned.bump.cmdHeld spawner = false :=
  ⟨by decide +kernel, by decide +kernel⟩

/-- Squad 0 has one crew, so its barrier is to need one arrival (R236). -/
theorem strayTwinned_alone : (strayTwinned.squadCrews (bootSquad 0).id).length = 1 := by decide +kernel

/-- The barrier needs two: as BAR closes the windows of its crew, the stray twin is overwritten with it, and is counted in its squad. -/
theorem strayTwinned_needs : barNeedAfter 0 0 (exec (.bar 0 0 300) strayTwinned) = some 2 := by decide +kernel

end Sys2Proof.Machine

open Sys2Proof Sys2Proof.Machine

/-- Refutes O41: the statement speaks of every state, also of one in which a crew of another squad carries the id of the crew that arrives at a BAR for
its whole squad. Closing the first one's windows (R39) then overwrites the other, and the barrier needs an arrival more than the statement, which counts
the squad's crews before. -/
theorem not_fencesAndBarriers : ¬ Obligations.FencesAndBarriers := by
  unfold Obligations.FencesAndBarriers
  rintro ⟨-, hbar, -⟩
  obtain ⟨hsquad, hheld⟩ := strayTwinned_squad
  obtain ⟨harrive, -⟩ := hbar strayTwinned (bootSquad 0)
  obtain ⟨k', hexec, -⟩ := harrive spawner 0 0 300 strayTwinned_runs hsquad rfl hheld
  have hneeds := strayTwinned_needs
  rw [hexec, barNeedAfter_setCrew, strayTwinned_alone] at hneeds
  exact absurd hneeds (by decide +kernel)
end

section
/-! What passes between cores and home slices (spec/09_subscribe.md R247 to R253): what messages, notices and fetches leave of the state, and the copy
and the pointer that a fetch leaves. -/

namespace Sys2Proof.Machine

/-! ## What an exchange with a slice leaves -/

/-- Crew c is crew k but for its monitors and what a wait of it has seen (R209, R388). -/
def Crew.signalled (k c : Crew) : Prop := ({ c with mon := [], wait := none } : Crew) = { k with mon := [], wait := none }

theorem Crew.signalled.eq {α : Sort*} {k c : Crew} (h : k.signalled c) (part : Crew → α)
    (hpart : ∀ x : Crew, part { x with mon := [], wait := none } = part x := by intros; rfl) : part c = part k := by
  rw [← hpart c, ← hpart k]
  exact congrArg part h

/-- t is s after an exchange between cores and home slices: the copies, the directory and what is on its way may differ, and the crews in their
monitors and waits. -/
structure State.exchanged (s t : State) : Prop where
  frame : t = { s with
    crews := t.crews, dir := t.dir, copies := t.copies, plain := t.plain, notices := t.notices, msgs := t.msgs, acks := t.acks
    counts := t.counts, fresh := t.fresh }
  crew : ∀ {id : Nat} {k : Crew}, s.crew? id = some k → ∃ c, t.crew? id = some c ∧ k.signalled c

theorem State.exchanged.trans {s t u : State} (h : s.exchanged t) (h' : t.exchanged u) : s.exchanged u where
  frame := by
    have hframe := h'.frame
    rw [h.frame] at hframe
    exact hframe
  crew hk := by
    obtain ⟨c, hc, hkc⟩ := h.crew hk
    obtain ⟨d, hd, hcd⟩ := h'.crew hc
    exact ⟨d, hd, hcd.trans hkc⟩

theorem State.exchanged_of_frame {s t : State} (h : t = { s with
      dir := t.dir, copies := t.copies, plain := t.plain, notices := t.notices, msgs := t.msgs, acks := t.acks, counts := t.counts
      fresh := t.fresh } := by rfl) : s.exchanged t := by
  have hcrews : t.crews = s.crews := (congrArg State.crews h).trans rfl
  refine ⟨h.trans (by rw [hcrews]), fun {_ k} hk => ⟨k, ?_, rfl⟩⟩
  rw [State.crew?, hcrews]
  exact hk

theorem State.exchanged_foldl {α : Type} {f : State → α → State} (hf : ∀ (s : State) (a : α), s.exchanged (f s a)) (l : List α) (s : State) :
    s.exchanged (l.foldl f s) :=
  List.foldlRecOn (motive := s.exchanged) l f State.exchanged_of_frame fun _ ht a _ => ht.trans (hf _ a)

/-- A crew found by its id is found where every crew keeps its id. -/
theorem crew_find?_map {f : Crew → Crew} (hf : ∀ c, (f c).id = c.id) {l : List Crew} {id : Nat} {k : Crew} (h : l.find? (·.id == id) = some k) :
    (l.map f).find? (·.id == id) = some (f k) := by
  have hcomp : (fun c : Crew => c.id == id) ∘ f = fun c => c.id == id := funext fun c => by simp [hf c]
  rw [List.find?_map, hcomp, h]
  rfl

theorem State.exchanged_triggerCore (s : State) (core line : Nat) : s.exchanged (s.triggerCore core line) where
  frame := rfl
  crew hk := by
    refine ⟨_, crew_find?_map (fun c => by split <;> rfl) hk, ?_⟩
    split <;> rfl

/-- A message that arrives changes its core's copy, its count and its crews' monitors (R249, R256, R263). -/
theorem State.exchanged_takeMsg (s : State) (m : Msg) : s.exchanged (s.takeMsg m) := by
  have arrives (u : State) (hu : s.exchanged u) : s.exchanged ((u.triggerCore m.core m.line).ackMsg m) :=
    (hu.trans (State.exchanged_triggerCore ..)).trans (State.exchanged_of_frame)
  unfold State.takeMsg
  dsimp only
  split
  · exact arrives _ (State.exchanged_of_frame)
  · split <;> exact arrives _ (State.exchanged_of_frame)

theorem State.exchanged_takeNotice (s : State) (n : Notice) : s.exchanged (s.takeNotice n) := by
  unfold State.takeNotice
  dsimp only
  split <;> exact State.exchanged_of_frame

/-- What a core and a slice have sent each other arrives (R252). -/
theorem State.exchanged_settled (s : State) (core off : Nat) : s.exchanged ((s.takeNotices core off).deliver core off) :=
  (State.exchanged_foldl State.exchanged_takeNotice _ s).trans (State.exchanged_foldl State.exchanged_takeMsg _ _)

/-! ## The room of the L1 (R178, R248) -/

/-- Making room drops copies, whose notices set out, and lines of spill and SKM. -/
theorem State.makeRoom_frame (s : State) (core : Nat) (keep : Option Nat) (stay : Option PlainLine) (fuel : Nat) :
    s.makeRoom core keep stay fuel = { s with
      copies := (s.makeRoom core keep stay fuel).copies, plain := (s.makeRoom core keep stay fuel).plain
      notices := (s.makeRoom core keep stay fuel).notices } := by
  induction fuel generalizing s with
  | zero => rfl
  | succ fuel ih =>
    unfold State.makeRoom
    dsimp only
    split
    · rfl
    · split
      · next l _ => exact ih (s.expel core l)
      · split
        · next x _ => exact ih { s with plain := s.plain.filter (· != x) }
        · rfl

theorem State.exchanged_makeRoom (s : State) (core : Nat) (keep : Option Nat) (stay : Option PlainLine) (fuel : Nat) :
    s.exchanged (s.makeRoom core keep stay fuel) := by
  obtain ⟨copies, plain, notices, h⟩ : ∃ copies plain notices,
      s.makeRoom core keep stay fuel = { s with copies := copies, plain := plain, notices := notices } := ⟨_, _, _, State.makeRoom_frame ..⟩
  rw [h]
  exact State.exchanged_of_frame

theorem State.copyOf_dropCopy_of_ne (s : State) (core : Nat) {line l : Nat} (h : line ≠ l) :
    (s.dropCopy core l).copyOf core line = s.copyOf core line := by
  unfold State.copyOf State.dropCopy
  dsimp only
  rw [List.find?_filter]
  congr 1
  funext c
  by_cases hc : c.line = line
  · simp [hc, h, beq_eq_decide]
  · simp [hc]

/-- The line that room is made for keeps its copy. -/
theorem State.makeRoom_copyOf (s : State) (core line : Nat) (stay : Option PlainLine) (fuel : Nat) :
    (s.makeRoom core (some line) stay fuel).copyOf core line = s.copyOf core line := by
  induction fuel generalizing s with
  | zero => rfl
  | succ fuel ih =>
    unfold State.makeRoom
    dsimp only
    split
    · rfl
    · split
      · next l hl =>
        have hne : line ≠ l := by
          have hmem := List.mem_of_getElem? hl
          simp only [List.mem_map, List.mem_filter, Bool.and_eq_true, bne_iff_ne, ne_eq, Option.some.injEq] at hmem
          obtain ⟨c, ⟨-, -, hc⟩, rfl⟩ := hmem
          exact Ne.symm hc
        exact (ih _).trans (State.copyOf_dropCopy_of_ne s core hne)
      · split
        · exact ih _
        · rfl

/-! ## Fetches and upgrades (R247, R253) -/

/-- The entry of a line after core has fetched it at a format and mode: a pointer more, or BCAST for a ninth sharer (R247, R253). -/
def DirEntry.fetched (d : DirEntry) (core : Nat) (f : SubFmt) (upd : Bool) : DirEntry :=
  let others := d.ptrs.filter fun p => p.core != core
  if d.bcast then d
  else if 8 ≤ others.length then { d with bcast := true }
  else { d with ptrs := others ++ [⟨core, f, upd⟩] }

theorem DirEntry.fetched_line (d : DirEntry) (core : Nat) (f : SubFmt) (upd : Bool) : (d.fetched core f upd).line = d.line := by
  unfold DirEntry.fetched
  dsimp only
  split
  · rfl
  · split <;> rfl

/-- The copy that home sends of a line (R247). -/
def State.sent (s : State) (core line va : Nat) (asid : BitVec 12) (f : SubFmt) (upd : Bool) : Copy :=
  { core := core, line := line, va := va / 128 * 128, asid := asid, fmt := f, upd := upd
    words := (List.range 32).map fun i => subRound f (s.homeWord line i), under := [] }

section
variable (s : State) (core line va : Nat) (asid : BitVec 12) (f : SubFmt) (upd : Bool)

/-- A fetch once what core and slice have sent each other has arrived (R247, R252). -/
theorem State.fetchLine_eq {u : State} (hu : (s.takeNotices core (line * 128)).deliver core (line * 128) = u) :
    s.fetchLine core line va asid f upd = ({ ((u.dropCopy core line).setDir ((u.dirOf line).fetched core f upd)).bump with
      copies := u.sent core line va asid f upd :: (u.dropCopy core line).copies } : State).makeRoom core (some line) none 8 := by
  subst hu
  rfl

theorem State.exchanged_fetchLine : s.exchanged (s.fetchLine core line va asid f upd) := by
  have hsettled := s.exchanged_settled core (line * 128)
  obtain ⟨u, hu⟩ : ∃ u, (s.takeNotices core (line * 128)).deliver core (line * 128) = u := ⟨_, rfl⟩
  rw [State.fetchLine_eq s core line va asid f upd hu]
  rw [hu] at hsettled
  refine (hsettled.trans ?_).trans (State.exchanged_makeRoom ..)
  exact State.exchanged_of_frame

variable {u : State} (hu : (s.takeNotices core (line * 128)).deliver core (line * 128) = u)
include hu

theorem State.fetchLine_frame : s.fetchLine core line va asid f upd = { u with
    copies := (s.fetchLine core line va asid f upd).copies, dir := (s.fetchLine core line va asid f upd).dir
    plain := (s.fetchLine core line va asid f upd).plain, notices := (s.fetchLine core line va asid f upd).notices
    fresh := (s.fetchLine core line va asid f upd).fresh } := by
  rw [State.fetchLine_eq s core line va asid f upd hu, State.makeRoom_frame]
  rfl

theorem State.fetchLine_copyOf : (s.fetchLine core line va asid f upd).copyOf core line = some (u.sent core line va asid f upd) := by
  rw [State.fetchLine_eq s core line va asid f upd hu, State.makeRoom_copyOf]
  exact List.find?_cons_of_pos (by simp [State.sent])

theorem State.fetchLine_dirOf : (s.fetchLine core line va asid f upd).dirOf line = (u.dirOf line).fetched core f upd := by
  rw [State.fetchLine_eq s core line va asid f upd hu, State.makeRoom_frame]
  exact (State.dirOf_setDir u _ line).trans (if_pos ((DirEntry.fetched_line ..).trans (State.dirOf_line u line)))

end

end Sys2Proof.Machine
end

section
/-! SUBS, UNSUB, SUBUP and SUBQ (spec/09_subscribe.md R258 to R263): the slots of a squad, and what each instruction does in each of its outcomes. -/

namespace Sys2Proof.Machine

/-! ## Slots and handles (R242, R258) -/

/-- A register value names slot j of a squad as it stands: its handle is current (R258). -/
def Squad.names (q : Squad) (h : DWord) (j : Nat) : Prop :=
  h.toNat < 2 ^ 20 ∧ h.toNat % 16 = j ∧ (q.subs.getD j SubSlot.empty).valid = true ∧ (q.subs.getD j SubSlot.empty).seq.toNat = h.toNat / 16 % 65536

theorem Squad.current_of_names {q : Squad} {h : DWord} {j : Nat} (hj : q.names h j) : q.current h = some (j, q.subs.getD j SubSlot.empty) := by
  obtain ⟨hlow, rfl, hvalid, hseq⟩ := hj
  unfold Squad.current
  refine if_pos ?_
  simp only [Bool.and_eq_true, beq_iff_eq, decide_eq_true_eq]
  exact ⟨⟨hvalid, hseq⟩, hlow⟩

theorem Squad.current_of_stale {q : Squad} {h : DWord} (hstale : ∀ j, ¬ q.names h j) : q.current h = none := by
  have hslot := hstale (h.toNat % 16)
  simp only [Squad.names, true_and] at hslot
  unfold Squad.current
  refine if_neg fun hcurrent => hslot ?_
  simp only [Bool.and_eq_true, beq_iff_eq, decide_eq_true_eq] at hcurrent
  obtain ⟨⟨hvalid, hseq⟩, hlow⟩ := hcurrent
  exact ⟨hlow, hvalid, hseq⟩

/-- The least free slot of a squad (R260). -/
theorem Squad.freeSlot_eq_some {q : Squad} {j : Nat} (hj : j < 16) (hfree : (q.subs.getD j SubSlot.empty).valid = false)
    (hleast : ∀ h < j, (q.subs.getD h SubSlot.empty).valid = true) :
    ((List.range 16).find? fun j => !(q.subs.getD j SubSlot.empty).valid) = some j :=
  List.find?_range_eq_some.mpr ⟨by rw [hfree]; rfl, List.mem_range.mpr hj, fun h hh => by rw [hleast h hh]; rfl⟩

theorem Squad.freeSlot_eq_none {q : Squad} (hfull : ∀ j < 16, (q.subs.getD j SubSlot.empty).valid = true) :
    ((List.range 16).find? fun j => !(q.subs.getD j SubSlot.empty).valid) = none :=
  List.find?_range_eq_none.mpr fun j hj => by rw [hfull j hj]; rfl

/-- The instructions of subscriptions have majors 0x4C to 0x4F, which close no window (R39, R257). -/
theorem closesWindow_of_subscribe {i : Instr} (h : encodeNat i / 2 % 128 ∈ List.range' 0x4C 4) : closesWindow i = false := by
  refine closesWindow_of_major rfl ?_
  generalize encodeNat i / 2 % 128 = m at h
  revert m
  decide

section
variable {s : State} {k : Crew} {q : Squad} {r : Reply} {b a : BitVec 6}

/-! ## SUBS (R260) -/

theorem closesWindow_subs {m : BitVec 1} {f : SubFmt} : closesWindow (.subs r b a m f) = false :=
  closesWindow_of_subscribe (by simp [encodeNat, put_major])

/-- The range of a SUBS: 1 to 65,536 lines, of which the last byte is addressable (R259, BAD_RANGE). -/
def rangeFits (va len : Nat) : Prop := len ≠ 0 ∧ (va + len - 1) / 128 - va / 128 < 65536 ∧ va + len ≤ 2 ^ 47

theorem not_rangeFits_iff (va len : Nat) :
    (len == 0 || decide (65536 < (va + len - 1) / 128 - va / 128 + 1) || decide (2 ^ 47 < va + len)) = true ↔ ¬ rangeFits va len := by
  simp only [rangeFits, Bool.or_eq_true, beq_iff_eq, decide_eq_true_eq]
  omega

theorem subs_of_trap {m : BitVec 1} {f : SubFmt} {c : Cause} (hr : s.runs k (.subs r b a m f))
    (hx : s.bump.check k .load 1 1 (k.pr a.toNat).toNat = .error c) :
    exec (.subs r b a m f) s
      = .next ((s.entering k (.subs r b a m f)).trapAt (k.entering (.subs r b a m f)) c k.active (k.pr a.toNat).toNat) := by
  rw [Crew.entering_open closesWindow_subs, State.entering_open closesWindow_subs]
  have h : exec (.subs r b a m f) s = _ := (issue_open hr closesWindow_subs _ : execSubs r b a m f s = _)
  simpa only [hx] using h

section
variable {m : BitVec 1} {f : SubFmt} {x : Loc} (hr : s.runs k (.subs r b a m f))
  (hx : s.bump.check k .load 1 1 (k.pr a.toNat).toNat = .ok x) (hq : s.bump.squad? k.squad = some q)
include hr hx hq

theorem subs_of_unfit (hfits : ¬ rangeFits (k.pr a.toNat).toNat (k.pr b.toNat).toNat) :
    s.goesTo k (.subs r b a m f) s.bump (k.reply r (refuse64 2)) := by
  have h : exec (.subs r b a m f) s = _ := (issue_open hr closesWindow_subs _ : execSubs r b a m f s = _)
  simp only [hx, hq, if_pos ((not_rangeFits_iff ..).mpr hfits)] at h
  exact goesTo_of_doneReply closesWindow_subs h

variable (hfits : rangeFits (k.pr a.toNat).toNat (k.pr b.toNat).toNat)
include hfits

theorem subs_of_full (hfull : (∀ j < 16, (q.subs.getD j SubSlot.empty).valid = true) ∨ 128 ≤ s.bump.subEntries k.core) :
    s.goesTo k (.subs r b a m f) s.bump (k.reply r (refuse64 1)) := by
  have h : exec (.subs r b a m f) s = _ := (issue_open hr closesWindow_subs _ : execSubs r b a m f s = _)
  simp only [hx, hq, if_neg (mt (not_rangeFits_iff ..).mp (not_not_intro hfits))] at h
  refine goesTo_of_doneReply closesWindow_subs (h.trans ?_)
  rcases hfull with hslots | hentries
  · rw [Squad.freeSlot_eq_none hslots]
  · split
    · rfl
    · exact congrArg _ (if_pos hentries)

theorem subs_of_free {j : Nat} (hj : j < 16) (hroom : s.bump.subEntries k.core < 128) (hfree : (q.subs.getD j SubSlot.empty).valid = false)
    (hleast : ∀ h < j, (q.subs.getD h SubSlot.empty).valid = true) :
    s.goesTo k (.subs r b a m f)
      ((s.bump.setSquad (q.setSub j {
          valid := true, fmt := f, upd := m == 1, count := ((k.pr a.toNat).toNat + (k.pr b.toNat).toNat - 1) / 128 - (k.pr a.toNat).toNat / 128
          base := (k.pr a.toNat).toNat / 128, seq := (q.subs.getD j SubSlot.empty).seq + 1 })).dropHeld
        (s.bump.heldIn k.core k.asid ((k.pr a.toNat).toNat / 128) (((k.pr a.toNat).toNat + (k.pr b.toNat).toNat - 1) / 128)))
      (k.reply r (BitVec.ofNat 64 (j + 16 * ((q.subs.getD j SubSlot.empty).seq + 1).toNat))) := by
  have h : exec (.subs r b a m f) s = _ := (issue_open hr closesWindow_subs _ : execSubs r b a m f s = _)
  have hentries : ¬ Config.subEntries ≤ s.bump.subEntries k.core := Nat.not_le.mpr hroom
  simp only [hx, hq, if_neg (mt (not_rangeFits_iff ..).mp (not_not_intro hfits)), Squad.freeSlot_eq_some hj hfree hleast, if_neg hentries] at h
  exact goesTo_of_doneReply closesWindow_subs h

end

/-! ## UNSUB (R261) -/

theorem closesWindow_unsub : closesWindow (.unsub r a) = false := closesWindow_of_subscribe (by simp [encodeNat, put_major])

theorem unsub_of_stale (hr : s.runs k (.unsub r a)) (hq : s.bump.squad? k.squad = some q) (hstale : ∀ j, ¬ q.names (k.pr a.toNat) j) :
    s.goesTo k (.unsub r a) s.bump (k.reply r (refuse64 3)) := by
  have h : exec (.unsub r a) s = _ := (issue_open hr closesWindow_unsub _ : execUnsub r a s = _)
  simp only [hq, Squad.current_of_stale hstale] at h
  exact goesTo_of_doneReply closesWindow_unsub h

theorem unsub_of_names (hr : s.runs k (.unsub r a)) (hq : s.bump.squad? k.squad = some q) {j : Nat} (hj : q.names (k.pr a.toNat) j) {x : SubSlot}
    (hx : q.subs.getD j SubSlot.empty = x) :
    s.goesTo k (.unsub r a)
      ((s.bump.setSquad (q.setSub j { SubSlot.empty with seq := x.seq })).dropHeld (s.bump.heldIn k.core k.asid x.base (x.base + x.count)))
      (k.reply r (BitVec.ofNat 64 (s.bump.heldIn k.core k.asid x.base (x.base + x.count)).length)) := by
  have h : exec (.unsub r a) s = _ := (issue_open hr closesWindow_unsub _ : execUnsub r a s = _)
  simp only [hq, Squad.current_of_names hj, hx] at h
  exact goesTo_of_doneReply closesWindow_unsub h

/-! ## Replies after an exchange with home (R262, R263) -/

/-- The crew whose turn it is, by its id. -/
theorem State.runs.crew {i : Instr} (h : s.runs k i) : s.crew? k.id = some k := by
  obtain ⟨hcur, -⟩ := h
  obtain ⟨id, -, hid⟩ := Option.bind_eq_some_iff.mp hcur
  have hk : k.id = id := by simpa using List.find?_some hid
  rw [hk]
  exact hid

/-- An instruction that replies as it completes, after an exchange with home that has left its crew but for monitors and waits as it was. -/
theorem finish_of_exchanged {u w : State} {i : Instr} {d : DWord} (ho : closesWindow i = false) (hr : s.runs k i) (hu : u.crews = s.crews)
    (hw : u.exchanged w)
    (h : exec i s = .next (w.finish i k.id k.active fun c => c.reply r d)) :
    ∃ (c k' : Crew), w.crew? k.id = some c ∧ k.signalled c ∧ exec i s = .next (w.setCrew k')
      ∧ c.movedFrom (c.reply r d) k' i (w.cycles k.core).toNat := by
  obtain ⟨c, hc, hkc⟩ := hw.crew ((congrArg (List.find? _) hu).trans hr.crew)
  obtain ⟨hcore, hrep, -, hthreads⟩ := c.reply_frame r d
  have hmoved : c.movedFrom (c.reply r d) ((c.reply r d).advance i c.active (w.cycles k.core).toNat) i (w.cycles k.core).toNat :=
    Crew.advance_open ho _ hrep hthreads
  refine ⟨c, _, hc, hkc, ?_, hmoved⟩
  simp only [State.finish, hc, State.done, hcore] at h
  rw [h, hkc.eq Crew.active, hkc.eq fun x => x.core]

/-! ## SUBUP (R262) -/

theorem closesWindow_subup {f : SubFmt} : closesWindow (.subup r a f) = false := closesWindow_of_subscribe (by simp [encodeNat, put_major])

theorem subup_of_stale {f : SubFmt} (hr : s.runs k (.subup r a f)) (hq : s.bump.squad? k.squad = some q)
    (hstale : ∀ j, ¬ q.names (k.pr a.toNat) j) : s.goesTo k (.subup r a f) s.bump (k.reply r (refuse64 3)) := by
  have h : exec (.subup r a f) s = _ := (issue_open hr closesWindow_subup _ : execSubup r a f s = _)
  simp only [hq, Squad.current_of_stale hstale] at h
  exact goesTo_of_doneReply closesWindow_subup h

/-- The copies that a SUBUP of a slot upgrades: those of its range held below its new format. -/
def State.lowHeld (s : State) (k : Crew) (x : SubSlot) (f : SubFmt) : List Copy :=
  (s.heldIn k.core k.asid x.base (x.base + x.count)).filter fun c => decide (subRank c.fmt < subRank f)
/-- The state after their upgrades. -/
def State.upgraded (s : State) (k : Crew) (f : SubFmt) (cs : List Copy) : State :=
  cs.foldl (fun (s : State) c => s.fetchLine c.core c.line c.va c.asid f (s.asked k c.va).2) s

section
variable {f : SubFmt} (hr : s.runs k (.subup r a f)) (hq : s.bump.squad? k.squad = some q) {j : Nat} (hj : q.names (k.pr a.toNat) j) {x : SubSlot}
  (hx : q.subs.getD j SubSlot.empty = x)
include hr hq hj hx

theorem subup_of_notHigher (hrank : subRank f ≤ subRank x.fmt) : s.goesTo k (.subup r a f) s.bump (k.reply r (refuse64 4)) := by
  have h : exec (.subup r a f) s = _ := (issue_open hr closesWindow_subup _ : execSubup r a f s = _)
  simp only [hq, Squad.current_of_names hj, hx, if_pos hrank] at h
  exact goesTo_of_doneReply closesWindow_subup h

variable (hrank : subRank x.fmt < subRank f)
include hrank

/-- Where home can not take the upgrades, the crew is to issue again (R252, R253). -/
theorem subup_of_shut (hshut : ∃ c ∈ s.bump.lowHeld k x f, s.bump.lineOpen k.core k.id c.line = false) :
    exec (.subup r a f) s = .next s.bump := by
  have h : exec (.subup r a f) s = _ := (issue_open hr closesWindow_subup _ : execSubup r a f s = _)
  have hany : ((s.bump.lowHeld k x f).any fun c => !s.bump.lineOpen k.core k.id c.line) = true := by simpa using hshut
  simp only [hq, Squad.current_of_names hj, hx, if_neg (Nat.not_le.mpr hrank)] at h
  exact h.trans (congrArg _ (if_pos hany))

theorem subup_of_open (hopen : ∀ c ∈ s.bump.lowHeld k x f, s.bump.lineOpen k.core k.id c.line = true) {w : State}
    (hw : (s.bump.setSquad (q.setSub j { x with fmt := f })).upgraded k f (s.bump.lowHeld k x f) = w) :
    ∃ (c k' : Crew), w.crew? k.id = some c ∧ k.signalled c ∧ exec (.subup r a f) s = .next (w.setCrew k')
      ∧ c.movedFrom (c.reply r (BitVec.ofNat 64 (s.bump.lowHeld k x f).length)) k' (.subup r a f) (w.cycles k.core).toNat := by
  have h : exec (.subup r a f) s = _ := (issue_open hr closesWindow_subup _ : execSubup r a f s = _)
  have hany : ¬ ((s.bump.lowHeld k x f).any fun c => !s.bump.lineOpen k.core k.id c.line) = true := by simpa using hopen
  simp only [hq, Squad.current_of_names hj, hx, if_neg (Nat.not_le.mpr hrank)] at h
  refine finish_of_exchanged (u := s.bump.setSquad (q.setSub j { x with fmt := f })) closesWindow_subup hr rfl ?_ (h.trans ?_)
  · rw [← hw]
    exact State.exchanged_foldl (fun u c => u.exchanged_fetchLine ..) _ _
  · rw [← hw]
    exact congrArg _ (if_neg hany)

end

/-! ## SUBQ (R263) -/

theorem closesWindow_subqLine : closesWindow (.subqLine r a) = false := closesWindow_of_subscribe (by simp [encodeNat, put_major])
theorem closesWindow_subqSlot : closesWindow (.subqSlot r a) = false := closesWindow_of_subscribe (by simp [encodeNat, put_major])
theorem closesWindow_subqCnt : closesWindow (.subqCnt r) = false := closesWindow_of_subscribe (by simp [encodeNat, put_major])

section
variable (hr : s.runs k (.subqLine r a))
include hr

theorem subqLine_of_trap {c : Cause} (hx : s.bump.check k .pres 1 1 (k.pr a.toNat).toNat = .error c) :
    exec (.subqLine r a) s = .next ((s.entering k (.subqLine r a)).trapAt (k.entering (.subqLine r a)) c k.active (k.pr a.toNat).toNat) := by
  rw [Crew.entering_open closesWindow_subqLine, State.entering_open closesWindow_subqLine]
  have h : exec (.subqLine r a) s = _ := (issue_open hr closesWindow_subqLine _ : execSubqLine r a s = _)
  simpa only [hx] using h

theorem subqLine_of_window {x : Loc} (hx : s.bump.check k .pres 1 1 (k.pr a.toNat).toNat = .ok x) (hdeck : ∀ off, x ≠ .deck off) :
    s.goesTo k (.subqLine r a) s.bump (k.reply r 0x40000) := by
  have h : exec (.subqLine r a) s = _ := (issue_open hr closesWindow_subqLine _ : execSubqLine r a s = _)
  cases x with
  | deck off => exact absurd rfl (hdeck off)
  | squad off | spill off | skm off =>
    simp only [hx] at h
    exact goesTo_of_doneReply closesWindow_subqLine h

variable {off : Nat} (hx : s.bump.check k .pres 1 1 (k.pr a.toNat).toNat = .ok (.deck off))
include hx

theorem subqLine_of_waits (hwaits : s.bump.sliceWaits k.core off = true) : exec (.subqLine r a) s = .next s.bump := by
  have h : exec (.subqLine r a) s = _ := (issue_open hr closesWindow_subqLine _ : execSubqLine r a s = _)
  simpa only [hx, if_pos hwaits] using h

theorem subqLine_of_heard (hwaits : s.bump.sliceWaits k.core off = false) {u : State}
    (hu : (s.bump.takeNotices k.core off).deliver k.core off = u) :
    ∃ (c k' : Crew), u.crew? k.id = some c ∧ k.signalled c ∧ exec (.subqLine r a) s = .next (u.setCrew k')
      ∧ c.movedFrom (c.reply r (u.lineWord k (k.pr a.toNat).toNat off)) k' (.subqLine r a) (u.cycles k.core).toNat := by
  have h : exec (.subqLine r a) s = _ := (issue_open hr closesWindow_subqLine _ : execSubqLine r a s = _)
  simp only [hx, if_neg (Bool.eq_false_iff.mp hwaits), hu] at h
  exact finish_of_exchanged (u := s.bump) closesWindow_subqLine hr rfl (hu ▸ State.exchanged_settled _ _ _) h

end

/-- What a squad asks for, and the words that SUBQ.line gives, after an exchange with home. -/
theorem State.exchanged.lineWord {s u : State} (h : s.exchanged u) {k : Crew} {q : Squad} (hq : s.squad? k.squad = some q) (va off : Nat) :
    u.lineWord k va off = BitVec.ofNat 64
      ((match u.copyOf k.core (off / 128) with | none => 0 | some c => fmtCode c.fmt + 8 + bit c.upd 8) + fmtCode (s.asked k va).1 * 16
        + bit (q.subs.any (·.covers va)) 7 + bit (u.dirOf (off / 128)).bcast 9 + (u.dirOf (off / 128)).ptrs.length * 2 ^ 10
        + (u.dirOf (off / 128)).watch.toNat * 2 ^ 14 + bit (u.dirOf (off / 128)).absentBy.isEmpty 18 + bit (u.dirOf (off / 128)).poison 19) := by
  have hsquads : u.squads = s.squads := (congrArg State.squads h.frame).trans rfl
  have hsquad : u.squad? k.squad = some q := by
    rw [State.squad?, hsquads]
    exact hq
  have hasked : u.asked k va = s.asked k va := by rw [State.asked, State.asked, hsquad, hq]
  rw [State.lineWord, hsquad, hasked]
  rfl

theorem subqSlot_goesTo (hr : s.runs k (.subqSlot r a)) (hq : s.bump.squad? k.squad = some q) {x : SubSlot}
    (hx : q.subs.getD ((k.pr a.toNat).toNat % 16) SubSlot.empty = x) :
    s.goesTo k (.subqSlot r a) s.bump (k.reply r (if x.valid then
      BitVec.ofNat 64 (1 + fmtCode x.fmt * 2 + bit x.upd 4 + x.count * 2 ^ 6 + x.base * 2 ^ 22) else 0)) := by
  have h : exec (.subqSlot r a) s = _ := (issue_open hr closesWindow_subqSlot _ : execSubqSlot r a s = _)
  simp only [hq, hx] at h
  exact goesTo_of_doneReply closesWindow_subqSlot h

/-- Two words side by side as a number (R263). -/
theorem append_eq_ofNat (x y : Word) : x ++ y = BitVec.ofNat 64 (y.toNat + 2 ^ 32 * x.toNat) := by
  refine BitVec.eq_of_toNat_eq ?_
  rw [BitVec.toNat_append, ← Nat.shiftLeft_add_eq_or_of_lt y.isLt, Nat.shiftLeft_eq, BitVec.toNat_ofNat, Nat.mod_eq_of_lt (by omega)]
  omega

theorem subqCnt_goesTo (hr : s.runs k (.subqCnt r)) : s.goesTo k (.subqCnt r) s.bump
    (k.reply r (BitVec.ofNat 64 ((s.count k.core).inval.toNat + 2 ^ 32 * (s.count k.core).upd.toNat))) := by
  have h : exec (.subqCnt r) s = _ := (issue_open hr closesWindow_subqCnt _ : execSubqCnt r s = _)
  rw [append_eq_ofNat] at h
  exact goesTo_of_doneReply closesWindow_subqCnt h

end

end Sys2Proof.Machine

open Sys2Proof Sys2Proof.Machine

/-- Settles O42: each instruction in each of its outcomes, by the handle it is given or by the checks of its address; after an exchange with home its
crew is as it was but for monitors and waits. -/
theorem subscriptions : Obligations.Subscriptions := by
  unfold Obligations.Subscriptions
  intro s k q r b a hq t va len sub no code one current stale held dropped
  refine ⟨fun m f x hr hx => ⟨subs_of_unfit hr hx hq, subs_of_full hr hx hq,
      fun j hj hfits hroom hfree hleast => subs_of_free hr hx hq hfits hj hroom hfree hleast⟩,
    fun hr => ⟨unsub_of_stale hr hq, fun j hj => unsub_of_names hr hq hj rfl⟩,
    fun f hr => ⟨subup_of_stale hr hq, fun j hj => ⟨subup_of_notHigher hr hq hj rfl, fun hrank =>
      ⟨subup_of_shut hr hq hj rfl hrank, fun hopen => subup_of_open hr hq hj rfl hrank hopen rfl⟩⟩⟩,
    ⟨fun m f c hr hx => subs_of_trap hr hx, fun c hr hx => subqLine_of_trap hr hx⟩,
    fun off hr hx => ⟨subqLine_of_waits hr hx, fun hwaits => ?_⟩,
    fun x hr hx hdeck => subqLine_of_window hr hx hdeck, fun hr => subqSlot_goesTo hr hq rfl, fun hr => subqCnt_goesTo hr⟩
  have h := subqLine_of_heard hr hx hwaits rfl
  rw [(s.bump.exchanged_settled k.core off).lineWord hq] at h
  exact h
end

section
/-! Writes at the home slice (spec/09_subscribe.md R249 to R253): the actions for a line's sharers, what a write leaves once it is applied, when it is
globally performed, and the end of a clear. -/

namespace Sys2Proof.Machine

/-! ## The action for one sharer (R249) -/

/-- The words of a write whose rounding at a format it changes, of words with their values before and after. -/
def roundedApart (f : SubFmt) (ws : List (Nat × Word × Word)) : List (Nat × Word × Word) :=
  ws.filter fun x => subRound f x.2.1 != subRound f x.2.2

section
variable {line wid id : Nat} {p : Ptr} {ws : List (Nat × Word × Word)}

theorem actionFor_upd (hupd : p.upd = true) (hws : roundedApart p.fmt ws ≠ []) :
    ∃ m, actionFor line p ws wid id = some m ∧ m.core = p.core ∧ m.line = line ∧ m.upd = true
      ∧ m.words = (roundedApart p.fmt ws).map fun x => (x.1, subRound p.fmt x.2.2) :=
  ⟨_, (if_pos hupd).trans (if_neg (mt List.isEmpty_iff.mp hws)), rfl, rfl, rfl, rfl⟩

theorem actionFor_inval (hupd : p.upd = false) (hws : p.fmt = .exact ∨ roundedApart p.fmt ws ≠ []) :
    ∃ m, actionFor line p ws wid id = some m ∧ m.core = p.core ∧ m.line = line ∧ m.upd = false := by
  have hacts : (p.fmt == .exact || !(roundedApart p.fmt ws).isEmpty) = true := by simpa using hws
  exact ⟨_, (if_neg (Bool.eq_false_iff.mp hupd)).trans (if_pos hacts), rfl, rfl, rfl⟩

theorem actionFor_spec {m : Msg} (h : actionFor line p ws wid id = some m) :
    m.core = p.core ∧ m.upd = p.upd ∧ (p.upd = true ∨ p.fmt ≠ .exact → roundedApart p.fmt ws ≠ []) := by
  cases hupd : p.upd
  · obtain ⟨hacts, hm⟩ := Option.ite_none_right_eq_some.mp ((if_neg (Bool.eq_false_iff.mp hupd)).symm.trans h)
    cases hm
    have hacts : (p.fmt == .exact || !(roundedApart p.fmt ws).isEmpty) = true := hacts
    exact ⟨rfl, rfl, fun hf => by simpa [hf.resolve_left Bool.false_ne_true] using hacts⟩
  · obtain ⟨hws, hm⟩ := Option.ite_none_left_eq_some.mp ((if_pos hupd).symm.trans h)
    cases hm
    exact ⟨rfl, rfl, fun _ => mt List.isEmpty_iff.mpr hws⟩

end

/-! ## The actions for a line's sharers (R249, R252) -/

/-- A write as home applies it: an add counts on the value it meets (R454). -/
def Write.landing (w : Write) (s : State) : Write :=
  { w with bytes := if w.plus then leBytes 8 (s.deckN w.off 8 + 1) else w.bytes }

theorem Write.landing_eq (w : Write) (s : State) : (if w.plus then { w with bytes := leBytes 8 (s.deckN w.off 8 + 1) } else w) = w.landing s := by
  unfold Write.landing
  split <;> rfl

/-- A word of the write's line as the write leaves it. -/
def State.newWord (s : State) (w : Write) (j : Nat) : Word :=
  BitVec.ofNat 32 (leNat ((s.deck.writeN w.off w.bytes).readN (w.off / 128 * 128 + 4 * j) 4))
/-- The words a write touches, before it and after. -/
def State.rewritten (s : State) (w : Write) : List (Nat × Word × Word) :=
  (touched w.off w.bytes.length).map fun j => (j, s.homeWord (w.off / 128) j, s.newWord w j)
/-- The words whose rounding at a format a write changes. -/
def State.changedAt (s : State) (w : Write) (f : SubFmt) : List Nat :=
  (touched w.off w.bytes.length).filter fun j => subRound f (s.homeWord (w.off / 128) j) != subRound f (s.newWord w j)
/-- The messages home sends the sharers of a line for a write to it. -/
def State.actions (s : State) (w : Write) : List Msg :=
  (((s.dirOf (w.off / 128)).ptrs.filter fun p => some p.core != w.core).mapIdx fun j p =>
    actionFor (w.off / 128) p (s.rewritten w) w.id (s.fresh + j)).filterMap id
/-- The cores that a write to their line sends an INVAL. -/
def State.invalidated (s : State) (w : Write) : List Nat := ((s.actions w).filter fun m => !m.upd).map (·.core)
/-- The entry of a write's line without the pointers of those cores, and without those that keep leaves out. -/
def State.writtenEntry (s : State) (w : Write) (keep : Ptr → Bool) : DirEntry :=
  { s.dirOf (w.off / 128) with ptrs := ((s.dirOf (w.off / 128)).ptrs.filter fun p => !(s.invalidated w).contains p.core).filter keep }

section
variable {s : State} {w : Write} {p : Ptr} {m : Msg}

theorem State.roundedApart_rewritten (s : State) (w : Write) (f : SubFmt) :
    roundedApart f (s.rewritten w) = (s.changedAt w f).map fun j => (j, s.homeWord (w.off / 128) j, s.newWord w j) := List.filter_map

theorem State.roundedApart_rewritten_ne {f : SubFmt} : roundedApart f (s.rewritten w) ≠ [] ↔ s.changedAt w f ≠ [] := by
  rw [State.roundedApart_rewritten, Ne, List.map_eq_nil_iff]

theorem State.mem_actions (hp : p ∈ (s.dirOf (w.off / 128)).ptrs) (hcore : some p.core ≠ w.core) :
    ∃ id, ∀ m, actionFor (w.off / 128) p (s.rewritten w) w.id id = some m → m ∈ s.actions w := by
  have hshares : p ∈ (s.dirOf (w.off / 128)).ptrs.filter fun p => some p.core != w.core := List.mem_filter.mpr ⟨hp, bne_iff_ne.mpr hcore⟩
  obtain ⟨j, hj, rfl⟩ := List.mem_iff_getElem.mp hshares
  exact ⟨s.fresh + j, fun m hm => List.mem_filterMap.mpr ⟨_, List.mem_mapIdx.mpr ⟨j, hj, rfl⟩, hm⟩⟩

/-- A sharer in update mode gets the words whose rounding changes. -/
theorem State.actions_upd (hp : p ∈ (s.dirOf (w.off / 128)).ptrs) (hcore : some p.core ≠ w.core) (hupd : p.upd = true)
    (hws : s.changedAt w p.fmt ≠ []) :
    ∃ m ∈ s.actions w, m.core = p.core ∧ m.line = w.off / 128 ∧ m.upd = true
      ∧ m.words = (s.changedAt w p.fmt).map fun j => (j, subRound p.fmt (s.newWord w j)) := by
  obtain ⟨id, hid⟩ := State.mem_actions hp hcore
  obtain ⟨m, hm, hpcore, hline, hmupd, hwords⟩ := actionFor_upd (line := w.off / 128) (wid := w.id) (id := id) hupd
    (State.roundedApart_rewritten_ne.mpr hws)
  rw [State.roundedApart_rewritten, List.map_map] at hwords
  exact ⟨m, hid m hm, hpcore, hline, hmupd, hwords⟩

theorem State.actions_inval (hp : p ∈ (s.dirOf (w.off / 128)).ptrs) (hcore : some p.core ≠ w.core) (hupd : p.upd = false)
    (hws : p.fmt = .exact ∨ s.changedAt w p.fmt ≠ []) :
    ∃ m ∈ s.actions w, m.core = p.core ∧ m.line = w.off / 128 ∧ m.upd = false := by
  obtain ⟨id, hid⟩ := State.mem_actions hp hcore
  obtain ⟨m, hm, h⟩ := actionFor_inval (line := w.off / 128) (wid := w.id) (id := id) hupd
    (hws.imp_right State.roundedApart_rewritten_ne.mpr)
  exact ⟨m, hid m hm, h⟩

/-- No other sharer gets a message. -/
theorem State.sharer_of_action (hm : m ∈ s.actions w) :
    ∃ p ∈ (s.dirOf (w.off / 128)).ptrs, p.core = m.core ∧ some p.core ≠ w.core ∧ p.upd = m.upd
      ∧ (p.upd = true ∨ p.fmt ≠ .exact → s.changedAt w p.fmt ≠ []) := by
  obtain ⟨o, ho, hm⟩ := List.mem_filterMap.mp hm
  obtain ⟨j, hj, rfl⟩ := List.mem_mapIdx.mp ho
  obtain ⟨hp, hcore⟩ := List.mem_filter.mp (List.getElem_mem hj)
  obtain ⟨hmcore, hmupd, hws⟩ := actionFor_spec hm
  exact ⟨_, hp, hmcore.symm, bne_iff_ne.mp hcore, hmupd.symm, fun h => State.roundedApart_rewritten_ne.mp (hws h)⟩

end

/-! ## When a write is globally performed (R220, R249) -/

section
variable {s : State} {w : Write}

/-- Answering WAITCs leaves the writes but for whom their releases cover. -/
theorem State.mem_pollWaitc_writes {x : Write} (hx : x ∈ s.pollWaitc.writes) : ∃ y ∈ s.writes, x.id = y.id ∧ x.done = y.done := by
  unfold State.pollWaitc at hx
  revert x
  refine List.foldlRecOn (motive := fun t : State => ∀ {x}, x ∈ t.writes → ∃ y ∈ s.writes, x.id = y.id ∧ x.done = y.done) _ _ ?_ ?_
  · exact fun {x} hx => ⟨x, hx, rfl, rfl⟩
  · intro t ht k _ x hx
    obtain ⟨y, hy, rfl⟩ := List.mem_map.mp hx
    obtain ⟨z, hz, hid, hdone⟩ := ht hy
    exact ⟨z, hz, by split <;> exact hid, by split <;> exact hdone⟩

/-- The writes as one of them is globally performed. -/
def State.performed (s : State) (w : Write) : List Write := (s.maskOlder w).map fun (x : Write) => if x.id == w.id then { x with done := true } else x

theorem State.mem_performed {x : Write} (hx : x ∈ s.performed w) :
    ∃ y ∈ s.writes, x.id = y.id ∧ x.before = y.before ∧ x.done = (y.done || y.id == w.id) := by
  obtain ⟨z, hz, rfl⟩ := List.mem_map.mp hx
  obtain ⟨y, hy, rfl⟩ := List.mem_map.mp hz
  refine ⟨y, hy, ?_⟩
  by_cases hid : y.id = w.id
  · split <;> simp [hid]
  · split <;> simp [hid]

theorem State.done_of_mem_writesAfter {x : Write} (hx : x ∈ s.writesAfter w) (hid : x.id = w.id) : x.done = true := by
  obtain ⟨y, -, hxid, -, hdone⟩ := State.mem_performed (List.mem_filter.mp hx).1
  rw [hdone, ← hxid, hid]
  simp

/-- A performed write goes once those before it are performed too. -/
theorem State.gone_of_writesAfter (hbefore : ∀ x ∈ s.writes, x.id ∈ w.before → x.id = w.id ∨ x.done = true)
    (hsame : ∀ x ∈ s.writes, x.id = w.id → x.before = w.before) : ∀ x ∈ s.writesAfter w, x.id ≠ w.id := by
  intro x hx hid
  have hxdone := State.done_of_mem_writesAfter hx hid
  have hmem : x ∈ s.performed w := (List.mem_filter.mp hx).1
  have hkept : (!x.done || x.before.any fun id => (s.performed w).any fun y => y.id == id && !y.done) = true := (List.mem_filter.mp hx).2
  obtain ⟨y, hy, hyid, hybefore, -⟩ := State.mem_performed hmem
  have hlate : ∃ z ∈ s.performed w, z.id ∈ x.before ∧ z.done = false := by
    simp only [hxdone, Bool.not_true, Bool.false_or, List.any_eq_true, Bool.and_eq_true, beq_iff_eq, Bool.not_eq_true'] at hkept
    obtain ⟨id, hin, z, hz, rfl, hzdone⟩ := hkept
    exact ⟨z, hz, hin, hzdone⟩
  obtain ⟨z, hz, hin, hzdone⟩ := hlate
  obtain ⟨o, ho, hoid, -, hodone⟩ := State.mem_performed hz
  rw [hybefore, hsame y hy (hyid.symm.trans hid), hoid] at hin
  rw [hzdone] at hodone
  rcases hbefore o ho hin with h | h <;> simp [h] at hodone

/-! ## A write that home applies (R249) -/

theorem State.dirOf_of_dir {s t : State} (h : t.dir = s.dir) : t.dirOf = s.dirOf := by
  funext line
  unfold State.dirOf
  rw [h]

/-- What home does with the write v, as it applies it: the sharers' actions are sent, those invalidated lose their pointers; then monitors and WAITCs
are served, and without an action or a watch note the write is globally performed. -/
theorem State.applyWrite_eq {v : Write} (hv : w.landing s = v) :
    ∃ (u : State) (x : Write) (keep : Ptr → Bool) (old : List Msg),
      s.applyWrite w = (((if x.acks == 0 then u.perform x else u).tear v.crew v.instr).trigger .deck (v.off / 128)).pollWaitc
      ∧ u = { s.setDir (s.writtenEntry v keep) with
          deck := s.deck.writeN v.off v.bytes, copies := u.copies, msgs := old ++ s.actions v, notes := u.notes, fresh := u.fresh
          writes := if s.writes.any (fun (y : Write) => y.id == v.id) then s.writes.map fun (y : Write) => if y.id == v.id then x else y
            else s.writes ++ [x] }
      ∧ old.length = s.msgs.length
      ∧ x = { v with
          applied := true, turn := x.turn, old := x.old
          acks := (s.actions v).length + ((s.dirOf (v.off / 128)).notes (s.fresh + 400) (some v.id)).length } := by
  unfold State.applyWrite
  rw [w.landing_eq s, hv]
  exact ⟨_, _, _, _, rfl, rfl, List.length_map _, rfl⟩

/-- What is in no crew, write or copy stays as monitors and WAITCs are served after a write. -/
theorem State.landed_part {α : Sort*} (part : State → α)
    (hpart : ∀ (t : State) crews writes copies, part { t with crews := crews, writes := writes, copies := copies } = part t) (t : State) (p : Prop)
    [Decidable p] (x : Write) (c : Option Nat) (i : Nat) (sp : LineSpace) (l : Nat) :
    part ((((if p then t.perform x else t).tear c i).trigger sp l).pollWaitc) = part t := by
  have hpoll (u : State) : part u.pollWaitc = part u := by
    rw [show u.pollWaitc = _ from u.pollWaitc_frame]
    exact hpart u u.pollWaitc.crews u.pollWaitc.writes u.copies
  rw [hpoll]
  split
  · exact (hpart (t.perform x) _ (t.perform x).writes (t.perform x).copies).trans (hpart t t.crews _ _)
  · exact hpart t _ t.writes t.copies

section
variable (s) {v : Write} (hv : w.landing s = v)
include hv

theorem State.applyWrite_deck_landing : (s.applyWrite w).deck = s.deck.writeN v.off v.bytes := by
  obtain ⟨u, x, keep, old, h, hu, -, -⟩ := State.applyWrite_eq hv
  rw [h, State.landed_part State.deck fun _ _ _ _ => rfl, hu]

theorem State.applyWrite_msgs : ∃ old, (s.applyWrite w).msgs = old ++ s.actions v ∧ old.length = s.msgs.length := by
  obtain ⟨u, x, keep, old, h, hu, hold, -⟩ := State.applyWrite_eq hv
  exact ⟨old, by rw [h, State.landed_part State.msgs fun _ _ _ _ => rfl, hu], hold⟩

/-- Of a line's entry a write leaves all but pointers; of its own line those of the sharers that it invalidates go. -/
theorem State.applyWrite_dirOf (line : Nat) :
    ∃ keep : Ptr → Bool, (s.applyWrite w).dirOf line = { s.dirOf line with ptrs := (s.dirOf line).ptrs.filter keep }
      ∧ (line = v.off / 128 → ∀ p, keep p = true → ∀ m ∈ s.actions v, m.upd = false → p.core ≠ m.core) := by
  obtain ⟨u, x, keep, old, h, hu, -, -⟩ := State.applyWrite_eq hv
  have hdir : (s.applyWrite w).dir = (s.setDir (s.writtenEntry v keep)).dir := by rw [h, State.landed_part State.dir fun _ _ _ _ => rfl, hu]
  have hline : (s.writtenEntry v keep).line = v.off / 128 := State.dirOf_line s _
  rw [State.dirOf_of_dir hdir, State.dirOf_setDir, hline]
  by_cases hline : v.off / 128 = line
  · rw [if_pos hline, State.writtenEntry, List.filter_filter, hline]
    refine ⟨_, rfl, fun _ p hp m hm hinval hcore => ?_⟩
    have hgone : p.core ∉ s.invalidated v := by simpa using (Bool.and_eq_true_iff.mp hp).2
    exact hgone (hcore ▸ List.mem_map_of_mem (List.mem_filter.mpr ⟨hm, by rw [hinval]; rfl⟩))
  · rw [if_neg hline]
    exact ⟨fun _ => true, by rw [List.filter_true], fun h => absurd h.symm hline⟩

/-- A write of which no sharer hears, to a line that no Erg watches, is globally performed as it is applied. -/
theorem State.applyWrite_silent (hacts : s.actions v = []) (hwatch : (s.dirOf (v.off / 128)).watch = 0)
    (hw : s.writes.any (fun (y : Write) => y.id == v.id) = true) :
    (∀ y ∈ (s.applyWrite w).writes, y.id = v.id → y.done = true)
      ∧ ((∀ y ∈ s.writes, y.id ∈ v.before → y.id = v.id ∨ y.done = true) → ∀ y ∈ (s.applyWrite w).writes, y.id ≠ v.id) := by
  obtain ⟨u, x, keep, old, h, hu, -, hx⟩ := State.applyWrite_eq hv
  have hxid : x.id = v.id ∧ x.before = v.before := by
    rw [hx]
    exact ⟨rfl, rfl⟩
  obtain ⟨hid, hbefore⟩ := hxid
  have hacks : (x.acks == 0) = true := by
    rw [hx, hacts, DirEntry.notes, hwatch]
    rfl
  have hreplaced {o : Write} (ho : o ∈ u.writes) : o = x ∨ (o ∈ s.writes ∧ o.id ≠ v.id) := by
    have hwrites : u.writes = s.writes.map fun (y : Write) => if y.id == v.id then x else y := by
      rw [hu]
      exact if_pos hw
    rw [hwrites] at ho
    obtain ⟨y, hy, rfl⟩ := List.mem_map.mp ho
    by_cases hyid : (y.id == v.id) = true
    · exact .inl (if_pos hyid)
    · rw [if_neg hyid]
      exact .inr ⟨hy, mt beq_iff_eq.mpr hyid⟩
  have hmem {y : Write} (hy : y ∈ (s.applyWrite w).writes) : ∃ z ∈ u.writesAfter x, y.id = z.id ∧ y.done = z.done := by
    rw [h, if_pos hacks] at hy
    exact State.mem_pollWaitc_writes hy
  refine ⟨fun y hy hyid => ?_, fun hlate y hy hyid => ?_⟩
  · obtain ⟨z, hz, hzid, hdone⟩ := hmem hy
    exact hdone.trans (State.done_of_mem_writesAfter hz (hzid.symm.trans (hyid.trans hid.symm)))
  · obtain ⟨z, hz, hzid, -⟩ := hmem hy
    refine State.gone_of_writesAfter (fun o ho hin => ?_) (fun o ho hoid => ?_) z hz (hzid.symm.trans (hyid.trans hid.symm))
    · rcases hreplaced ho with rfl | ⟨ho, -⟩
      · exact .inl rfl
      · rw [hid]
        exact hlate o ho (hbefore ▸ hin)
    · rcases hreplaced ho with rfl | ⟨-, hne⟩
      · rfl
      · exact absurd (hoid.trans hid) hne

end

end

/-! ## The end of a clear (R251, R253) -/

/-- The entry of a line as a clear of it ends. -/
def DirEntry.cleared (d : DirEntry) (c : LineClear) : DirEntry :=
  { d with
    clears := d.clears.filter (·.id != c.id), absentBy := d.absentBy.filter (· != c.id), ptrs := if c.bcast then [] else d.ptrs
    bcast := d.bcast && !c.bcast }

section
variable (s : State) (line : Nat) (c : LineClear)

/-- The write that a clear waited for is applied as it ends, where it is still to be; else WAITCs are answered. -/
theorem State.endClear_eq : ∃ u : State,
    s.endClear line c = (c.write.bind fun id => u.writes.find? fun w => w.id == id && !w.applied).elim u.pollWaitc u.applyWrite
      ∧ u.dir = (s.setDir ((s.dirOf line).cleared c)).dir ∧ u.deck = s.deck ∧ u.writes = s.writes := by
  have last (u : State) (hu : u.dir = (s.setDir ((s.dirOf line).cleared c)).dir ∧ u.deck = s.deck ∧ u.writes = s.writes) :
      ∃ v : State, (match c.write.bind fun id => u.writes.find? fun w => w.id == id && !w.applied with
          | some w => u.applyWrite w
          | none => u.pollWaitc) = (c.write.bind fun id => v.writes.find? fun w => w.id == id && !w.applied).elim v.pollWaitc v.applyWrite
        ∧ v.dir = (s.setDir ((s.dirOf line).cleared c)).dir ∧ v.deck = s.deck ∧ v.writes = s.writes :=
    ⟨u, by cases c.write.bind _ <;> rfl, hu⟩
  unfold State.endClear
  refine last _ ?_
  split <;> exact ⟨rfl, rfl, rfl⟩

theorem State.dirOf_endClear_of_dir {u : State} (hu : u.dir = (s.setDir ((s.dirOf line).cleared c)).dir) : u.dirOf line = (s.dirOf line).cleared c := by
  rw [State.dirOf_of_dir hu, State.dirOf_setDir]
  exact if_pos (State.dirOf_line s line)

theorem State.dirOf_pollWaitc (s : State) : s.pollWaitc.dirOf = s.dirOf :=
  State.dirOf_of_dir ((congrArg State.dir s.pollWaitc_frame).trans rfl)

theorem State.endClear_dirOf :
    ∃ keep : Ptr → Bool, (s.endClear line c).dirOf line =
      { (s.dirOf line).cleared c with ptrs := ((s.dirOf line).cleared c).ptrs.filter keep } := by
  obtain ⟨u, h, hdir, -, -⟩ := s.endClear_eq line c
  rw [h, ← State.dirOf_endClear_of_dir s line c hdir]
  cases c.write.bind fun id => u.writes.find? fun w => w.id == id && !w.applied with
  | none => exact ⟨fun _ => true, by rw [Option.elim_none, State.dirOf_pollWaitc, List.filter_true]⟩
  | some w =>
    obtain ⟨keep, hkeep, -⟩ := State.applyWrite_dirOf u rfl line
    exact ⟨keep, hkeep⟩

/-- A clear that no write waited for leaves the deck, and the line's entry without it (R251). -/
theorem State.endClear_of_no_write (hw : c.write = none) :
    (s.endClear line c).deck = s.deck ∧ (s.endClear line c).dirOf line = (s.dirOf line).cleared c := by
  obtain ⟨u, h, hdir, hdeck, -⟩ := s.endClear_eq line c
  rw [h, hw, Option.bind_none, Option.elim_none, State.dirOf_pollWaitc, State.dirOf_endClear_of_dir s line c hdir]
  exact ⟨u.pollWaitc_frame.deck.trans hdeck, rfl⟩

theorem State.endClear_deck {w : Write} (hid : c.write = some w.id) (hplus : w.plus = false)
    (hw : s.writes.find? (fun x => x.id == w.id && !x.applied) = some w) : (s.endClear line c).deck = s.deck.writeN w.off w.bytes := by
  obtain ⟨u, h, -, hdeck, hwrites⟩ := s.endClear_eq line c
  rw [h, hid, Option.bind_some, hwrites, hw, Option.elim_some, State.applyWrite_deck u w hplus, hdeck]

end

end Sys2Proof.Machine
end

section
/-! The events of the home slices (spec/09_subscribe.md R247 to R256): messages as they arrive, writes as home takes them up, acknowledgements, notices. -/

namespace Sys2Proof.Machine

section
variable {s : State}

/-! ## Messages at a core (R249, R251, R256, R263) -/

theorem State.count_core (s : State) (core : Nat) : (s.count core).core = core := by
  unfold State.count
  cases h : s.counts.find? (·.core == core) with
  | none => rfl
  | some n => simpa using List.find?_some h

theorem State.count_setCount (s : State) {core : Nat} {n : CoreCount} (h : n.core = core) : (s.setCount n).count core = n := by
  unfold State.count State.setCount
  rw [List.find?_cons_of_pos (by simpa using h)]
  rfl

theorem exec_inval {m : Msg} (hm : s.msgs.find? (fun x => x.id == m.id && !x.upd) = some m) (hfirst : s.firstMsg m = true) :
    exec (.inval m.id) s = .next (s.takeMsg m) := by
  change Host.Outcome.next _ = _
  simp only [hm, if_pos hfirst]

theorem exec_upd {m : Msg} (hm : s.msgs.find? (fun x => x.id == m.id && x.upd) = some m) (hfirst : s.firstMsg m = true) :
    exec (.upd m.id) s = .next (s.takeMsg m) := by
  change Host.Outcome.next _ = _
  simp only [hm, if_pos hfirst]

/-- An INVAL drops the copy; one of a clear is counted where there was a copy (R263). -/
theorem State.takeMsg_inval {m : Msg} (hm : m.upd = false) :
    s.takeMsg m = { s with
        copies := (s.dropCopy m.core m.line).copies, counts := (s.takeMsg m).counts, crews := (s.triggerCore m.core m.line).crews
        msgs := s.msgs.filter fun x => x.id != m.id, acks := s.acks ++ [{ id := s.fresh, ackTo := m.ackTo }], fresh := s.fresh + 1 }
      ∧ (s.takeMsg m).count m.core = if m.silent = false ∨ (s.copyOf m.core m.line).isSome = true then
          { s.count m.core with inval := (s.count m.core).inval + 1 } else s.count m.core := by
  unfold State.takeMsg
  rw [if_neg (Bool.eq_false_iff.mp hm)]
  dsimp only
  by_cases hcounted : m.silent = false ∨ (s.copyOf m.core m.line).isSome = true
  · have h : (!m.silent || (s.copyOf m.core m.line).isSome) = true := by simpa using hcounted
    rw [if_pos h, if_pos hcounted]
    exact ⟨rfl, s.count_setCount (n := { s.count m.core with inval := (s.count m.core).inval + 1 }) (s.count_core m.core)⟩
  · have h : ¬ (!m.silent || (s.copyOf m.core m.line).isSome) = true := by simpa using hcounted
    rw [if_neg h, if_neg hcounted]
    exact ⟨rfl, rfl⟩

/-- A word of a line stands beneath a store of a core that home has applied and that is not globally performed (R256). -/
def State.beneath (s : State) (core line j : Nat) : Bool :=
  s.writes.any fun w => w.core == some core && w.applied && !w.done && w.covers (line * 128 + 4 * j) 4

/-- A copy with the words of an UPD in their places, but for those beneath a store of its core, which it keeps for later (R249, R256). -/
def Copy.updated (c : Copy) (m : Msg) (beneath : Nat → Bool) : Copy :=
  { c with
    words := c.words.mapIdx fun j e => if beneath j then e else ((m.words.find? fun x => x.1 == j).map fun x => x.2).getD e
    under := m.words.filter (fun x => beneath x.1) ++ c.under.filter fun x => !m.words.any fun y => y.1 == x.1 }

theorem State.takeMsg_upd {m : Msg} (hm : m.upd = true) :
    s.takeMsg m = { s with
        copies := s.copies.map fun c => if c.core == m.core && c.line == m.line then c.updated m (s.beneath m.core m.line) else c
        counts := (s.takeMsg m).counts, crews := (s.triggerCore m.core m.line).crews
        msgs := s.msgs.filter fun x => x.id != m.id, acks := s.acks ++ [{ id := s.fresh, ackTo := m.ackTo }], fresh := s.fresh + 1 }
      ∧ (s.takeMsg m).count m.core = { s.count m.core with upd := (s.count m.core).upd + 1 } := by
  have hword (j : Nat) (e : Word) : (match m.words.find? (·.1 == j) with
      | none => e
      | some x => if s.beneath m.core m.line j then e else x.2)
      = if s.beneath m.core m.line j then e else ((m.words.find? fun x => x.1 == j).map fun x => x.2).getD e := by
    cases m.words.find? (·.1 == j) with
    | none => exact (ite_self e).symm
    | some x => rfl
  have hcopies : (s.takeMsg m).copies
      = s.copies.map fun c => if c.core == m.core && c.line == m.line then c.updated m (s.beneath m.core m.line) else c := by
    unfold State.takeMsg
    rw [if_pos hm]
    simp only [Copy.updated, ← hword]
    rfl
  rw [← hcopies]
  unfold State.takeMsg
  rw [if_pos hm]
  exact ⟨rfl, State.count_setCount _ (n := { s.count m.core with upd := (s.count m.core).upd + 1 }) (s.count_core m.core)⟩

/-- A trigger leaves the crews of other cores, and arms no monitor of another line (R209). -/
theorem State.mem_triggerCore {core line : Nat} {c : Crew} (hc : c ∈ (s.triggerCore core line).crews) :
    ∃ c₀ ∈ s.crews, c₀.id = c.id ∧ (c₀.core ≠ core → c = c₀)
      ∧ (c₀.core = core → c.mon = c₀.mon.map fun (m : MonEntry) => { m with triggered := m.triggered || (m.space == .deck && m.line == line) }) := by
  obtain ⟨c₀, hc₀, rfl⟩ := List.mem_map.mp hc
  refine ⟨c₀, hc₀, ?_⟩
  by_cases hcore : c₀.core = core
  · simp only [hcore, beq_self_eq_true, if_true, ne_eq, not_true_eq_false, false_implies, true_and, forall_const]
    refine List.map_congr_left fun m _ => ?_
    by_cases hm : (m.space == .deck && m.line == line) = true
    · simp [hm]
    · simp [hm]
  · rw [if_neg (by simpa using hcore)]
    exact ⟨rfl, fun _ => rfl, fun h => absurd h hcore⟩

/-- An exchange between cores and slices leaves the words that home sends of a line. -/
theorem State.exchanged.sent {u : State} (h : s.exchanged u) (core line va : Nat) (asid : BitVec 12) (f : SubFmt) (upd : Bool) :
    u.sent core line va asid f upd = s.sent core line va asid f upd := by
  have hdeck : u.deck = s.deck := (congrArg State.deck h.frame).trans rfl
  unfold State.sent State.homeWord State.deckN
  rw [hdeck]

/-! ## Fetches and writes at home (R247, R249, R253) -/

theorem exec_lineFetch {core line : Nat} {f : SubFmt} {upd : Bool} {va : Nat} {asid : BitVec 12} (hpresent : s.present line = true)
    (hpoison : s.poisoned line = false) (hbusy : (s.dirOf line).busy = false) (hwaits : s.sliceWaits core (line * 128) = false)
    (hcopy : s.copyOf core line = none) (hmapped : s.mappedAt core line = some (va, asid)) :
    exec (.lineFetch core line f upd) s = .next (s.fetchLine core line va asid f upd) := by
  change Host.Outcome.next _ = _
  simp only [hpresent, hpoison, hbusy, hwaits, hcopy, hmapped, Bool.not_true, Bool.or_self, Bool.false_eq_true, if_false]

section
variable {w : Write} (hw : s.writes.find? (fun x => x.id == w.id && !x.applied) = some w) (hturn : s.mayApply w = true)
include hw hturn

theorem exec_homeWriteApply_of_free (hbcast : (s.dirOf (w.off / 128)).bcast = false) : exec (.homeWriteApply w.id) s = .next (s.applyWrite w) := by
  change Host.Outcome.next _ = _
  simp only [hw, hturn, hbcast, Bool.not_true, Bool.false_eq_true, if_false]

theorem exec_homeWriteApply_of_bcast (hbcast : (s.dirOf (w.off / 128)).bcast = true) :
    exec (.homeWriteApply w.id) s = .next
      (({ s with writes := s.writes.map fun (x : Write) => if x.id == w.id then { x with bcast := true } else x } : State).bcastClear
        (w.off / 128) w.core (some w.id)) := by
  change Host.Outcome.next _ = _
  simp only [hw, hturn, hbcast, Bool.not_true, Bool.false_eq_true, if_false, if_true]

end

/-- A clear under BCAST sends every other core of the package an INVAL (R253). -/
theorem State.mem_bcastClear_msgs (s : State) (line : Nat) (but : Option Nat) (write : Option Nat) {n : Nat} (hn : n < 320) (hbut : some n ≠ but) :
    ∃ m ∈ (s.bcastClear line but write).msgs, m.core = n ∧ m.line = line ∧ m.upd = false ∧ m.ackTo = .clear line s.fresh := by
  have hcore : n ∈ (List.range Config.cores).filter fun c => some c != but := List.mem_filter.mpr ⟨List.mem_range.mpr hn, bne_iff_ne.mpr hbut⟩
  obtain ⟨j, hj, rfl⟩ := List.mem_iff_getElem.mp hcore
  exact ⟨_, List.mem_append_right _ (List.mem_mapIdx.mpr ⟨j, hj, rfl⟩), rfl, rfl, rfl, rfl⟩

/-! ## Acknowledgements and notices (R248, R249, R251, R252) -/

/-- The state without an acknowledgement that has arrived. -/
def State.unacked (s : State) (a : Ack) : State := { s with acks := s.acks.filter fun x => x.id != a.id }

theorem exec_sharerAcknowledgement {a : Ack} (ha : s.acks.find? (fun x => x.id == a.id) = some a) :
    exec (.sharerAcknowledgement a.id) s = .next ((s.unacked a).countAck a.ackTo) := by
  change Host.Outcome.next _ = _
  simp only [ha]
  rfl

/-- What the end of a clear leaves. -/
theorem State.presentFrame.part {α : Sort*} {t : State} (h : s.presentFrame t) (part : State → α)
    (hpart : ∀ (u : State) dir deck copies msgs notes fresh writes crews cmds serves, part { u with
      dir := dir, deck := deck, copies := copies, msgs := msgs, notes := notes, fresh := fresh, writes := writes, crews := crews, cmds := cmds
      serves := serves } = part u := by intros; rfl) : part t = part s := by
  rw [show t = _ from h]
  exact hpart s _ _ _ _ _ _ _ _ _ _

/-- An acknowledgement of a write: the last one performs it (R249). -/
theorem exec_acknowledges_write {a : Ack} (ha : s.acks.find? (fun x => x.id == a.id) = some a) {id : Nat} {w : Write} (hto : a.ackTo = .write id)
    (hw : s.writes.find? (fun x => x.id == id) = some w) :
    exec (.sharerAcknowledgement a.id) s = .next (if (w.applied && decide (w.acks ≤ 1)) = true then (s.unacked a).perform w
      else { s.unacked a with writes := s.writes.map fun (x : Write) => if x.id == id then { x with acks := x.acks - 1 } else x }) := by
  have hw : (s.unacked a).writes.find? (fun x => x.id == id) = some w := hw
  rw [exec_sharerAcknowledgement ha, hto]
  simp only [State.countAck, hw]
  rfl

/-- An acknowledgement of a clear: the last one ends it (R251, R253). -/
theorem exec_acknowledges_clear {a : Ack} (ha : s.acks.find? (fun x => x.id == a.id) = some a) {line id : Nat} {c : LineClear}
    (hto : a.ackTo = .clear line id) (hc : (s.dirOf line).clears.find? (fun x => x.id == id) = some c) :
    exec (.sharerAcknowledgement a.id) s = .next (if c.acks ≤ 1 then (s.unacked a).endClear line c
      else (s.unacked a).setDir { s.dirOf line with
        clears := (s.dirOf line).clears.map fun (x : LineClear) => if x.id == id then { x with acks := x.acks - 1 } else x }) := by
  have hc : ((s.unacked a).dirOf line).clears.find? (fun x => x.id == id) = some c := hc
  rw [exec_sharerAcknowledgement ha, hto]
  simp only [State.countAck, hc]
  rfl

theorem exec_evictionNotice {core line : Nat} {n : Notice} (hn : s.notices.find? (fun n => n.core == core && n.line == line) = some n) :
    exec (.evictionNotice core line) s = .next (if s.sliceWaits core (line * 128) then s else s.takeNotice n) := by
  change Host.Outcome.next _ = _
  simp only [hn]

/-- A notice removes its core's pointer, which BCAST keeps after an eviction (R248). -/
theorem State.takeNotice_eq {core line : Nat} {n : Notice} (hcore : n.core = core) (hline : n.line = line) :
    s.takeNotice n = { (if (s.dirOf line).bcast = true ∧ n.asked = false then s
      else s.setDir { s.dirOf line with ptrs := (s.dirOf line).ptrs.filter fun p => p.core != core }) with notices := s.notices.erase n } := by
  subst hcore hline
  unfold State.takeNotice
  dsimp only
  by_cases h : (s.dirOf n.line).bcast = true ∧ n.asked = false
  · rw [if_pos (by simpa using h), if_pos h]
  · rw [if_neg (by simpa using h), if_neg h]
    rfl

end

end Sys2Proof.Machine

open Sys2Proof Sys2Proof.Machine

/-- Settles O43: fetches, messages, acknowledgements and notices by what each event leaves; a write by the actions for its line's sharers, or by the clear
it starts under BCAST, at whose end it is applied. -/
theorem homeSlices : Obligations.HomeSlices := by
  unfold Obligations.HomeSlices
  intro s
  refine ⟨fun core line f upd va asid hpresent hpoison hbusy hwaits hcopy hmapped => ?_, fun w hw hturn => ⟨fun hbcast => ?_, fun hbcast => ?_⟩,
    fun m hfirst => ⟨fun hm => ?_, fun hm => ?_⟩, fun core line c hc => State.mem_triggerCore hc,
    fun a ha => ⟨fun id w hto hw => ⟨fun hmore => ?_, fun happlied hlast => ?_⟩, fun line id c hto hc => ⟨fun hmore => ?_, fun hlast => ?_⟩⟩,
    fun core line n hn => ⟨fun hwaits => ?_, fun hwaits => ?_⟩, fun core line => rfl⟩
  · exact ⟨_, exec_lineFetch hpresent hpoison hbusy hwaits hcopy hmapped, State.fetchLine_frame _ _ _ _ _ _ _ rfl,
      (State.fetchLine_copyOf _ _ _ _ _ _ _ rfl).trans (congrArg some ((s.exchanged_settled core (line * 128)).sent ..)),
      State.fetchLine_dirOf _ _ _ _ _ _ _ rfl⟩
  · have hframe := s.applyWrite_frame w
    have hstands : s.writes.any (fun (y : Write) => y.id == w.id) = true :=
      List.any_eq_true.mpr ⟨w, List.mem_of_find?_eq_some hw, beq_self_eq_true w.id⟩
    obtain ⟨keep, hdir, hgone⟩ := s.applyWrite_dirOf (w := w) rfl (w.off / 128)
    refine ⟨_, exec_homeWriteApply_of_free hw hturn hbcast, s.applyWrite_deck_landing rfl, hframe.hbm, hframe.host, hframe.pool, hframe.skm,
      hframe.squads, s.actions (w.landing s), s.applyWrite_msgs rfl,
      fun p hp hcore => ⟨State.actions_upd (w := w.landing s) hp hcore, fun hupd hws => ?_⟩,
      fun m hm => State.sharer_of_action (w := w.landing s) hm, fun hacts hwatch => s.applyWrite_silent (v := w.landing s) rfl hacts hwatch hstands⟩
    obtain ⟨m, hm, hmcore, hmline, hmupd⟩ := State.actions_inval (w := w.landing s) hp hcore hupd hws
    refine ⟨⟨m, hm, hmcore, hmline, hmupd⟩, fun p' hp' => ?_⟩
    rw [hdir] at hp'
    exact hmcore ▸ hgone rfl p' (List.mem_filter.mp hp').2 m hm hmupd
  · exact ⟨_, exec_homeWriteApply_of_bcast hw hturn hbcast, rfl, _, (State.dirOf_setDir _ _ _).trans (if_pos (State.dirOf_line _ _)), rfl, rfl, rfl,
      fun n hn hbut => State.mem_bcastClear_msgs _ _ _ _ hn hbut⟩
  · exact ⟨_, exec_inval hm hfirst, State.takeMsg_inval (by simpa using List.find?_some hm)⟩
  · exact ⟨_, exec_upd hm hfirst, State.takeMsg_upd (by simpa using List.find?_some hm)⟩
  · exact (exec_acknowledges_write ha hto hw).trans (congrArg _ (if_neg (by simpa [imp_iff_not_or] using hmore)))
  · obtain rfl : w.id = id := by simpa using List.find?_some hw
    have hexec := (exec_acknowledges_write ha hto hw).trans (congrArg _ (if_pos (by simp [happlied, hlast])))
    exact ⟨_, hexec, rfl, fun x hx => State.done_of_mem_writesAfter hx,
      fun hbefore hsame => State.gone_of_writesAfter hbefore fun x hx hid => by rw [hsame x hx hid]⟩
  · exact (exec_acknowledges_clear ha hto hc).trans (congrArg _ (if_neg (Nat.not_le.mpr hmore)))
  · obtain rfl : c.id = id := by simpa using List.find?_some hc
    have hframe := (s.unacked a).endClear_frame line c
    obtain ⟨keep, hdir⟩ := (s.unacked a).endClear_dirOf line c
    refine ⟨_, (exec_acknowledges_clear ha hto hc).trans (congrArg _ (if_pos hlast)), hframe.part State.hbm, hframe.part State.host, hframe.part State.skm, fun x hx => ?_, fun hbcast => ?_,
      (s.unacked a).endClear_of_no_write line c, fun w hid hplus hw => (s.unacked a).endClear_deck line c hid hplus hw⟩
    · rw [hdir] at hx
      exact bne_iff_ne.mp (List.mem_filter.mp hx).2
    · rw [hdir]
      simp [DirEntry.cleared, hbcast]
  · rw [exec_evictionNotice hn, if_pos hwaits]
  · obtain ⟨hcore, hline⟩ : n.core = core ∧ n.line = line := by simpa using List.find?_some hn
    rw [exec_evictionNotice hn, if_neg (by simpa using hwaits), State.takeNotice_eq hcore hline]
end
